-- ==== Sys2Proof/Word.lean ====
section
/-! DEFINITION. The word types of the block and nothing else: 32-bit registers (R2), bytes, and the 48-bit and
64-bit counters and lanes that software sees as words. -/

namespace Sys2Proof

/-- A register of the control space (R2). -/
abbrev Word := BitVec 32

/-- The smallest addressable unit of every memory of the device. -/
abbrev Byte := BitVec 8

/-- The per-job counters of Table 3-1 and the A registers of R79. -/
abbrev Word48 := BitVec 48

/-- DEVTIME (R388) and a predicate register of R78, one bit per lane. -/
abbrev Word64 := BitVec 64

end Sys2Proof
end

