-- ==== Sys2Proof/Syntax.lean ====
section
/-! DEFINITION. The commands of the block: one constructor per row of spec/opcode_table.json, with the row's operands.
Operands that name an instance (a tile, a port, a register number) are bounded by its range; operands the spec treats as
bits are bit vectors; data that comes from outside the device is a list of bytes. -/

namespace Sys2Proof

/-- The interface an access arrives on (R374, R406); `loader` is the internal loader, whose REG_INIT writes count as
owner writes (R372). -/
inductive Iface where
  | hl0 | hl1 | mgt | rwy | loader
  deriving DecidableEq, Repr

/-- The guard of an MXU, VPU, SFU, LSU or NET slot (R78). -/
structure Guard where
  pg : Fin 16
  pn : Bool
  deriving DecidableEq, Repr

/-- Fields of a VPU slot in format R (Table 4-8). -/
structure VR where
  vd : Fin 32
  va : Fin 32
  vb : Fin 32
  vc : Fin 32
  fmt : Fin 16
  sat : Bool
  wrap : Bool
  tag : Fin 32
  deriving DecidableEq, Repr

/-- Fields of a VPU slot in format M (Table 4-8). -/
structure VM where
  vt : Fin 32
  aa : Fin 16
  off : BitVec 16
  fmt : Fin 16
  sat : Bool
  tag : Fin 32
  rel : Bool
  deriving DecidableEq, Repr

/-- A Reedway packet as it stands on a link (Table 15-2): the header's fields, the payload and the trailer. `word` is
HANDLE or GROUP; LEN of an RD_REQ, which has no payload, is what it asks for in 64-byte units (notes/assumptions/14.md). -/
structure Pkt where
  ver : BitVec 3
  ty : BitVec 5
  len : BitVec 16
  vc : BitVec 2
  ret : Bool
  wrap : Bool
  replay : Bool
  dst : BitVec 18
  hops : BitVec 8
  src : BitVec 18
  budget : BitVec 20
  status : Byte
  wrapTo : BitVec 18
  lseq : BitVec 12
  tag : BitVec 16
  word : BitVec 16
  off : Word64
  payload : List Byte
  trailer : Word
  deriving DecidableEq, Repr

/-- What a tier failure strikes (R217): the fill of a page, a transfer of a scope by its number, or any other access of a
scope's job to an object. -/
inductive TierWhat where
  | fill (h p : Nat)
  | xfer (sc : Fin 2) (id : Nat)
  | access (sc : Fin 2) (h : Nat)
  deriving DecidableEq, Repr


/-- A CCC that an I3C target takes (R302, R414): a dynamic address, its reset, or one of the others. -/
inductive Ccc where
  | setdasa (a : BitVec 7)
  | entdaa (a : BitVec 7)
  | rstdaa
  | other
  deriving DecidableEq, Repr

/-- MCTP control messages that an endpoint must support (R415), and any other. -/
inductive MctpCtl where
  | setEid (e : Byte)
  | getEid
  | getVersion
  | getTypes
  | getVendor (sel : Byte)
  | other (cmd : Byte)
  deriving DecidableEq, Repr

/-- A VAE convolution (R116): the stride, how far the kernel's first place lies above and left of the source, and the weights' object,
offset and format. -/
structure ConvForm where
  stride : Fin 3
  py : Fin 8
  px : Fin 8
  wh : BitVec 16
  woff : Nat
  wf : Fin 16
  deriving DecidableEq, Repr

/-- A long packet of a camera: its virtual channel, data type and payload (R309). -/
structure LinePacket where
  vc : Fin 4
  dt : Fin 64
  data : List Byte
  deriving DecidableEq, Repr

/-- What a RECLAIM carries (R336): the last LSEQ accepted, and RECEIVED and FREED of each pool. -/
structure Reclaim where
  lseq : Nat
  received : List Nat
  freed : List Nat
  deriving DecidableEq, Repr

/-- What a fault strikes, as R347 tells it apart: nothing more than its unit, a half, a die (0 to 19, 32 to 35), a die-to-die
module, an SCD controller pair (`b` for B), or critical state. -/
inductive Struck where
  | unit
  | half (h : Fin 2)
  | die (i : Nat)
  | module (m : Fin 100)
  | pair (b : Bool)
  | critical
  deriving DecidableEq, Repr

/-- A fault as a unit reports it (R341 to R343): class, block, code, UNIT, DETAIL, the scopes whose jobs used the unit during the
fault, the microseconds to containment, whether it was detected late, and what it strikes. -/
structure Report where
  cls : Fin 6
  block : Fin 64
  code : Fin 64
  unit : BitVec 16
  detail : Word64
  jobs : List (Fin 2)
  us : BitVec 16
  late : Bool
  what : Struck
  deriving DecidableEq, Repr

/-- What the SCD gets from a rail slot in a poll (R417): whether it acknowledged and PEC checked, whether STATUS_WORD reports a
fault, and READ_POUT in mW. -/
structure Poll where
  slot : Fin 48
  ok : Bool
  fault : Bool
  pout : Nat
  deriving DecidableEq, Repr

/-- The commands. Each docstring cites the rule its row gives. -/
inductive Instr where
  /-- REGISTER_WRITE (R7). -/
  | registerWrite (src : Iface) (off : BitVec 24) (w : Word)
  /-- ACCESS_WRONG_SIZE (R3). -/
  | accessWrongSize (src : Iface) (off : BitVec 24) (n : Fin 65) (wr : Bool)
  /-- UNASSIGNED_ACCESS (R9). -/
  | unassignedAccess (src : Iface) (off : BitVec 24) (wr : Bool)
  /-- PAIR_LO_READ (R8). -/
  | pairLoRead (src : Iface) (off : BitVec 24)
  /-- READ_CLEAR (R6). -/
  | readClear (src : Iface) (off : BitVec 24)
  /-- DISPATCH (R254). -/
  | dispatch
  /-- BEAT (R37). -/
  | beat (sc : Fin 2)
  /-- FREEZE_ORDER (R45). -/
  | freezeOrder (sc : Fin 2)
  /-- SLIP_RESTART (R45). -/
  | slipRestart (sc : Fin 2)
  /-- READY_OBSERVED (R45). -/
  | readyObserved (g : Fin 800) (lb : Fin 64) (y : Nat)
  /-- LANDING_ARRIVAL (R44). -/
  | landingArrival (sc : Fin 2) (id n : Nat) (data : List Byte) (poison : Bool)
  /-- GPRED_DELIVERY (R49). -/
  | gpredDelivery (sc : Fin 2) (idx : Fin 256)
  /-- GPRED_SET (R49). -/
  | gpredSet (src : Iface) (sc : Fin 2) (idx : Fin 256) (val : Bool) (wait : Nat)
  /-- SPEC_RESOLVE (R54). -/
  | specResolve (sc : Fin 2)
  /-- SQUASH_RESUME (R54). -/
  | squashResume (sc : Fin 2)
  /-- STALL_RESUME (R53). -/
  | stallResume (sc : Fin 2)
  /-- REPLAY_DECISION (R57). -/
  | replayDecision (sc : Fin 2)
  /-- SHADOW_DRAIN (R54). -/
  | shadowDrain (g : Fin 800) (line : Fin 32768)
  /-- SOURCE_READ_DONE (R102). -/
  | sourceReadDone (g : Fin 800) (id : Nat)
  /-- AUDIT_POINT (R38). -/
  | auditPoint (sc : Fin 2)
  /-- JOB_OVERRUN (R67). -/
  | jobOverrun (sc : Fin 2)
  /-- SCOPE_STOP (R112). -/
  | scopeStop (sc : Fin 2)
  /-- REGION_BEGIN (R62). -/
  | regionBegin (sc : Fin 2)
  /-- REGION_END (R62). -/
  | regionEnd (sc : Fin 2)
  /-- REFRESH (R230). -/
  | refresh (sc : Fin 2)
  /-- STAMP (R92). -/
  | stamp (sc : Fin 2)
  /-- EVENT (R62). -/
  | event (sc : Fin 2)
  /-- JOB_END (R64). -/
  | jobEnd (sc : Fin 2)
  /-- COMPLETION_TOKEN (R261). -/
  | completionToken (sc : Fin 2) (g : Fin 800) (drain : Nat)
  /-- TOKEN_COLLECT (R261). -/
  | tokenCollect (sc : Fin 2)
  /-- TOKEN_TIMEOUT (R262). -/
  | tokenTimeout (sc : Fin 2)
  /-- COMPLETION_RECORD (R245). -/
  | completionRecord (k : Nat)
  /-- LANE_REST (R73). -/
  | laneRest (g : Fin 800)
  /-- LANE_LOOP (R73). -/
  | laneLoop (g : Fin 800)
  /-- LANE_END (R73). -/
  | laneEnd (g : Fin 800)
  /-- NOP (R77). -/
  | nop (g : Fin 800)
  /-- CHECK (R42). -/
  | check (g : Fin 800) (n : Fin 4) (la lb lc ld : Fin 64)
  /-- ARM (R83). -/
  | arm (g : Fin 800) (lb : Fin 64) (src : Fin 8) (sa sb : Fin 64)
  /-- PSEND (R49). -/
  | psend (g : Fin 800) (p : Fin 16) (idx : Fin 256)
  /-- PSET (R83). -/
  | pset (g : Fin 800) (pd cond : Fin 16) (sa sb : Fin 64)
  /-- PLOG (R83). -/
  | plog (g : Fin 800) (pd pa pb : Fin 16) (fn : Fin 4)
  /-- SALU (R83). -/
  | salu (g : Fin 800) (fn : Fin 16) (sd sa sb : Fin 64)
  /-- SLI (R83). -/
  | sli (g : Fin 800) (sd : Fin 64) (hi : Bool) (imm : BitVec 16)
  /-- AMOV (R83). -/
  | amov (g : Fin 800) (ad : Fin 16) (fn : Fin 4) (sa : Fin 64) (imm : BitVec 14)
  /-- CSRW (R83). -/
  | csrw (g : Fin 800) (csr : Fin 16) (sa : Fin 64)
  /-- LDW (R106). -/
  | ldw (g : Fin 800) (gd : Guard) (fmtw : Fin 16) (sp : Bool) (aa : Fin 16) (off : BitVec 16) (sc : Fin 16) (rel : Bool)
  /-- MAC (R107). -/
  | mac (g : Fin 800) (gd : Guard) (fmta : Fin 16) (acc : Fin 4) (accum ref : Bool) (aa : Fin 16) (off : BitVec 16) (rel : Bool)
  /-- DRN (R107). -/
  | drn (g : Fin 800) (gd : Guard) (acc : Fin 4) (fmto : Fin 16) (sat : Bool) (tag : Fin 32) (aa : Fin 16) (off : BitVec 16)
  /-- ZAC (R107). -/
  | zac (g : Fin 800) (gd : Guard) (acc : Fin 4)
  /-- VPU_ADD (R133). -/
  | vpuAdd (g : Fin 800) (gd : Guard) (r : VR)
  /-- VPU_SUB (R133). -/
  | vpuSub (g : Fin 800) (gd : Guard) (r : VR)
  /-- VPU_MUL (R133). -/
  | vpuMul (g : Fin 800) (gd : Guard) (r : VR)
  /-- FMA (R133). -/
  | fma (g : Fin 800) (gd : Guard) (r : VR)
  /-- FMS (R133). -/
  | fms (g : Fin 800) (gd : Guard) (r : VR)
  /-- VPU_MIN (R138). -/
  | vpuMin (g : Fin 800) (gd : Guard) (r : VR)
  /-- VPU_MAX (R138). -/
  | vpuMax (g : Fin 800) (gd : Guard) (r : VR)
  /-- ABS (R142). -/
  | abs (g : Fin 800) (gd : Guard) (r : VR)
  /-- NEG (R142). -/
  | neg (g : Fin 800) (gd : Guard) (r : VR)
  /-- CMP (R143). -/
  | cmp (g : Fin 800) (gd : Guard) (r : VR)
  /-- VPU_INT_ADD (R133). -/
  | vpuIntAdd (g : Fin 800) (gd : Guard) (r : VR)
  /-- VPU_INT_SUB (R133). -/
  | vpuIntSub (g : Fin 800) (gd : Guard) (r : VR)
  /-- VPU_INT_MUL (R133). -/
  | vpuIntMul (g : Fin 800) (gd : Guard) (r : VR)
  /-- VPU_AND (R142). -/
  | vpuAnd (g : Fin 800) (gd : Guard) (r : VR)
  /-- VPU_OR (R142). -/
  | vpuOr (g : Fin 800) (gd : Guard) (r : VR)
  /-- VPU_XOR (R142). -/
  | vpuXor (g : Fin 800) (gd : Guard) (r : VR)
  /-- VPU_SHL (R142). -/
  | vpuShl (g : Fin 800) (gd : Guard) (r : VR)
  /-- VPU_SHR (R142). -/
  | vpuShr (g : Fin 800) (gd : Guard) (r : VR)
  /-- VPU_SRA (R142). -/
  | vpuSra (g : Fin 800) (gd : Guard) (r : VR)
  /-- VPU_INT_MIN (R142). -/
  | vpuIntMin (g : Fin 800) (gd : Guard) (r : VR)
  /-- VPU_INT_MAX (R142). -/
  | vpuIntMax (g : Fin 800) (gd : Guard) (r : VR)
  /-- CVI (R142). -/
  | cvi (g : Fin 800) (gd : Guard) (r : VR)
  /-- CVO (R129). -/
  | cvo (g : Fin 800) (gd : Guard) (r : VR)
  /-- MOV (R133). -/
  | mov (g : Fin 800) (gd : Guard) (r : VR)
  /-- BCAST (R142). -/
  | bcast (g : Fin 800) (gd : Guard) (r : VR)
  /-- SEL (R143). -/
  | sel (g : Fin 800) (gd : Guard) (r : VR)
  /-- PERM (R142). -/
  | perm (g : Fin 800) (gd : Guard) (r : VR)
  /-- SLIDE (R142). -/
  | slide (g : Fin 800) (gd : Guard) (r : VR)
  /-- RSUM (R144). -/
  | rsum (g : Fin 800) (gd : Guard) (r : VR)
  /-- RMAX (R144). -/
  | rmax (g : Fin 800) (gd : Guard) (r : VR)
  /-- RMIN (R144). -/
  | rmin (g : Fin 800) (gd : Guard) (r : VR)
  /-- WEL (R149). -/
  | wel (g : Fin 800) (gd : Guard) (r : VR)
  /-- WMRG (R150). -/
  | wmrg (g : Fin 800) (gd : Guard) (r : VR)
  /-- SMXU (R153). -/
  | smxu (g : Fin 800) (gd : Guard) (r : VR)
  /-- SKMRG (R168). -/
  | skmrg (g : Fin 800) (gd : Guard) (r : VR)
  /-- VLD (R142). -/
  | vld (g : Fin 800) (gd : Guard) (m : VM)
  /-- VST (R129). -/
  | vst (g : Fin 800) (gd : Guard) (m : VM)
  /-- EVAL (R146). -/
  | evalTs (g : Fin 800) (gd : Guard) (ts : Fin 4) (vd va : Fin 32) (q : Fin 4)
  /-- TLD (R145). -/
  | tld (g : Fin 800) (gd : Guard) (ts : Fin 4) (aa : Fin 16) (off : BitVec 16)
  /-- TSEL (R148). -/
  | tsel (g : Fin 800) (gd : Guard) (ts : Fin 4) (set : Fin 8)
  /-- RD (R205). -/
  | rd (g : Fin 800) (gd : Guard) (aa ab : Fin 16) (lb sn : Fin 64) (blk : Bool)
  /-- WR (R205). -/
  | wr (g : Fin 800) (gd : Guard) (aa ab : Fin 16) (sn : Fin 64) (blk : Bool)
  /-- CPY (R99). -/
  | cpy (g : Fin 800) (gd : Guard) (aa ab : Fin 16) (sn : Fin 64) (rel : Bool) (lb : Fin 64)
  /-- ATM (R235). -/
  | atm (g : Fin 800) (gd : Guard) (aa ab : Fin 16) (vi : Fin 32) (afmt : Fin 4)
  /-- NRW (R239). -/
  | nrw (g : Fin 800) (gd : Guard) (aa ab : Fin 16) (vi : Fin 32) (dir : Bool) (lb : Fin 64)
  /-- GTH (R188). -/
  | gth (g : Fin 800) (gd : Guard) (aa ab : Fin 16) (vi : Fin 32) (sn : Fin 64)
  /-- CMPT (R189). -/
  | cmpt (g : Fin 800) (gd : Guard) (aa ab : Fin 16) (vi : Fin 32) (sn : Fin 64)
  /-- ENG (R88). -/
  | eng (g : Fin 800) (gd : Guard) (aa kind index : Fin 16) (lb : Fin 64)
  /-- SND (R89). -/
  | snd (g : Fin 800) (gd : Guard) (dst : Fin 1024) (via : Bool) (aa : Fin 16) (lb sn : Fin 64)
  /-- RWS (R318). -/
  | rws (g : Fin 800) (gd : Guard) (aa ab : Fin 16) (sn sd : Fin 64) (vc : Fin 4) (sb : Fin 64)
  /-- COL (R329). -/
  | col (g : Fin 800) (gd : Guard) (aa : Fin 16) (sn : Fin 64) (kind : Fin 8) (fmt : Fin 16) (group : Fin 4096) (lb : Fin 64)
  /-- RED (R261). -/
  | red (g : Fin 800) (gd : Guard) (aa : Fin 16) (sn : Fin 64) (fmt : Fin 16) (lb : Fin 64) (root : Fin 1024)
  /-- VALIDATE (R97). -/
  | validate (src : Iface) (h : BitVec 16)
  /-- VALIDATION_DONE (R97). -/
  | validationDone (failed : Bool)
  /-- INVALIDATE (R98). -/
  | invalidate (src : Iface) (h : BitVec 16)
  /-- IMG_CTRL_RESERVED (R98). -/
  | imgCtrlReserved (src : Iface) (h : BitVec 16)
  /-- COLOUR_CONVERSION (R115). -/
  | colourConversion (n : Fin 16)
  /-- REMOSAIC (R115). -/
  | remosaic (n : Fin 16) (pat : Fin 4) (depth : Fin 17)
  /-- PATCHIFY (R115). -/
  | patchify (n : Fin 16) (p : Fin 17) (t : Fin 5)
  /-- UNPATCHIFY (R115). -/
  | unpatchify (n : Fin 16) (p : Fin 17) (t : Fin 5) (oh ow : Nat)
  /-- VAE_CONVOLUTION (R116). -/
  | vaeConvolution (n : Fin 16) (kh kw : Fin 8) (conv : ConvForm) (oh ow : Nat)
  /-- PXE_POOLING (R116). -/
  | pxePooling (n : Fin 16) (avg : Bool) (k stride : Fin 9) (oh ow : Nat)
  /-- CROP_AND_RESIZE (R118). -/
  | cropAndResize (n : Fin 16) (bh : BitVec 16) (boff : Nat) (boxes : Fin 4097) (oh ow : Fin 513)
  /-- PXE_COMPLETION (R119). -/
  | pxeCompletion (n : Fin 16)
  /-- PAGE_FILL_DONE (R204). -/
  | pageFillDone (h : BitVec 16) (p : Nat) (data : List Byte)
  /-- WRITEBACK_DONE (R211). -/
  | writebackDone (h : BitVec 16) (p : Nat)
  /-- WRITEBACK_FAIL (R213). -/
  | writebackFail (h : BitVec 16) (p : Nat)
  /-- PREFETCH_ISSUE (R214). -/
  | prefetchIssue (sc : Fin 2) (idx : Nat)
  /-- PREFETCH_COMPLETE (R215). -/
  | prefetchComplete (sc : Fin 2) (idx n : Nat)
  /-- T2_TIMEOUT (R217). -/
  | t2Timeout (sc : Fin 2)
  /-- TIER_FAIL (R217). -/
  | tierFail (w : TierWhat) (poison : Bool)
  /-- CREATE (R221). -/
  | create (src : Iface) (h : BitVec 16)
  /-- DESTROY (R221). -/
  | destroy (src : Iface) (h : BitVec 16)
  /-- FLUSH (R212). -/
  | flush (src : Iface) (h : BitVec 16)
  /-- EVICT (R221). -/
  | evict (src : Iface) (h : BitVec 16)
  /-- DISCARD (R221). -/
  | discard (src : Iface) (h : BitVec 16)
  /-- FETCH (R221). -/
  | fetch (src : Iface) (h : BitVec 16)
  /-- TMG_CMD_RESERVED (R221). -/
  | tmgCmdReserved (src : Iface) (k : Fin 9) (h : BitVec 16)
  /-- TMG_CMD_DONE (R221). -/
  | tmgCmdDone
  /-- HBM_TEMP_READ (R228). -/
  | hbmTempRead (n : Fin 12) (t : Byte)
  /-- REFRESH_ACCRUAL (R229). -/
  | refreshAccrual (n : Fin 12)
  /-- REFRESH_RUN_END (R229). -/
  | refreshRunEnd (n : Fin 12)
  /-- SCRUB_READ (R225). -/
  | scrubRead (n : Fin 12) (c : Fin 16) (res : Fin 4)
  /-- CE_PERIOD_END (R226). -/
  | cePeriodEnd (n : Fin 12)
  /-- CHANNEL_RETIRE (R226). -/
  | channelRetire (bad : List (Nat × Nat))
  /-- HB_RETIRE (R226). -/
  | hbRetire (src : Iface) (n : Fin 12) (c : Fin 16)
  /-- HB_RESTORE (R227). -/
  | hbRestore (src : Iface) (n : Fin 12) (c : Fin 16)
  /-- ATM_APPLY (R237). -/
  | atmApply (n : Fin 12) (k : Nat) (bad : Bool)
  /-- WATERMARK (R237). -/
  | watermark (g : Fin 800)
  /-- ATM_AUDIT (R238). -/
  | atmAudit (n : Fin 12)
  /-- SQ_DOORBELL (R243). -/
  | sqDoorbell (src : Iface) (q : Fin 64) (idx : BitVec 16)
  /-- CQ_DOORBELL (R243). -/
  | cqDoorbell (src : Iface) (q : Fin 64) (idx : BitVec 16)
  /-- QUEUE_ENABLE (R242). -/
  | queueEnable (src : Iface) (q : Fin 64) (w : BitVec 31)
  /-- DESCRIPTOR_ACCEPT (R244). -/
  | descriptorAccept (q : Fin 64) (data : List Byte)
  /-- SCH_ABORT (R260). -/
  | schAbort (src : Iface) (slot : Fin 8192)
  /-- PAIRED_SET (R349). -/
  | pairedSet (src : Iface) (value : Bool)
  /-- CONFIG_DEC (R270). -/
  | configDec (n : Fin 16)
  /-- CONFIG_ENC (R277). -/
  | configEnc (n : Fin 16)
  /-- DECODE (R274). -/
  | decode (n : Fin 16)
  /-- VCE_DRAIN (R274). -/
  | vceDrain (n : Fin 16)
  /-- ENCODE (R278). -/
  | encode (n : Fin 16)
  /-- VCE_RELEASE (R275). -/
  | vceRelease (n : Fin 16)
  /-- VCE_CLOSE (R270). -/
  | vceClose (n : Fin 16)
  /-- VCE_COMPLETION (R271). -/
  | vceCompletion (n : Fin 16)
  /-- VCE_FAULT (R281). -/
  | vceFault (n : Fin 16) (parity : Bool)
  /-- VCE_RESET (R281). -/
  | vceReset (src : Iface) (n : Fin 16)
  /-- EMP_ENABLE (R287). -/
  | empEnable (src : Iface) (n : Fin 16)
  /-- EMP_DISABLE (R287). -/
  | empDisable (src : Iface) (n : Fin 16)
  /-- FRAME_START (R297). -/
  | frameStart (n : Fin 16)
  /-- FRAME_END (R285). -/
  | frameEnd (n : Fin 16)
  /-- EMP_READ_ERROR (R299). -/
  | empReadError (n : Fin 16) (line : Fin 4105)
  /-- FSYNC_IN_EDGE (R286). -/
  | fsyncInEdge (n : Fin 16) (after : BitVec 32)
  /-- ACQUIRE (R289). -/
  | acquire (n : Fin 16)
  /-- COMMIT (R289). -/
  | commit (n : Fin 16)
  /-- EMP_RETURN (R289). -/
  | empReturn (n : Fin 16)
  /-- TICKET (R289). -/
  | ticket (n : Fin 16)
  /-- COMMIT_ARRIVE (R293). -/
  | commitArrive (n : Fin 16)
  /-- EMP_COMMIT_WRITE (R291). -/
  | empCommitWrite (src : Iface) (n : Fin 16) (buf : Fin 32)
  /-- VERIFY_PASS_START (R295). -/
  | verifyPassStart (n : Fin 16)
  /-- VERIFY_PASS_DONE (R295). -/
  | verifyPassDone (n : Fin 16) (bad : Bool)
  /-- TARGET_WRITE (R304). -/
  | targetWrite (n : Fin 16) (addr : BitVec 16) (data : List Byte)
  /-- TARGET_READ (R302). -/
  | targetRead (n : Fin 16) (addr : BitVec 16) (len : Nat)
  /-- TARGET_CCC (R302). -/
  | targetCcc (n : Fin 16) (op : Ccc)
  /-- RT_ACC_READ (R303). -/
  | rtAccRead (src : Iface) (n : Fin 16) (idx : Fin 1024)
  /-- RT_ACC_WRITE (R304). -/
  | rtAccWrite (src : Iface) (n : Fin 16) (idx : Fin 1024)
  /-- TOKEN_ADOPT (R306). -/
  | tokenAdopt (n : Fin 16)
  /-- DISPUTE_TIMEOUT (R307). -/
  | disputeTimeout
  /-- SAFE_STATE_ASSERT (R309). -/
  | safeStateAssert
  /-- SAFE_STATE_RELEASE (R309). -/
  | safeStateRelease
  /-- TOKEN_LOSS (R348). -/
  | tokenLoss (emp : Bool) (n : Fin 16)
  /-- CAP_ENABLE (R311). -/
  | capEnable (src : Iface) (n : Fin 8)
  /-- CAP_DISABLE (R311). -/
  | capDisable (src : Iface) (n : Fin 8)
  /-- CAP_FRAME_START (R311). -/
  | capFrameStart (n : Fin 8) (num : BitVec 16)
  /-- CAP_LINE (R310). -/
  | capLine (n : Fin 8) (p : LinePacket) (bad : Bool)
  /-- CAP_FRAME_END (R310). -/
  | capFrameEnd (n : Fin 8)
  /-- CAP_FRAME_TIMEOUT (R310). -/
  | capFrameTimeout (n : Fin 8)
  /-- CAP_OTHER_PACKET (R310). -/
  | capOtherPacket (n : Fin 8)
  /-- TAKE (R311). -/
  | take (n : Fin 8)
  /-- TAKE_COMPLETE (R311). -/
  | takeComplete (n : Fin 8)
  /-- CAP_RETURN (R311). -/
  | capReturn (n : Fin 8)
  /-- FSYNC_OUT_RISE (R312). -/
  | fsyncOutRise (n : Fin 8)
  /-- FSYNC_OUT_FALL (R312). -/
  | fsyncOutFall (n : Fin 8)
  /-- PORT_ENABLE (R315). -/
  | portEnable (src : Iface) (n : Fin 8)
  /-- TRAINING_DONE (R315). -/
  | trainingDone (n : Fin 8) (lanes : Fin 5) (lat : Nat)
  /-- TRAINING_TIMEOUT (R315). -/
  | trainingTimeout (n : Fin 8)
  /-- IDENT (R316). -/
  | ident (n : Fin 8) (same : Bool) (id : BitVec 18) (port : Fin 8)
  /-- FLIT_RECEIVE (R317). -/
  | flitReceive (n : Fin 8) (seq : BitVec 12) (good : Bool) (ack : Option (BitVec 12)) (nak : Bool)
  /-- LINK_LOSS (R317). -/
  | linkLoss (n : Fin 8)
  /-- FLIT_TIMEOUT (R317). -/
  | flitTimeout (n : Fin 8)
  /-- PORT_RETRAIN (R317). -/
  | portRetrain (n : Fin 8)
  /-- PKT_WR (R319). -/
  | pktWr (n : Fin 8) (p : Pkt)
  /-- PKT_RD_REQ (R319). -/
  | pktRdReq (n : Fin 8) (p : Pkt)
  /-- PKT_RD_RSP (R318). -/
  | pktRdRsp (n : Fin 8) (p : Pkt)
  /-- PKT_WR_ACK (R318). -/
  | pktWrAck (n : Fin 8) (p : Pkt)
  /-- PKT_COLL (R330). -/
  | pktColl (n : Fin 8) (p : Pkt)
  /-- PKT_MGT (R318). -/
  | pktMgt (n : Fin 8) (p : Pkt)
  /-- PKT_RETURNED (R320). -/
  | pktReturned (n : Fin 8) (p : Pkt)
  /-- PKT_WRAPPED (R335). -/
  | pktWrapped (n : Fin 8) (p : Pkt)
  /-- PKT_RESERVED (R318). -/
  | pktReserved (n : Fin 8) (p : Pkt)
  /-- CREDIT_RETURN (R325). -/
  | creditReturn (n : Fin 8) (idx : Fin 5) (k : Nat)
  /-- AUDIT_SEND (R326). -/
  | auditSend (n : Fin 8)
  /-- AUDIT (R326). -/
  | audit (n : Fin 8) (sents : List Nat)
  /-- RECLAIM (R336). -/
  | reclaim (n : Fin 8) (r : Reclaim)
  /-- TIME_EXCHANGE (R331). -/
  | timeExchange (n : Fin 8)
  /-- TIME (R331). -/
  | time (n : Fin 8) (t2 t3 : Word64)
  /-- HOLDOVER (R332). -/
  | holdover
  /-- REJOIN (R337). -/
  | rejoin (src : Iface) (n : Fin 8)
  /-- JOIN (R337). -/
  | join (n : Fin 8)
  /-- PORT_ISOLATE (R338). -/
  | portIsolate (n : Fin 8)
  /-- COLL_TIMEOUT (R330). -/
  | collTimeout (k : Nat)
  /-- EST_SAMPLE (R339). -/
  | estSample
  /-- ROUTE_READ (R321). -/
  | routeRead (src : Iface) (idx : Fin 4096)
  /-- ROUTE_WRITE (R321). -/
  | routeWrite (src : Iface) (idx : Fin 4096)
  /-- FAULT_REPORT (R343). -/
  | faultReport (rs : List Report)
  /-- FENCE_NO_ANSWER (R346). -/
  | fenceNoAnswer (h : Fin 2)
  /-- PEND_CLEAR (R344). -/
  | pendClear (src : Iface)
  /-- TOKEN_BROADCAST (R348). -/
  | tokenBroadcast
  /-- HEARTBEAT (R350). -/
  | heartbeat (h : Fin 2) (epoch : Word) (role : Fin 3)
  /-- HEARTBEAT_LOSS (R341). -/
  | heartbeatLoss (h : Fin 2)
  /-- DISPUTE_ACK (R350). -/
  | disputeAck (h : Fin 2)
  /-- DISPUTE_WINDOW_END (R350). -/
  | disputeWindowEnd
  /-- PAIR_FAILOVER (R351). -/
  | pairFailover (b : Bool) (why : Fin 3)
  /-- FLT_FENCE (R352). -/
  | fltFence (src : Iface) (kind : Fin 4) (idx : Byte)
  /-- UNFENCE (R352). -/
  | unfence (src : Iface) (kind : Fin 4) (idx : Byte)
  /-- UNFENCE_SELFTEST_DONE (R352). -/
  | unfenceSelftestDone (pass : Bool)
  /-- FLT_RESTORE (R352). -/
  | fltRestore (src : Iface) (kind : Fin 4) (idx : Byte)
  /-- CRASH_LOG_CLEAR (R353). -/
  | crashLogClear (src : Iface)
  /-- D2D_AUDIT (R28). -/
  | d2dAudit (m : Fin 100) (expected observed : Nat) (jobs : List (Fin 2))
  /-- POWER_ON_RESET (R355). -/
  | powerOnReset
  /-- RST_N_ASSERT (R355). -/
  | rstNAssert
  /-- PERST_ASSERT (R412). -/
  | perstAssert (l : Fin 2)
  /-- PERST_DEASSERT (R407). -/
  | perstDeassert (l : Fin 2)
  /-- WATCHDOG_EXPIRE (R355). -/
  | watchdogExpire
  /-- RST_DEVICE (R355). -/
  | rstDevice (src : Iface) (key : Byte)
  /-- RST_PARTIAL (R359). -/
  | rstPartial (src : Iface) (kind : Fin 4) (idx : Byte)
  /-- PARTIAL_RESET_DONE (R359). -/
  | partialResetDone (ok : Bool)
  /-- RESET_RELEASE (R358). -/
  | resetRelease (test : Fin 16)
  /-- PLL_LOCK (R358). -/
  | pllLock (bad : List (Fin 100))
  /-- KINDLING_APPLY (R372). -/
  | kindlingApply
  /-- SELFTEST_DONE (R373). -/
  | selftestDone (scdOk : Bool) (dies : List (Fin 36)) (untrained : BitVec 12) (chans : List (Fin 192))
  /-- LOADER_FAILURE (R370). -/
  | loaderFailure
  /-- VBKUP_POWER_ON (R360). -/
  | vbkupPowerOn
  /-- CLAIM (R375). -/
  | claim (src : Iface) (reach : Fin 3)
  /-- RENEW (R377). -/
  | renew (src : Iface)
  /-- OWN_RELEASE (R377). -/
  | ownRelease (src : Iface)
  /-- HANDOVER (R377). -/
  | handover (src : Iface) (dest : Fin 4)
  /-- OWN_CMD_BAD_OP (R377). -/
  | ownCmdBadOp (src : Iface) (k : Fin 3)
  /-- ELECTION_CLOSE (R376). -/
  | electionClose
  /-- LEASE_EXPIRE (R377). -/
  | leaseExpire
  /-- DOWNLOAD (R381). -/
  | download (src : Iface) (h : BitVec 16)
  /-- UPDATE_VERIFY (R381). -/
  | updateVerify (src : Iface)
  /-- ACTIVATE (R381). -/
  | activate (src : Iface)
  /-- CONFIRM (R381). -/
  | confirm (src : Iface)
  /-- OPT_WRITE (R365). -/
  | optWrite (src : Iface) (h : BitVec 16)
  /-- UPDATE_DONE (R381). -/
  | updateDone (fail : Bool)
  /-- GOVERNOR_TICK (R393). -/
  | governorTick (est : List Nat)
  /-- STEP_CHANGE (R39). -/
  | stepChange
  /-- SENSOR_SCAN (R390). -/
  | sensorScan (temps : List (Option Byte))
  /-- TRIP_RELEASE (R396). -/
  | tripRelease
  /-- BRAKE_ASSERT (R395). -/
  | brakeAssert
  /-- BRAKE_RELEASE (R395). -/
  | brakeRelease
  /-- RAIL_FAULT (R347). -/
  | railFault (rail : Fin 33) (mv : Nat)
  /-- REFCLK_LOSS (R389). -/
  | refclkLoss (refclk : Bool)
  /-- SLEEP_ENTER (R399). -/
  | sleepEnter (src : Iface)
  /-- SLEEP_ENTRY_DONE (R399). -/
  | sleepEntryDone
  /-- WAKE (R400). -/
  | wake (src : Iface)
  /-- WAKE_DONE (R400). -/
  | wakeDone
  /-- HOST_LINK_FAIL (R410). -/
  | hostLinkFail (l : Fin 2) (internal : Bool)
  /-- RECOVERY_TIMEOUT (R410). -/
  | recoveryTimeout (l : Fin 2)
  /-- AUTO_BACK (R411). -/
  | autoBack (l : Fin 2)
  /-- MOVE_PAIRS (R411). -/
  | movePairs (src : Iface) (l : Fin 2)
  /-- MOVE_HOME (R411). -/
  | moveHome (src : Iface)
  /-- MOVE_WAIT_END (R411). -/
  | moveWaitEnd (expired : Bool)
  /-- BAR2_READ (R405). -/
  | bar2Read (l : Fin 2) (off : BitVec 38) (n : Fin 4097)
  /-- BAR2_WRITE (R405). -/
  | bar2Write (l : Fin 2) (off : BitVec 38) (data : List Byte)
  /-- PTM_REQUEST (R413). -/
  | ptmRequest
  /-- PTM_RESPONSE (R413). -/
  | ptmResponse (t2 t3 : Word64)
  /-- MGT_READ (R416). -/
  | mgtRead (src : Iface) (off : Word) (n : Fin 17)
  /-- MGT_WRITE (R416). -/
  | mgtWrite (src : Iface) (off : Word) (words : List Word)
  /-- READ_LOG (R416). -/
  | readLog (src : Iface) (off : Word) (n : Fin 17)
  /-- MCTP_CONTROL (R415). -/
  | mctpControl (src : Iface) (c : MctpCtl)
  /-- MCTP_BAD_MSG (R415). -/
  | mctpBadMsg (src : Iface) (op : Option Byte)
  /-- MGT_TIMEOUT (R416). -/
  | mgtTimeout (src : Iface) (wr : Bool) (off : Word) (n : Fin 16) (words : List Word)
  /-- PMBUS_POLL (R417). -/
  | pmbusPoll (res : List Poll)
  /-- PMB_ALERT (R417). -/
  | pmbAlert (res : List Poll)
  /-- PMB_XFER (R417). -/
  | pmbXfer (src : Iface) (w : BitVec 31)
  /-- PMB_XFER_DONE (R417). -/
  | pmbXferDone (nack pec : Bool) (data : BitVec 16)
  /-- BYPASS (R418). -/
  | bypass (tdi : List Bool)
  /-- IDCODE (R418). -/
  | idcode (tdi : List Bool)
  /-- SAMPLE_PRELOAD (R418). -/
  | samplePreload (sampled tdi : List Bool)
  /-- EXTEST (R418). -/
  | extest (sampled tdi : List Bool)
  /-- EXTEST_PULSE (R418). -/
  | extestPulse (sampled tdi : List Bool)
  /-- EXTEST_TRAIN (R418). -/
  | extestTrain (sampled tdi : List Bool)
  /-- CLAMP (R418). -/
  | clamp (tdi : List Bool)
  /-- HIGHZ (R418). -/
  | highz (tdi : List Bool)
  /-- JTAG_EN_CHANGE (R429). -/
  | jtagEnChange (level : Bool)
  /-- HOST_LINK_UP (R411). -/
  | hostLinkUp (l : Fin 2) (rate : Fin 7) (width : Fin 9) (cxl : Bool)
  /-- CONFIGURATION_REQUEST (R407). -/
  | configurationRequest (l : Fin 2)
  /-- CXL_SNOOP (R403). -/
  | cxlSnoop (l : Fin 2) (addr : Word64)
  /-- MGT_DYNAMIC_ADDRESS (R414). -/
  | mgtDynamicAddress (op : Ccc)
  /-- VBKUP_LOSS (R360). -/
  | vbkupLoss
  /-- TRST_N_ASSERT (R418). -/
  | trstNAssert
  deriving DecidableEq, Repr

end Sys2Proof
end

