-- ==== Sys2Proof/Config.lean ====
section
/-! DEFINITION. What the spec fixes for every device of stepping B0 (R1), and the free values: constants without a
body, of which nothing can be proved, for what the spec leaves open. Each free value names its log entry. -/

namespace Sys2Proof.Config

/-- DEV_ID (chapter 00). -/
def devId : Word := 0x0D250800#32

/-- DEV_VERSION of stepping B0 (R1, chapter 00). -/
def devVersion : Word := 0x202020B0#32

/-- FREE: whether the SFDP table of the board's NVM advertises 8D-8D-8D (R362; notes/assumptions/59.md). -/
opaque nvmOctal : Bool

/-- FREE: the manufacturer code of the IDCODE, which R418 names without giving it (notes/assumptions/21.md). -/
opaque manufacturer : Nat

/-- IDCODE of the TAP (R418): version 0x1, part 0xD250, the manufacturer code, and 1. -/
def idcodeWord : Nat := 0x1D250001 + manufacturer % 2048 * 2

/-- FREE: coefficient `k` (0 s, 1 c0, 2 c1, 3 c2) of segment `i` of built-in table set `set`. R148 bounds the error of
the functions and states no segment (notes/assumptions/10.md). -/
opaque builtinSeg : Nat → Nat → Nat → Word

/-- FREE: the n-th value that the spec leaves open, drawn by the counter `free` of the state
(notes/assumptions/3.md). -/
opaque freeNat : Nat → Nat

/-- FREE: the code of element `i` of a pixel-engine result whose arithmetic the spec does not fix, by operation, command block,
operands and source bytes (notes/assumptions/17.md). -/
opaque pixelFree : Nat → List Byte → List Nat → List Byte → Nat → Nat

/-- FREE: the FP32 sum of the products of an output value of OP 0x05 where their order matters, by command block and products' bits
(notes/assumptions/17.md). -/
opaque pixelSum : List Byte → List Nat → Word

/-- FREE: the 16 random bits that an engine's stochastic rounding takes for element `i` of a command's output; R135 states those of a tile
(notes/assumptions/17.md). -/
opaque pixelRnd : List Byte → Nat → Nat

/-- FREE: value `i` of what H.265 alone decides in a command of a codec engine: by the history of its context, its command block, the bytes
that it reads, and the motion vectors that an encoder chose (notes/assumptions/18.md). -/
opaque codecFree : Nat → List Byte → List Byte → List Int → Nat → Nat

/-- FREE: the history of a context after a command that advanced it (notes/assumptions/18.md). -/
opaque codecHist : Nat → List Byte → List Byte → Nat

/-- FREE: what EVAL gives for an index that is not a number, by payload and operand (notes/assumptions/49.md). -/
opaque evalFree : List Byte → Word → Word

/-- FREE: lane `k` of a register `r` past V31, as WMRG can name it (notes/assumptions/13.md). -/
opaque pastV31 : Nat → Nat → Word

/-- FREE: byte `i` of a reduction in a format without a rule of combination, by format and contributions (notes/assumptions/33.md). -/
opaque redFree : Nat → List (List Byte) → Nat → Nat

/-- FREE: whether an ECDSA P-384 signature over SHA-384 (R95, R371) is valid: the signed bytes, the 112 bytes of the
SIGNATURE section, and the public key or fused key digest it is checked with (notes/assumptions/11.md). -/
opaque ecdsaOk : List Byte → List Byte → List Byte → Bool

/-- FREE: whether key slot k of the SCD fuses holds a root-key digest that is not revoked, and that digest (R371)
(notes/assumptions/11.md). -/
opaque fuseKey : Nat → Option (List Byte)

/-- FREE: whether RAW16 puts the upper byte of a pixel first on CSI-2, which no rule states (notes/assumptions/19.md). -/
opaque raw16MsbFirst : Bool

/-- FREE: the Bayer pattern (0 RGGB, 1 GRBG, 2 GBRG, 3 BGGR) of a port's RAW data, which no register holds
(notes/assumptions/19.md). -/
opaque bayerOf : Nat → Nat

/-- FREE: the exposure ratio taken where the ratio is not a number, before R305's clamp (notes/assumptions/19.md). -/
opaque nanRatio : Word → Word

end Sys2Proof.Config
end

