-- ==== Sys2Proof/Machine/Bits.lean ====
section
/-! DEFINITION. Bit fields of words, byte order (little-endian throughout, R2, R68), sign extension, saturating
counts, and the sparse maps that hold per-instance state as plain data: a map is a list of (key, value) pairs with
strictly rising keys. -/

namespace Sys2Proof.Machine

/-! ### Bit fields -/

/-- Field of `n` bits of `v` whose least significant bit is bit `lo`. -/
def fld (v lo n : Nat) : Nat := (v >>> lo) % 2 ^ n

/-- The bits of a word that a mask keeps. -/
def keepBits (w mask : Nat) : Nat := w &&& mask

/-- Bit `i` of `v`. -/
def bit (v i : Nat) : Bool := v.testBit i

/-- A flag as a number, for building a word. -/
def flag (b : Bool) : Nat := if b then 1 else 0

/-- The value `v` cut to `n` bits and placed at bit `lo`. -/
def put (v lo n : Nat) : Nat := (v % 2 ^ n) <<< lo

/-- Sum of placed fields: the word a register view shows. -/
def packWord (fs : List Nat) : Word := BitVec.ofNat 32 fs.sum

/-- The low word of a wide quantity. -/
def loWord (v : Nat) : Word := BitVec.ofNat 32 v

/-- The word above the low word of a wide quantity. -/
def hiWord (v : Nat) : Word := BitVec.ofNat 32 (v >>> 32)

/-- The signed value of the low `n` bits of `v`. -/
def signed (n v : Nat) : Int :=
  let w := v % 2 ^ n
  if w < 2 ^ (n - 1) then (w : Int) else (w : Int) - (2 ^ n : Nat)

/-- A signed number as `n` bits of two's complement. -/
def ofSigned (n : Nat) (i : Int) : Nat := (i % ((2 ^ n : Nat) : Int)).toNat

/-- An increment by `k` that stays at the largest value of `n` bits. -/
def satAdd (n v k : Nat) : Nat := if v + k < 2 ^ n then v + k else 2 ^ n - 1

/-- Smallest multiple of `m` that is at least `v`. -/
def roundUp (v m : Nat) : Nat := (v + m - 1) / m * m

/-- `a / b` rounded up. -/
def ceilDiv (a b : Nat) : Nat := (a + b - 1) / b

/-! ### Bytes -/

/-- The `n` bytes of `v`, least significant first. -/
def leBytes : Nat → Nat → List Byte
  | 0, _ => []
  | n + 1, v => BitVec.ofNat 8 v :: leBytes n (v / 256)

/-- The number that bytes stored least significant first stand for. -/
def leNat : List Byte → Nat
  | [] => 0
  | b :: bs => b.toNat + 256 * leNat bs

/-- The number that bytes stored most significant first stand for. -/
def beNat (bs : List Byte) : Nat := leNat bs.reverse

/-- Byte `i` of a byte list, 0 past its end. -/
def byteAt (bs : List Byte) (i : Nat) : Byte := bs.getD i 0

/-- `n` bytes from offset `o`, zero-filled past the end. -/
def slice (bs : List Byte) (o n : Nat) : List Byte :=
  let t := (bs.drop o).take n
  t ++ List.replicate (n - t.length) 0

/-- The little-endian number of `n` bytes at offset `o`. -/
def leAt (bs : List Byte) (o n : Nat) : Nat := leNat (slice bs o n)

/-! ### CRC-32 (R69) -/

/-- `n` steps of the reflected register. -/
def crcSteps : Nat → Nat → Nat
  | 0, c => c
  | n + 1, c => crcSteps n (if c % 2 = 1 then (c / 2) ^^^ 0xEDB88320 else c / 2)

/-- CRC-32 of R69. -/
def crc32 (bs : List Byte) : Word :=
  BitVec.ofNat 32 ((bs.foldl (fun c b => crcSteps 8 (c ^^^ b.toNat)) 0xFFFFFFFF) ^^^ 0xFFFFFFFF)

/-! ### Sparse maps -/

/-- Per-instance state as plain data: strictly rising keys. -/
abbrev FMap (α : Type) := List (Nat × α)

/-- The value a map lists for a key. -/
def mget? {α : Type} : FMap α → Nat → Option α
  | [], _ => none
  | (k, v) :: r, n => if n < k then none else if n = k then some v else mget? r n

/-- The value at a key, or the default that an unlisted key stands for. -/
def mget {α : Type} (m : FMap α) (n : Nat) (d : α) : α := (mget? m n).getD d

/-- The map with one key set. -/
def mset {α : Type} : FMap α → Nat → α → FMap α
  | [], n, x => [(n, x)]
  | (k, v) :: r, n, x =>
    if n < k then (n, x) :: (k, v) :: r
    else if n = k then (n, x) :: r
    else (k, v) :: mset r n x

/-- The map without one key. -/
def mdel {α : Type} (m : FMap α) (n : Nat) : FMap α := m.filter (fun p => p.1 != n)

/-- The map with every listed value changed. -/
def mmap {α : Type} (m : FMap α) (f : Nat → α → α) : FMap α := m.map (fun p => (p.1, f p.1 p.2))

/-- A list with the element at one place changed. -/
def listUpd {α : Type} (l : List α) (i : Nat) (f : α → α) : List α :=
  match l, i with
  | [], _ => []
  | x :: xs, 0 => f x :: xs
  | x :: xs, i + 1 => x :: listUpd xs i f

/-- Number of elements that meet a test. -/
def countIf {α : Type} (l : List α) (p : α → Bool) : Nat := (l.filter p).length

/-! ### Byte-addressed memory in canonical form -/

/-- One byte read: 0 where nothing is listed. DESIGN CHOICE (notes/assumptions/9.md). -/
def memGet : List (Nat × Byte) → Nat → Byte
  | [], _ => 0
  | (k, v) :: r, a => if a < k then 0 else if a = k then v else memGet r a

/-- One byte written: the form stays strictly rising and lists no zero, since an unlisted byte reads 0. -/
def memSet : List (Nat × Byte) → Nat → Byte → List (Nat × Byte)
  | [], a, b => if b = 0 then [] else [(a, b)]
  | (k, v) :: r, a, b =>
    if a < k then (if b = 0 then (k, v) :: r else (a, b) :: (k, v) :: r)
    else if a = k then (if b = 0 then r else (a, b) :: r)
    else (k, v) :: memSet r a b

/-- Consecutive bytes written from an address up. -/
def memWrite (m : List (Nat × Byte)) (a : Nat) : List Byte → List (Nat × Byte)
  | [] => m
  | b :: bs => memWrite (memSet m a b) (a + 1) bs

/-- `n` consecutive bytes read from an address up. -/
def memRead (m : List (Nat × Byte)) (a n : Nat) : List Byte :=
  (List.range n).map (fun i => memGet m (a + i))

/-- A span of bytes made zero: they are no longer listed. -/
def memZero (m : List (Nat × Byte)) (a n : Nat) : List (Nat × Byte) :=
  m.filter (fun c => c.1 < a || a + n ≤ c.1)

/-- Only the bytes of one span. -/
def memKeep (m : List (Nat × Byte)) (a n : Nat) : List (Nat × Byte) :=
  m.filter (fun c => a ≤ c.1 && c.1 < a + n)

/-- Canonical form, first address above `lo` or equal to it. -/
def memWfFrom : Nat → List (Nat × Byte) → Bool
  | _, [] => true
  | lo, (k, v) :: r => decide (lo ≤ k) && (v != 0) && memWfFrom (k + 1) r

/-- The canonical form of a memory: addresses strictly rising, no listed zero. -/
def Memory.wf (m : List (Nat × Byte)) : Bool := memWfFrom 0 m

end Sys2Proof.Machine
end

