-- ==== Sys2Proof/Machine/State.lean ====
section
/-! DEFINITION. The state of the block as plain data, the state right after reset, and the closed lists of reasons
why a step stops. Each field's docstring or the heading above it names the chapter of the spec that gives it;
INVENTORY.md lists every piece with its rule. -/

namespace Sys2Proof.Machine


/-! ### Who commands the block -/

/-- The three masters of R374. -/
inductive Master where
  | h | f | m
  deriving DecidableEq, Repr

/-- The states of Table 17-10. -/
inductive DevState where
  | reset | load | selftest | service | sleep | recovery | halt
  deriving DecidableEq, Repr

/-- The ownership states of R374 to R380. -/
inductive OwnSt where
  | noOwner | owned | dispute
  deriving DecidableEq, Repr

/-! ### Faults (chapter 16) -/

/-- A fault record (Table 16-4). -/
structure FaultRec where
  cls : Nat
  block : Nat
  code : Nat
  pairB : Bool
  contained : Bool
  late : Bool
  seq : Nat
  devtime : Word64
  unit : Nat
  scope : Nat
  action : Nat
  slot : Nat
  containUs : Nat
  detail : Nat
  deriving DecidableEq, Repr

/-- The crash log of R353: the records of slots 1 to 127, and the header of slot 0. -/
structure CrashLog where
  recs : FMap FaultRec
  hdrCount : Word
  hdrCause : Nat
  next : Nat
  written : Nat
  deriving DecidableEq, Repr

/-- Fault collector, authority token and fencing (R343 to R353, R431). `acks` are the halves that acknowledged an open
dispute; `selftest` is the half under the UNFENCE self-test and
`deferred` the half whose UNFENCE waits for a paired job's end. -/
structure Flt where
  ring : FMap FaultRec
  seq : Nat
  lost : Nat
  pend : Bool
  maxClass : Nat
  halt : Bool
  redundant : Bool
  activeB : Bool
  epoch : Word
  primary : Nat
  secValid : Bool
  dispute : Bool
  acks : List Nat
  supEpoch : FMap Word
  fencedW : Bool
  fencedE : Bool
  unfenceBusy : Bool
  selftest : Option Nat
  deferred : Option Nat
  unfenceResult : Nat
  retiredDies : List Nat
  retiredModules : List Nat
  closedModules : List Nat
  poweredOff : List Nat
  deriving DecidableEq, Repr

/-! ### Reset, boot, ownership, update (chapter 17) -/

/-- The backup domain (Table 17-4). -/
structure Backup where
  count : Word
  cause : Nat
  torn : Nat
  jptr : Nat
  flags : Nat
  clog : CrashLog
  powered : Bool
  deriving DecidableEq, Repr

/-- A record of the journal (Table 17-7). A CHECKPOINT is followed by the RETIRE records that it counts. -/
inductive JRec where
  | erase (slot : Nat)
  | activate (slot : Nat)
  | bootTry (slot : Nat)
  | confirm (slot : Nat)
  | rollback (slot : Nat)
  | verified (slot : Nat)
  | retire (kind idx : Nat)
  | restore (kind idx : Nat)
  | checkpoint (active : Nat) (pending : Option Nat) (tries : Nat) (markA markB : Bool) (retires : Nat)
  deriving DecidableEq, Repr

/-- An option copy (Table 17-6). -/
structure OptBlock where
  valid : Bool
  powerClass : Nat
  perstMode : Nat
  gen : Nat
  rest : List Byte
  deriving DecidableEq, Repr

/-- A record as a mirror of the journal holds it (R366): its SEQ, and whether its CRC-32 is good. -/
structure JCell where
  seq : Nat
  what : JRec
  ok : Bool
  deriving DecidableEq, Repr

/-- A mirror of the journal: the records of its two sectors in the order written, and which is current (R367). -/
structure JMirror where
  sect0 : List JCell
  sect1 : List JCell
  cur : Nat
  deriving DecidableEq, Repr

/-- The external NVM (Table 17-5): the trim copy, both option copies, both mirrors of the journal, and the bytes of both
Kindling slots. -/
structure Nvm where
  trimValid : Bool
  opt0 : OptBlock
  opt1 : OptBlock
  jm0 : JMirror
  jm1 : JMirror
  slotA : List Byte
  slotB : List Byte
  deriving DecidableEq, Repr

/-- The state that replaying the journal gives (R367). -/
structure JState where
  active : Nat
  pending : Option Nat
  tries : Nat
  markA : Bool
  markB : Bool
  retired : List (Nat × Nat)
  deriving DecidableEq, Repr

/-- Boot, update and partial reset (R355 to R384). `sources` are the device-reset sources asserted now; `testHeld`
while a nonzero TEST holds the device in RESET (R429); `chosen` once the loader has a slot to apply. -/
structure Boot where
  st : DevState
  sources : List Nat
  cause : Nat
  torn : Nat
  slot : Nat
  redundant : Bool
  recReason : Nat
  verifiedA : Bool
  verifiedB : Bool
  lengthA : Nat
  lengthB : Nat
  optSel : Nat
  powerClassOpt : Nat
  perstMode : Nat
  shadowValid : Bool
  updBusy : Bool
  updDropped : Bool
  updOp : Nat
  updHandle : Nat
  updResult : Nat
  updProgress : Nat
  partBusy : Bool
  partKind : Nat
  partIndex : Nat
  partResult : Nat
  chosen : Bool
  keys : FMap (List Byte)
  testHeld : Bool
  deriving DecidableEq, Repr

/-- Ownership (R374 to R380). Pending claims hold the term. `pairA` and `pairB` are the terms that the two
controller pairs hold; `leaseEnd` is when the lease ends, in local nanoseconds. -/
structure Own where
  st : OwnSt
  owner : Option Master
  term : Word
  pairA : Word
  pairB : Word
  standing : Bool
  electing : Bool
  leaseEnd : Nat
  pend : List (Master × Word)
  claimTerm : List (Master × Word)
  result : List (Master × Nat)
  deriving DecidableEq, Repr

/-! ### Tiles (chapters 03 to 09) -/

inductive LBState where
  | free | armed | ready
  deriving DecidableEq, Repr

/-- The source classes of R41. -/
inductive SrcClass where
  | t1 | t2 | net | rwy | eng
  deriving DecidableEq, Repr

/-- A landing-buffer entry (R41). -/
structure LBuf where
  st : LBState
  base : Nat
  len : Nat
  expected : Nat
  landed : Nat
  cls : SrcClass
  deriving DecidableEq, Repr

/-- A vector register, lane 0 first. -/
abbrev VReg := List Word

/-- A result that is not yet readable (R81), or a T0 write or a mapping fault of an access whose beat has not come (R101, R113). -/
inductive Res where
  | s (r : Nat) (v : Word)
  | a (r : Nat) (v : Word48)
  | p (r : Nat) (mask v : Word64)
  | v (r : Nat) (mask : Word64) (v : VReg)
  | rm (v : Nat)
  | accRow (bank row : Nat) (v : VReg)
  | accZero (bank : Nat)
  | t0 (slot addr : Nat) (data : List (Option Byte)) (spec : Bool)
  | lbReady (lb : Nat)
  | lbFree (lb : Nat)
  | fault (slot resource detail addr : Nat)
  deriving DecidableEq, Repr

/-- `rem` beats remain, the current one included, before the result takes effect. -/
structure PendRes where
  rem : Nat
  res : Res
  deriving DecidableEq, Repr

/-- A weight buffer (R106). `plan` lists the accesses still to come, one per beat: part (0 elements, 1 tensor scale and
scales, 2 scales alone, 3 metadata; 4 more for a suppressed access, which reads zeros), address and length; the buffer is
complete when none is left. -/
structure WBuf where
  fmt : Nat
  sp : Bool
  elems : List Byte
  scales : List Byte
  mdata : List Byte
  ts : Word
  plan : List (Nat × Nat × Nat)
  deriving DecidableEq, Repr

/-- An SFU table slot (R145, R87): `wait` beats remain until an EVAL may read it; `plan` lists the accesses of a TLD
still to come, one per beat (address, length, whether it is suppressed and reads zeros). -/
structure SfuSlot where
  loaded : Bool
  builtin : Bool
  set : Nat
  payload : List Byte
  wait : Nat
  plan : List (Nat × Nat × Bool)
  deriving DecidableEq, Repr

/-- A LOOP in execution (R73, R74): `trips` passes remain, the current one included, of a body of `body` words from word
`start`. -/
structure LoopFrame where
  trips : Nat
  body : Nat
  start : Nat
  deriving DecidableEq, Repr

/-- The lane fetcher of a tile (R72 to R76). -/
structure Fetcher where
  word : Nat
  restLeft : Nat
  loops : List LoopFrame
  ended : Bool
  deriving DecidableEq, Repr

/-- What a tile can be restored to (R52): registers, accumulators, tables, LFSR, monitors, landing buffers, results
in flight, and the position of the fetcher. `wNew` is a weight load issued in this beat. `ports` lists (beats from now, bank) of the static-port accesses counted;
bank 16 stands for the MXU's issue in the beats a longer MAC blocks (R108). `logMark` is the length of the tile's landing log at the checkpoint. -/
structure TileCore where
  s : FMap Word
  a : FMap Word48
  p : FMap Word64
  v : FMap VReg
  rm : Nat
  lfsr : Word
  stepped : Bool
  acc : FMap VReg
  accVis : FMap VReg
  rp : FMap Nat
  dp : FMap Nat
  undrained : FMap Bool
  wAct : Option WBuf
  wIn : Option WBuf
  wNew : Option WBuf
  sfu : FMap SfuSlot
  latch : FMap Word
  jctr : FMap Nat
  ovf : Nat
  sat : Nat
  nan : Nat
  amax : FMap Word
  lbs : FMap LBuf
  cur : FMap (Nat × Nat)
  pend : List PendRes
  ports : List (Nat × Nat)
  fetch : Fetcher
  d2Bad : Nat
  e8m0Nan : Nat
  badMeta : Nat
  gated : Nat
  cmptDrop : Nat
  logMark : Nat
  deriving DecidableEq, Repr

/-- A line of the shadow area (R52): `open` while its epoch is that of the open speculation. -/
structure ShLine where
  data : List Byte
  isOpen : Bool
  deriving DecidableEq, Repr

/-- A mapping fault as a tile latches it (R113). -/
structure MFault where
  spec : Bool
  slot : Nat
  resource : Nat
  detail : Nat
  pos : Nat
  beat : Nat
  addr : Nat
  cycle : Nat
  tile : Nat
  deriving DecidableEq, Repr

/-- An operation that acts outside its tile, as it waits in the hold queue or the egress (R52), or as it is issued:
object writes, memory-side atomics, narrow scatters, Reedway sends, collective and reduction contributions, engine
commands, and tile-to-tile sends. The source data are those of its beat, and of its release where it was held. -/
inductive OutOp where
  | wr (handle off : Nat) (data : List Byte) (blk : Option Nat)
  | atm (handle off : Nat) (idx : List (Option Nat)) (vals : List (List Byte)) (afmt : Nat)
  | nrw (handle off : Nat) (idx : List (Option Nat)) (vals : List (List Byte))
  | eng (kind index lb : Nat) (cmd : List Byte)
  | rws (dev handle off : Nat) (data : List Byte) (vc budget : Nat)
  | col (kind fmt group lb : Nat) (data : List Byte)
  | red (fmt lb root : Nat) (data : List Byte)
  | snd (dst lb via : Nat) (data : List Byte)
  deriving DecidableEq, Repr

/-- An operation issued, in the hold queue or in the egress: its position, its transfer generation, its pending-source number, the rounding
mode of its beat, and whether it is held. -/
structure Held where
  op : OutOp
  pos : Nat
  gen : Nat
  src : Nat
  rm : Nat
  held : Bool
  deriving DecidableEq, Repr

/-- An entry of the pending-source table (R102). -/
structure PendSrc where
  id : Nat
  addr : Nat
  len : Nat
  held : Bool
  deriving DecidableEq, Repr

/-- A tile: what a restore returns, and what it does not (T0, shadow, queues, latched faults). `landLog` lists the
bytes that landed per entry with their generation, newest last, since the oldest checkpoint held (R44); `issued` the outbound
operations of the beat in progress, which leave at its end. -/
structure Tile where
  core : TileCore
  t0 : List (Nat × Byte)
  shadow : FMap ShLine
  issued : List Held
  hold : List Held
  egress : List Held
  psrc : List PendSrc
  nextSrc : Nat
  mflt : Option MFault
  later : Nat
  specFault : Option MFault
  specCount : Nat
  heldRel : List Nat
  stale : Nat
  sqCount : Nat
  stopIssue : Bool
  landLog : List (Nat × Nat × Nat)
  ck : Option TileCore
  rck : Option TileCore
  retain : List (Nat × Nat)
  lane : List (List Byte)
  seek : List Nat
  ended : Bool
  powered : Bool
  deriving DecidableEq, Repr

/-! ### Scopes (chapter 03) -/

/-- What a scope is (R36): the whole device, or a half in paired mode. -/
inductive ScopeKind where
  | device | west | east
  deriving DecidableEq, Repr

/-- PHASE of CHTs_STATE. -/
inductive Phase where
  | idle | run | slip | specStall | squash | replay | ending
  deriving DecidableEq, Repr

/-- A monitored tensor of a region (R91). `bscale` is none for a tensor without block scales. -/
structure Tensor where
  tag : Nat
  fmt : Nat
  scale : Nat
  bscale : Option Nat
  bamax : Nat
  deriving DecidableEq, Repr

/-- A region of the running image (Table 4-13); `retain` lists tile (none for every tile), base and length. -/
structure Region where
  s : Nat
  e : Nat
  skip : Bool
  replay : Bool
  nanStrict : Bool
  assumeSkip : Bool
  gpred : Nat
  ovfT : Nat
  satT : Nat
  nanT : Nat
  tensors : List Tensor
  retain : List (Option Nat × Nat × Nat)
  deriving DecidableEq, Repr

/-- An entry of the global lane (Table 4-14). -/
structure GEntry where
  pos : Nat
  act : Nat
  operand : Nat
  deriving DecidableEq, Repr

/-- An entry of the prefetch section (Table 4-15); `issued` once the TMG has taken it, at position
`issuedAt`. -/
structure PfEntry where
  need : Nat
  kind : Nat
  handle : Nat
  tile : Nat
  lb : Nat
  leadMin : Nat
  leadMax : Nat
  off : Nat
  len : Nat
  issued : Bool
  issuedAt : Nat
  deriving DecidableEq, Repr

/-- A global predicate (R49): none is invalid. -/
abbrev GPred := Option Bool

/-- A PSEND on the beat control path (R49): arrives at `due`; `sent` is the cycle of its beat. -/
structure PInFlight where
  idx : Nat
  val : Bool
  due : Nat
  sent : Nat
  deriving DecidableEq, Repr

/-- A CHECK reported not ready (R45): use position, buffer, and the cycle READY was observed. -/
structure ChkRep where
  use : Nat
  tile : Nat
  lb : Nat
  ordered : Bool
  seen : Option Nat
  deriving DecidableEq, Repr

/-- What a restore returns of the scope (R54, R432). -/
structure ScopeCk where
  pos : Nat
  cycle : Nat
  gpreds : FMap Bool
  gen : Nat
  decided : List Nat
  glane : List GEntry
  reps : List ChkRep
  deriving DecidableEq, Repr

/-- An open speculation (R51) or a check tail (R57). `due` is the cycle Q in which it is resolved, once known: from `sCycle`, the cycle in which
its first beat executed, and `arr`, the cycle A in which its predicate arrived. `idle` marks the stall that R53 puts in the place of a
run-ahead into a replayable region: no speculation is open then. -/
structure Spec where
  tail : Bool
  region : Nat
  assumeSkip : Bool
  ck : ScopeCk
  startCycle : Nat
  beats : Nat
  due : Option Nat
  sCycle : Option Nat
  arr : Option Nat
  idle : Bool
  value : Bool
  heldLane : List (GEntry × Nat)
  heldSkipped : Nat
  stallAt : Option Nat
  slipCycles : Nat
  kept : List (Nat × Bool)
  deriving DecidableEq, Repr

/-- A replayable region in execution: its checkpoint at S, the replays so far, and the cycles of its execution. -/
structure RRun where
  region : Nat
  ck : ScopeCk
  num : Nat
  startCycle : Nat
  slipCycles : Nat
  kept : List (Nat × Bool)
  deriving DecidableEq, Repr

/-- A transfer into a landing buffer that has not wholly arrived (R44). `addr` is where its next byte lands, none for the
place after what the entry has counted; `data` are the bytes at hand, `owed` how many are not at hand yet; `wait` lists the
pages it waits for; `handle`, `off`, `len`, `blk` give the object span it reads, `used` the handle of its object that it named; `lanes` the offsets
of a narrow gather, `senders` the tiles (index in the scope) that sent it, `via` the I/O die that its NET slot
named (R14), `pos` the position of its issue. -/
structure Xfer where
  id : Nat
  tile : Nat
  lb : Nat
  gen : Nat
  addr : Option Nat
  data : List Byte
  owed : Nat
  wait : List Nat
  handle : Nat
  used : Nat
  off : Nat
  len : Nat
  blk : Option Nat
  lanes : Option (List (Option Nat))
  senders : List Nat
  via : Option Nat
  pos : Nat
  deriving DecidableEq, Repr

/-- A contribution to a reduction in the network-on-package (R261): position of its RED, root and its entry, format, tile
index in the scope, data. -/
structure RedPart where
  pos : Nat
  root : Nat
  lb : Nat
  fmt : Nat
  tile : Nat
  gen : Nat
  data : List Byte
  deriving DecidableEq, Repr

/-- A prefetch move that has been issued (R214 to R216): entry index, source class, the pages it still waits for, the handle used, its NEED while its
job runs, and whether its job ended past that NEED. -/
structure PfMove where
  idx : Nat
  cls : Nat
  wait : List Nat
  xfer : Option Nat
  used : Nat
  need : Option Nat
  late : Bool
  deriving DecidableEq, Repr

/-- A scope: register set s of the CHT registers and the sequencer behind it. -/
structure Scope where
  jobValid : Bool
  kind : ScopeKind
  phase : Phase
  slot : Nat
  jobCycles : Nat
  beat : Nat
  slipCycles : Nat
  specCycles : Nat
  replayCycles : Nat
  skipped : Nat
  pos : Nat
  staticBeats : Nat
  slipBudget : Nat
  replayBudget : Nat
  half : Bool
  maint : Bool
  lastCause : Nat
  lastTile : Nat
  lastLb : Nat
  slipEvents : Nat
  replays : Nat
  exceeded : Nat
  overrun : Bool
  gpreds : FMap Bool
  flight : List PInFlight
  sets : List (Nat × Bool)
  regions : List Region
  glane : List GEntry
  prefetch : List PfEntry
  decided : List (Nat × Nat)
  spec : Option Spec
  rrun : Option RRun
  reps : List ChkRep
  slipAt : Option Nat
  slipFrom : Nat
  resume : Nat
  gen : Nat
  genFloor : Nat
  deadGens : List (Nat × Nat)
  xfers : List Xfer
  moves : List PfMove
  nextXfer : Nat
  reds : List RedPart
  auditAt : Nat
  auditDue : Bool
  endCycle : Nat
  jobEnded : Bool
  tokens : List Nat
  c4bad : Bool
  fault : Option MFault
  startBand : Nat
  deriving DecidableEq, Repr

/-! ### Scheduler (chapter 12) -/

/-- The statuses of Table 12-7. -/
inductive Status where
  | served | refusedFull | refusedDeadline | refusedResources | refusedClientCap | refusedNoOwner | refusedVersion
  | failedMapping | failedTier | failedNumeric | failedFault | failedOverrun | aborted
  deriving DecidableEq, Repr

/-- A job descriptor as accepted (Table 12-1). -/
structure Desc where
  bytes : List Byte
  be : Bool
  client : Nat
  image : Nat
  result : Nat
  resultOff : Nat
  release : Nat
  deadline : Nat
  slipBudget : Nat
  replayBudget : Nat
  seed : Word
  keep : Nat
  pairLo : Nat
  pairHi : Nat
  pairDelta : Nat
  deriving DecidableEq, Repr

/-- How one half scope, or the device scope, of a job ended (R263), with the counters of R66 at that time. -/
structure EndInfo where
  status : Status
  detail : Nat
  extra : List Byte
  flags : Nat
  replays : Nat
  slips : Nat
  cycles : Nat
  skipped : Nat
  slipC : Nat
  specC : Nat
  replC : Nat
  deriving DecidableEq, Repr

/-- A job in a stream slot (R246). `cBound` is the bound in cycles of R252. -/
structure Job where
  desc : Desc
  sq : Nat
  index : Nat
  cBound : Nat
  half : Bool
  delayed : Nat
  start : Nat
  fin : Nat
  running : Bool
  ended : Bool
  westEnd : Option EndInfo
  eastEnd : Option EndInfo
  fencedDuring : Bool
  overrun : Bool
  deriving DecidableEq, Repr

/-- A completion record that is due (R245): the 32 bytes but for PHASE, and the slot to free. -/
structure DueRec where
  cq : Nat
  bytes : List Byte
  slot : Option Nat
  client : Nat
  status : Status
  deriving DecidableEq, Repr

/-- The rings of a queue pair (R242 to R245). `sqTail` and `cqHead` are the doorbell values; `phase` is the wrap
parity of the CQ tail. -/
structure Queue where
  sqHead : Nat
  sqTail : Nat
  cqTail : Nat
  cqHead : Nat
  phase : Bool
  deriving DecidableEq, Repr

/-- The counters of a client (R265); `refusals` are counted per status 0x01 to 0x06. -/
structure Client where
  submitted : Word
  served : Word
  refused : Word
  failed : Word
  aborted : Word
  delayed : Word
  refusals : FMap Word
  inflight : Nat
  deriving DecidableEq, Repr

/-- The scheduler. `plan` lists the admitted LC slots by deadline, `be` the waiting BE slots in acceptance order; `accepted` and
`recorded` are the audit counters of C3, descriptors accepted and completion records written (R28). -/
structure Sched where
  queues : FMap Queue
  slots : FMap Job
  plan : List Nat
  be : List Nat
  running : Option Nat
  lcOverrun : Bool
  planDirty : Bool
  rrNext : Nat
  due : List DueRec
  clients : FMap Client
  sel : List (Iface × Nat)
  accepted : Nat
  recorded : Nat
  deriving DecidableEq, Repr

/-- Image validation (R97, R98): validated handles with the job-relevant bytes as validated, INVALIDATEs that wait for
the last job, and the validation in progress. -/
structure Images where
  valid : List Nat
  invalPend : List Nat
  busy : Bool
  cur : Nat
  dirty : Bool
  dropped : Bool
  code : Nat
  handle : Nat
  deriving DecidableEq, Repr

/-! ### Tier manager (chapter 10) -/

/-- The classes of Table 10-2. -/
inductive ObjClass where
  | resident | backed | far | peer
  deriving DecidableEq, Repr

/-- The state of a listed page of an object (R202): not allocated, waiting for a FREE page, being filled, mapped, or being written back. -/
inductive PageSt where
  | unmapped | wanting | filling | mapped | writeback
  deriving DecidableEq, Repr

/-- A page of an object (R202, R209, R213, R220): `ch` is the global channel 16k + c; `wbMask` is the dirty mask of the
snapshot being written back; `evicting` while the write-back is an eviction; `again` when one that was abandoned must be followed by another
write-back if the page is dirty at its end (R211). -/
structure Page where
  st : PageSt
  ch : Nat
  dirty : Nat
  wbMask : Nat
  pinned : Bool
  poisoned : Bool
  lost : Bool
  evicting : Bool
  again : Bool
  last : Nat
  deriving DecidableEq, Repr

/-- An object (R199, R200). A page that `pages` does not list is mapped for a RESIDENT object (all are allocated at
CREATE) and unmapped for a BACKED one. `chans` are the channels in service in its stacks at CREATE: page i that is not listed lies
on the one of index i modulo their number; `lastCh` is the last channel used for the object (R203). -/
structure Obj where
  npages : Nat
  cls : ObjClass
  rdonly : Bool
  pin : Bool
  stk : Nat
  base : Nat
  devid : Nat
  rhandle : Nat
  chans : List Nat
  lastCh : Option Nat
  pages : FMap Page
  deriving DecidableEq, Repr

/-- A packet inside the device: since when (local ns), and the budget it had then (R322, R334). -/
structure RPkt where
  p : Pkt
  born : Nat
  bud : Nat
  deriving DecidableEq, Repr

/-- What issued an access: scope, stream position, tile (index in its scope), stream slot of its job, generation, and the handle it used. -/
structure Issuer where
  scope : Nat
  pos : Nat
  tile : Nat
  slot : Nat
  gen : Nat
  used : Nat
  deriving DecidableEq, Repr

/-- What waits for pages to be filled (R204), for a run of refresh rounds to end (R229) or for an earlier access of its tile (R207), in issue
order: an object write of a scope, adds, a narrow scatter or a collective. A waiting read of a scope is its transfer. The others wait for no
scope: a COLL packet whose group table is not there (R328), a request of another device (R319), and a BAR2 write or read (R405). -/
inductive Waiter where
  | wr (by_ : Issuer) (handle off : Nat) (data : List Byte) (blk : Option Nat)
  | atm (by_ : Issuer) (handle : Nat) (offs : List (Option Nat)) (vals : List (List Byte)) (afmt : Nat)
  | nrw (by_ : Issuer) (handle : Nat) (offs : List (Option Nat)) (vals : List (List Byte))
  | col (by_ : Issuer) (gtile kind fmt group lb : Nat) (data : List Byte)
  | coll (p : Pkt)
  | serve (p : RPkt)
  | win (link handle off : Nat) (data : List Byte)
  | winRd (link handle off n : Nat)
  deriving DecidableEq, Repr

/-- The tier manager. Pool counts follow every page move (C7); `cmdPages` are the pages the running command still waits
for; `clock` orders accesses for R210. -/
structure Tmg where
  objs : FMap Obj
  mem : List (Nat × Byte)
  poolSize : Nat
  poolFree : Nat
  poolMapped : Nat
  poolTransit : Nat
  est0 : Nat
  est1 : Nat
  est2 : Nat
  busy : Bool
  dropped : Bool
  cmdPages : List Nat
  cmdErr : Bool
  cmdRes : Nat
  result : Nat
  statHandle : Nat
  failCause : Nat
  failScope : Nat
  failHandle : Nat
  late : Nat
  waiters : List (List Nat × Waiter)
  clock : Nat
  deriving DecidableEq, Repr

/-! ### Stacked memory (chapter 11) -/

/-- A memory-side add that the adder has accepted (R235 to R238). -/
structure Add where
  by_ : Issuer
  handle : Nat
  off : Nat
  afmt : Nat
  val : List Byte
  lane : Nat
  deriving DecidableEq, Repr

/-- One stack. `runLeft` is the rounds of the run in progress, which began at local time `runAt`; `runDone` of them have been taken from
`debt` (R229). -/
structure Stack where
  present : Bool
  overClass : Bool
  overSeen : Bool
  windowed : Bool
  band : Nat
  temp : Nat
  peak : Nat
  debt : Nat
  forced : Nat
  runLeft : Nat
  runAt : Nat
  runDone : Nat
  winOpen : Nat
  winPend : Nat
  ce : FMap Nat
  odecc : FMap Nat
  retired : List Nat
  ueCount : Nat
  ueLastCh : Nat
  accepted : Nat
  applied : Nat
  adds : List Add
  scrub : FMap Nat
  deriving DecidableEq, Repr

/-- Memory subsystem: the twelve stacks, the queue of channels to retire (R226), and the watermarks of the tiles. -/
structure Hbm where
  stk : FMap Stack
  retireQ : List Nat
  retiring : Option Nat
  marks : FMap Nat
  deriving DecidableEq, Repr

/-! ### Engines in the I/O dies (chapters 05 and 13) -/

/-- A command as a tile issued it to an engine or port (R88): who waits for the completion word, the 64 bytes,
the stamp of R290, and the tile's RM at its issue (R134). -/
structure EngCmd where
  scope : Nat
  tile : Nat
  slot : Nat
  lb : Nat
  gen : Nat
  src : Nat
  bytes : List Byte
  stamp : Word
  rm : Nat
  deriving DecidableEq, Repr

/-- The marks of R273. -/
inductive BufMark where
  | unused | shortTerm | longTerm | current
  deriving DecidableEq, Repr

/-- A frame buffer of a codec engine's pool (R273). -/
structure VBuf where
  mark : BufMark
  hold : Bool
  ctx : Nat
  poc : Nat
  deriving DecidableEq, Repr

/-- What a context does (R272). -/
inductive CtxDir where
  | none | dec | enc
  deriving DecidableEq, Repr

/-- A stream context (R272): its parameter block, the pictures waiting for output (buffer), the CPB fullness at the
next removal in units of 1/(90000 · TIME_SCALE) bit, the pictures coded since CONFIG, the sequence parameter sets taken (width, height, bit
depth), the picture parameter sets (the sequence parameter set of each), and `hist`, what the commands so far have made of it. -/
structure VCtx where
  dir : CtxDir
  params : List Byte
  outq : List Nat
  full : Int
  pics : Nat
  sps : FMap (Nat × Nat × Nat)
  pps : FMap Nat
  hist : Nat
  deriving DecidableEq, Repr

/-- The encoder's luma window of one reference (R276): the reference's buffer, the CTU that it stands at, and the CTU size. -/
structure MWin where
  ref : Nat
  x0 : Nat
  y0 : Nat
  ctu : Nat
  deriving DecidableEq, Repr

/-- A codec engine. `wait` holds the commands that wait in their tiles for a place in the queue, `pages` the pages that its front command has
requested. `cur` is the executing command, `word` its completion word and `after` the contexts and buffers that it leaves
at its end, `wins` the encoder's windows as the last picture left them. -/
structure Vce where
  queue : List EngCmd
  wait : List EngCmd
  pages : List Nat
  cur : Option EngCmd
  word : Option (List Byte)
  after : Option (FMap VCtx × FMap VBuf)
  faulted : Bool
  lastCtx : Nat
  ctxs : FMap VCtx
  bufs : FMap VBuf
  wins : List MWin
  bsErr : Nat
  allSkip : Nat
  filler : Nat
  retries : Nat
  deriving DecidableEq, Repr

/-- A pixel engine. `wait` holds the commands that wait in their tiles for a place in the queue, `pages` the pages that its front command has
requested. `cur` is the executing command and `word` its completion word once it has ended. -/
structure Pxe where
  queue : List EngCmd
  wait : List EngCmd
  pages : List Nat
  cur : Option EngCmd
  word : Option (List Byte)
  deriving DecidableEq, Repr

/-! ### Clocks (chapter 18) -/

/-- A span that a rule gives a length: an election window (R376), the acknowledgement of a dispute (R350), a self-test of a half (R352), a
wake (R400). -/
inductive Timer where
  | election | dispute | selftest | wake
  deriving DecidableEq, Repr

/-- DEVTIME (R388) and the CCLK divider in force (R387); `phase` is the place in the 3, 3, 2 rotation of SCLK cycles. -/
structure Clk where
  devtime : Word64
  phase : Nat
  slew : Int
  locked : Bool
  refclk : Bool
  step : Nat
  steps : Nat
  localNs : Nat
  timers : List (Timer × Nat)
  deriving DecidableEq, Repr

/-! ### Host links (chapter 19) -/

/-- A host write posted in the last 100 microseconds (R410): its link, when, and the CQ of a completion record. -/
structure Posted where
  link : Nat
  at_ : Nat
  cq : Option Nat
  addr : Nat
  data : List Byte
  deriving DecidableEq, Repr

/-- A planned move in its wait (R411): the link left and the pairs that move. -/
structure Move where
  src : Nat
  pairs : List Nat
  deriving DecidableEq, Repr

/-- The host links. MSI-X tables and pending bits are per link (R408); a vector-control word that is not listed reads 1,
masked. `serve` has bit q set when HL1 serves pair q; `ptmOut` is the departure of the PTM
request that waits for its response. -/
structure Hlk where
  up0 : Bool
  up1 : Bool
  rate0 : Nat
  rate1 : Nat
  width0 : Nat
  width1 : Nat
  cxl0 : Bool
  cxl1 : Bool
  serve : Nat
  msix0 : FMap Word
  msix1 : FMap Word
  pba0 : List Nat
  pba1 : List Nat
  foCount : Nat
  foFrom : Nat
  foCause : Nat
  timeLocked : Bool
  lockCnt : Nat
  offset : Int
  ptmOut : Option Nat
  posted : List Posted
  move : Option Move
  deriving DecidableEq, Repr

/-! ### Power and thermal (chapter 18) -/

/-- The governor, the sensors and SLEEP. `temps` holds the last reading of each sensor that the last scan could read;
`samples` the last ten 100 microsecond samples of device power in mW, newest first; `factor` the calibration factor of each
rail in units of 1/65536 (1.0 where not listed); `estimate` the last estimate of each rail in mW; `want` a divider that is
decided and has not taken effect; `brakeHold` the microseconds that a released brake still holds; `dwell` is the step-up dwell elapsed, in microseconds, while it counts; `differ` lists
the dies whose trip sensors differed at the last scan; `entering`, `waking` and
`wakeAsked` place a SLEEP entry or wake in progress. -/
structure Pwr where
  temps : FMap Nat
  samples : List Nat
  peak : Nat
  factor : FMap Nat
  estimate : FMap Nat
  dwell : Option Nat
  powerLim : Bool
  tjLim : Bool
  brake : Bool
  brakeHold : Nat
  want : Option Nat
  sleepBusy : Bool
  entering : Bool
  waking : Bool
  wakeAsked : Bool
  differ : List Nat
  deriving DecidableEq, Repr

/-! ### Management and pins (chapters 19 and 20) -/

/-- A pass-through PMBus transfer (R417). -/
structure PmbXfer where
  read : Bool
  word : Bool
  slot : Nat
  cmd : Nat
  data : Nat
  deriving DecidableEq, Repr

/-- The management target and the PMBus master. `eid` holds the MCTP endpoint ID set through each interface. `power` is the last READ_POUT of each rail slot in mW; `failed` lists the
rails whose last poll failed, whose factor is held. -/
structure Mgt where
  daValid : Bool
  dynAddr : Nat
  badMsg : Nat
  eid : List (Iface × Nat)
  power : FMap Nat
  failed : List Nat
  xfer : Option PmbXfer
  nack : Bool
  pecErr : Bool
  data : Nat
  deriving DecidableEq, Repr

/-- The instructions of R418. -/
inductive TapIr where
  | bypass | idcode | samplePreload | extest | extestPulse | extestTrain | clamp | highz
  deriving DecidableEq, Repr

/-- The TAP: the instruction loaded and the update stage of the boundary register. -/
structure Tap where
  loaded : TapIr
  boundary : List Bool
  deriving DecidableEq, Repr

/-- The pins as filtered (R428): JTAG_EN, RST_N and the PERSTx_N low. -/
structure Pins where
  jtagEn : Bool
  rstLow : Bool
  perst0 : Bool
  perst1 : Bool
  tap : Tap
  deriving DecidableEq, Repr


/-! ### Sensor emulation and capture ports (chapter 14) -/

/-- A frame buffer of an EMP pool (Table 14-2): `prod` while a job holds it, by its stream slot. -/
inductive EBufSt where
  | free
  | prod (slot : Nat)
  | cons
  deriving DecidableEq, Repr

/-- A commit (R291 to R295). `slot` is the stream slot of the job that issued it, none for one made through EMPn_COMMIT;
`target` is the frame of Table 14-4 once it has arrived; `level` is what the passes for frame `vfor` have shown (0 none,
1 L0-only, 2 composed), with their CRCs; `arrSeq` is its place in the port's order of arrivals and tickets. -/
structure Commit where
  side : Nat
  layer : Nat
  buf : Nat
  ovl : Bool
  frameTag : Word
  jobTag : Word
  genId : Word
  eR : Word
  slot : Option Nat
  arriveAt : Option Nat
  target : Nat
  level : Nat
  vfor : Nat
  arrSeq : Nat
  crc0 : Word
  crc1 : Word
  deriving DecidableEq, Repr

/-- The pass that the verify engine runs (R295): side and frame, the candidate's buffer, and the overlay's in a composed pass. -/
structure VPass where
  side : Nat
  frame : Nat
  buf0 : Nat
  buf1 : Option Nat
  deriving DecidableEq, Repr

/-- An exposure ticket (R305); `seq` is its place in the port's order of arrivals and tickets. -/
structure Ticket where
  frame : Nat
  num : Nat
  e : Word
  seq : Nat
  deriving DecidableEq, Repr

/-- What a frame carries, and the repeat source that it becomes (R297, R298): the commits (`more` are overlays freed with
them), the trim k,
E_EFF, the payload CRC and the frame of its first sending. -/
structure Sent where
  side : Nat
  l0 : Commit
  l1 : Option Commit
  more : List Commit
  k : Word
  eff : Word
  crc : Word
  src : Nat
  trim : Bool
  rep : Bool
  deriving DecidableEq, Repr

/-- An entry of the emulated register table (R303), as EMPn_RT_DATA lays it out. -/
structure RtEntry where
  addr : Nat
  value : Nat
  role : Nat
  byte : Nat
  wr : Bool
  deriving DecidableEq, Repr

/-- Where a frame stands: none yet, between Frame Start and CP, in blanking (R285). -/
inductive EPhase where
  | off | waiting | active | blank
  deriving DecidableEq, Repr

/-- An emulation port. `fsLocal` is when its last Frame Start was, or when the first is due; `edge` the time of an accepted FSYNC_IN edge;
`lines` the lines of the frame on air; `alone` while no token comes (R348); `crcBad` after a running CRC mismatch (R299);
`evSeq` numbers arrivals and tickets. -/
structure Emp where
  phase : EPhase
  enabled : Bool
  frame : Option Nat
  fsLocal : Nat
  edge : Option Nat
  ok : Bool
  cfgErr : Nat
  repeats : Nat
  forced : Bool
  dispute : Bool
  bufs0 : FMap EBufSt
  bufs1 : FMap EBufSt
  commits : List Commit
  csState : Nat
  csSide : Nat
  csLayer : Nat
  csReg : Bool
  csBuf : Nat
  csFrame : Nat
  pass : Option VPass
  onAir : Option Sent
  safeAir : Bool
  source : Option Sent
  tickets : List Ticket
  ticketNo : Nat
  latched : Word
  epoch : Word
  primary : Nat
  secValid : Bool
  alone : Bool
  cmds : List EngCmd
  rt : FMap RtEntry
  event : Nat
  eventAt : Word64
  dyn : Option Nat
  crcBad : Bool
  lines : List (List Byte)
  evSeq : Nat
  cRepeat : Nat
  cSafe : Nat
  cOmitted : Nat
  cMismatch : Nat
  cTrim : Nat
  cSuperseded : Nat
  cDiscarded : Nat
  cPairDiff : Nat
  cCrcFail : Nat
  cUnmapped : Nat
  cFsyncIgn : Nat
  cEarlyEnd : Nat
  deriving DecidableEq, Repr

/-- What a side has done with a complete capture buffer (R311). -/
inductive CTake where
  | waiting
  | taken (slot : Nat) (keep : Bool)
  | returned
  deriving DecidableEq, Repr

/-- A buffer of a capture pool: free (not listed), being filled, or complete with what each side has done. -/
inductive CBufSt where
  | filling
  | complete (short long : Bool) (frame : Nat) (time : Word64) (side0 side1 : CTake)
  deriving DecidableEq, Repr

/-- The frame being captured: its buffer (none while it is dropped), number, time, the next line, those received, and the local time of its
last packet. -/
structure CFrame where
  buf : Option Nat
  frame : Nat
  time : Word64
  next : Nat
  got : List Nat
  short : Bool
  long : Bool
  last : Nat
  deriving DecidableEq, Repr

/-- A capture port. `queue` lists the complete buffers in completion order; `cmds` are the commands that have not been processed and `takes` the TAKEs that wait for a buffer. -/
structure Cap where
  enabled : Bool
  cur : Option CFrame
  bufs : FMap CBufSt
  queue : List Nat
  cmds : List EngCmd
  takes : List EngCmd
  cShort : Nat
  cLong : Nat
  cDropped : Nat
  cOther : Nat
  fso : Bool
  fsoFall : Nat
  deriving DecidableEq, Repr

/-- The pins the ports share: SAFE_STATE_N as filtered (R309). -/
structure Ports where
  emp : FMap Emp
  cap : FMap Cap
  safeIn : Bool
  deriving DecidableEq, Repr


/-! ### Reedway (chapter 15) -/

/-- Port states of R315. -/
inductive PortSt where
  | disabled | training | up | failed | isolated | refused
  deriving DecidableEq, Repr

/-- A credit pool of a link (R325, R326): the sender's counts, then the receiver's. -/
structure Pool where
  granted : Nat
  avail : Nat
  sent : Nat
  returned : Nat
  received : Nat
  freed : Nat
  deriving DecidableEq, Repr

/-- A Reedway port. `retry` pairs each packet sent and not acknowledged with its first link sequence; `naks` counts the
replays of its first flit; `txq` waits for credits; `held` waits for JOIN; `barred` after an IDENT that was refused, until EN is cleared (R316); `alone` while it has isolated itself for want of a token (R348). -/
structure RwPort where
  st : PortSt
  width : Nat
  wrapping : Bool
  joinWait : Bool
  cause : Nat
  peerPort : Nat
  peerId : Nat
  identOk : Bool
  barred : Bool
  alone : Bool
  lat : Nat
  est : Nat
  txSeq : Nat
  rxSeq : Nat
  retry : List (Nat × RPkt)
  naks : Nat
  pools : FMap Pool
  txq : List RPkt
  held : List RPkt
  lastColl : Bool
  audits : Nat
  mismatch : Nat
  reclaims : Nat
  replays : Nat
  discards : Nat
  fails : Nat
  mine : Option Reclaim
  t1 : Option Nat
  deriving DecidableEq, Repr

/-- A route-table entry (R321); `onAlt` is its current side for BE packets (R339). -/
structure Route where
  altEn : Bool
  port : Nat
  alt : Nat
  pfx : Nat
  plen : Nat
  extraAlt : Nat
  extraPri : Nat
  onAlt : Bool
  deriving DecidableEq, Repr

/-- What an outstanding request of this device waits for. -/
inductive ReqKind where
  | read (xfer off len : Nat)
  | write
  deriving DecidableEq, Repr

/-- A request that has not been answered (R318): its TAG, requester (with the transfer generation at its issue) and, for a BE packet, its route entry. -/
structure Req where
  tag : Nat
  scope : Nat
  pos : Nat
  tile : Nat
  slot : Nat
  handle : Nat
  kind : ReqKind
  entry : Option Nat
  gen : Nat
  deriving DecidableEq, Repr

/-- A collective instance (R327): the tile that issued it, its landing buffer, and the contribution of each rank as far
as it has arrived. -/
structure ColInst where
  group : Nat
  tile : Nat
  seq : Nat
  kind : Nat
  fmt : Nat
  size : Nat
  nrank : Nat
  rank : Nat
  scope : Nat
  gtile : Nat
  lb : Nat
  gen : Nat
  parts : FMap (List Byte)
  got : FMap Nat
  deriving DecidableEq, Repr

/-- The Reedway engines. `early` holds the COLL packets of instances not issued yet (R330). -/
structure Rwg where
  ports : FMap RwPort
  routes : FMap Route
  seqs : FMap Nat
  cols : List ColInst
  early : List RPkt
  reqs : List Req
  nextTag : Nat
  ofs : Int
  lockCnt : Nat
  locked : Bool
  holdover : Bool
  returned : Nat
  retDrop : Nat
  badPkt : Nat
  deriving DecidableEq, Repr


/-! ### What leaves the block -/

/-- What a Reedway port says to its peer besides packets. -/
inductive LinkMsg where
  | replay
  | credit (pool flits : Nat)
  | audit (sent : List Nat)
  | reclaim (r : Reclaim)
  | join
  | time (t1 : Nat)
  | ident
  deriving DecidableEq, Repr

/-- What the device has sent out at its pins, links and memories outside it, oldest first (the model's own log). -/
inductive Out where
  | hostWrite (addr : Nat) (data : List Byte)
  | msix (link vector : Nat)
  | console (code : Nat)
  | consoleState (st : DevState)
  | consoleTest (v : Nat)
  | event (code pos : Nat) (at_ : Word64)
  | packet (port : Nat) (p : Pkt)
  | link (port : Nat) (what : LinkMsg)
  | bar2 (link : Nat) (ok poisoned : Bool) (data : List Byte)
  | frame (port number channel : Nat) (packets : List (Nat × List Byte))
  | target (port : Nat) (data : List Byte)
  | pmbus (addr cmd : Nat) (data : List Byte)
  | ready (link : Nat)
  | cfg (link : Nat) (retry : Bool)
  | snoop (link : Nat) (miss : Bool)
  | pin (name : String) (n : Nat) (level : Bool)
  | rdata (src : Iface) (off : Nat) (v : Word)
  | mgt (src : Iface) (op status : Nat) (words : List Word)
  | mctp (src : Iface) (cmd code : Nat) (data : List Byte)
  | ibi
  | ptm (link : Nat)
  | orderRead (link : Nat)
  | tdo (bits : List Bool)
  | drive (ir : TapIr) (bits : List Bool)
  | highz
  deriving DecidableEq, Repr

/-! ### The block -/

/-- Everything but the queue of waiting commands. -/
structure Dev where
  regs : FMap Word
  capt : List (Master × Nat × Word)
  flt : Flt
  bk : Backup
  nvm : Nvm
  boot : Boot
  own : Own
  tiles : FMap Tile
  sc0 : Scope
  sc1 : Scope
  sched : Sched
  imgs : Images
  tmg : Tmg
  hbm : Hbm
  vce : FMap Vce
  pxe : FMap Pxe
  ports : Ports
  rw : Rwg
  clk : Clk
  hlk : Hlk
  pwr : Pwr
  mgt : Mgt
  pins : Pins
  out : List Out
  free : Nat
  deriving DecidableEq, Repr

/-- The block and the commands that wait for it, first in, first out. -/
structure State where
  dev : Dev
  pending : List Instr
  deriving DecidableEq, Repr

/-! ### Why a step stops -/

/-- Faults that stop the model. No command of the table raises one: the device's own faults are records and
containment (chapter 16), which are next states. -/
inductive Fault where
  /-- Raised by no command. Safe. -/
  | unused
  deriving DecidableEq, Repr

/-- Refusals. -/
inductive Refusal where
  /-- A command that has no meaning in the model yet, by its mnemonic. Safe. -/
  | notModelled (mnemonic : String)
  /-- A slot whose operand fields hold an encoding the spec reserves (R78 to R90, R120, R142): validation refuses every
  image that holds it, so no tile executes it. Raised by the slot commands. Safe. -/
  | reservedOperand
  deriving DecidableEq, Repr

/-! ### Reset -/

def Fetcher.reset : Fetcher := ⟨0, 0, [], false⟩

def TileCore.reset : TileCore :=
  { s := [], a := [], p := [], v := [], rm := 0, lfsr := 0, stepped := false, acc := [], accVis := [], rp := [], dp := [],
    undrained := [], wAct := none, wIn := none, wNew := none, sfu := [], latch := [], jctr := [], ovf := 0, sat := 0, nan := 0,
    amax := [], lbs := [], cur := [], pend := [], ports := [], fetch := Fetcher.reset, d2Bad := 0,
    e8m0Nan := 0, badMeta := 0, gated := 0, cmptDrop := 0, logMark := 0 }

def Tile.reset : Tile :=
  { core := TileCore.reset, t0 := [], shadow := [], issued := [], hold := [], egress := [], psrc := [], nextSrc := 0, mflt := none,
    later := 0, specFault := none, specCount := 0, heldRel := [], stale := 0, sqCount := 0, stopIssue := false, landLog := [], ck := none,
    rck := none, retain := [], lane := [], seek := [], ended := false,
    powered := true }

def Scope.reset : Scope :=
  { jobValid := false, kind := .device, phase := .idle, slot := 0, jobCycles := 0, beat := 0, slipCycles := 0,
    specCycles := 0, replayCycles := 0, skipped := 0, pos := 0, staticBeats := 0, slipBudget := 0, replayBudget := 0,
    half := false, maint := false, lastCause := 0, lastTile := 0, lastLb := 0, slipEvents := 0, replays := 0, exceeded := 0,
    overrun := false, gpreds := [], flight := [], sets := [], regions := [], glane := [], prefetch := [], decided := [],
    spec := none, rrun := none, reps := [], slipAt := none, slipFrom := 0, resume := 0, gen := 0, genFloor := 0,
    deadGens := [], xfers := [], moves := [], nextXfer := 0, reds := [], auditAt := 0, auditDue := false, endCycle := 0,
    jobEnded := false, tokens := [], c4bad := false, fault := none, startBand := 0 }

def CrashLog.reset : CrashLog := ⟨[], 0, 0, 0, 0⟩

def Backup.reset : Backup := ⟨0, 0, 0, 0, 0, CrashLog.reset, true⟩

def OptBlock.erased : OptBlock := ⟨false, 0, 0, 0, []⟩

def JMirror.reset : JMirror := ⟨[], [], 0⟩

def Nvm.reset : Nvm := ⟨false, OptBlock.erased, OptBlock.erased, JMirror.reset, JMirror.reset, [], []⟩

def Flt.reset : Flt :=
  { ring := [], seq := 0, lost := 0, pend := false, maxClass := 0, halt := false, redundant := true, activeB := false,
    epoch := 0, primary := 0, secValid := false, dispute := false, acks := [], supEpoch := [], fencedW := false,
    fencedE := false, unfenceBusy := false, selftest := none, deferred := none, unfenceResult := 0, retiredDies := [],
    retiredModules := [], closedModules := [], poweredOff := [] }

def JState.reset : JState := ⟨0, none, 0, false, false, []⟩

def Boot.reset : Boot :=
  { st := .load, sources := [], cause := 0, torn := 0, slot := 0, redundant := false, recReason := 0,
    verifiedA := false, verifiedB := false, lengthA := 0, lengthB := 0, optSel := 0, powerClassOpt := 0, perstMode := 0,
    shadowValid := false, updBusy := false, updDropped := false, updOp := 0, updHandle := 0, updResult := 0,
    updProgress := 0, partBusy := false, partKind := 0, partIndex := 0, partResult := 0, chosen := false, keys := [], testHeld := false }

def Own.reset : Own :=
  { st := .noOwner, owner := none, term := 0, pairA := 0, pairB := 0, standing := false, electing := false, leaseEnd := 0,
    pend := [], claimTerm := [], result := [] }

def Sched.reset : Sched :=
  { queues := [], slots := [], plan := [], be := [], running := none, lcOverrun := false, planDirty := false, rrNext := 0,
    due := [], clients := [], sel := [], accepted := 0, recorded := 0 }

def Images.reset : Images := ⟨[], [], false, 0, false, false, 0, 0⟩

/-- With all 192 channels in service (R202). -/
def Tmg.reset : Tmg :=
  { objs := [], mem := [], poolSize := 7069696, poolFree := 7069696, poolMapped := 0, poolTransit := 0, est0 := 0x200,
    est1 := 0x1000, est2 := 0x2000, busy := false, dropped := false, cmdPages := [],
    cmdErr := false, cmdRes := 0, result := 0, statHandle := 0, failCause := 0, failScope := 0, failHandle := 0, late := 0,
    waiters := [], clock := 0 }

def Stack.reset : Stack :=
  { present := false, overClass := false, overSeen := false, windowed := false, band := 0, temp := 0, peak := 0,
    debt := 0, forced := 0, runLeft := 0, runAt := 0, runDone := 0, winOpen := 0, winPend := 0, ce := [], odecc := [],
    retired := [], ueCount := 0, ueLastCh := 0, accepted := 0, applied := 0, adds := [],
    scrub := [] }

def Hbm.reset : Hbm := ⟨[], [], none, []⟩

def Vce.reset : Vce :=
  { queue := [], wait := [], pages := [], cur := none, word := none, after := none, faulted := false, lastCtx := 0, ctxs := [], bufs := [], wins := [],
    bsErr := 0,
    allSkip := 0, filler := 0, retries := 0 }

def Pxe.reset : Pxe := { queue := [], wait := [], pages := [], cur := none, word := none }

def Emp.reset : Emp :=
  { phase := .off, enabled := false, frame := none, fsLocal := 0, edge := none, ok := false, cfgErr := 0, repeats := 0,
    forced := false, dispute := false, bufs0 := [], bufs1 := [], commits := [], csState := 0, csSide := 0, csLayer := 0,
    csReg := false, csBuf := 0, csFrame := 0, pass := none, onAir := none, safeAir := false, source := none,
    tickets := [], ticketNo := 0, latched := 0x3F800000#32, epoch := 0, primary := 0, secValid := false, alone := false, cmds := [],
    rt := [], event := 0, eventAt := 0, dyn := none, crcBad := false, lines := [], evSeq := 0, cRepeat := 0, cSafe := 0, cOmitted := 0, cMismatch := 0, cTrim := 0,
    cSuperseded := 0, cDiscarded := 0, cPairDiff := 0, cCrcFail := 0, cUnmapped := 0, cFsyncIgn := 0, cEarlyEnd := 0 }

def Cap.reset : Cap :=
  { enabled := false, cur := none, bufs := [], queue := [], cmds := [], takes := [], cShort := 0, cLong := 0, cDropped := 0,
    cOther := 0, fso := false, fsoFall := 0 }

def Ports.reset : Ports := ⟨[], [], false⟩

def RwPort.reset : RwPort :=
  { st := .disabled, width := 0, wrapping := false, joinWait := false, cause := 0, peerPort := 0, peerId := 0,
    identOk := false, barred := false, alone := false, lat := 0, est := 0, txSeq := 0, rxSeq := 0, retry := [], naks := 0, pools := [], txq := [],
    held := [], lastColl := false, audits := 0, mismatch := 0, reclaims := 0, replays := 0, discards := 0, fails := 0,
    mine := none, t1 := none }

def Rwg.reset : Rwg :=
  { ports := [], routes := [], seqs := [], cols := [], early := [], reqs := [], nextTag := 0, ofs := 0, lockCnt := 0,
    locked := false, holdover := false, returned := 0, retDrop := 0, badPkt := 0 }

def Clk.reset : Clk := ⟨0, 0, 0, false, false, 0, 0, 0, []⟩

def Hlk.reset : Hlk :=
  { up0 := false, up1 := false, rate0 := 0, rate1 := 0, width0 := 0, width1 := 0, cxl0 := false, cxl1 := false,
    serve := 0, msix0 := [], msix1 := [], pba0 := [], pba1 := [], foCount := 0, foFrom := 0, foCause := 0,
    timeLocked := false, lockCnt := 0, offset := 0, ptmOut := none, posted := [],
    move := none }

def Pwr.reset : Pwr :=
  { temps := [], samples := [], peak := 0, factor := [], estimate := [], dwell := none, powerLim := false, tjLim := false,
    brake := false, brakeHold := 0, want := none, sleepBusy := false, entering := false, waking := false,
    wakeAsked := false, differ := [] }

def Mgt.reset : Mgt :=
  { daValid := false, dynAddr := 0, badMsg := 0, eid := [], power := [], failed := [], xfer := none, nack := false,
    pecErr := false, data := 0 }

def Pins.reset : Pins := ⟨false, false, false, false, ⟨.idcode, []⟩⟩

def Dev.reset : Dev :=
  { regs := [], capt := [], flt := Flt.reset, bk := Backup.reset, nvm := Nvm.reset, boot := Boot.reset, own := Own.reset,
    tiles := [], sc0 := Scope.reset, sc1 := Scope.reset, sched := Sched.reset, imgs := Images.reset, tmg := Tmg.reset,
    hbm := Hbm.reset, vce := [], pxe := [], ports := Ports.reset, rw := Rwg.reset, clk := Clk.reset, hlk := Hlk.reset,
    pwr := Pwr.reset, mgt := Mgt.reset, pins := Pins.reset, out := [], free := 0 }

/-- The block right after reset: the device released into `LOAD` (BOOT_STATE resets to 0x2000_0000), nobody its owner,
memories, tables and queues empty. -/
def State.reset : State := ⟨Dev.reset, []⟩

end Sys2Proof.Machine
end

