-- ==== Sys2Proof/Machine/Arith.lean ====
section
/-! DEFINITION. Exact arithmetic and every number format of chapter 06: decoding of the FMT codes (R120 to R127), the
rounding of R134 and R135, the overflow outcomes of R136, NaN and zero rules (R137, R138), and FP32 arithmetic
(R133). Values are exact rationals; each operation rounds where the spec says and nowhere else. -/

namespace Sys2Proof.Machine

/-! ### Exact values -/

/-- A signed rational; `den` is positive in every value the model forms. -/
structure Q where
  num : Int
  den : Nat
  deriving DecidableEq, Repr

/-- Sum, over the larger denominator where it is a multiple of the other (powers of two always are). -/
def qAdd (a b : Q) : Q :=
  if b.den % a.den = 0 then ⟨a.num * ((b.den / a.den : Nat) : Int) + b.num, b.den⟩
  else if a.den % b.den = 0 then ⟨a.num + b.num * ((a.den / b.den : Nat) : Int), a.den⟩
  else ⟨a.num * (b.den : Int) + b.num * (a.den : Int), a.den * b.den⟩

def qMul (a b : Q) : Q := ⟨a.num * b.num, a.den * b.den⟩

def qNeg (a : Q) : Q := ⟨-a.num, a.den⟩

/-- 2 to an integer power. -/
def qPow2 (e : Int) : Q := if 0 ≤ e then ⟨((2 ^ e.toNat : Nat) : Int), 1⟩ else ⟨1, 2 ^ (-e).toNat⟩

/-- Greatest integer at most the value. -/
def qFloor (a : Q) : Int := a.num / (a.den : Int)

def qLt (a b : Q) : Bool := decide (a.num * (b.den : Int) < b.num * (a.den : Int))

def qLe (a b : Q) : Bool := decide (a.num * (b.den : Int) ≤ b.num * (a.den : Int))

/-- A value of a floating-point format: NaN, an infinity, or a signed finite magnitude `n / d`. -/
inductive Num where
  | nan
  | inf (neg : Bool)
  | fin (neg : Bool) (n d : Nat)
  deriving DecidableEq, Repr

/-- The rational a finite value stands for. -/
def finQ (neg : Bool) (n d : Nat) : Q := ⟨if neg then -(n : Int) else n, d⟩

/-- An exact rational as a value; an exact zero is +0 unless `zneg`. -/
def numOfQ (q : Q) (zneg : Bool) : Num :=
  if q.num = 0 then .fin zneg 0 1 else .fin (q.num < 0) q.num.natAbs q.den

/-- Exact product under IEEE 754 rules for NaN, infinities and signs (R133, R137). -/
def numMul : Num → Num → Num
  | .nan, _ => .nan
  | _, .nan => .nan
  | .inf s, .inf t => .inf (s != t)
  | .inf s, .fin t n _ => if n = 0 then .nan else .inf (s != t)
  | .fin s n _, .inf t => if n = 0 then .nan else .inf (s != t)
  | .fin s n d, .fin t m e => .fin (s != t) (n * m) (d * e)

/-- Exact sum under IEEE 754 rules; a zero sum is +0 under RNE unless both operands are −0. -/
def numAdd : Num → Num → Num
  | .nan, _ => .nan
  | _, .nan => .nan
  | .inf s, .inf t => if s = t then .inf s else .nan
  | .inf s, .fin .. => .inf s
  | .fin .., .inf t => .inf t
  | .fin s n d, .fin t m e => numOfQ (qAdd (finQ s n d) (finQ t m e)) (s && t && n == 0 && m == 0)

def numNeg : Num → Num
  | .nan => .nan
  | .inf s => .inf (!s)
  | .fin s n d => .fin (!s) n d

/-- Exact quotient under IEEE 754 rules. -/
def numDiv : Num → Num → Num
  | .nan, _ => .nan
  | _, .nan => .nan
  | .inf _, .inf _ => .nan
  | .inf s, .fin t _ _ => .inf (s != t)
  | .fin s _ _, .inf t => .fin (s != t) 0 1
  | .fin s n d, .fin t m e =>
    if m = 0 then (if n = 0 then .nan else .inf (s != t)) else .fin (s != t) (n * e) (d * m)

def numIsNan : Num → Bool
  | .nan => true
  | _ => false

/-! ### Rounding (R134, R135) -/

/-- Floor of log2 of the positive rational `n / d`. -/
def log2Q (n d : Nat) : Int :=
  let e : Int := (Nat.log2 n : Int) - (Nat.log2 d : Int)
  if 0 ≤ e then (if d * 2 ^ e.toNat ≤ n then e else e - 1)
  else (if d ≤ n * 2 ^ (-e).toNat then e else e - 1)

/-- A rounding mode; stochastic carries the 16 random bits of the element (R135). -/
inductive RMode where
  | rne
  | rtz
  | stoch (u : Nat)
  deriving DecidableEq, Repr

/-- The grid of a destination with an unbounded exponent: `p` significant bits with least normal exponent `emin`; the
powers of two of D3; or the integers. -/
inductive Grid where
  | fp (p : Nat) (emin : Int)
  | pow2
  | int
  deriving DecidableEq, Repr

/-- Exponent of the spacing of the grid at a positive magnitude. -/
def gridUlp : Grid → Nat → Nat → Int
  | .fp p emin, n, d =>
    let e := log2Q n d
    (if e < emin then emin else e) - ((p : Int) - 1)
  | .pow2, n, d =>
    let e := log2Q n d
    if e < 0 then 0 else e
  | .int, _, _ => 0

/-- Whether the lower neighbour is the one a tie goes to: its code is even (R134). -/
def gridLoEven : Grid → Nat → Int → Bool
  | .pow2, k, u => if k = 0 then true else (u + 1) % 2 == 0
  | _, k, _ => k % 2 == 0

/-- A magnitude rounded to the grid: the result is `k · 2^u`. -/
def roundMag (g : Grid) (m : RMode) (n d : Nat) : Nat × Int :=
  if n = 0 then (0, 0)
  else
    let u := gridUlp g n d
    let n' := if 0 ≤ u then n else n * 2 ^ (-u).toNat
    let d' := if 0 ≤ u then d * 2 ^ u.toNat else d
    let k := n' / d'
    let r := n' % d'
    let up : Bool :=
      match m with
      | .rne => if 2 * r = d' then !gridLoEven g k u else decide (d' < 2 * r)
      | .rtz => false
      | .stoch x => decide (x < r * 2 ^ 16 / d')
    (if r = 0 then k else if up then k + 1 else k, u)

/-- The code, without sign, of the grid value `k · 2^u` in a floating-point format of `p` significant bits. -/
def encMag (p : Nat) (emin : Int) (k : Nat) (u : Int) : Nat :=
  if k < 2 ^ (p - 1) then
    -- only the least spacing holds a value below 2^(p-1) spacings
    k
  else
    let k' := if k = 2 ^ p then 2 ^ (p - 1) else k
    let u' := if k = 2 ^ p then u + 1 else u
    ((u' + ((p : Int) - 1) - emin).toNat) * 2 ^ (p - 1) + k'

/-- The magnitude a code without sign stands for, ignoring codes for infinities and NaN. -/
def decMag (p : Nat) (emin : Int) (c : Nat) : Nat × Nat :=
  let e := c / 2 ^ (p - 1)
  let k := c % 2 ^ (p - 1) + (if e = 0 then 0 else 2 ^ (p - 1))
  let u : Int := emin - ((p : Int) - 1) + ((if e = 0 then 0 else e - 1 : Nat) : Int)
  if 0 ≤ u then (k * 2 ^ u.toNat, 1) else (k, 2 ^ (-u).toNat)

/-! ### FP32 (R133) -/

/-- The value of an FP32 word. -/
def dec32 (w : Word) : Num :=
  let v := w.toNat
  let s := bit v 31
  let c := v % 2 ^ 31
  if c = 0x7F800000 then .inf s
  else if 0x7F800000 < c then .nan
  else .fin s (decMag 24 (-126) c).1 (decMag 24 (-126) c).2

def nan32 : Word := 0x7FC00000#32
def inf32 : Word := 0x7F800000#32
def ninf32 : Word := 0xFF800000#32
def one32 : Word := 0x3F800000#32

/-- The magnitude code of FP32 rounded by a mode; a code at or above 0x7F80_0000 overflows. -/
def code32 (m : RMode) (n d : Nat) : Nat :=
  let r := roundMag (.fp 24 (-126)) m n d
  encMag 24 (-126) r.1 r.2

/-- A value as an FP32 word, rounded once by RNE. -/
def rnd32 : Num → Word
  | .nan => nan32
  | .inf s => if s then ninf32 else inf32
  | .fin s n d =>
    let c := code32 .rne n d
    BitVec.ofNat 32 ((if c < 0x7F800000 then c else 0x7F800000) + (if s then 2 ^ 31 else 0))

def fadd (a b : Word) : Word := rnd32 (numAdd (dec32 a) (dec32 b))
def fsub (a b : Word) : Word := rnd32 (numAdd (dec32 a) (numNeg (dec32 b)))
def fmul (a b : Word) : Word := rnd32 (numMul (dec32 a) (dec32 b))
def fdiv (a b : Word) : Word := rnd32 (numDiv (dec32 a) (dec32 b))
def ffma (a b c : Word) : Word := rnd32 (numAdd (numMul (dec32 a) (dec32 b)) (dec32 c))
def ffms (a b c : Word) : Word := rnd32 (numAdd (numMul (dec32 a) (dec32 b)) (numNeg (dec32 c)))

/-- Order of two values, NaN excluded: −1, 0 or 1; −0 equals +0. -/
def numCmp : Num → Num → Int
  | .inf s, .inf t => if s = t then 0 else if s then -1 else 1
  | .inf s, _ => if s then -1 else 1
  | _, .inf t => if t then 1 else -1
  | .fin s n d, .fin t m e =>
    let a := finQ s n d
    let b := finQ t m e
    if qLt a b then -1 else if qLt b a then 1 else 0
  | _, _ => 0

def isNan32 (w : Word) : Bool := decide (0x7F800000 < w.toNat % 2 ^ 31)

/-- FP32 maximum (R138): NaN if either operand is, and +0 above −0. -/
def fmax (a b : Word) : Word :=
  if isNan32 a || isNan32 b then nan32
  else
    let c := numCmp (dec32 a) (dec32 b)
    if c = 0 then (if bit a.toNat 31 then b else a) else if c < 0 then b else a

/-- FP32 minimum (R138): NaN if either operand is, and −0 below +0. -/
def fmin (a b : Word) : Word :=
  if isNan32 a || isNan32 b then nan32
  else
    let c := numCmp (dec32 a) (dec32 b)
    if c = 0 then (if bit a.toNat 31 then a else b) else if c < 0 then a else b

/-- A signed integer as FP32, exact for the formats that are widened. -/
def i32 (i : Int) : Word := rnd32 (.fin (i < 0) i.natAbs 1)

/-! ### The formats of Table 6-1 -/

/-- Element width in bits; 0 for the reserved code. -/
def fmtBits : Nat → Nat
  | 0x0 => 32 | 0x1 => 16 | 0x2 => 16 | 0x3 => 8 | 0x4 => 8 | 0x5 => 8 | 0x6 => 4 | 0x7 => 4 | 0x8 => 3 | 0x9 => 2
  | 0xA => 8 | 0xB => 6 | 0xC => 4 | 0xD => 8 | 0xE => 8 | _ => 0

/-- Elements per scaling block, 0 for a format without blocks. -/
def fmtBlock : Nat → Nat
  | 0x7 => 32 | 0x8 => 32 | 0x9 => 64 | 0xA => 32 | 0xB => 32 | 0xC => 32 | 0xD => 32 | _ => 0

/-- The block formats of Microscaling, whose shared scale is E8M0 (R126). -/
def fmtMX (f : Nat) : Bool := 0xA ≤ f && f ≤ 0xD

/-- The block formats with a UE5M3 block scale and an FP32 tensor scale (R125). -/
def fmtD (f : Nat) : Bool := 0x7 ≤ f && f ≤ 0x9

/-- An IEEE-style code of `p` significant bits and `bits` bits in all, infinities and NaN apart. -/
def decFp (p : Nat) (emin : Int) (bits c : Nat) : Num :=
  let m := decMag p emin (c % 2 ^ (bits - 1))
  .fin (bit c (bits - 1)) m.1 m.2

/-- The element a code stands for (R122, R123). -/
def decFmt (f c : Nat) : Num :=
  match f with
  | 0x0 => dec32 (BitVec.ofNat 32 c)
  | 0x1 => dec32 (BitVec.ofNat 32 (c * 2 ^ 16))
  | 0x2 =>
    let m := c % 2 ^ 15
    if m = 0x7C00 then .inf (bit c 15) else if 0x7C00 < m then .nan else decFp 11 (-14) 16 c
  | 0x3 => if c % 128 = 0x7F then .nan else decFp 4 (-6) 8 c
  | 0x4 =>
    let m := c % 128
    if m = 0x7C then .inf (bit c 7) else if 0x7C < m then .nan else decFp 3 (-14) 8 c
  | 0x5 => let i := signed 8 c; .fin (i < 0) i.natAbs 1
  | 0x6 => let i := signed 4 c; .fin (i < 0) i.natAbs 1
  | 0x7 => decFp 2 0 4 c
  | 0x8 => .fin (bit c 2) (match c % 4 with | 0 => 0 | 1 => 1 | 2 => 2 | _ => 4) 1
  | 0x9 => match c % 4 with | 1 => .fin false 1 1 | 3 => .fin true 1 1 | _ => .fin false 0 1
  | 0xA => if c % 128 = 0x7F then .nan else decFp 4 (-6) 8 c
  | 0xB => decFp 3 (-2) 6 c
  | 0xC => decFp 2 0 4 c
  | 0xD => let i := signed 8 c; .fin (i < 0) i.natAbs 64
  | 0xE => .fin false (c % 256) 1
  | _ => .nan

/-- A code widened to FP32 (R134: widening is exact; R133: FP32 bits are copied). -/
def widen (f c : Nat) : Word := if f = 0 then BitVec.ofNat 32 c else rnd32 (decFmt f c)

/-! ### Block scales (R125, R126) -/

/-- The value of a UE5M3 code. -/
def decUE5M3 (c : Nat) : Q :=
  let e := c / 8
  let m := c % 8
  if e = 0 then ⟨m, 2 ^ 17⟩ else qMul ⟨8 + m, 8⟩ (qPow2 ((e : Int) - 15))

/-- Smallest UE5M3 code whose value is at least a positive rational, and whether it saturates. -/
def roundUpUE5M3 : Num → Nat × Bool
  | .nan => (0, false)
  | .inf s => if s then (0, false) else (0xFF, true)
  | .fin s n d =>
    if s || n == 0 then (0, false)
    else if qLt ⟨122880, 1⟩ ⟨n, d⟩ then (0xFF, true)
    else
      let u := gridUlp (.fp 4 (-14)) n d
      let n' := if 0 ≤ u then n else n * 2 ^ (-u).toNat
      let d' := if 0 ≤ u then d * 2 ^ u.toNat else d
      (encMag 4 (-14) (ceilDiv n' d') u, false)

/-- Ceiling of log2 of a positive rational. -/
def ceilLog2Q (n d : Nat) : Int :=
  let e := log2Q n d
  if qLt (qPow2 e) ⟨n, d⟩ then e + 1 else e

/-- A scale rounded up to E8M0 and whether it saturates. -/
def roundUpE8M0 : Num → Nat × Bool
  | .nan => (0xFF, false)
  | .inf s => if s then (0, false) else (0xFE, true)
  | .fin s n d =>
    if s || n == 0 then (0, false)
    else
      let e := ceilLog2Q n d
      if 127 < e then (0xFE, true) else if e < -127 then (0, false) else ((e + 127).toNat, false)

/-- The value of an E8M0 code. -/
def decE8M0 (c : Nat) : Num :=
  if c = 0xFF then .nan else
    let q := qPow2 ((c : Int) - 127)
    .fin false q.num.natAbs q.den

/-! ### Narrowing conversions (R129, R134 to R139) -/

/-- A converted element: its code and what it counts (R139). -/
structure Conv where
  code : Nat
  ovf : Bool
  sat : Bool
  nan : Bool
  deriving DecidableEq, Repr

/-- Canonical NaN of a format, or 0 in a format that has none (R129, R137). -/
def nanCode : Nat → Nat
  | 0x0 => 0x7FC00000 | 0x1 => 0x7FC0 | 0x2 => 0x7E00 | 0x3 => 0x7F | 0x4 => 0x7E | 0xA => 0x7F | _ => 0

/-- Significant bits, least normal exponent and largest finite magnitude code of a floating-point element. -/
def fpParams : Nat → Option (Nat × Int × Nat)
  | 0x0 => some (24, -126, 0x7F7FFFFF)
  | 0x1 => some (8, -126, 0x7F7F)
  | 0x2 => some (11, -14, 0x7BFF)
  | 0x3 => some (4, -6, 0x7E)
  | 0x4 => some (3, -14, 0x7B)
  | 0x7 => some (2, 0, 7)
  | 0xA => some (4, -6, 0x7E)
  | 0xB => some (3, -2, 0x1F)
  | 0xC => some (2, 0, 7)
  | _ => none

/-- Element formats whose overflow always saturates (Table 6-4). -/
def alwaysSat (f : Nat) : Bool := f == 0x7 || f == 0x8 || f == 0x9 || f == 0xA || f == 0xB || f == 0xC

/-- The NaN outcome of a conversion of `x`: an overflow too where it yields a NaN from an input that is none (R137, R139). -/
def nanConv (f : Nat) (x : Num) : Conv := ⟨nanCode f, !numIsNan x && nanCode f != 0, false, true⟩

/-- Overflow outcome of a floating-point destination (Table 6-4). -/
def ovfFp (f maxCode : Nat) (neg sat : Bool) : Conv :=
  let sgn := if neg then 2 ^ (fmtBits f - 1) else 0
  if sat || alwaysSat f then ⟨maxCode + sgn, false, true, false⟩
  else match f with
    | 0x3 => ⟨0x7F, true, false, true⟩
    | 0x4 => ⟨0x7C + sgn, true, false, false⟩
    | 0x2 => ⟨0x7C00 + sgn, true, false, false⟩
    | 0x1 => ⟨0x7F80 + sgn, true, false, false⟩
    | _ => ⟨0x7F800000 + sgn, true, false, false⟩

/-- Least and greatest value of an integer element. -/
def intRange : Nat → Int × Int
  | 0x5 => (-128, 127) | 0x6 => (-8, 7) | 0xD => (-128, 127) | _ => (0, 255)

/-- An integer element: a rounded integer that overflows saturates or wraps (Table 6-4). -/
def convInt (f : Nat) (i : Int) (sat : Bool) : Conv :=
  let r := intRange f
  let b := fmtBits f
  if i < r.1 || r.2 < i then
    if sat then ⟨ofSigned b (if i < r.1 then r.1 else r.2), false, true, false⟩
    else ⟨ofSigned b i, true, false, false⟩
  else ⟨ofSigned b i, false, false, false⟩

/-- Conversion of `x / d` to format `f`; `sat` is SAT for floating-point outputs and for the integer outputs of DRN and
VST, and the negation of WRAP for the integer outputs of CVO (R136). -/
def convert (f : Nat) (m : RMode) (sat : Bool) (d x : Num) : Conv :=
  match d with
  | .fin false dn dd =>
    if dn = 0 then nanConv f x else
    match x with
    | .nan => nanConv f x
    | .inf s =>
      match fpParams f with
      | some (_, _, mx) => ovfFp f mx s sat
      | none =>
        if f = 0x8 then ⟨3 + (if s then 4 else 0), false, true, false⟩
        else if f = 0x9 then ⟨if s then 3 else 1, false, true, false⟩
        else
          let r := intRange f
          ⟨ofSigned (fmtBits f) (if s then r.1 else r.2), false, true, false⟩
    | .fin s xn xd =>
      let n := xn * dd
      let e := xd * dn
      match fpParams f with
      | some (p, emin, mx) =>
        let r := roundMag (.fp p emin) m n e
        let c := encMag p emin r.1 r.2
        let mv := decMag p emin mx
        if mx < c || (alwaysSat f && f != 0xA && qLt ⟨mv.1, mv.2⟩ ⟨n, e⟩) then ovfFp f mx s sat
        else ⟨c + (if s then 2 ^ (fmtBits f - 1) else 0), false, false, false⟩
      | none =>
        if f = 0x8 then
          let r := roundMag .pow2 m n e
          let idx := if r.1 = 0 then 0 else (r.2 + (Nat.log2 r.1 : Int) + 1).toNat
          if 3 < idx || qLt ⟨4, 1⟩ ⟨n, e⟩ then ⟨3 + (if s then 4 else 0), false, true, false⟩
          else ⟨idx + (if s then 4 else 0), false, false, false⟩
        else if f = 0x9 then
          let r := roundMag .int m n e
          if qLt ⟨1, 1⟩ ⟨n, e⟩ then ⟨if s then 3 else 1, false, true, false⟩
          else ⟨if r.1 = 0 then 0 else if s then 3 else 1, false, false, false⟩
        else
          let r := roundMag .int m (if f = 0xD then 64 * n else n) e
          let i : Int := if s then -(r.1 : Int) else r.1
          convInt f i sat
  | _ => nanConv f x

/-! ### The MXU's alignment group (R131) and REF_EXACT (R141) -/

/-- Whether a value is a finite nonzero one. -/
def numNonzero : Num → Bool
  | .fin _ n _ => n != 0
  | _ => false

/-- floor(log2 |p|) of a finite nonzero value. -/
def numLog2 : Num → Int
  | .fin _ n d => if n = 0 then 0 else log2Q n d
  | _ => 0

/-- Largest of a list of integers, with a start. -/
def maxInt (d : Int) (l : List Int) : Int := l.foldl (fun a b => if a < b then b else a) d

/-- `trunc(p / q)` and the rest `p / q − trunc(p / q)`, for q = 2^e. -/
def truncRest (e : Int) : Num → Int × Q
  | .fin s n d =>
    let n' := if 0 ≤ e then n else n * 2 ^ (-e).toNat
    let d' := if 0 ≤ e then d * 2 ^ e.toNat else d
    let k : Int := ((n' / d' : Nat) : Int)
    let r : Int := ((n' % d' : Nat) : Int)
    if s then (-k, ⟨-r, d'⟩) else (k, ⟨r, d'⟩)
  | _ => (0, ⟨0, 1⟩)

/-- The single value G′ of one alignment group (R131). -/
def macGroup (ps : List Num) : Num :=
  let hasInf (s : Bool) : Bool := ps.any (fun p => p == .inf s)
  if ps.any numIsNan || (hasInf true && hasInf false) then .nan
  else if hasInf true then .inf true
  else if hasInf false then .inf false
  else
    let nz := ps.filter numNonzero
    match nz with
    | [] => .fin false 0 1
    | p0 :: _ =>
      let x := maxInt (numLog2 p0) (nz.map numLog2)
      let e := x - 32
      let parts := nz.map (truncRest e)
      let g : Int := (parts.map (fun t => t.1)).sum
      let rest : Q := (parts.map (fun t => t.2)).foldl qAdd ⟨0, 1⟩
      let sg : Int := if rest.num < 0 then -1 else if 0 < rest.num then 1 else 0
      numOfQ (qMul ⟨4 * g + sg, 4⟩ (qPow2 e)) false

/-- A value rounded to binary64 by RNE (R141). -/
def rnd64 : Num → Num
  | .nan => .nan
  | .inf s => .inf s
  | .fin s n d =>
    let r := roundMag (.fp 53 (-1022)) .rne n d
    let c := encMag 53 (-1022) r.1 r.2
    if 0x7FF0000000000000 ≤ c then .inf s
    else
      let m := decMag 53 (-1022) c
      .fin s m.1 m.2

/-! ### Random bits of stochastic rounding (R135) -/

/-- One step of the LFSR. -/
def lfsrStep (x : Nat) : Nat := if x % 2 = 1 then (x / 2).xor 0x80200003 else x / 2

/-- The state after `n` steps. -/
def lfsrSteps : Nat → Nat → Nat
  | 0, x => x
  | n + 1, x => lfsrSteps n (lfsrStep x)

/-- Rotation of a 32-bit word to the left. -/
def rotl32 (x n : Nat) : Nat := (x <<< n ||| x >>> (32 - n)) % 2 ^ 32

/-- rnd(k)[15:0] from the state after the beat's 32 steps. -/
def rndBits (x k : Nat) : Nat := ((rotl32 x (k % 32)).xor (k * 0x9E3779B9 % 2 ^ 32)) % 2 ^ 16

/-- The seed of a tile's LFSR at dispatch. -/
def lfsrSeed (seed : Word) (i : Nat) : Word :=
  let s := seed.toNat.xor (i * 0x9E3779B9 % 2 ^ 32)
  if s = 0 then 1#32 else BitVec.ofNat 32 s

end Sys2Proof.Machine
end

