-- ==== Sys2Proof/Machine/Vector.lean ====
section
/-! DEFINITION. What each VPU and SFU operation computes over whole vectors (chapter 07, SKMRG of R168): lane functions,
reductions, statistics, conversions to and from the narrow formats, and table evaluation. No tile state here. -/

namespace Sys2Proof.Machine

/-- A vector register: 64 lanes, lane 0 first. -/
abbrev Lanes := List Word

/-- Lane `k` of a vector. -/
def lane (v : Lanes) (k : Nat) : Word := v.getD k 0

/-- The vector whose lane `k` is `f k`. -/
def vec (f : Nat → Word) : Lanes := (List.range 64).map f

def zeroVec : Lanes := List.replicate 64 0

/-- Lanes of `new` where the mask bit is 1, of `old` elsewhere. -/
def maskLanes (mask : Word64) (old new : Lanes) : Lanes :=
  vec (fun k => if bit mask.toNat k then lane new k else lane old k)

/-! ### INT32 class (R142, Table 7-1) -/

/-- A signed result brought to 32 bits: wrapped, or saturated. -/
def int32 (wrap : Bool) (i : Int) : Word :=
  if wrap then BitVec.ofInt 32 i
  else if i < -(2 ^ 31 : Int) then 0x80000000#32
  else if (2 ^ 31 : Int) - 1 < i then 0x7FFFFFFF#32
  else BitVec.ofInt 32 i

def iadd (wrap : Bool) (a b : Word) : Word := int32 wrap (a.toInt + b.toInt)
def isub (wrap : Bool) (a b : Word) : Word := int32 wrap (a.toInt - b.toInt)
def imul (wrap : Bool) (a b : Word) : Word := int32 wrap (a.toInt * b.toInt)
def ishl (a b : Word) : Word := a <<< (b.toNat % 32)
def ishr (a b : Word) : Word := a >>> (b.toNat % 32)
def isra (a b : Word) : Word := a.sshiftRight (b.toNat % 32)
def imin (a b : Word) : Word := if a.toInt ≤ b.toInt then a else b
def imax (a b : Word) : Word := if a.toInt ≤ b.toInt then b else a

/-- |x| as a bit operation; NaN gives the canonical NaN (Table 7-1). -/
def fabs (a : Word) : Word := if isNan32 a then nan32 else a &&& 0x7FFFFFFF#32

/-- −x as a bit operation; NaN gives the canonical NaN (Table 7-1). -/
def fneg (a : Word) : Word := if isNan32 a then nan32 else a ^^^ 0x80000000#32

/-- The condition of a CMP (Table 7-2); a reserved code holds of nothing. -/
def fcond (c : Nat) (a b : Word) : Bool :=
  let u := isNan32 a || isNan32 b
  let o := numCmp (dec32 a) (dec32 b)
  match c with
  | 0 => !u && o == 0
  | 1 => u || o != 0
  | 2 => !u && decide (o < 0)
  | 3 => !u && decide (o ≤ 0)
  | 4 => !u && decide (0 < o)
  | 5 => !u && decide (0 ≤ o)
  | 6 => u
  | 7 => !u
  | _ => false

/-! ### Lane reductions (R144) -/

/-- One level: element i combines elements 2i and 2i + 1. -/
def pairLevel (f : Word → Word → Word) : Lanes → Lanes
  | a :: b :: r => f a b :: pairLevel f r
  | l => l

/-- Six levels of pairwise combination of 64 lanes. -/
def reduce64 (f : Word → Word → Word) (v : Lanes) : Word :=
  lane (pairLevel f (pairLevel f (pairLevel f (pairLevel f (pairLevel f (pairLevel f (vec (lane v)))))))) 0

/-- The reduction in lane 0 and +0 elsewhere. -/
def inLane0 (w : Word) : Lanes := vec (fun k => if k = 0 then w else 0)

/-! ### Statistics (R149, R150) -/

/-- A Welford state of one lane: count, mean, sum of squared deviations. -/
structure WState where
  n : Word
  mu : Word
  m : Word
  deriving DecidableEq, Repr

/-- Welford update with sample `x` (R149). -/
def welLane (st : WState) (x : Word) : WState :=
  let n1 := fadd st.n one32
  let d := fsub x st.mu
  let r := fdiv d n1
  let mu1 := fadd st.mu r
  ⟨n1, mu1, ffma d (fsub x mu1) st.m⟩

/-- A lane that holds a zero of either sign. -/
def isZero32 (w : Word) : Bool := w.toNat % 2 ^ 31 == 0

/-- Merge of state `b` into state `a` (R150). -/
def wmrgLane (a b : WState) : WState :=
  if isZero32 b.n then a
  else if isZero32 a.n then b
  else
    let n := fadd a.n b.n
    let d := fsub b.mu a.mu
    let f := fdiv b.n n
    let mu := ffma d f a.mu
    let t1 := fadd a.m b.m
    let t2 := fmul d (fmul a.n f)
    ⟨n, mu, ffma t2 d t1⟩

/-! ### Tables of the SFU (R145 to R148) -/

/-- Header fields and segment words of a table payload (Table 7-3). -/
structure Table where
  mode : Nat
  loPol : Nat
  hiPol : Nat
  x0 : Word
  invW : Word
  loVal : Word
  hiVal : Word
  eb : Nat
  sign : Nat
  enum : Int
  zeroVal : Word
  infVal : Word
  seg : List (Word × Word × Word × Word)
  deriving DecidableEq, Repr

def segAt (t : Table) (i : Nat) : Word × Word × Word × Word := t.seg.getD i (0, 0, 0, 0)

/-- The word at a byte offset. -/
def wordAt (bs : List Byte) (o : Nat) : Word := BitVec.ofNat 32 (leAt bs o 4)

/-- A payload read as a table. -/
def parseTable (p : List Byte) : Table :=
  { mode := leAt p 1 1, loPol := leAt p 2 1, hiPol := leAt p 3 1, x0 := wordAt p 4, invW := wordAt p 8,
    loVal := wordAt p 12, hiVal := wordAt p 16, eb := leAt p 20 1, sign := leAt p 21 1, enum := signed 8 (leAt p 22 1),
    zeroVal := wordAt p 24, infVal := wordAt p 28,
    seg := (List.range 256).map (fun i =>
      (wordAt p (64 + 16 * i), wordAt p (68 + 16 * i), wordAt p (72 + 16 * i), wordAt p (76 + 16 * i))) }

/-- A payload a TLD accepts: VER 0x01, a defined MODE and policies, defined EB, SIGN and ENUM where the mode uses them,
reserved bytes 0 (R145). -/
def tableOk (p : List Byte) : Bool :=
  let t := parseTable p
  leAt p 0 1 == 1 && t.mode ≤ 3 && t.loPol ≤ 2 && t.hiPol ≤ 2 && leAt p 23 1 == 0 && (slice p 32 32).all (· == 0)

/-- The segments of a built-in set: free values, as the spec gives no segment (R148). DESIGN CHOICE (notes/assumptions/10.md). -/
def builtinSegs (set : Nat) : List (Word × Word × Word × Word) :=
  (List.range 256).map (fun i =>
    (Config.builtinSeg set i 0, Config.builtinSeg set i 1, Config.builtinSeg set i 2, Config.builtinSeg set i 3))

/-- The built-in table sets (Table 7-5). -/
def builtinTable (set : Nat) : Table :=
  let base : Table := ⟨0, 0, 0, 0, 0, 0, 0, 0, 0, 0, 0, 0, builtinSegs set⟩
  match set with
  | 0 => { base with mode := 2 }
  | 1 => { base with mode := 3 }
  | 2 => { base with mode := 1, enum := -1, zeroVal := inf32 }
  | 3 => { base with mode := 1, eb := 1, enum := -1, sign := 2, zeroVal := inf32 }
  | 4 => { base with x0 := i32 (-16), invW := i32 8, hiVal := one32 }
  | 5 => { base with x0 := i32 (-8), invW := i32 16, loVal := i32 (-1), hiVal := one32 }
  | 6 => { base with x0 := i32 (-8), invW := i32 16, hiPol := 1 }
  | _ => { base with x0 := i32 (-16), invW := i32 8, hiPol := 1 }

/-- h = fma(fma(c2, t, c1), t, c0) of a segment at the exact offset t (R146). -/
def poly (s : Word × Word × Word × Word) (t : Num) : Word :=
  let h1 := rnd32 (numAdd (numMul (dec32 s.2.2.2) t) (dec32 s.2.2.1))
  rnd32 (numAdd (numMul (dec32 h1) t) (dec32 s.2.1))

/-- An exact offset from the segment's start. -/
def offsetFrom (x : Num) (s : Word × Word × Word × Word) : Num := numAdd x (numNeg (dec32 s.1))

/-- A word scaled by a power of two, rounded once (R146). -/
def scalePow2 (h : Word) (e : Int) : Word :=
  let q := qPow2 e
  rnd32 (numMul (dec32 h) (.fin false q.num.natAbs q.den))

/-- Value outside the segments under a side's policy (Table 7-4). -/
def sidePolicy (t : Table) (pol : Nat) (val x : Word) (edge : Nat) : Word :=
  match pol with
  | 0 => val
  | 1 => x
  | _ => poly (segAt t edge) (offsetFrom (dec32 x) (segAt t edge))

/-- `UNIFORM`. -/
def evalUniform (t : Table) (x : Word) (free : Word) : Word :=
  match dec32 x with
  | .nan => nan32
  | .inf true => sidePolicy t t.loPol t.loVal x 0
  | .inf false => sidePolicy t t.hiPol t.hiVal x 255
  | .fin s n d =>
    match numMul (numAdd (.fin s n d) (numNeg (dec32 t.x0))) (dec32 t.invW) with
    | .fin s' n' d' =>
      let i := qFloor (finQ s' n' d')
      if i < 0 then sidePolicy t t.loPol t.loVal x 0
      else if 255 < i then sidePolicy t t.hiPol t.hiVal x 255
      else poly (segAt t i.toNat) (offsetFrom (.fin s n d) (segAt t i.toNat))
    | _ => free

/-- Significand in [1, 2) of a positive magnitude, and its exponent. -/
def normMag (n d : Nat) : Q × Int :=
  let e := log2Q n d
  (qMul ⟨n, d⟩ (qPow2 (-e)), e)

/-- The `b` leading fraction bits of a significand in [1, 2). -/
def leadBits (m : Q) (b : Nat) : Nat := (qFloor (qMul (qAdd m ⟨-1, 1⟩) ⟨((2 ^ b : Nat) : Int), 1⟩)).toNat

/-- `SCALED`. -/
def evalScaled (t : Table) (x : Word) : Word :=
  let neg := bit x.toNat 31
  let bySign (w : Word) : Word := if !neg then w else match t.sign with
    | 0 => fneg w
    | 1 => w
    | _ => nan32
  match dec32 x with
  | .nan => nan32
  | .inf _ => bySign t.infVal
  | .fin _ n d =>
    if n = 0 then (if neg && t.sign == 0 then t.zeroVal ^^^ 0x80000000#32 else t.zeroVal)
    else
      let me := normMag n d
      let i := if t.eb = 0 then leadBits me.1 8 else (me.2 % 2).toNat * 128 + leadBits me.1 7
      let sg := segAt t i
      let h := poly sg (offsetFrom (numOfQ me.1 false) sg)
      bySign (scalePow2 h (t.enum * (me.2 / ((2 ^ t.eb : Nat) : Int))))

/-- `EXP`. -/
def evalExp (t : Table) (x : Word) : Word :=
  match dec32 x with
  | .nan => nan32
  | .inf s => if s then 0 else inf32
  | .fin s n d =>
    let q := finQ s n d
    if qLe ⟨128, 1⟩ q then inf32
    else if qLt q ⟨-150, 1⟩ then 0
    else
      let k := qFloor q
      let f := qAdd q ⟨-k, 1⟩
      let i := (qFloor (qMul f ⟨256, 1⟩)).toNat
      scalePow2 (poly (segAt t i) (offsetFrom (numOfQ f false) (segAt t i))) k

/-- `LOG`. -/
def evalLog (t : Table) (x : Word) : Word :=
  match dec32 x with
  | .nan => nan32
  | .inf s => if s then nan32 else inf32
  | .fin s n d =>
    if n = 0 then ninf32
    else if s then nan32
    else
      let me := normMag n d
      let sg := segAt t (leadBits me.1 8)
      rnd32 (numAdd (.fin (me.2 < 0) me.2.natAbs 1) (dec32 (poly sg (offsetFrom (numOfQ me.1 false) sg))))

/-- EVAL of one lane (R146). `free` stands where the index is not a number, because X0 or INV_W of a payload is not finite: the spec
states no value there. DESIGN CHOICE (notes/assumptions/49.md). -/
def evalTable (t : Table) (x free : Word) : Word :=
  match t.mode with
  | 0 => evalUniform t x free
  | 1 => evalScaled t x
  | 2 => evalExp t x
  | _ => evalLog t x

/-! ### The functions of the built-in sets, and their errors (R148)

Fixed point with 128 fraction bits, within 2^-100 of the functions. -/

def fxOne : Int := 2 ^ 128
def fxOf (q : Q) : Int := q.num * fxOne / (q.den : Int)
def fxMul (a b : Int) : Int := a * b / fxOne
def fxQ (a : Int) : Q := ⟨a, 2 ^ 128⟩

/-- ln 2, log2 e and 1 / sqrt(2 pi). -/
def fxLn2 : Int := 235865763225513294137944142764154484399
def fxLog2e : Int := 490923683258796565746369346286093237521
def fxRoot2Pi : Int := 135753023439836232162591007175785461951

/-- e^z for z in [0, 1). -/
def fxExp (z : Int) : Int := (List.range 40).foldr (fun (k : Nat) (a : Int) => fxOne + fxMul z a / ((k : Int) + 1)) fxOne

/-- 2^y. -/
def pow2Q (y : Int) : Q := qMul (fxQ (fxExp (fxMul (y % fxOne) fxLn2))) (qPow2 (y / fxOne))

/-- 1 / (1 + e^-x). -/
def sigmoidQ (x : Q) : Q :=
  let c : Q := if qLt ⟨40, 1⟩ x then ⟨40, 1⟩ else if qLt x ⟨-40, 1⟩ then ⟨-40, 1⟩ else x
  let p := fxOf (pow2Q (fxMul (fxOf c) fxLog2e))
  ⟨p, (p + fxOne).toNat⟩

/-- The normal distribution function. -/
def phiQ (x : Q) : Q :=
  if qLt ⟨12, 1⟩ x then ⟨1, 1⟩
  else if qLt x ⟨-12, 1⟩ then ⟨0, 1⟩
  else
    let z := fxOf x
    let w := fxMul z z
    let sum := (List.range 300).foldr (fun (k : Nat) (a : Int) => fxOne + fxMul w a / (2 * (k : Int) + 3)) fxOne
    let dens := fxMul fxRoot2Pi (fxOf (pow2Q (fxMul (-(w / 2)) fxLog2e)))
    fxQ (fxOne / 2 + fxMul dens (fxMul z sum))

/-- log2 of a positive magnitude. -/
def log2Fx (n d : Nat) : Q :=
  let me := normMag n d
  let m := fxOf me.1
  let z := (m - fxOne) * fxOne / (m + fxOne)
  let w := fxMul z z
  let s := (List.range 60).foldr (fun (k : Nat) (a : Int) => fxOne / (2 * (k : Int) + 1) + fxMul w a) 0
  qAdd ⟨me.2, 1⟩ (fxQ (2 * fxMul (fxMul z s) fxLog2e))

/-- 1 / sqrt of a positive magnitude. -/
def rsqrtQ (n d : Nat) : Q :=
  let e := log2Q n d / 2
  let q := qMul ⟨d, n⟩ (qPow2 (2 * e))
  qMul ⟨Nat.sqrt (q.num.toNat * 2 ^ 256 / q.den), 2 ^ 128⟩ (qPow2 (-e))

/-- The function of a built-in set at a finite operand; none where it has no finite value. -/
def builtinFn (set : Nat) (neg : Bool) (n d : Nat) : Option Q :=
  let x := finQ neg n d
  match set with
  | 0 => if qLe ⟨128, 1⟩ x || qLt x ⟨-150, 1⟩ then none else some (pow2Q (fxOf x))
  | 1 => if neg || n == 0 then none else some (log2Fx n d)
  | 2 => if n = 0 then none else some (finQ neg d n)
  | 3 => if neg || n == 0 then none else some (rsqrtQ n d)
  | 4 => some (sigmoidQ x)
  | 5 => some (qAdd (qMul ⟨2, 1⟩ (sigmoidQ (qMul ⟨2, 1⟩ x))) ⟨-1, 1⟩)
  | 6 => some (qMul x (phiQ x))
  | _ => some (qMul x (sigmoidQ x))

/-- Magnitude of a fraction. -/
def qAbs (a : Q) : Q := ⟨a.num.natAbs, a.den⟩

/-- One unit in the last place of FP32 at a value. -/
def ulpAt (f : Q) : Q := let e := log2Q f.num.natAbs f.den; qPow2 ((if e < -126 then -126 else e) - 23)

/-- Whether a value is at least the smallest normal FP32 magnitude and does not pass the largest. -/
def qNormal (f : Q) : Bool := qLe (qPow2 (-126)) (qAbs f) && qLt (qAbs f) (qPow2 128)

/-- The greatest error of a built-in set at an operand whose function value is `f` (Table 7-5); none where it states none. -/
def builtinErr (set : Nat) (x f : Q) : Option Q :=
  let wide (e : Int) : Q := qMul (qPow2 e) (if qLt ⟨1, 1⟩ (qAbs x) then qAbs x else ⟨1, 1⟩)
  match set with
  | 0 => if qNormal f then some (qMul ⟨2, 1⟩ (ulpAt f)) else none
  | 1 => if qLe ⟨1, 2⟩ x && qLt x ⟨2, 1⟩ then some (qPow2 (-22)) else some (qMul ⟨2, 1⟩ (ulpAt f))
  | 2 => if qNormal f then some (ulpAt f) else none
  | 3 => some (qMul ⟨2, 1⟩ (ulpAt f))
  | 4 => some (qPow2 (-18))
  | 5 => some (qPow2 (-18))
  | 6 => some (wide (-18))
  | _ => some (wide (-17))

/-- Whether a result of a built-in set keeps the error that Table 7-5 states. -/
def builtinClose (set : Nat) (x y : Word) : Bool :=
  match dec32 x with
  | .fin s n d =>
    match builtinFn set s n d with
    | some f =>
      match builtinErr set (finQ s n d) f, dec32 y with
      | none, _ => true
      | some e, .fin t p q => qLe (qAbs (qAdd (finQ t p q) (qNeg f))) e
      | some _, _ => false
    | none => true
  | _ => true

/-- The function's value rounded. -/
def builtinExact (set : Nat) (x : Word) : Word :=
  match dec32 x with
  | .fin s n d => rnd32 (numOfQ ((builtinFn set s n d).getD ⟨0, 1⟩) false)
  | _ => 0

/-- A lane of a built-in set: what its free segments give, as long as that keeps the stated error, and the rounded function otherwise. DESIGN CHOICE
(notes/assumptions/10.md). -/
def evalBuiltin (set : Nat) (x : Word) : Word :=
  let y := evalTable (builtinTable set) x 0
  if builtinClose set x y then y else builtinExact set x

/-- The exponent when an FP32 value is an integer n from −149 to 127. -/
def intArg (x : Word) : Option Int :=
  match dec32 x with
  | .fin s n d =>
    let q := finQ s n d
    if q.num % (d : Int) = 0 && qLe ⟨-149, 1⟩ q && qLe q ⟨127, 1⟩ then some (qFloor q) else none
  | _ => none

/-- Built-in set 0: 2^n exactly for every integer n from −149 to 127 (R168), its table elsewhere. The fixed copy inside
the VPU gives the same results (R153). -/
def exp2 (x : Word) : Word :=
  match intArg x with
  | some n => scalePow2 one32 n
  | none => evalBuiltin 0 x

/-- One online soft-maximum step: m, l, alpha, beta (R153). -/
def smxuLane (m l a s : Word) : Word × Word × Word × Word :=
  if isNan32 m || isNan32 a || isNan32 l || isNan32 s then (nan32, nan32, nan32, nan32)
  else
    let m1 := fmax m a
    if m1 = ninf32 then (ninf32, 0, 0, 0)
    else
      let al := exp2 (fsub m m1)
      let be := exp2 (fsub a m1)
      let l1 := rnd32 (numAdd (numMul (dec32 l) (dec32 al)) (numMul (dec32 s) (dec32 be)))
      (m1, l1, al, be)

/-- Split-K merge of one dimension (R168). -/
def skmrgLane (oa ob ma mb : Word) : Word :=
  if isNan32 ma || isNan32 mb || isNan32 oa || isNan32 ob then nan32
  else
    let m := fmax ma mb
    if m = ninf32 then 0
    else
      let al := exp2 (fsub ma m)
      let be := exp2 (fsub mb m)
      rnd32 (numAdd (numMul (dec32 oa) (dec32 al)) (numMul (dec32 ob) (dec32 be)))

/-! ### Packed bits (R124) -/

/-- Codes of `s` bits each packed from bit 0 up, as a number. -/
def packCodes (s : Nat) : List Nat → Nat
  | [] => 0
  | c :: cs => c % 2 ^ s + 2 ^ s * packCodes s cs

/-- Element `i` of `s` bits of a byte stream. -/
def elemAt (bs : List Byte) (s i : Nat) : Nat :=
  leAt bs (i * s / 8) 5 >>> (i * s % 8) % 2 ^ s

/-- The 64 codes of a vector packed as bytes, element i at bits i·s. -/
def packLanes (s : Nat) (codes : List Nat) : List Byte := leBytes ((codes.length * s + 7) / 8) (packCodes s codes)

/-- Result of a CVO to a block format: packed elements, the scale bytes in lane P, and the conversions counted
(R130). `sat` is WRAP = 0 for MXINT8 (R136); `m` gives the rounding mode of a lane, `latch` the tensor scale. -/
def cvoBlock (f : Nat) (sat : Bool) (m : Nat → RMode) (latch : Num) (va vb : Lanes) : Lanes × List Conv × List Bool :=
  let sc (b : Nat) : Nat × Bool :=
    let x := dec32 (lane vb (32 * b))
    if fmtMX f then roundUpE8M0 x else roundUpUE5M3 x
  let scVal (b : Nat) : Num :=
    if fmtMX f then decE8M0 (sc b).1 else numOfQ (decUE5M3 (sc b).1) false
  let blk (k : Nat) : Nat := if fmtBlock f = 64 then 0 else k / 32
  let cs := (List.range 64).map (fun k => convert f (m k) sat (numMul (scVal (blk k)) latch) (dec32 (lane va k)))
  let bits := fmtBits f
  let packed := packCodes bits (cs.map (fun c => c.code))
  let p := 2 * bits
  let scales := (sc 0).1 + (if fmtBlock f = 64 then 0 else (sc 1).1 * 256)
  let out := vec (fun k =>
    if k < p then BitVec.ofNat 32 (packed >>> (32 * k)) else if k = p then BitVec.ofNat 32 scales else 0)
  (out, cs, if fmtBlock f = 64 then [(sc 0).2] else [(sc 0).2, (sc 1).2])

end Sys2Proof.Machine
end

