-- ==== Sys2Proof/Machine/Ops.lean ====
section
/-! DEFINITION. The named operations that every family shares: lifting a change of the block past the queue, the control
registers as words, scopes and tiles, free values, MSI-X, and the recording of a fault (R343, R344). -/

namespace Sys2Proof.Machine

/-! ### Outcomes -/

abbrev Out3 := Host.Outcome State Fault Refusal

/-- A change of the block that leaves the queue alone and always gives a next state. DESIGN CHOICE (notes/assumptions/1.md). -/
def lift (s : State) (f : Dev → Dev) : Out3 := .next { s with dev := f s.dev }

/-- The same for a command whose operand fields may hold a reserved encoding. DEDUCED (notes/assumptions/46.md). -/
def liftIf (s : State) (ok : Bool) (f : Dev → Dev) : Out3 :=
  if ok then lift s f else .refused .reservedOperand

/-! ### Control registers as words

A control register is listed under its BAR0 offset once written; an unlisted one holds its reset value. -/

/-- Offset within an array of `n` equal blocks of `size` bytes from `base`. -/
def blockOff (base size n off : Nat) : Option Nat :=
  if base ≤ off && off < base + size * n then some ((off - base) % size) else none

/-- Reset values of the control registers whose reset is not 0 (their register descriptions). -/
def regReset (off : Nat) : Word :=
  match off with
  | 0x08000 => 0x800007D0#32
  | 0x10004 => 0x00000003#32
  | 0x20030 => 0x04000100#32
  | 0x20040 => 0x03E80000#32
  | 0x20044 => 0x0000C350#32
  | 0x68028 => 0x00000200#32
  | 0x6802C => 0x03E80000#32
  | 0x04004 => 0x0A676200#32
  | 0x70000 => 0xC0000064#32
  | 0x06000 => 0xC000004C#32
  | 0x06008 => 0xA0000000#32
  | _ =>
    match blockOff 0x30000 0x1000 12 off with
    | some o => if o = 0xC then 3#32 else if o = 0x10 then 0x100#32 else 0
    | none =>
      match blockOff 0x50000 0x800 16 off with
      | some o =>
        if o = 0 then 0x10040000#32 else if o = 0xC then 0x44040000#32
        else if o = 0x1C || o = 0x20 || o = 0x24 then 0x3F800000#32 else 0
      | none =>
        match blockOff 0x58000 0x800 8 off with
        | some o => if o = 0x14 then 0x03E8000A#32 else 0
        | none => 0

/-- The word a control register holds. -/
def regGet (d : Dev) (off : Nat) : Nat := (mget d.regs off (regReset off)).toNat

/-- A control register given a word. -/
def regPut (d : Dev) (off : Nat) (w : Nat) : Dev := { d with regs := mset d.regs off (BitVec.ofNat 32 w) }

/-! ### Masters (R7, R374, R379) -/

/-- The master behind an interface. -/
def masterOf : Iface → Master
  | .hl0 => .h
  | .hl1 => .h
  | .mgt => .m
  | .rwy => .f
  | .loader => .h

/-- Whether a write on this interface comes from the owner: the loader's count as the owner's while it loads (R372); in DISPUTE and
without an owner nobody's do (R7, R380). DEDUCED (notes/assumptions/29.md). -/
def isOwner (d : Dev) (i : Iface) : Bool :=
  match i with
  | .loader => d.boot.st == .load
  | _ => d.own.st == .owned && d.own.owner == some (masterOf i)

/-- An owner's command: from anyone else it changes nothing (R7). -/
def ownerOnly (d : Dev) (i : Iface) (f : Dev → Dev) : Dev := if isOwner d i then f d else d

/-! ### Free values -/

/-- The next free value below `2^n`, and the block with the counter moved on. DESIGN CHOICE (notes/assumptions/3.md). -/
def drawFree (d : Dev) (n : Nat) : Nat × Dev := (Config.freeNat d.free % 2 ^ n, { d with free := d.free + 1 })

/-- `k` free bytes. -/
def drawBytes (d : Dev) (k : Nat) : List Byte × Dev :=
  ((List.range k).map (fun i => BitVec.ofNat 8 (Config.freeNat (d.free + i))), { d with free := d.free + k })

/-! ### Time

The block's time is DEVTIME and a local count of nanoseconds that no alignment moves. A command that stands for an event at a known
moment carries both to that moment (notes/assumptions/22.md). -/

/-- Nanoseconds that pass. DESIGN CHOICE (notes/assumptions/4.md). -/
def elapse (d : Dev) (ns : Nat) : Dev :=
  { d with clk := { d.clk with localNs := d.clk.localNs + ns, devtime := d.clk.devtime + BitVec.ofNat 64 ns } }

/-- The local time is at least `t`. DESIGN CHOICE (notes/assumptions/22.md). -/
def untilLocal (d : Dev) (t : Nat) : Dev := elapse d (t - d.clk.localNs)

/-- DEVTIME is at least `t`. DESIGN CHOICE (notes/assumptions/22.md). -/
def untilDevtime (d : Dev) (t : Nat) : Dev := elapse d (t - d.clk.devtime.toNat)

/-- A span begins: its start is noted. -/
def startTimer (d : Dev) (t : Timer) : Dev :=
  { d with clk := { d.clk with timers := d.clk.timers.filter (fun p => p.1 != t) ++ [(t, d.clk.localNs)] } }

/-- The local time is at least `ns` after the start of a span. DESIGN CHOICE (notes/assumptions/22.md). -/
def afterTimer (d : Dev) (t : Timer) (ns : Nat) : Dev :=
  match d.clk.timers.find? (fun p => p.1 == t) with
  | some p => untilLocal d (p.2 + ns)
  | none => d

/-- Something leaves the device. DESIGN CHOICE (notes/assumptions/45.md). -/
def emit (d : Dev) (o : Out) : Dev := { d with out := d.out ++ [o] }

/-! ### Tiles and scopes -/

def tile (d : Dev) (g : Nat) : Tile := mget d.tiles g Tile.reset
def setTile (d : Dev) (g : Nat) (t : Tile) : Dev := { d with tiles := mset d.tiles g t }
def updTile (d : Dev) (g : Nat) (f : Tile → Tile) : Dev := setTile d g (f (tile d g))

/-- Scope of register set `s` (chapter 03, CHT registers); 2 is no scope, for accesses that no job makes. -/
def scope (d : Dev) (s : Nat) : Scope := if s = 0 then d.sc0 else if s = 1 then d.sc1 else Scope.reset
def setScope (d : Dev) (s : Nat) (x : Scope) : Dev :=
  if s = 0 then { d with sc0 := x } else if s = 1 then { d with sc1 := x } else d
def updScope (d : Dev) (s : Nat) (f : Scope → Scope) : Dev := setScope d s (f (scope d s))

/-- SCH_CTRL.PAIRED. -/
def paired (d : Dev) : Bool := bit (regGet d 0x8000) 30

/-- Register set that serves tile `g` (R36): set 0 the device or the west half, set 1 the east half in paired mode. -/
def scopeOf (d : Dev) (g : Nat) : Nat := if d.sc0.jobValid && d.sc0.kind == .device then 0 else if g < 400 then 0 else 1

/-- Whether tile `g` belongs to a scope of this kind. -/
def inScope (k : ScopeKind) (g : Nat) : Bool :=
  match k with
  | .device => g < 800
  | .west => g < 400
  | .east => 400 ≤ g && g < 800

/-- Index of a tile within its scope (R71, R135). -/
def tileIndex (k : ScopeKind) (g : Nat) : Nat := if k = .east then g - 400 else g

/-- Global index of a scope-relative tile. -/
def tileGlobal (k : ScopeKind) (i : Nat) : Nat := if k = .east then i + 400 else i

/-- Number of tiles of a scope. -/
def scopeTiles (k : ScopeKind) : Nat := if k = .device then 800 else 400

/-- Scope coding of fault records and TMG_LAST_FAIL: 0 device, 1 west, 2 east. -/
def scopeCode (k : ScopeKind) : Nat :=
  match k with
  | .device => 0
  | .west => 1
  | .east => 2

/-- Whether a scope executes bundles now. -/
def running (x : Scope) : Bool := x.jobValid && x.phase == .run && !x.jobEnded

/-- Whether the slot of tile `g` executes in the current beat: its scope runs, its die has power and its lane is not
over. -/
def tileRuns (d : Dev) (g : Nat) : Bool :=
  let x := scope d (scopeOf d g)
  running x && inScope x.kind g && (tile d g).powered

/-! ### MSI-X (R408) -/

/-- A vector raised on one link: sent when the link is up and the vector is not masked, kept pending otherwise. -/
def raiseOn (d : Dev) (link vec : Nat) : Dev :=
  let tbl := if link = 0 then d.hlk.msix0 else d.hlk.msix1
  let up := if link = 0 then d.hlk.up0 else d.hlk.up1
  let masked := bit (mget tbl (4 * vec + 3) 1).toNat 0
  if !up then d
  else if masked then
    if link = 0 then { d with hlk := { d.hlk with pba0 := if d.hlk.pba0.contains vec then d.hlk.pba0 else d.hlk.pba0 ++ [vec] } }
    else { d with hlk := { d.hlk with pba1 := if d.hlk.pba1.contains vec then d.hlk.pba1 else d.hlk.pba1 ++ [vec] } }
  else emit d (.msix link vec)

/-- The link that serves pair `q` (R409). -/
def servingLink (d : Dev) (q : Nat) : Nat := flag (bit d.hlk.serve q)

/-- Whether a link is up. -/
def linkUp (d : Dev) (link : Nat) : Bool := if link = 0 then d.hlk.up0 else d.hlk.up1

/-- A posted write to host memory on a link, remembered for 100 microseconds (R410). -/
def hostPost (d : Dev) (link : Nat) (cq : Option Nat) (addr : Nat) (data : List Byte) : Dev :=
  let keep := d.hlk.posted.filter (fun p => decide (d.clk.localNs ≤ p.at_ + 100000))
  emit { d with hlk := { d.hlk with posted := keep ++ [⟨link, d.clk.localNs, cq, addr, data⟩] } } (.hostWrite addr data)

/-- The link that carries T2 traffic: that of the SQ of the running job (R409), HL0 with none running. DEDUCED (notes/assumptions/40.md).
-/
def t2Link (d : Dev) : Nat :=
  match d.sched.running with
  | some k => ((mget? d.sched.slots k).map (fun j => servingLink d j.sq)).getD 0
  | none => 0

/-! ### Faults (R342 to R344) -/

/-- What a unit reports to the collector. -/
structure FSpec where
  cls : Nat
  block : Nat
  code : Nat
  unit : Nat
  scope : Nat
  slot : Nat
  detail : Nat
  deriving DecidableEq, Repr

/-- A report without unit, scope, slot and detail. -/
def fspec (cls block code : Nat) : FSpec := ⟨cls, block, code, 0, 0, 0xFFFF, 0⟩

/-- CODE of a record: class, source block, code (R342). -/
def faultCode (cls block code : Nat) : Nat := cls * 0x1000 + block * 0x40 + code

/-- Row of Table 16-5 that a class takes. DESIGN CHOICE (notes/assumptions/27.md). -/
def actionOf (cls : Nat) : Nat := if cls ≤ 1 then 1 else cls

/-- FN_MIN as it acts: 6 and 7 act as 5 (FLT_CTRL). -/
def fnMin (d : Dev) : Nat := let v := fld (regGet d 0x10004) 0 3; if 5 < v then 5 else v

/-- A record appended to the crash log's ring of slots 1 to 127 (R353). -/
def clogAdd (c : CrashLog) (r : FaultRec) : CrashLog :=
  let i := if c.next = 0 then 1 else c.next
  { c with recs := mset c.recs i r, next := if i = 127 then 1 else i + 1, written := (c.written + 1) % 2 ^ 32 }

/-- A record written with its containment time (R343), FAULT_N and its vector (R344), and the console line (R419). -/
def recordAt (d : Dev) (f : FSpec) (containUs : Nat) (late contained : Bool) : Dev :=
  let r : FaultRec :=
    { cls := f.cls, block := f.block, code := f.code, pairB := d.flt.activeB, contained := contained, late := late,
      seq := d.flt.seq, devtime := d.clk.devtime, unit := f.unit % 2 ^ 16, scope := f.scope, action := actionOf f.cls,
      slot := f.slot, containUs := containUs, detail := f.detail % 2 ^ 64 }
  let k := d.flt.seq % 256
  let full := (mget? d.flt.ring k).isSome
  let hit := decide (fnMin d ≤ f.cls)
  let fl := { d.flt with
    ring := mset d.flt.ring k r
    seq := (d.flt.seq + 1) % 2 ^ 32
    lost := if full then satAdd 16 d.flt.lost 1 else d.flt.lost
    pend := d.flt.pend || hit
    maxClass := if d.flt.maxClass < f.cls then f.cls else d.flt.maxClass }
  let d := { d with flt := fl }
  let d := if 3 ≤ f.cls then { d with bk := { d.bk with clog := clogAdd d.bk.clog r } } else d
  let v := regGet d 0x70030
  let d := if hit && bit v 31 then raiseOn (raiseOn d 0 (fld v 0 11)) 1 (fld v 0 11) else d
  if 2 ≤ f.cls && bit (regGet d 0x6000) 30 then emit d (.console (faultCode f.cls f.block f.code)) else d

/-- A record of a fault the block finds itself. A record of class 0 or 1 has nothing to contain; for the others the time to containment is
a free value of at most 10 (R345; DESIGN CHOICE, notes/assumptions/12.md). -/
def record (d : Dev) (f : FSpec) : Dev :=
  if f.cls ≤ 1 then recordAt d f 0 false false
  else
    let r := drawFree d 16
    recordAt r.2 f (r.1 % 11) false true

/-- A discarded write (code 0x02, class 0) whose DETAIL is the offset or the command. -/
def discarded (d : Dev) (block detail : Nat) : Dev := record d { fspec 0 block 0x02 with detail := detail }

/-- The device changes state (Table 17-10), with its console line from LOAD onward (R419). DESIGN CHOICE (notes/assumptions/44.md). -/
def enterState (d : Dev) (st : DevState) : Dev :=
  let d := { d with boot := { d.boot with st := st } }
  if st != .reset && bit (regGet d 0x6000) 30 then emit d (.consoleState st) else d

/-! ### The authority token (R348, R349, R431) -/

/-- A change of the token: EPOCH grows, and the change is recorded. -/
def tokenChange (d : Dev) (primary : Nat) (sec : Bool) : Dev :=
  let e := d.flt.epoch + 1
  record { d with flt := { d.flt with epoch := e, primary := primary, secValid := sec } }
    { fspec 0 0x0A 0x12 with detail := e.toNat }

/-! ### The journal (R366, R367) -/

/-- What one record does to the replayed state. -/
def jApply (j : JState) (r : JRec) : JState :=
  match r with
  | .erase s => if s = 0 then { j with markA := true } else { j with markB := true }
  | .activate s => { j with pending := some s, tries := 0 }
  | .bootTry _ => { j with tries := j.tries + 1 }
  | .confirm s => { j with active := s, pending := none, tries := 0 }
  | .rollback _ => { j with pending := none, tries := 0 }
  | .verified s => if s = 0 then { j with markA := false } else { j with markB := false }
  | .retire k i => { j with retired := if j.retired.contains (k, i) then j.retired else j.retired ++ [(k, i)] }
  | .restore k i => { j with retired := j.retired.filter (fun x => x != (k, i)) }
  | .checkpoint .. => j

/-- TYPE of a record, and its ARG (Table 17-7): a byte for each slot, count and flag, KIND a byte, an index two bytes. DESIGN CHOICE
(notes/assumptions/59.md). -/
def jFields (r : JRec) : Nat × List Byte :=
  let b (n : Nat) : List Byte := leBytes 1 n
  match r with
  | .erase s => (0x01, b s)
  | .activate s => (0x02, b s)
  | .bootTry s => (0x03, b s)
  | .confirm s => (0x04, b s)
  | .rollback s => (0x05, b s)
  | .verified s => (0x06, b s)
  | .retire k i => (0x10, b k ++ leBytes 2 i)
  | .restore k i => (0x11, b k ++ leBytes 2 i)
  | .checkpoint a p t ma mb n => (0x20, b a ++ b (p.getD 0xFF) ++ b t ++ b (flag ma) ++ b (flag mb) ++ leBytes 2 n)

/-- The 32 bytes of a record (R366). -/
def jBytes (seq : Nat) (r : JRec) : List Byte :=
  let f := jFields r
  let head := leBytes 1 f.1 ++ leBytes 1 1 ++ leBytes 2 0 ++ leBytes 4 seq ++ f.2 ++ List.replicate (20 - f.2.length) 0
  head ++ leBytes 4 (crc32 head).toNat

/-- Whether a CHECKPOINT group is complete: the RETIRE records it counts follow it. -/
def jGroup (r : JRec) (rest : List JRec) : Bool :=
  match r with
  | .checkpoint _ _ _ _ _ n => n ≤ rest.length && (rest.take n).all (fun x => match x with
    | .retire .. => true
    | _ => false)
  | _ => false

/-- The records from the latest complete CHECKPOINT group on; none without one. -/
def jFrom : List JRec → Option (List JRec)
  | [] => none
  | r :: rs =>
    match jFrom rs with
    | some t => some t
    | none => if jGroup r rs then some (r :: rs) else none

/-- The state that replay starts from, by its first record. -/
def jStart (l : List JRec) : JState :=
  match l with
  | .checkpoint a p t ma mb _ :: _ => ⟨a, p, t, ma, mb, []⟩
  | _ => JState.reset

/-- Records in SEQ order replayed from the latest complete CHECKPOINT group (R367). A CHECKPOINT after it, of a group that was cut off, changes
nothing. -/
def jReplay (l : List JRec) : JState := let k := (jFrom l).getD l; k.foldl jApply (jStart k)

/-- What a mirror holds, its old sector first. -/
def jCells (m : JMirror) : List JCell := if m.cur = 0 then m.sect1 ++ m.sect0 else m.sect0 ++ m.sect1

/-- Each SEQ with the record of whichever mirror holds it valid, JM0 before JM1 (R367). -/
def jMerged (n : Nvm) : FMap JRec :=
  (jCells n.jm1 ++ jCells n.jm0).foldl (fun m c => if c.ok then mset m c.seq c.what else m) []

/-- The replayed state of the journal. -/
def jNow (d : Dev) : JState := jReplay ((jMerged d.nvm).map (fun p => p.2))

/-- SEQ of the next record. -/
def jSeq (n : Nvm) : Nat := match (jMerged n).getLast? with
  | some p => p.1 + 1
  | none => 0

/-- Records of a sector of a mirror. -/
def sectorRecs : Nat := 2048

/-- The current sector of a mirror. -/
def jSector (m : JMirror) : List JCell := if m.cur = 0 then m.sect0 else m.sect1

/-- A record appended to a mirror's current sector. -/
def jPut (m : JMirror) (c : JCell) : JMirror :=
  if m.cur = 0 then { m with sect0 := m.sect0 ++ [c] } else { m with sect1 := m.sect1 ++ [c] }

/-- Compaction: the next sector is erased and takes a CHECKPOINT group that restates a state, from a SEQ on; the old sector stays. -/
def jCompact (m : JMirror) (j : JState) (seq : Nat) : JMirror :=
  let rs := JRec.checkpoint j.active j.pending j.tries j.markA j.markB j.retired.length :: j.retired.map (fun r => .retire r.1 r.2)
  let cs := (List.range rs.length).zipWith (fun i r => (⟨seq + i, r, true⟩ : JCell)) rs
  if m.cur = 0 then { m with sect1 := cs, cur := 1 } else { m with sect0 := cs, cur := 0 }

/-- A record written to one mirror; a sector that it fills is compacted into the next. -/
def jMirrorWrite (m : JMirror) (c : JCell) (j : JState) : JMirror :=
  let m := jPut m c
  if sectorRecs ≤ (jSector m).length then jCompact m j (c.seq + 1) else m

/-- NVM address of the next JM0 record. -/
def jAddr (n : Nvm) : Nat := 0x30000 + 0x10000 * n.jm0.cur + 32 * (jSector n.jm0).length

/-- A record written, to JM0 first and then to JM1 (R366). -/
def jWrite (d : Dev) (r : JRec) : Dev :=
  let j := jApply (jNow d) r
  let c : JCell := ⟨jSeq d.nvm, r, true⟩
  let n := { d.nvm with jm0 := jMirrorWrite d.nvm.jm0 c j }
  let n := { n with jm1 := jMirrorWrite n.jm1 c j }
  { d with nvm := n, bk := { d.bk with jptr := jAddr n } }

/-- What JM0 holds valid and JM1 lacks, copied into JM1 (R367). -/
def jSync (n : Nvm) : Nvm :=
  let held := ((jCells n.jm1).filter (fun c => c.ok)).map (fun c => c.seq)
  { n with jm1 := ((jCells n.jm0).filter (fun c => c.ok && !held.contains c.seq)).foldl jPut n.jm1 }

end Sys2Proof.Machine
end

