-- ==== Sys2Proof/Machine/Clock.lean ====
section
/-! DEFINITION. The device clocks (R386), and what passes while no command waits: one clock cycle (R388, R331). -/

namespace Sys2Proof.Machine

/-! ### Derived clocks (Table 18-1) -/

inductive ClockName where
  | cclk | nclk | mclk | sclk | xspi
  deriving DecidableEq, Repr

/-- Divider of the 6.0 GHz root; that of CCLK is 4, 5 or 6 by the governor's step. -/
def clockDiv (d : Dev) (c : ClockName) : Nat :=
  match c with
  | .cclk => 4 + d.clk.step
  | .nclk => 3
  | .mclk => 6
  | .sclk => 16
  | .xspi => 30

/-- Frequency in kHz; before lock the SCD runs at 25 MHz (R357) and no other derived clock does. -/
def clockKhz (d : Dev) (c : ClockName) : Nat :=
  if d.clk.locked then 6000000 / clockDiv d c else if c = .sclk then 25000 else 0

/-! ### One cycle -/

/-- Nanoseconds of a cycle: 3, 3 and 2 in rotation from PLL lock on, 40 before it. -/
def tickNs (c : Clk) : Nat := if !c.locked then 40 else if c.phase = 2 then 2 else 3

/-- A slew of 1 ns in every 5,000 ns, which is 200 ppm: what a cycle of `n` nanoseconds adds. DESIGN CHOICE (notes/assumptions/22.md). -/
def slewStep (c : Clk) (n : Nat) : Int :=
  if c.slew = 0 || c.localNs / 5000 = (c.localNs + n) / 5000 then 0 else if 0 < c.slew then 1 else -1

/-- One cycle. DEVTIME stands while the device is in RESET. DESIGN CHOICE (notes/assumptions/22.md). -/
def tick (d : Dev) : Dev :=
  let n := tickNs d.clk
  if d.boot.st = .reset then { d with clk := { d.clk with localNs := d.clk.localNs + 40 } }
  else
    let k := slewStep d.clk n
    { d with clk := { d.clk with
        localNs := d.clk.localNs + n
        devtime := d.clk.devtime + BitVec.ofInt 64 ((n : Int) + k)
        slew := d.clk.slew - k
        phase := if !d.clk.locked then 0 else (d.clk.phase + 1) % 3 } }

end Sys2Proof.Machine
end

