-- ==== Sys2Proof/Machine/Operands.lean ====
section
/-! DEFINITION. Every operand form of a slot: register reads, guards (R78), T0 and object operands (R79), the static-port
accesses with the mapping faults of Table 5-9 (R99 to R103, R112 to R114), landing-buffer reads and releases (R42, R80),
and results that become readable later (R81). -/

namespace Sys2Proof.Machine

/-! ### Registers -/

def rdS (c : TileCore) (r : Nat) : Word := mget c.s r 0
def rdA (c : TileCore) (r : Nat) : Word48 := mget c.a r 0

/-- P0 reads as all ones (R78). -/
def rdP (c : TileCore) (r : Nat) : Word64 := if r = 0 then BitVec.allOnes 64 else mget c.p r 0

def rdV (c : TileCore) (r : Nat) : VReg := mget c.v r zeroVec

/-- P[PG] XOR PN, lane by lane (R78). -/
def guardMask (c : TileCore) (pg : Nat) (pn : Bool) : Word64 :=
  if pn then ~~~(rdP c pg) else rdP c pg

/-- Bit 0 of P[PG] XOR PN. -/
def guardOn (c : TileCore) (gd : Guard) : Bool := bit (guardMask c gd.pg.val gd.pn).toNat 0

/-- The guard enables at least one lane. -/
def guardAny (c : TileCore) (gd : Guard) : Bool := guardMask c gd.pg.val gd.pn != 0

/-- Byte address of a T0 operand (R79). -/
def t0Addr (c : TileCore) (aa off : Nat) : Nat := fld (rdA c aa).toNat 0 21 + off * 64

/-- Handle of an object operand (R79). -/
def objHandle (c : TileCore) (aa : Nat) : Nat := fld (rdA c aa).toNat 32 16

/-- Byte offset of an object operand (R79). -/
def objOff (c : TileCore) (aa : Nat) : Nat := fld (rdA c aa).toNat 0 32

/-! ### Results (R81) -/

/-- A result that becomes readable `l` beats later. -/
def later (t : TileCore) (l : Nat) (r : Res) : TileCore := { t with pend := t.pend ++ [⟨l, r⟩] }

def updCore (d : Dev) (g : Nat) (f : TileCore → TileCore) : Dev := updTile d g (fun t => { t with core := f t.core })

/-- A result of tile `g`. -/
def result (d : Dev) (g l : Nat) (r : Res) : Dev := updCore d g (fun c => later c l r)

/-! ### Mapping faults (R112 to R114) -/

/-- Resource codes of Table 5-9. -/
def mfAddrWindow : Nat := 0x01
def mfAlign : Nat := 0x02
def mfBankCross : Nat := 0x03
def mfBankPort : Nat := 0x04
def mfAcc : Nat := 0x05
def mfMxuBusy : Nat := 0x06
def mfWeightBuf : Nat := 0x07
def mfOperandPair : Nat := 0x08
def mfLbUncovered : Nat := 0x09
def mfLbOverrun : Nat := 0x0A
def mfLbState : Nat := 0x0B
def mfRetain : Nat := 0x0C
def mfHoldQueue : Nat := 0x0D
def mfPendingFull : Nat := 0x0E
def mfPendingWrite : Nat := 0x0F
def mfSfuTable : Nat := 0x10
def mfEnginePermit : Nat := 0x11
def mfEngineCmd : Nat := 0x12

/-- Whether fault `a` comes before `b`: earlier cycle, then lower tile index, then slot order (R113). -/
def faultBefore (a b : MFault) : Bool :=
  a.cycle < b.cycle ||
    (a.cycle == b.cycle && (a.tile < b.tile || (a.tile == b.tile && decide (a.slot < b.slot))))

/-- A scope that has seen one more committed mapping fault keeps the first (R113). -/
def scopeFault (x : Scope) (f : MFault) : Scope :=
  match x.fault with
  | none => { x with fault := some f }
  | some o => if faultBefore f o then { x with fault := some f } else x

/-- Whether a speculation or a check tail is open. -/
def specOpen (x : Scope) : Bool := match x.spec with
  | some sp => !sp.idle
  | none => false

/-- The first of the fault latched and a new one. -/
def firstFault (o : Option MFault) (f : MFault) : MFault := match o with
  | some o => if faultBefore f o then f else o
  | none => f

/-- Mapping fault of a slot of tile `g`, slot numbered as TIL_MFLT.SLOT, 6 for an arrival: latched, or held while a speculation is open and
the scope frozen until it resolves (R114). The first is kept, in slot order within a beat (R113). -/
def mapFault (d : Dev) (g slot resource detail addr : Nat) : Dev :=
  let si := scopeOf d g
  let x := scope d si
  let f : MFault :=
    { spec := false, slot := slot, resource := resource, detail := detail % 64, pos := x.pos, beat := x.beat,
      addr := addr % 2 ^ 21, cycle := x.jobCycles, tile := tileIndex x.kind g }
  if specOpen x then
    let d := updTile d g (fun t =>
      { t with specFault := some (firstFault t.specFault f), specCount := t.specCount + 1, stopIssue := true })
    updScope d si (fun x => { x with spec := x.spec.map (fun sp =>
      { sp with stallAt := (match sp.stallAt with | none => some (x.jobCycles + 1) | some n => some n) }) })
  else
    let d := updTile d g (fun t =>
      { t with mflt := some (firstFault t.mflt f), later := if t.mflt.isSome then satAdd 16 t.later 1 else t.later
               stopIssue := true })
    updScope d si (fun x => scopeFault x f)

/-! ### T0 with its shadow area (R52, R103) -/

/-- One byte of T0 as a slot reads it: a shadow line stands before its home. -/
def t0Byte (t : Tile) (a : Nat) : Byte :=
  match mget? t.shadow (a / 64) with
  | some l => byteAt l.data (a % 64)
  | none => memGet t.t0 a

/-- `n` bytes of T0 from an address. -/
def t0Read (t : Tile) (a n : Nat) : List Byte := (List.range n).map (fun i => t0Byte t (a + i))

/-- A byte written to its home bank, and to a line that stands before it: arrivals and drains keep both alike. -/
def t0PutHome (t : Tile) (a : Nat) (b : Byte) : Tile :=
  let t := { t with t0 := memSet t.t0 a b }
  match mget? t.shadow (a / 64) with
  | some l => { t with shadow := mset t.shadow (a / 64) { l with data := listUpd l.data (a % 64) (fun _ => b) } }
  | none => t

/-- A byte written to the shadow area under the open epoch; a committed line still there goes home first. -/
def t0PutSpec (t : Tile) (a : Nat) (b : Byte) : Tile :=
  let k := a / 64
  let t :=
    match mget? t.shadow k with
    | some l => if l.isOpen then t else { t with t0 := memWrite t.t0 (64 * k) l.data, shadow := mdel t.shadow k }
    | none => t
  let line := (mget? t.shadow k).getD ⟨memRead t.t0 (64 * k) 64, true⟩
  { t with shadow := mset t.shadow k { data := listUpd line.data (a % 64) (fun _ => b), isOpen := true } }

/-- Bytes written by a slot: to the shadow area while a speculation is open, home otherwise. -/
def t0Write (t : Tile) (spec : Bool) (a : Nat) : List Byte → Tile
  | [] => t
  | b :: bs => t0Write (if spec then t0PutSpec t a b else t0PutHome t a b) spec (a + 1) bs

/-! ### Landing buffers -/

def lbuf (c : TileCore) (i : Nat) : LBuf := mget c.lbs i ⟨.free, 0, 0, 0, 0, .t1⟩

/-- Whether two spans share a byte. -/
def overlap (a n b m : Nat) : Bool := decide (a < b + m) && decide (b < a + n) && n != 0 && m != 0

/-- The lowest entry, in state `st`, whose area shares a byte with a span. -/
def lbOver (c : TileCore) (st : LBState) (a n : Nat) : Option Nat :=
  (List.range 64).find? (fun i => let l := lbuf c i; l.st == st && overlap a n l.base l.len)

/-- The lowest entry that is not FREE and whose area contains an address. -/
def lbAt (c : TileCore) (a : Nat) : Option Nat :=
  (List.range 64).find? (fun i => let l := lbuf c i; l.st != .free && overlap a 1 l.base l.len)

/-- Release of an entry (R80): READY to FREE at the end of the beat; held while a speculation is open (R52). -/
def release (d : Dev) (g lb : Nat) : Dev :=
  if specOpen (scope d (scopeOf d g)) then updTile d g (fun t => { t with heldRel := t.heldRel ++ [lb] })
  else result d g 1 (.lbFree lb)

/-- Release, when REL is set, of the entry whose area contains the operand address. -/
def releaseAt (d : Dev) (g : Nat) (rel : Bool) (addr : Nat) : Dev :=
  if rel then
    match lbAt (tile d g).core addr with
    | some i => release d g i
    | none => d
  else d

/-! ### Static-port accesses (R99 to R102) -/

/-- Bank of a T0 byte address (R99). -/
def bankOf (a : Nat) : Nat := fld a 17 4

/-- First fault of a static-port access of `n` bytes (a multiple of 64), `k` beats from now. Of two accesses that collide on a bank, the one whose
command comes later faults. DESIGN CHOICE (notes/assumptions/56.md). -/
def portFault (c : TileCore) (k a n : Nat) : Option (Nat × Nat) :=
  if 2 ^ 21 < a + n then some (mfAddrWindow, bankOf a)
  else if a % 64 != 0 then some (mfAlign, bankOf a)
  else if a / 2 ^ 17 != (a + n - 1) / 2 ^ 17 then some (mfBankCross, bankOf a)
  else if c.ports.contains (k, bankOf a) then some (mfBankPort, bankOf a)
  else none

/-- The access counted on its bank `k` beats from now. -/
def usePort (c : TileCore) (k a : Nat) : TileCore := { c with ports := c.ports ++ [(k, bankOf a)] }

/-- A static-port write of `n` bytes that falls `k` beats from now: its bank is taken for that beat, and a fault of the access is raised in it
(R100, R101, R113). -/
def lateWrite (slot k a n : Nat) (data : List (Option Byte)) (sp : Bool) (c : TileCore) : TileCore :=
  match portFault c k a n with
  | some f => { c with pend := c.pend ++ [⟨k + 1, .fault slot f.1 f.2 a⟩] }
  | none => { usePort c k a with pend := c.pend ++ [⟨k + 1, .t0 slot a data sp⟩] }

/-- First fault of reading a span: an ARMED landing buffer in it is not READY at its use (R42, R43). -/
def readFault (c : TileCore) (a n : Nat) : Option (Nat × Nat) :=
  match lbOver c .armed a n with
  | some i => some (mfLbUncovered, i)
  | none => none

/-- Whether a span meets an area that its region retains until it commits (R58). -/
def retained (t : Tile) (a n : Nat) : Bool := t.retain.any (fun r => overlap a n r.1 r.2)

/-- First fault of a static-port write: an ARMED landing buffer (R102), a retained area while its region is uncommitted
(R58), a pending source (R102). -/
def writeFault (t : Tile) (a n : Nat) : Option (Nat × Nat) :=
  match lbOver t.core .armed a n with
  | some i => some (mfLbState, i)
  | none =>
    if retained t a n then some (mfRetain, 0)
    else if t.psrc.any (fun p => overlap a n p.addr p.len) then some (mfPendingWrite, bankOf a)
    else none

/-- A static-port read now: the bytes, or the zeros of a suppressed access (R112). -/
def staticRead (d : Dev) (g slot a n : Nat) : Option (List Byte) × Dev :=
  let c := (tile d g).core
  match portFault c 0 a (roundUp n 64) with
  | some f => (none, mapFault d g slot f.1 f.2 a)
  | none =>
    let d := updCore d g (fun c => usePort c 0 a)
    match readFault c a n with
    | some f => (none, mapFault d g slot f.1 f.2 a)
    | none => (some (t0Read (tile d g) a n), d)

/-- A static-port write now, of whole bytes at the access's start. -/
def staticWrite (d : Dev) (g slot a n : Nat) (put : Tile → Tile) : Dev :=
  match portFault (tile d g).core 0 a (roundUp n 64) with
  | some f => mapFault d g slot f.1 f.2 a
  | none =>
    let d := updCore d g (fun c => usePort c 0 a)
    match writeFault (tile d g) a n with
    | some f => mapFault d g slot f.1 f.2 a
    | none => updTile d g put

/-- A source that the fill port reads (R101): its window (R79) and landing buffers, no static port. -/
def sourceFault (c : TileCore) (a n : Nat) : Option (Nat × Nat) :=
  if 2 ^ 21 < a + n then some (mfAddrWindow, bankOf a) else readFault c a n

/-- Whether the beat of tile `g` is speculative. -/
def inSpec (d : Dev) (g : Nat) : Bool := specOpen (scope d (scopeOf d g))

/-- Whether outside operations are held: a speculation is open, or a replayable region is uncommitted (R52, R58). -/
def holding (d : Dev) (g : Nat) : Bool :=
  let x := scope d (scopeOf d g)
  specOpen x || x.rrun.isSome

/-- A slot of tile `g` that executes: guarded by bit 0 (R78). -/
def slotRun (s : State) (g : Fin 800) (gd : Guard) (ok : Bool) (f : Dev → Dev) : Out3 :=
  liftIf s ok (fun d => if tileRuns d g.val && guardOn (tile d g.val).core gd then f d else d)

/-- A VPU or EVAL slot of tile `g`: executes when its guard enables a lane (R78). -/
def laneRun (s : State) (g : Fin 800) (gd : Guard) (ok : Bool) (f : Dev → Dev) : Out3 :=
  liftIf s ok (fun d => if tileRuns d g.val && guardAny (tile d g.val).core gd then f d else d)

/-- A slot without a condition: CTL (R78), and SEL, whose guard selects (R143). -/
def ctlRun (s : State) (g : Fin 800) (ok : Bool) (f : Dev → Dev) : Out3 :=
  liftIf s ok (fun d => if tileRuns d g.val then f d else d)

end Sys2Proof.Machine
end

