-- ==== Sys2Proof/Machine/Flags.lean ====
section
/-! DEFINITION. The monitors, which are the flags of this block: what each conversion and each FP32 result counts in a
replayable region (R56, R139, R154), the block-amax areas and scale latches (R129, R130), and the rounding a beat uses
(R134, R135). -/

namespace Sys2Proof.Machine

/-- The replayable region that tile `g` executes now, not its check tail (R56, R154). -/
def regionNow (d : Dev) (g : Nat) : Option Region :=
  let x := scope d (scopeOf d g)
  match x.rrun with
  | some r =>
    match x.regions[r.region]? with
    | some rg => if rg.s ≤ x.pos && x.pos ≤ rg.e then some rg else none
    | none => none
  | none => none

/-- The monitored tensor of a tag in the region now executing. -/
def tensorNow (d : Dev) (g tag : Nat) : Option Tensor :=
  if tag = 0 then none
  else match regionNow d g with
    | some rg => rg.tensors.find? (fun t => t.tag == tag)
    | none => none

/-- L[TAG] (R129): 1.0 outside a replayable region, for TAG 0 and for a TAG without a tensor entry. -/
def latchOf (d : Dev) (g tag : Nat) : Num :=
  match tensorNow d g tag with
  | some _ => dec32 (mget (tile d g).core.latch tag one32)
  | none => .fin false 1 1

/-- Counts of a list of conversions added to the monitors (R139). -/
def monConv (c : TileCore) (cs : List Conv) : TileCore :=
  { c with ovf := satAdd 32 c.ovf (countIf cs (fun x => x.ovf))
           sat := satAdd 32 c.sat (countIf cs (fun x => x.sat))
           nan := satAdd 32 c.nan (countIf cs (fun x => x.nan)) }

/-- NaN results of FP32 values (R154). -/
def monNan (c : TileCore) (ws : List Word) : TileCore :=
  { c with nan := satAdd 32 c.nan (countIf ws isNan32) }

/-- Largest magnitude of a list of values, NaN left out, as FP32; +inf for an infinite one (R154). -/
def amaxOf (ws : List Word) : Word :=
  (ws.filter (fun w => !isNan32 w)).foldl (fun m w => fmax m (fabs w)) 0

/-- Tensor amax of a tag raised to a list of values (R56). -/
def monAmax (c : TileCore) (tag : Nat) (ws : List Word) : TileCore :=
  { c with amax := mset c.amax tag (fmax (mget c.amax tag 0) (amaxOf ws)) }

/-- Conversions of tile `g` counted, with their tag's amax, when a replayable region executes (R56, R139, R154). -/
def monitorConv (d : Dev) (g tag : Nat) (xs : List Word) (cs : List Conv) : Dev :=
  match regionNow d g with
  | none => d
  | some _ =>
    let d := updCore d g (fun c => monConv c cs)
    match tensorNow d g tag with
    | some _ => updCore d g (fun c => monAmax c tag xs)
    | none => d

/-- FP32 results of tile `g` counted when a replayable region executes (R154). -/
def monitorNan (d : Dev) (g : Nat) (ws : List Word) : Dev :=
  match regionNow d g with
  | none => d
  | some _ => updCore d g (fun c => monNan c ws)

/-- Saturations of block scales (R125, R126, R139). -/
def monitorScaleSat (d : Dev) (g : Nat) (n : Nat) : Dev :=
  match regionNow d g with
  | none => d
  | some _ => updCore d g (fun c => { c with sat := satAdd 32 c.sat n })

/-- Amax of each block of a tagged conversion written at the tensor's per-block area, and j moved on (R130). A write that
reaches 2 MiB or a retained area is a mapping fault (R58, R91). -/
def blockAmax (d : Dev) (g tag : Nat) (blocks : List (List Word)) : Dev :=
  match tensorNow d g tag with
  | none => d
  | some ts =>
    blocks.foldl (fun d ws =>
      let j := mget (tile d g).core.jctr tag 0
      let a := ts.bamax + 4 * j
      let d :=
        if 2 ^ 21 < a + 4 then mapFault d g 2 mfAddrWindow (bankOf a) a
        else if retained (tile d g) a 4 then mapFault d g 2 mfRetain 0 a
        else
          let sp := inSpec d g
          updTile d g (fun t => t0Write t sp a (leBytes 4 (amaxOf ws).toNat))
      updCore d g (fun c => { c with jctr := mset c.jctr tag (j + 1) })) d

/-! ### Rounding of a beat (R134, R135) -/

/-- Mode of element `k` under RM, with `x` the LFSR state after the beat's 32 steps. -/
def rmodeOf (rm x k : Nat) : RMode :=
  match rm with
  | 1 => .rtz
  | 2 => .stoch (rndBits x k)
  | _ => .rne

/-- Rounding of the elements of this beat's conversion, and the tile with its LFSR stepped when RM is stochastic. A
second conversion of the same beat uses the same state: `stepped` marks that the beat has taken its steps. -/
def roundBeat (d : Dev) (g : Nat) : (Nat → RMode) × Dev :=
  let c := (tile d g).core
  if c.rm = 2 then
    let x := if c.stepped then c.lfsr.toNat else lfsrSteps 32 c.lfsr.toNat
    (rmodeOf 2 x, updCore d g (fun c => { c with lfsr := BitVec.ofNat 32 x, stepped := true }))
  else (rmodeOf c.rm 0, d)

end Sys2Proof.Machine
end

