-- ==== Sys2Proof/WellFormed.lean ====
section
/-! DEFINITION. Which operand fields a command may hold: the reserved codes and the field rules of chapters 04 to 07
that validation checks once per image (R83 to R90, R120, R121, R142), so that no tile executes a slot that breaks
them. Operands bounded by their types need no check. -/

namespace Sys2Proof

/-- Unused LB fields of CHECK are 0 (Table 4-6). -/
def wfCheck (n : Fin 4) (lb lc ld : Fin 64) : Bool :=
  (1 ≤ n.val || lb.val == 0) && (2 ≤ n.val || lc.val == 0) && (3 ≤ n.val || ld.val == 0)

/-- SRC 5 to 7 is reserved; Sb is even. -/
def wfArm (src : Fin 8) (sb : Fin 64) : Bool := src.val ≤ 4 && sb.val % 2 == 0

/-- COND 6 to 15 is not defined. -/
def wfPset (cond : Fin 16) : Bool := cond.val ≤ 5

/-- FN 13 to 15 is not defined. -/
def wfSalu (fn : Fin 16) : Bool := fn.val ≤ 12

/-- FN 3 is reserved; FN 0 has Sa at most 62. -/
def wfAmov (fn : Fin 4) (sa : Fin 64) : Bool := fn.val != 3 && (fn.val != 0 || sa.val ≤ 62)

/-- CSR 1 to 15 is reserved. -/
def wfCsrw (csr : Fin 16) : Bool := csr.val == 0

/-- Weight formats of Table 5-3. -/
def wfFmtw (f : Fin 16) : Bool := [0x1, 0x2, 0x3, 0x4, 0x5, 0x6, 0x7, 0x8, 0x9, 0xA, 0xC, 0xD].contains f.val

/-- Activation formats of Table 5-3. -/
def wfFmta (f : Fin 16) : Bool := 1 ≤ f.val && f.val ≤ 6

/-- Code 0xF is reserved (R120). DRN faults at run time on the codes that it does not take (R107). -/
def wfFmto (f : Fin 16) : Bool := f.val != 0xF

/-- TAG 0 means unmonitored and 1 to 16 name tensors (R85). -/
def wfTag (t : Fin 32) : Bool := t.val ≤ 16

/-- CMP's FMT holds a condition, 0 to 7 (Table 7-2). -/
def wfCmp (r : VR) : Bool := r.fmt.val ≤ 7

/-- Formats of VLD, VST and CVI (Table 6-2). -/
def wfFmtV (f : Fin 16) : Bool := f.val ≤ 6 || f.val == 0xE

/-- Formats of CVO (Table 6-2), and its tag. -/
def wfCvo (r : VR) : Bool := 1 ≤ r.fmt.val && r.fmt.val ≤ 0xE && wfTag r.tag

/-- WEL: three state registers from Vd (R142). -/
def wfWel (r : VR) : Bool := r.vd.val ≤ 29

/-- WMRG: three state registers from Vd (R142). -/
def wfWmrg (r : VR) : Bool := r.vd.val ≤ 29

/-- SMXU: four registers from Vd (R142). -/
def wfSmxu (r : VR) : Bool := r.vd.val ≤ 28

/-- SKMRG: FMT, SAT, WRAP and TAG are 0 (R168). -/
def wfSkmrg (r : VR) : Bool := r.fmt.val == 0 && !r.sat && !r.wrap && r.tag.val == 0

/-- VLD and VST. -/
def wfVM (m : VM) : Bool := wfFmtV m.fmt && wfTag m.tag

/-- ENG KIND 4 to 15 is not defined. -/
def wfEng (kind : Fin 16) : Bool := kind.val ≤ 3

/-- RWS VC 3 is reserved. -/
def wfRws (vc : Fin 4) : Bool := vc.val != 3

/-- COL KIND 3 to 7 is not defined; FMT 0xF is reserved. -/
def wfCol (kind : Fin 8) (fmt : Fin 16) : Bool := kind.val ≤ 2 && fmt.val != 0xF

/-- Whether a command's operand fields hold no reserved encoding. -/
def wfInstr (i : Instr) : Bool :=
  match i with
  | .registerWrite _ _ _ => true
  | .accessWrongSize _ _ _ _ => true
  | .unassignedAccess _ _ _ => true
  | .pairLoRead _ _ => true
  | .readClear _ _ => true
  | .dispatch => true
  | .beat _ => true
  | .freezeOrder _ => true
  | .slipRestart _ => true
  | .readyObserved _ _ _ => true
  | .landingArrival _ _ _ _ _ => true
  | .gpredDelivery _ _ => true
  | .gpredSet _ _ _ _ _ => true
  | .specResolve _ => true
  | .squashResume _ => true
  | .stallResume _ => true
  | .replayDecision _ => true
  | .shadowDrain _ _ => true
  | .sourceReadDone _ _ => true
  | .auditPoint _ => true
  | .jobOverrun _ => true
  | .scopeStop _ => true
  | .regionBegin _ => true
  | .regionEnd _ => true
  | .refresh _ => true
  | .stamp _ => true
  | .event _ => true
  | .jobEnd _ => true
  | .completionToken _ _ _ => true
  | .tokenCollect _ => true
  | .tokenTimeout _ => true
  | .completionRecord _ => true
  | .laneRest _ => true
  | .laneLoop _ => true
  | .laneEnd _ => true
  | .nop _ => true
  | .check _ n _ lb lc ld => wfCheck n lb lc ld
  | .arm _ _ src _ sb => wfArm src sb
  | .psend _ _ _ => true
  | .pset _ _ cond _ _ => wfPset cond
  | .plog _ _ _ _ _ => true
  | .salu _ fn _ _ _ => wfSalu fn
  | .sli _ _ _ _ => true
  | .amov _ _ fn sa _ => wfAmov fn sa
  | .csrw _ csr _ => wfCsrw csr
  | .ldw _ _ fmtw _ _ _ _ _ => wfFmtw fmtw
  | .mac _ _ fmta _ _ _ _ _ _ => wfFmta fmta
  | .drn _ _ _ fmto _ tag _ _ => wfFmto fmto && wfTag tag
  | .zac _ _ _ => true
  | .vpuAdd _ _ _ => true
  | .vpuSub _ _ _ => true
  | .vpuMul _ _ _ => true
  | .fma _ _ _ => true
  | .fms _ _ _ => true
  | .vpuMin _ _ _ => true
  | .vpuMax _ _ _ => true
  | .abs _ _ _ => true
  | .neg _ _ _ => true
  | .cmp _ _ r => wfCmp r
  | .vpuIntAdd _ _ _ => true
  | .vpuIntSub _ _ _ => true
  | .vpuIntMul _ _ _ => true
  | .vpuAnd _ _ _ => true
  | .vpuOr _ _ _ => true
  | .vpuXor _ _ _ => true
  | .vpuShl _ _ _ => true
  | .vpuShr _ _ _ => true
  | .vpuSra _ _ _ => true
  | .vpuIntMin _ _ _ => true
  | .vpuIntMax _ _ _ => true
  | .cvi _ _ r => wfFmtV r.fmt
  | .cvo _ _ r => wfCvo r
  | .mov _ _ _ => true
  | .bcast _ _ _ => true
  | .sel _ _ _ => true
  | .perm _ _ _ => true
  | .slide _ _ _ => true
  | .rsum _ _ _ => true
  | .rmax _ _ _ => true
  | .rmin _ _ _ => true
  | .wel _ _ r => wfWel r
  | .wmrg _ _ r => wfWmrg r
  | .smxu _ _ r => wfSmxu r
  | .skmrg _ _ r => wfSkmrg r
  | .vld _ _ m => wfVM m
  | .vst _ _ m => wfVM m
  | .evalTs _ _ _ _ _ _ => true
  | .tld _ _ _ _ _ => true
  | .tsel _ _ _ _ => true
  | .rd _ _ _ _ _ _ _ => true
  | .wr _ _ _ _ _ _ => true
  | .cpy _ _ _ _ _ _ _ => true
  | .atm _ _ _ _ _ _ => true
  | .nrw _ _ _ _ _ _ _ => true
  | .gth _ _ _ _ _ _ => true
  | .cmpt _ _ _ _ _ _ => true
  | .eng _ _ _ kind _ _ => wfEng kind
  | .snd _ _ _ _ _ _ _ => true
  | .rws _ _ _ _ _ _ vc _ => wfRws vc
  | .col _ _ _ _ kind fmt _ _ => wfCol kind fmt
  | .red _ _ _ _ fmt _ _ => wfFmto fmt
  | .validate _ _ => true
  | .validationDone _ => true
  | .invalidate _ _ => true
  | .imgCtrlReserved _ _ => true
  | .colourConversion _ => true
  | .remosaic _ _ _ => true
  | .patchify _ _ _ => true
  | .unpatchify _ _ _ _ _ => true
  | .vaeConvolution _ _ _ _ _ _ => true
  | .pxePooling _ _ _ _ _ _ => true
  | .cropAndResize _ _ _ _ _ _ => true
  | .pxeCompletion _ => true
  | .pageFillDone _ _ _ => true
  | .writebackDone _ _ => true
  | .writebackFail _ _ => true
  | .prefetchIssue _ _ => true
  | .prefetchComplete _ _ _ => true
  | .t2Timeout _ => true
  | .tierFail _ _ => true
  | .create _ _ => true
  | .destroy _ _ => true
  | .flush _ _ => true
  | .evict _ _ => true
  | .discard _ _ => true
  | .fetch _ _ => true
  | .tmgCmdReserved _ _ _ => true
  | .tmgCmdDone => true
  | .hbmTempRead _ _ => true
  | .refreshAccrual _ => true
  | .refreshRunEnd _ => true
  | .scrubRead _ _ _ => true
  | .cePeriodEnd _ => true
  | .channelRetire _ => true
  | .hbRetire _ _ _ => true
  | .hbRestore _ _ _ => true
  | .atmApply _ _ _ => true
  | .watermark _ => true
  | .atmAudit _ => true
  | .sqDoorbell _ _ _ => true
  | .cqDoorbell _ _ _ => true
  | .queueEnable _ _ _ => true
  | .descriptorAccept _ _ => true
  | .schAbort _ _ => true
  | .pairedSet _ _ => true
  | .configDec _ => true
  | .configEnc _ => true
  | .decode _ => true
  | .vceDrain _ => true
  | .encode _ => true
  | .vceRelease _ => true
  | .vceClose _ => true
  | .vceCompletion _ => true
  | .vceFault _ _ => true
  | .vceReset _ _ => true
  | .empEnable _ _ => true
  | .empDisable _ _ => true
  | .frameStart _ => true
  | .frameEnd _ => true
  | .empReadError _ _ => true
  | .fsyncInEdge _ _ => true
  | .acquire _ => true
  | .commit _ => true
  | .empReturn _ => true
  | .ticket _ => true
  | .commitArrive _ => true
  | .empCommitWrite _ _ _ => true
  | .verifyPassStart _ => true
  | .verifyPassDone _ _ => true
  | .targetWrite _ _ _ => true
  | .targetRead _ _ _ => true
  | .targetCcc _ _ => true
  | .rtAccRead _ _ _ => true
  | .rtAccWrite _ _ _ => true
  | .tokenAdopt _ => true
  | .disputeTimeout => true
  | .safeStateAssert => true
  | .safeStateRelease => true
  | .tokenLoss _ _ => true
  | .capEnable _ _ => true
  | .capDisable _ _ => true
  | .capFrameStart _ _ => true
  | .capLine _ _ _ => true
  | .capFrameEnd _ => true
  | .capFrameTimeout _ => true
  | .capOtherPacket _ => true
  | .take _ => true
  | .takeComplete _ => true
  | .capReturn _ => true
  | .fsyncOutRise _ => true
  | .fsyncOutFall _ => true
  | .portEnable _ _ => true
  | .trainingDone _ _ _ => true
  | .trainingTimeout _ => true
  | .ident _ _ _ _ => true
  | .flitReceive _ _ _ _ _ => true
  | .linkLoss _ => true
  | .flitTimeout _ => true
  | .portRetrain _ => true
  | .pktWr _ _ => true
  | .pktRdReq _ _ => true
  | .pktRdRsp _ _ => true
  | .pktWrAck _ _ => true
  | .pktColl _ _ => true
  | .pktMgt _ _ => true
  | .pktReturned _ _ => true
  | .pktWrapped _ _ => true
  | .pktReserved _ _ => true
  | .creditReturn _ _ _ => true
  | .auditSend _ => true
  | .audit _ _ => true
  | .reclaim _ _ => true
  | .timeExchange _ => true
  | .time _ _ _ => true
  | .holdover => true
  | .rejoin _ _ => true
  | .join _ => true
  | .portIsolate _ => true
  | .collTimeout _ => true
  | .estSample => true
  | .routeRead _ _ => true
  | .routeWrite _ _ => true
  | .faultReport _ => true
  | .fenceNoAnswer _ => true
  | .pendClear _ => true
  | .tokenBroadcast => true
  | .heartbeat _ _ _ => true
  | .heartbeatLoss _ => true
  | .disputeAck _ => true
  | .disputeWindowEnd => true
  | .pairFailover _ _ => true
  | .fltFence _ _ _ => true
  | .unfence _ _ _ => true
  | .unfenceSelftestDone _ => true
  | .fltRestore _ _ _ => true
  | .crashLogClear _ => true
  | .d2dAudit _ _ _ _ => true
  | .powerOnReset => true
  | .rstNAssert => true
  | .perstAssert _ => true
  | .perstDeassert _ => true
  | .watchdogExpire => true
  | .rstDevice _ _ => true
  | .rstPartial _ _ _ => true
  | .partialResetDone _ => true
  | .resetRelease _ => true
  | .pllLock _ => true
  | .kindlingApply => true
  | .selftestDone _ _ _ _ => true
  | .loaderFailure => true
  | .vbkupPowerOn => true
  | .claim _ _ => true
  | .renew _ => true
  | .ownRelease _ => true
  | .handover _ _ => true
  | .ownCmdBadOp _ _ => true
  | .electionClose => true
  | .leaseExpire => true
  | .download _ _ => true
  | .updateVerify _ => true
  | .activate _ => true
  | .confirm _ => true
  | .optWrite _ _ => true
  | .updateDone _ => true
  | .governorTick _ => true
  | .stepChange => true
  | .sensorScan _ => true
  | .tripRelease => true
  | .brakeAssert => true
  | .brakeRelease => true
  | .railFault _ _ => true
  | .refclkLoss _ => true
  | .sleepEnter _ => true
  | .sleepEntryDone => true
  | .wake _ => true
  | .wakeDone => true
  | .hostLinkFail _ _ => true
  | .recoveryTimeout _ => true
  | .autoBack _ => true
  | .movePairs _ _ => true
  | .moveHome _ => true
  | .moveWaitEnd _ => true
  | .bar2Read _ _ _ => true
  | .bar2Write _ _ _ => true
  | .ptmRequest => true
  | .ptmResponse _ _ => true
  | .mgtRead _ _ _ => true
  | .mgtWrite _ _ _ => true
  | .readLog _ _ _ => true
  | .mctpControl _ _ => true
  | .mctpBadMsg _ _ => true
  | .mgtTimeout _ _ _ _ _ => true
  | .pmbusPoll _ => true
  | .pmbAlert _ => true
  | .pmbXfer _ _ => true
  | .pmbXferDone _ _ _ => true
  | .bypass _ => true
  | .idcode _ => true
  | .samplePreload _ _ => true
  | .extest _ _ => true
  | .extestPulse _ _ => true
  | .extestTrain _ _ => true
  | .clamp _ => true
  | .highz _ => true
  | .jtagEnChange _ => true
  | .hostLinkUp _ _ _ _ => true
  | .configurationRequest _ => true
  | .cxlSnoop _ _ => true
  | .mgtDynamicAddress _ => true
  | .vbkupLoss => true
  | .trstNAssert => true

end Sys2Proof
end

