-- ==== Sys2Proof/Machine/Ctl.lean ====
section
/-! DEFINITION. The CTL slot (R83, Table 4-6), with CHECK (R42, R45), ARM (R41) and PSEND (R49). -/

namespace Sys2Proof.Machine

/-- A landing buffer that a CHECK at this position finds not READY is reported for use 32 positions later (R45). -/
def checkOne (d : Dev) (g lb : Nat) : Dev :=
  if (lbuf (tile d g).core lb).st = .ready then d
  else updScope d (scopeOf d g) (fun x =>
    { x with reps := x.reps ++ [⟨x.pos + 32, g, lb, false, none⟩] })

/-- An all-zero slot does nothing (R77). -/
def execNop (_g : Fin 800) (s : State) : Out3 := lift s (fun d => d)

/-- CHECK of the first `n + 1` buffers named. -/
def execCheck (g : Fin 800) (n : Fin 4) (la lb lc ld : Fin 64) (s : State) : Out3 :=
  ctlRun s g (wfCheck n lb lc ld) (fun d =>
    (([la, lb, lc, ld].take (n.val + 1)).map (fun i => i.val)).foldl (fun d i => checkOne d g.val i) d)

/-- The source class that ARM's SRC names. -/
def srcClass (n : Nat) : SrcClass :=
  match n with
  | 0 => .t1 | 1 => .t2 | 2 => .net | 3 => .rwy | _ => .eng

/-- ARM: a FREE entry becomes ARMED, READY at the end of the beat if nothing is expected; any other is a mapping
fault (Table 3-2). -/
def execArm (g : Fin 800) (lb : Fin 64) (src : Fin 8) (sa sb : Fin 64) (s : State) : Out3 :=
  ctlRun s g (wfArm src sb) (fun d =>
    let c := (tile d g.val).core
    if (lbuf c lb.val).st = .free then
      let e : LBuf := ⟨.armed, (rdS c sa.val).toNat, (rdS c sb.val).toNat, (rdS c (sb.val + 1)).toNat, 0,
        srcClass src.val⟩
      let d := updCore d g.val (fun c => { c with lbs := mset c.lbs lb.val e })
      if e.expected = 0 then result d g.val 1 (.lbReady lb.val) else d
    else mapFault d g.val 0 mfLbState lb.val 0)

/-- PSEND: bit 0 of a predicate leaves on the beat control path and arrives 12 cycles later (R40, R49). -/
def execPsend (g : Fin 800) (p : Fin 16) (idx : Fin 256) (s : State) : Out3 :=
  ctlRun s g true (fun d =>
    let v := bit (rdP (tile d g.val).core p.val).toNat 0
    updScope d (scopeOf d g.val) (fun x =>
      { x with flight := x.flight ++ [⟨idx.val, v, x.jobCycles + 12, x.jobCycles⟩] }))

/-- The conditions of PSET. -/
def scond (c : Nat) (a b : Word) : Bool :=
  match c with
  | 0 => a == b
  | 1 => a != b
  | 2 => decide (a.toInt < b.toInt)
  | 3 => decide (b.toInt ≤ a.toInt)
  | 4 => decide (a.toNat < b.toNat)
  | _ => decide (b.toNat ≤ a.toNat)

/-- A write of a predicate under a lane mask; P0 discards writes (R78). -/
def resultP (d : Dev) (g l pd : Nat) (mask v : Word64) : Dev :=
  if pd = 0 then d else result d g l (.p pd mask v)

/-- PSET: all lanes of Pd take the comparison. -/
def execPset (g : Fin 800) (pd cond : Fin 16) (sa sb : Fin 64) (s : State) : Out3 :=
  ctlRun s g (wfPset cond) (fun d =>
    let c := (tile d g.val).core
    resultP d g.val 1 pd.val (BitVec.allOnes 64)
      (if scond cond.val (rdS c sa.val) (rdS c sb.val) then BitVec.allOnes 64 else 0))

/-- PLOG: lane-by-lane logic of two predicates. -/
def execPlog (g : Fin 800) (pd pa pb : Fin 16) (fn : Fin 4) (s : State) : Out3 :=
  ctlRun s g true (fun d =>
    let c := (tile d g.val).core
    let a := rdP c pa.val
    let b := rdP c pb.val
    let v : Word64 := match fn.val with
      | 0 => a &&& b
      | 1 => a ||| b
      | 2 => a ^^^ b
      | _ => a &&& ~~~b
    resultP d g.val 1 pd.val (BitVec.allOnes 64) v)

/-- The functions of SALU, 32-bit and wrapping. -/
def saluFn (fn : Nat) (a b : Word) : Word :=
  match fn with
  | 0 => a + b
  | 1 => a - b
  | 2 => a &&& b
  | 3 => a ||| b
  | 4 => a ^^^ b
  | 5 => a <<< (b.toNat % 32)
  | 6 => a >>> (b.toNat % 32)
  | 7 => a.sshiftRight (b.toNat % 32)
  | 8 => a * b
  | 9 => if a.toInt ≤ b.toInt then a else b
  | 10 => if a.toInt ≤ b.toInt then b else a
  | 11 => if a.toNat ≤ b.toNat then a else b
  | _ => if a.toNat ≤ b.toNat then b else a

/-- SALU. -/
def execSalu (g : Fin 800) (fn : Fin 16) (sd sa sb : Fin 64) (s : State) : Out3 :=
  ctlRun s g (wfSalu fn) (fun d =>
    let c := (tile d g.val).core
    result d g.val 1 (.s sd.val (saluFn fn.val (rdS c sa.val) (rdS c sb.val))))

/-- SLI writes one half of a scalar register and keeps the other. -/
def execSli (g : Fin 800) (sd : Fin 64) (hi : Bool) (imm : BitVec 16) (s : State) : Out3 :=
  ctlRun s g true (fun d =>
    let w := rdS (tile d g.val).core sd.val
    let v : Word := if hi then imm ++ w.extractLsb' 0 16 else w.extractLsb' 16 16 ++ imm
    result d g.val 1 (.s sd.val v))

/-- The new value AMOV gives an address register. -/
def amovVal (c : TileCore) (ad fn sa : Nat) (imm : BitVec 14) : Word48 :=
  match fn with
  | 0 => (rdS c (sa + 1)).extractLsb' 0 16 ++ rdS c sa
  | 1 => rdA c ad + (rdS c sa).signExtend 48
  | _ => rdA c ad + BitVec.ofInt 48 (imm.toInt * 64)

/-- AMOV. -/
def execAmov (g : Fin 800) (ad : Fin 16) (fn : Fin 4) (sa : Fin 64) (imm : BitVec 14) (s : State) : Out3 :=
  ctlRun s g (wfAmov fn sa) (fun d =>
    result d g.val 1 (.a ad.val (amovVal (tile d g.val).core ad.val fn.val sa.val imm)))

/-- CSRW: RM from the beat after; the reserved value 3 sets RNE. -/
def execCsrw (g : Fin 800) (csr : Fin 16) (sa : Fin 64) (s : State) : Out3 :=
  ctlRun s g (wfCsrw csr) (fun d =>
    let v := fld (rdS (tile d g.val).core sa.val).toNat 0 2
    result d g.val 1 (.rm (if v = 3 then 0 else v)))

end Sys2Proof.Machine
end

