-- ==== Sys2Proof/Machine/Mxu.lean ====
section
/-! DEFINITION. The MXU slot (R84, R104 to R109): weight loads over their beats, multiply-accumulate with its alignment
groups (R131, R132) and its reference-exact mode (R141), 2:4 sparsity (R180 to R183), drains and zeroing. -/

namespace Sys2Proof.Machine

/-! ### Tables 5-3 to 5-5 -/

/-- Rows per MAC of a pair of formats; none for a pair that Table 5-3 does not list. -/
def pairRows (fmta fmtw : Nat) : Option Nat :=
  if fmta = 1 && fmtw == 1 then some 1
  else if fmta = 2 && fmtw == 2 then some 1
  else if (fmta = 3 || fmta = 4) && (fmtw == 3 || fmtw == 4 || fmtw == 0xA) then some 1
  else if fmta = 5 && (fmtw == 5 || fmtw == 0xD) then some 1
  else if (fmta = 3 || fmta = 4) && (fmtw == 6 || fmtw == 7 || fmtw == 0xC) then some 2
  else if fmta = 6 && fmtw == 6 then some 2
  else if (fmta = 3 || fmta = 4) && (fmtw == 8 || fmtw == 9) then some 4
  else none

/-- Element bytes of a 64 × 64 weight load. -/
def elemBytes (f : Nat) : Nat := 4096 * fmtBits f / 8

/-- Scale bytes of a weight load: one per block. -/
def scaleBytes (f : Nat) : Nat := if fmtBlock f = 0 then 0 else 4096 / fmtBlock f

/-- Offset of the metadata plane from A[As] (R181). -/
def metaOff (f : Nat) : Nat := if fmtBlock f = 0 then 0 else if f = 9 then 128 else 192

/-- Accesses of one part, 512 bytes each, the last shorter (Table 5-2). -/
def partPlan (part base n : Nat) : List (Nat × Nat × Nat) :=
  (List.range (ceilDiv n 512)).map (fun i => (part, base + 512 * i, Nat.min 512 (n - 512 * i)))

/-- The accesses of an LDW, one per beat: elements, then scales, then metadata (R106). -/
def ldwPlan (f : Nat) (sp : Bool) (base sbase : Nat) : List (Nat × Nat × Nat) :=
  partPlan 0 base (elemBytes f)
    ++ (if fmtD f then [(1, sbase, 64 + scaleBytes f)]
        else if scaleBytes f = 0 then [] else [(2, sbase + 64, scaleBytes f)])
    ++ (if sp then partPlan 3 (sbase + metaOff f) 1024 else [])

/-- An access that faults for its port in its beat: the fault is raised then (R113), and the access is suppressed, which its part
says (R112). The others take their ports. -/
def planPorts (slot : Nat) (c : TileCore) : Nat → List (Nat × Nat × Nat) → TileCore × List (Nat × Nat × Nat)
  | _, [] => (c, [])
  | k, (part, a, n) :: r =>
    match portFault c k a (roundUp n 64) with
    | some f =>
      let q := planPorts slot { c with pend := c.pend ++ [⟨k + 1, .fault slot f.1 f.2 a⟩] } (k + 1) r
      (q.1, (part + 4, a, n) :: q.2)
    | none =>
      let q := planPorts slot (usePort c k a) (k + 1) r
      (q.1, (part, a, n) :: q.2)

/-- What LDW counts of the bytes of one access (R128, R182). -/
def countWeights (c : TileCore) (w : WBuf) (part : Nat) (bs : List Byte) : TileCore :=
  let bad2 := if w.fmt = 9 && part == 0 then countIf (List.range (4 * bs.length)) (fun i => elemAt bs 2 i == 2) else 0
  let nanS := if fmtMX w.fmt && part == 2 then countIf bs (fun b => b == 0xFF#8) else 0
  let badM := if part = 3 then countIf (List.range (2 * bs.length)) (fun i => let x := elemAt bs 4 i; x / 4 ≤ x % 4) else 0
  { c with d2Bad := satAdd 16 c.d2Bad bad2, e8m0Nan := satAdd 16 c.e8m0Nan nanS, badMeta := satAdd 16 c.badMeta badM }

/-- Whether an earlier MAC blocks the MXU in this beat (R108 item 4). -/
def mxuBlocked (c : TileCore) : Bool := c.ports.contains (0, 16)

/-- The load that this beat's LDW issued fills the inactive buffer, unless that is still in use: an activation of the same beat comes first
(R106). -/
def ldwStart (d : Dev) (g : Nat) : Dev :=
  let c := (tile d g).core
  match c.wNew, c.wIn with
  | none, _ => d
  | some _, some _ => mapFault (updCore d g (fun c => { c with wNew := none })) g 1 mfWeightBuf 0 0
  | some w, none => updCore d g (fun c => { c with wIn := some w, wNew := none })

/-- Bytes of one access put in their place of a weight buffer. -/
def fillBuf (w : WBuf) (part : Nat) (bs : List Byte) : WBuf :=
  match part with
  | 0 => { w with elems := w.elems ++ bs }
  | 1 => { w with ts := wordAt bs 0, scales := bs.drop 64 }
  | 2 => { w with scales := w.scales ++ bs }
  | _ => { w with mdata := w.mdata ++ bs }

/-- One access of a weight load that is under way, made at the end of its beat: the bytes are those the beat sees, zeros where the access is
suppressed (R112). DEDUCED (notes/assumptions/24.md). -/
def ldwBeat (d : Dev) (g : Nat) : Dev :=
  match (tile d g).core.wIn with
  | none => d
  | some w =>
    match w.plan with
    | [] => d
    | (part, a, n) :: rest =>
      let zero : List Byte := List.replicate n 0
      let q : List Byte × Dev :=
        if 4 ≤ part then (zero, d)
        else match readFault (tile d g).core a n with
          | some f => (zero, mapFault d g 1 f.1 f.2 a)
          | none => (t0Read (tile d g) a n, d)
      updCore q.2 g (fun c => countWeights { c with wIn := some (fillBuf { w with plan := rest } (part % 4) q.1) } w part q.1)

/-- LDW (R106). Its conditions of Table 5-9 are tested in the order written; OPERAND_PAIR carries FMTW. DESIGN CHOICE (notes/assumptions/56.md). -/
def execLdw (g : Fin 800) (gd : Guard) (fmtw : Fin 16) (sp : Bool) (aa : Fin 16) (off : BitVec 16) (sc : Fin 16)
    (rel : Bool) (s : State) : Out3 :=
  slotRun s g gd (wfFmtw fmtw) (fun d =>
    let c := (tile d g.val).core
    let base := t0Addr c aa.val off.toNat
    let sbase := t0Addr c sc.val 0
    if mxuBlocked c then mapFault d g.val 1 mfMxuBusy 0 0
    else if c.wNew.isSome then mapFault d g.val 1 mfWeightBuf 0 0
    else if sp && (fmtw.val == 1 || fmtw.val == 2) then mapFault d g.val 1 mfOperandPair fmtw.val 0
    else
      let q := planPorts 1 c 0 (ldwPlan fmtw.val sp base sbase)
      let d := updCore d g.val (fun _ => { q.1 with wNew := some ⟨fmtw.val, sp, [], [], [], 0, q.2⟩ })
      if (q.2.head?.map (fun p => decide (p.1 < 4))).getD false then releaseAt d g.val rel base else d)

/-! ### MAC -/


/-- Stored weight `k` of column `n` without its scales; NaN when its MX scale is (R126). -/
def weightElem (w : WBuf) (k n : Nat) : Num :=
  let blocks := if fmtBlock w.fmt = 0 then 0 else 64 / fmtBlock w.fmt
  let bs := if blocks = 0 then 0 else (byteAt w.scales (n * blocks + k / fmtBlock w.fmt)).toNat
  if fmtMX w.fmt && bs == 0xFF then .nan
  else decFmt w.fmt (elemAt w.elems (fmtBits w.fmt) (64 * n + k))

/-- The block scale of stored weight `k` of column `n`, 1 where there is none (R127). -/
def weightScale (w : WBuf) (k n : Nat) : Num :=
  if fmtBlock w.fmt = 0 then .fin false 1 1
  else
    let b := (byteAt w.scales (n * (64 / fmtBlock w.fmt) + k / fmtBlock w.fmt)).toNat
    if fmtMX w.fmt then decE8M0 b else numOfQ (decUE5M3 b) false

/-- The tensor scale of the weights, 1 where there is none (R127). DEDUCED (notes/assumptions/33.md). -/
def weightTs (w : WBuf) : Num := if fmtD w.fmt then dec32 w.ts else .fin false 1 1

/-- Logical position of stored weight `k` of column `n` (R180): none when its nibble is malformed (R182). -/
def weightPos (w : WBuf) (k n : Nat) : Option Nat :=
  if w.sp then
    let x := elemAt w.mdata 4 (32 * n + k / 2)
    let i0 := x % 4
    let i1 := x / 4
    if i1 ≤ i0 then none else some (4 * (k / 2) + (if k % 2 = 0 then i0 else i1))
  else some k

/-- The weight of stored position `k`: a malformed group reads as zero (R182). -/
def weightVal (w : WBuf) (k n : Nat) : Num :=
  match weightPos w k n with
  | some _ => weightElem w k n
  | none => .fin false 0 1

/-- The activation that stored weight `k` of column `n` multiplies; zero when its nibble is malformed, so that the
product is zero (R180, R182). -/
def actVal (w : WBuf) (row : List Num) (k n : Nat) : Num :=
  match weightPos w k n with
  | some p => row.getD p (.fin false 0 1)
  | none => .fin false 0 1

/-- The alignment groups of a column: stored positions per scaling block, or all 64 (R109). -/
def groupsOf (w : WBuf) : List (List Nat) :=
  if fmtBlock w.fmt = 32 then [List.range 32, (List.range 32).map (· + 32)] else [List.range 64]

/-- An FP32 result of a group, which is never a negative zero (R138). -/
def mxu32 (x : Num) : Word := let w := rnd32 x; if w = 0x80000000#32 then 0 else w

/-- One accumulator element in the normal mode (R131, R132). -/
def macElem (w : WBuf) (row : List Num) (n : Nat) (base : Word) : Word :=
  (groupsOf w).foldl (fun acc ks =>
    let g := macGroup (ks.map (fun k => numMul (weightVal w k n) (actVal w row k n)))
    let sc := numMul (weightScale w (ks.headD 0) n) (weightTs w)
    mxu32 (numAdd (dec32 acc) (numMul g sc))) base

/-- One accumulator element in reference-exact mode, in ascending logical K (R141). -/
def macRef (w : WBuf) (row : List Num) (n : Nat) (base : Word) : Word :=
  let t := (List.range 64).foldl (fun t k =>
    rnd64 (numAdd t (numMul (numMul (numMul (actVal w row k n) (weightVal w k n)) (weightScale w k n)) (weightTs w))))
    (.fin false 0 1)
  rnd32 (numAdd (dec32 base) t)

/-- A value that is NaN or infinite. -/
def numSpecial : Num → Bool
  | .fin .. => false
  | _ => true

/-- Whether the buffer holds an element or a scale that reads as NaN or infinite (R183); an element of a malformed group reads as zero
(R182). -/
def weightsSpecial (w : WBuf) : Bool :=
  numSpecial (weightTs w) ||
    (List.range 64).any (fun n => (List.range 64).any (fun k =>
      numSpecial (weightVal w k n) || numSpecial (weightScale w k n)))

def numIsZero : Num → Bool
  | .fin _ n _ => n == 0
  | _ => false

/-- First accumulator fault of a MAC (R108 items 1 and 2). -/
def macAccFault (c : TileCore) (b : Nat) (accum : Bool) : Option Nat :=
  if mget c.dp b 0 != 0 then some (0x10 + b)
  else if !accum && mget c.rp b 0 == 0 && mget c.undrained b false then some (0x20 + b)
  else none

/-- The weights a MAC on bank `b` uses, and the buffers after it: a complete inactive buffer becomes active when the row
pointer is 0 (R106). -/
def macActivate (c : TileCore) (b : Nat) : TileCore :=
  match c.wIn with
  | some w => if w.plan.isEmpty && mget c.rp b 0 == 0 then { c with wAct := some w, wIn := none } else c
  | none => c

/-- Key of row `r` of bank `b`: rows count modulo 64, as the pointers do. DESIGN CHOICE (notes/assumptions/56.md). -/
def accKey (b r : Nat) : Nat := b * 64 + r % 64

/-- The rows a MAC computes and what they change: accumulator, row pointer, UNDRAINED where the pointer passes the last row, gated rows,
busy beats. -/
def macApply (d : Dev) (g : Nat) (w : WBuf) (fmta b r : Nat) (accum ref : Bool) (bytes : List Byte) : Dev :=
  let kl := if w.sp then 128 else 64
  let c := (tile d g).core
  let rp := mget c.rp b 0
  let special := weightsSpecial w
  let rows := (List.range r).map (fun i =>
    (List.range kl).map (fun k => decFmt fmta (elemAt bytes (fmtBits fmta) (i * kl + k))))
  let news := (List.range r).map (fun i =>
    let row := rows.getD i []
    let old := mget c.acc (accKey b (rp + i)) zeroVec
    vec (fun n =>
      let base := if accum then lane old n else 0
      if ref then macRef w row n base else macElem w row n base))
  let gated := if special then 0 else countIf rows (fun row => row.all numIsZero)
  let rp' := (rp + r) % 64
  let d := updCore d g (fun c =>
    { c with
      acc := (List.range r).foldl (fun m i => mset m (accKey b (rp + i)) (news.getD i zeroVec)) c.acc
      rp := mset c.rp b rp'
      undrained := if 64 ≤ rp + r then mset c.undrained b true else c.undrained
      gated := satAdd 32 c.gated gated
      ports := c.ports ++ (if ref then [(1, 16), (2, 16), (3, 16)] else if fmta = 1 || fmta = 2 then [(1, 16)] else [])
      pend := c.pend ++ (List.range r).map (fun i => ⟨4, .accRow b ((rp + i) % 64) (news.getD i zeroVec)⟩) })
  monitorNan d g news.flatten

/-- MAC (R104 to R109). Its conditions of Table 5-9 are tested in the order written (DESIGN CHOICE, notes/assumptions/56.md); a suppressed read
gives zeros (R112). -/
def execMac (g : Fin 800) (gd : Guard) (fmta : Fin 16) (acc : Fin 4) (accum ref : Bool) (aa : Fin 16)
    (off : BitVec 16) (rel : Bool) (s : State) : Out3 :=
  slotRun s g gd (wfFmta fmta) (fun d =>
    let c := (tile d g.val).core
    let a := t0Addr c aa.val off.toNat
    match macAccFault c acc.val accum with
    | some dt => mapFault d g.val 1 mfAcc dt 0
    | none =>
      if mxuBlocked c then mapFault d g.val 1 mfMxuBusy 0 0
      else
        let c' := macActivate c acc.val
        match c'.wAct with
        | none => mapFault d g.val 1 mfWeightBuf 0 0
        | some w =>
          match pairRows fmta.val w.fmt with
          | none => mapFault d g.val 1 mfOperandPair fmta.val 0
          | some r =>
            let n := r * (if w.sp then 128 else 64) * fmtBits fmta.val / 8
            let q := staticRead d g.val 1 a n
            let d := updCore q.2 g.val (fun c => macActivate c acc.val)
            match q.1 with
            | none => macApply d g.val w fmta.val acc.val r accum ref (List.replicate n 0)
            | some bytes => releaseAt (macApply d g.val w fmta.val acc.val r accum ref bytes) g.val rel a)

/-! ### DRN and ZAC -/

/-- Rows that a DRN converts (R107); none for an FMTO that it does not take. -/
def drnRows (f : Nat) : Option Nat :=
  if f = 0 then some 2 else if f = 1 || f = 2 then some 4 else if f = 3 || f = 4 || f = 5 then some 8 else none

/-- First accumulator fault of a DRN (R107 FMTO, R108 item 3). -/
def drnAccFault (c : TileCore) (b f : Nat) : Option Nat :=
  if (drnRows f).isNone then some b
  else if mget c.rp b 0 != 0 || !mget c.undrained b false then some (0x30 + b)
  else none

/-- DRN (R107): the readable rows are converted now and written in the eighth beat, in which a fault of the write is raised (Table 5-2, R113).
Its other conditions are tested in the order written. DESIGN CHOICE (notes/assumptions/56.md). -/
def execDrn (g : Fin 800) (gd : Guard) (acc : Fin 4) (fmto : Fin 16) (sat : Bool) (tag : Fin 32) (aa : Fin 16)
    (off : BitVec 16) (s : State) : Out3 :=
  slotRun s g gd (wfFmto fmto && wfTag tag) (fun d =>
    let c := (tile d g.val).core
    let a := t0Addr c aa.val off.toNat
    match drnAccFault c acc.val fmto.val with
    | some dt => mapFault d g.val 1 mfAcc dt 0
    | none =>
      if mxuBlocked c then mapFault d g.val 1 mfMxuBusy 0 0
      else
        let n := (drnRows fmto.val).getD 0
        let dp := mget c.dp acc.val 0
        let xs := ((List.range n).map (fun i => mget c.accVis (accKey acc.val (dp + i)) zeroVec)).flatten
        let lat := latchOf d g.val tag.val
        let (m, d) := roundBeat d g.val
        let cs := (List.range xs.length).map (fun k => convert fmto.val (m k) sat lat (dec32 (xs.getD k 0)))
        let d := monitorConv d g.val tag.val xs cs
        let data := packLanes (fmtBits fmto.val) (cs.map (fun x => x.code))
        let sp := inSpec d g.val
        updCore d g.val (fun c => lateWrite 1 7 a 512 (data.map some) sp
          { c with dp := mset c.dp acc.val ((dp + n) % 64)
                   undrained := if 64 ≤ dp + n then mset c.undrained acc.val false else c.undrained }))

/-- ZAC (R107). -/
def execZac (g : Fin 800) (gd : Guard) (acc : Fin 4) (s : State) : Out3 :=
  slotRun s g gd true (fun d =>
    if mxuBlocked (tile d g.val).core then mapFault d g.val 1 mfMxuBusy 0 0
    else updCore d g.val (fun c =>
      { c with acc := c.acc.filter (fun p => p.1 / 64 != acc.val), rp := mset c.rp acc.val 0, dp := mset c.dp acc.val 0,
               undrained := mset c.undrained acc.val false, pend := c.pend ++ [⟨4, .accZero acc.val⟩] }))

end Sys2Proof.Machine
end

