-- ==== Sys2Proof/Machine/Hbm.lean ====
section
/-! DEFINITION. The state of the stacks (chapter 11) as the ends of jobs, the tier manager and the sequencer use it: bands and classes
(R228, R233, R234), runs of refresh rounds (R229, R230), error counts and the queue of retirements (R224, R226). -/

namespace Sys2Proof.Machine

def stack (d : Dev) (n : Nat) : Stack := mget d.hbm.stk n Stack.reset
def setStack (d : Dev) (n : Nat) (s : Stack) : Dev := { d with hbm := { d.hbm with stk := mset d.hbm.stk n s } }

/-- Base of the registers of stack `n`. -/
def hbBase (n : Nat) : Nat := 0x30000 + n * 0x1000

/-- The scope whose job governs stack `n` (R234); none between jobs. -/
def govScope (d : Dev) (n : Nat) : Option Nat :=
  if d.sc0.jobValid && (d.sc0.kind == .device || n < 6) then some 0
  else if d.sc1.jobValid && decide (6 ≤ n) then some 1
  else none

/-! ### Bands (R228, R233) -/

/-- Upper limit of a band in °C. -/
def bandLimit (b : Nat) : Nat := if b = 0 then 85 else 95

/-- Band of a temperature on the way up. -/
def bandOf (t : Nat) : Nat := if t ≤ 85 then 0 else if t ≤ 95 then 1 else 2

/-- HYST as it acts. -/
def hystOf (d : Dev) (n : Nat) : Nat := let h := fld (regGet d (hbBase n + 0xC)) 0 4; if h = 0 then 1 else h

/-- Band after a reading. -/
def bandNext (b t hyst : Nat) : Nat :=
  if b < bandOf t then bandOf t
  else if b = 2 then (if t + hyst ≤ 95 then (if t + hyst ≤ 85 then 0 else 1) else 2)
  else if b = 1 then (if t + hyst ≤ 85 then 0 else 1)
  else b

/-- REFRESH_CLASS of the job that governs a stack. -/
def govClass (d : Dev) (n : Nat) : Option Nat :=
  (govScope d n).map (fun si => (scope d si).startBand)

/-- Stacks that a scope governs, with the mask bit that names each. -/
def stacksOf (k : ScopeKind) : List (Nat × Nat) :=
  match k with
  | .device => (List.range 12).map (fun n => (n, n))
  | .west => (List.range 6).map (fun n => (n, n))
  | .east => (List.range 6).map (fun n => (n + 6, n))

/-- OVER_CLASS, with a class 0 record the first time in a job. -/
def classCheck (d : Dev) (n : Nat) : Dev :=
  let st := stack d n
  match govScope d n with
  | none => setStack d n { st with overClass := false }
  | some si =>
    let exceeded := decide ((scope d si).startBand < st.band)
    let d' := setStack d n { st with overClass := exceeded, overSeen := st.overSeen || exceeded }
    if exceeded && !st.overSeen then
      record d' { fspec 0 0x0C 0x15 with unit := n * 16, scope := scopeCode (scope d si).kind, slot := (scope d si).slot,
                                         detail := st.band }
    else d'

/-! ### Runs of rounds (R229, R230) -/

/-- CCLK divider of the step in force (R386, R387). -/
def cclkDiv (d : Dev) : Nat := 4 + d.clk.step

/-- Rounds of 410 ns that fit in `beats` beats after the 40 ns close, at the current step (R230). -/
def refCapacity (d : Dev) (beats : Nat) : Nat := (beats * cclkDiv d / 6 - 40) / 410

/-- A run of `k` rounds starts at a local time with the close of open rows. -/
def refRun (now : Nat) (st : Stack) (k : Nat) : Stack :=
  if k = 0 then st else { st with runLeft := k, runAt := now, runDone := 0 }

/-- Rounds of the run in progress that have started by a local time: the first 40 ns after the run began, one every 410 ns (R229). -/
def roundsBegun (now : Nat) (st : Stack) : Nat :=
  if now < st.runAt + 40 then 0 else Nat.min st.runLeft ((now - st.runAt - 40) / 410 + 1)

/-- The debt at a local time: it falls by 1 as each round starts (R229). -/
def debtAt (now : Nat) (st : Stack) : Nat := st.debt - (roundsBegun now st - st.runDone)

/-- A stack whose debt has been brought to a local time. -/
def refSync (now : Nat) (st : Stack) : Stack :=
  if st.runLeft = 0 then st else { st with debt := debtAt now st, runDone := roundsBegun now st }

/-- Local time at which the run in progress ends. -/
def runEnd (st : Stack) : Nat := st.runAt + 40 + 410 * st.runLeft

/-- A window of `left` beats that ends at beat `stop` opens: it fixes its rounds. -/
def refOpen (d : Dev) (st : Stack) (left stop : Nat) : Stack :=
  refRun d.clk.localNs { st with winOpen := stop, winPend := 0 } (Nat.min st.debt (refCapacity d left))

/-- Whether a window of the governing job is open on a stack. -/
def winIsOpen (d : Dev) (n : Nat) : Bool :=
  match govScope d n with
  | some si => decide ((scope d si).beat < (stack d n).winOpen)
  | none => false

/-- Whether a stack refreshes under the rule between jobs (R230, R234). -/
def freeRefresh (d : Dev) (n : Nat) : Bool := (govScope d n).isNone || !(stack d n).windowed

/-- A run that may start now does: one round between jobs, debt − 4 rounds when the debt is 8 and no window is open. -/
def refStart (d : Dev) (n : Nat) : Dev :=
  let st := stack d n
  if !st.present || st.runLeft != 0 then d
  else if freeRefresh d n then (if st.debt = 0 then d else setStack d n (refRun d.clk.localNs st 1))
  else if st.debt = 8 && !winIsOpen d n then
    setStack d n (refRun d.clk.localNs { st with forced := satAdd 16 st.forced (st.debt - 4) } (st.debt - 4))
  else d

/-- The stacks that a scope governs when its job has ended or its half is fenced: no window stands, nothing exceeds a class, and the rule
between jobs applies from now on (R230, R233, R234). -/
def releaseStacks (d : Dev) (k : ScopeKind) : Dev :=
  (stacksOf k).foldl (fun d p =>
    let st := stack d p.1
    if st.present then refStart (setStack d p.1 { st with windowed := false, overClass := false, winOpen := 0, winPend := 0 }) p.1
    else d) d

/-! ### Errors and retirement (R224, R226) -/

/-- What the controller finds in a burst of 36 symbols with so many of them wrong (R224), as SCRUB_READ names it: 0 nothing, 1 corrected,
2 uncorrectable; none where the spec states no result. -/
def burstCheck (wrong : Nat) : Option (Fin 4) :=
  match wrong with
  | 0 => some 0
  | 1 => some 1
  | 2 => some 2
  | 3 => some 2
  | _ => none

/-- A channel joins the queue of those to retire, unless it is there or retired already. -/
def wantRetire (d : Dev) (ch : Nat) : Dev :=
  if (stack d (ch / 16)).retired.contains (ch % 16) || d.hbm.retireQ.contains ch || d.hbm.retiring == some ch then d
  else { d with hbm := { d.hbm with retireQ := d.hbm.retireQ ++ [ch] } }

/-- A corrected burst of a channel, by any read or scrub, is counted; above the threshold the channel is retired (R226). -/
def countCe (d : Dev) (n c : Nat) : Dev :=
  let st := stack d n
  let k := satAdd 16 (mget st.ce c 0) 1
  let d := setStack d n { st with ce := mset st.ce c k }
  if fld (regGet d (hbBase n + 0x10)) 0 16 < k then wantRetire d (n * 16 + c) else d

/-- A burst that a scrub corrects: a class 1 record, and the count. -/
def corrected (d : Dev) (n c line : Nat) : Dev :=
  countCe (record d { fspec 1 0x0C 0x03 with unit := n * 16 + c, detail := line }) n c

/-- An uncorrectable read of a channel, or an address-parity error on it (Table 11-1, R226). -/
def uncorrected (d : Dev) (n c : Nat) : Dev :=
  let st := stack d n
  wantRetire (setStack d n { st with ueCount := satAdd 16 st.ueCount 1, ueLastCh := c }) (n * 16 + c)

end Sys2Proof.Machine
end

