-- ==== Sys2Proof/Machine/Jobs.lean ====
section
/-! DEFINITION. How a job ends (R64, R65, R261 to R264): what its scope and tiles drop, what the ports and codec engines
give back, and the completion record that becomes due. -/

namespace Sys2Proof.Machine

/-! ### Statuses (Table 12-7) -/

def statusCode : Status → Nat
  | .served => 0x00
  | .refusedFull => 0x01
  | .refusedDeadline => 0x02
  | .refusedResources => 0x03
  | .refusedClientCap => 0x04
  | .refusedNoOwner => 0x05
  | .refusedVersion => 0x06
  | .failedMapping => 0x10
  | .failedTier => 0x11
  | .failedNumeric => 0x12
  | .failedFault => 0x13
  | .failedOverrun => 0x20
  | .aborted => 0x21

/-- A number that stays at the largest value of `n` bits. -/
def sat (n v : Nat) : Nat := if v < 2 ^ n then v else 2 ^ n - 1

/-! ### What the ports and engines give back -/

/-- The buffer of one side of an EMP. -/
def ebuf (e : Emp) (side i : Nat) : EBufSt := mget (if side = 0 then e.bufs0 else e.bufs1) i .free

/-- A buffer of one side given a state; a free buffer is not listed. -/
def setEbuf (e : Emp) (side i : Nat) (b : EBufSt) : Emp :=
  let f (m : FMap EBufSt) : FMap EBufSt := if b = .free then mdel m i else mset m i b
  if side = 0 then { e with bufs0 := f e.bufs0 } else { e with bufs1 := f e.bufs1 }

/-- Buffers that a commit holds: freed. -/
def freeCommit (e : Emp) (c : Commit) : Emp := setEbuf e c.side c.buf .free

/-- The commit shown in EMPn_COMMIT_STATUS, when it is this one, given its last state and frame (R294). -/
def noteCommit (e : Emp) (c : Commit) (st frame : Nat) : Emp :=
  if e.csSide = c.side && e.csLayer == c.layer && e.csBuf == c.buf && e.csState == 1 then
    { e with csState := st, csFrame := frame }
  else e

/-- Overlays whose base is no longer queued, freed with it (R289). -/
def dropOrphans (e : Emp) : Emp :=
  let lost (c : Commit) : Bool := c.layer == 1
    && !e.commits.any (fun x => x.layer == 0 && x.side == c.side && x.ovl && x.frameTag == c.frameTag)
  (e.commits.filter lost).foldl freeCommit { e with commits := e.commits.filter (fun c => !lost c) }

/-- A commit leaves the queue superseded (state 3) or discarded (4): freed, counted, shown, its overlay freed with it, and a
pass that reads it abandoned (R293 to R295). -/
def dropOne (e : Emp) (c : Commit) (st : Nat) : Emp :=
  let reads (p : VPass) : Bool := p.side == c.side && (p.buf0 == c.buf || p.buf1 == some c.buf)
  let e := noteCommit (freeCommit { e with commits := e.commits.filter (fun x => !(x.side == c.side && x.buf == c.buf)) } c) c st
    (e.frame.getD 0)
  let e := { e with pass := e.pass.filter (fun p => !reads p) }
  let e := dropOrphans e
  let plain (x : Commit) : Commit :=
    if c.layer = 1 && x.layer == 0 && x.side == c.side && x.frameTag == c.frameTag && x.level == 2 then { x with level := 1 } else x
  let e := { e with commits := e.commits.map plain }
  if st = 3 then { e with cSuperseded := satAdd 16 e.cSuperseded 1 } else { e with cDiscarded := satAdd 16 e.cDiscarded 1 }

/-- Commits that a test names are discarded (R289, R306). -/
def dropCommits (e : Emp) (p : Commit → Bool) : Emp := (e.commits.filter p).foldl (fun e c => dropOne e c 4) e

/-- Job end at an EMP (R289): buffers held as producer become free; a job that was not served loses its commits. -/
def empJobEnd (e : Emp) (slot : Nat) (served : Bool) : Emp :=
  let keep (m : FMap EBufSt) : FMap EBufSt := m.filter (fun p => p.2 != .prod slot)
  let e := { e with bufs0 := keep e.bufs0, bufs1 := keep e.bufs1, cmds := e.cmds.filter (fun c => c.slot != slot) }
  if served then e else dropCommits e (fun c => c.slot == some slot)

/-- The side's part in a capture buffer ends when the job that took it without KEEP ends (R311). -/
def takeJobEnd (t : CTake) (slot : Nat) : CTake :=
  match t with
  | .taken s false => if s = slot then .returned else t
  | _ => t

/-- Sides that capture buffers serve: side 1 in paired mode only, and no fenced side (R284, R311). -/
def sideServes (d : Dev) (side : Nat) : Bool :=
  if side = 0 then !(paired d && d.flt.fencedW) else paired d && !d.flt.fencedE

/-- Capture buffers that every side in service has returned become free (R311). -/
def capSettle (d : Dev) (c : Cap) : Cap :=
  let back (side : Nat) (t : CTake) : Bool := !sideServes d side || t == .returned
  let gone (b : CBufSt) : Bool :=
    match b with
    | .complete _ _ _ _ t0 t1 => back 0 t0 && back 1 t1
    | .filling => false
  let out := (c.bufs.filter (fun p => gone p.2)).map (fun p => p.1)
  { c with bufs := c.bufs.filter (fun p => !gone p.2), queue := c.queue.filter (fun i => !out.contains i) }

/-- Job end at a CAP (R311): its buffers taken without KEEP return, and its waiting commands end with it. -/
def capJobEnd (d : Dev) (c : Cap) (slot : Nat) : Cap :=
  let c := { c with
    bufs := mmap c.bufs (fun _ b => match b with
      | .complete s l f t t0 t1 => .complete s l f t (takeJobEnd t0 slot) (takeJobEnd t1 slot)
      | .filling => .filling)
    cmds := c.cmds.filter (fun x => x.slot != slot), takes := c.takes.filter (fun x => x.slot != slot) }
  capSettle d c

/-- Commands of the job that a codec engine has not started are dropped (R280). -/
def vceJobEnd (v : Vce) (slot : Nat) : Vce :=
  { v with queue := v.queue.filter (fun c => c.slot != slot), wait := v.wait.filter (fun c => c.slot != slot) }

/-- Commands of the job that wait in its tiles for a pixel engine's queue are dropped with what the tiles hold (R65). -/
def pxeJobEnd (p : Pxe) (slot : Nat) : Pxe := { p with wait := p.wait.filter (fun c => c.slot != slot) }

/-! ### A scope stops -/

/-- What a tile keeps when its job ends: committed shadow lines go home, landing buffers become FREE (Table 3-2), and everything held or
in flight is dropped (R65). DEDUCED (notes/assumptions/48.md). -/
def tileJobEnd (t : Tile) : Tile :=
  let t0 := t.shadow.foldl (fun m p => if p.2.isOpen then m else memWrite m (64 * p.1) p.2.data) t.t0
  { t with t0 := t0, shadow := [], issued := [], hold := [], egress := [], psrc := [], heldRel := [], specFault := none, specCount := 0,
           ck := none, rck := none, retain := [], landLog := [], core := { t.core with lbs := [], pend := [] } }

/-- Counters of the scope as its job ends, with the flags OVERRUN, REPLAY_OVER and EAST. -/
def endInfo (x : Scope) (st : Status) (detail : Nat) (extra : List Byte) : EndInfo :=
  { status := st, detail := detail, extra := extra
    flags := put (flag x.overrun) 3 1 + put (flag (x.exceeded != 0)) 4 1 + put (flag (x.kind == .east)) 5 1
    replays := x.replays, slips := x.slipEvents, cycles := x.jobCycles, skipped := x.skipped
    slipC := x.slipCycles, specC := x.specCycles, replC := x.replayCycles }

/-- A prefetch move whose job ends at stream position `pos`: it goes on (R216), late when its NEED had passed. -/
def moveAfter (pos : Nat) (m : PfMove) : PfMove :=
  { m with need := none, late := m.late || (match m.need with | some n => decide (n < pos) | none => false) }

/-- The scope once its job has ended: its counters hold until the next dispatch; every generation of the job is
discarded (R44); moves of its prefetch go on (R216). -/
def scopeJobEnd (x : Scope) : Scope :=
  { x with jobValid := false, phase := .idle, spec := none, rrun := none, reps := [], slipAt := none, flight := [], sets := [],
           glane := [], prefetch := [], decided := [], reds := [], moves := x.moves.map (moveAfter x.pos), auditDue := false, jobEnded := true,
           genFloor := x.gen + 1, deadGens := [], gen := x.gen + 1, tokens := [], fault := none }

/-- The 16 bytes from offset 0x10 of a record: `extra`, then the counters that it leaves room for. -/
def recordTail (e : EndInfo) : List Byte :=
  let cs := leBytes 4 (sat 32 e.skipped) ++ leBytes 4 (sat 32 e.slipC) ++ leBytes 4 (sat 32 e.specC)
    ++ leBytes 4 (sat 32 e.replC)
  e.extra ++ cs.drop e.extra.length

/-- The 32 bytes of a completion record (Table 12-6), PHASE left 0. -/
def recordBytes (sq index delayed flags : Nat) (e : EndInfo) : List Byte :=
  leBytes 1 (statusCode e.status) ++ leBytes 1 e.detail ++ leBytes 1 flags ++ leBytes 1 (0x40 + sq % 64)
    ++ leBytes 2 index ++ leBytes 1 (sat 8 delayed) ++ leBytes 1 (sat 8 e.replays) ++ leBytes 2 (sat 16 e.slips)
    ++ leBytes 6 e.cycles ++ recordTail e

/-- The CQ that the records of an SQ go to. -/
def cqOf (d : Dev) (sq : Nat) : Nat := fld (regGet d (0x8000 + 0x410 + sq * 0x20)) 22 6

/-- What a job that ends without a half to speak for it reports. -/
def lostInfo : EndInfo := ⟨.failedFault, 4, [], 0, 0, 0, 0, 0, 0, 0, 0⟩

/-- The half whose status and counters a paired record takes (R263). DEDUCED (notes/assumptions/48.md). -/
def chosenEnd (d : Dev) (j : Job) : EndInfo :=
  let p := if d.flt.primary = 0 then j.westEnd else j.eastEnd
  let o := if d.flt.primary = 0 then j.eastEnd else j.westEnd
  match p, o with
  | some e, _ => e
  | none, some e => e
  | none, none => lostInfo

/-- The two halves ended with different statuses (R263). -/
def endsDiffer (j : Job) : Bool :=
  match j.westEnd, j.eastEnd with
  | some a, some b => a.status != b.status
  | _, _ => false

/-- INVALIDATEs whose last job has ended take effect (R98). -/
def imagesSettle (d : Dev) : Dev :=
  let used := d.sched.slots.map (fun p => if p.2.ended then 0 else p.2.desc.image)
  let due := d.imgs.invalPend.filter (fun h => !used.contains h)
  { d with imgs := { d.imgs with valid := d.imgs.valid.filter (fun h => !due.contains h)
                                 invalPend := d.imgs.invalPend.filter (fun h => !due.contains h) } }

/-! ### Audits (R28, R38) -/

/-- DETAIL of a conservation violation: law, expected, observed. DEDUCED (notes/assumptions/28.md). -/
def lawDetail (law expected observed : Nat) : Nat :=
  law + expected % 2 ^ 24 * 2 ^ 8 + observed % 2 ^ 32 * 2 ^ 32

/-- R38's identity. -/
def auditOk (x : Scope) : Bool :=
  x.jobCycles + x.skipped == x.pos + x.slipCycles + x.specCycles + x.replayCycles

/-- Whether every cycle of a scope is classified, so that R38's identity can be tested: no speculation or check tail is open and no slip,
squash or replay is in progress. -/
def auditable (x : Scope) : Bool := x.spec.isNone && (x.phase == .run || x.phase == .ending)

/-- What a violation of R38's identity records. -/
def identityFault (si : Nat) (x : Scope) : FSpec :=
  { cls := 3, block := 0x08, code := 0x08, unit := si, scope := scopeCode x.kind, slot := x.slot
    detail := lawDetail 0 (x.pos + x.slipCycles + x.specCycles + x.replayCycles - x.skipped) x.jobCycles }

/-- Completion records that are owed: those due and those of jobs that have not ended. -/
def recordsOwed (d : Dev) : Nat := d.sched.due.length + countIf d.sched.slots (fun p => !p.2.ended)

/-- C3: every descriptor accepted has had its record or is owed it. -/
def law3 (d : Dev) : Option FSpec :=
  let got := d.sched.recorded + recordsOwed d
  if d.sched.accepted = got then none else some { fspec 3 0x08 0x08 with detail := lawDetail 3 d.sched.accepted got }

/-- C6 at a stack. -/
def law6 (d : Dev) (k : Nat) : Option FSpec :=
  let st := mget d.hbm.stk k Stack.reset
  if st.accepted = (st.applied + st.adds.length) % 2 ^ 64 then none
  else some { fspec 3 0x0C 0x08 with unit := k * 16, detail := lawDetail 6 st.accepted (st.applied + st.adds.length) }

/-- C7. -/
def law7 (d : Dev) : Option FSpec :=
  let got := d.tmg.poolFree + d.tmg.poolMapped + d.tmg.poolTransit
  if got = d.tmg.poolSize then none else some { fspec 3 0x0B 0x08 with detail := lawDetail 7 d.tmg.poolSize got }

/-- The laws audited at each job end (Table 2-5), no job being left to end. -/
def jobEndAudit (d : Dev) : Dev :=
  let fs := [law3 d] ++ (List.range 12).map (law6 d) ++ [law7 d]
  (fs.filterMap (fun f => f)).foldl record d

/-- The job of a slot has ended: its record is due, its buffers return, the scope is free (R261 to R263, R289, R311). -/
def finishJob (d : Dev) (slot : Nat) (j : Job) : Dev :=
  let e := if j.half then chosenEnd d j else (match j.westEnd with | some e => e | none => lostInfo)
  let d := if j.half && endsDiffer j then record d { fspec 3 0x08 0x06 with slot := slot } else d
  let late := !j.desc.be && decide (j.desc.deadline < d.clk.devtime.toNat) && j.running
  let degraded := j.half && j.running && (j.fencedDuring || d.flt.fencedW || d.flt.fencedE || endsDiffer j)
  let flags := e.flags + put (flag late) 1 1 + put (flag degraded) 2 1
  let rec_ : DueRec := { cq := cqOf d j.sq, bytes := recordBytes j.sq j.index j.delayed flags e, slot := some slot,
                         client := j.desc.client, status := e.status }
  let served := e.status == .served
  let sch := { d.sched with
    slots := mset d.sched.slots slot { j with running := false, ended := true }
    running := if d.sched.running = some slot then none else d.sched.running
    lcOverrun := if d.sched.running = some slot then false else d.sched.lcOverrun
    plan := d.sched.plan.filter (· != slot), be := d.sched.be.filter (· != slot)
    due := d.sched.due ++ [rec_] }
  let pt := { d.ports with emp := mmap d.ports.emp (fun _ x => empJobEnd x slot served)
                           cap := mmap d.ports.cap (fun _ x => capJobEnd d x slot) }
  let d := { d with sched := sch, ports := pt, vce := mmap d.vce (fun _ v => vceJobEnd v slot) }
  let d := { d with pxe := mmap d.pxe (fun _ x => pxeJobEnd x slot) }
  let d := match d.flt.deferred with
    | some h => startTimer { d with flt := { d.flt with deferred := none, selftest := some h } } .selftest
    | none => d
  jobEndAudit (imagesSettle d)

/-- The job of a slot finishes once every half that runs it has ended or is fenced (R263). -/
def finishCheck (d : Dev) (slot : Nat) : Dev :=
  match mget? d.sched.slots slot with
  | none => d
  | some j =>
    let on (x : Scope) : Bool := x.jobValid && x.slot == slot
    if j.ended || on d.sc0 || on d.sc1 then d else finishJob d slot j

/-- The job of a scope ends with a status: R38's identity is audited, tiles and scope drop what is held, and the half's end is noted. A
violation ends the job FAILED_FAULT. -/
def endScope (d : Dev) (si : Nat) (st : Status) (detail : Nat) (extra : List Byte) : Dev :=
  let x := scope d si
  if !x.jobValid then d
  else
    let bad := auditable x && !auditOk x
    let d := if bad then record d (identityFault si x) else d
    let e := if bad then endInfo x .failedFault 3 (leBytes 2 (faultCode 3 0x08 0x08) ++ leBytes 2 0) else endInfo x st detail extra
    let tiles := mmap d.tiles (fun g t => if inScope x.kind g then tileJobEnd t else t)
    let d := releaseStacks (setScope { d with tiles := tiles } si (scopeJobEnd x)) x.kind
    let note (j : Job) : Job := if x.kind = .east then { j with eastEnd := some e } else { j with westEnd := some e }
    let d := { d with sched := { d.sched with slots := mmap d.sched.slots (fun s j => if s = x.slot then note j else j) } }
    finishCheck d x.slot

/-- The job of a slot is ended from outside (R258, R260): every scope that runs it stops; a job not yet dispatched leaves its
queue with counters of 0. -/
def abortJob (d : Dev) (slot : Nat) (st : Status) : Dev :=
  match mget? d.sched.slots slot with
  | none => d
  | some j =>
    if j.ended then d
    else if j.running then
      let stop (d : Dev) (si : Nat) : Dev :=
        let x := scope d si
        if x.jobValid && x.slot == slot then endScope d si st 0 [] else d
      stop (stop d 0) 1
    else
      let e : EndInfo := ⟨st, 0, [], 0, 0, 0, 0, 0, 0, 0, 0⟩
      let j := { j with westEnd := some e, eastEnd := some e }
      finishJob { d with sched := { d.sched with slots := mset d.sched.slots slot j } } slot j

/-- A job ends FAILED_FAULT: DETAIL is the class, offset 0x10 the code (Table 12-7). -/
def endFault (d : Dev) (si cls code : Nat) : Dev := endScope d si .failedFault cls (leBytes 2 code ++ leBytes 2 0)

/-- The jobs of the scopes named end FAILED_FAULT. -/
def endJobs (d : Dev) (jobs : List Nat) (cls code : Nat) : Dev := jobs.foldl (fun d si => endFault d si cls code) d

/-- Scopes whose job holds one of these stream slots. -/
def scopesOf (d : Dev) (slots : List Nat) : List Nat := [0, 1].filter (fun si => (scope d si).jobValid && slots.contains (scope d si).slot)

/-- A conservation law that an audit found broken (R28): a record of class 3, and the jobs that used the unit end (Table 16-5 row 3). -/
def violation (d : Dev) (f : Option FSpec) (jobs : List Nat) : Dev :=
  match f with
  | none => d
  | some f => endJobs (record d f) jobs f.cls (faultCode f.cls f.block f.code)

/-- C7 audited: every job uses the tier manager. -/
def poolAudit (d : Dev) : Dev := violation d (law7 d) [0, 1]

/-- A job ends FAILED_TIER (R217): TMG_LAST_FAIL, the class 2 record, and the completion record name cause, handle and
scope. -/
def endTier (d : Dev) (si cause handle : Nat) : Dev :=
  let x := scope d si
  if !x.jobValid then d
  else
    let sc := scopeCode x.kind
    let d := { d with tmg := { d.tmg with failCause := cause, failScope := sc, failHandle := handle } }
    let d := record d { cls := 2, block := 0x0B, code := 0x0F, unit := 0, scope := sc, slot := x.slot,
                        detail := handle % 2 ^ 16 + cause * 2 ^ 16 + sc * 2 ^ 24 }
    endScope d si .failedTier cause (leBytes 4 (handle % 2 ^ 16 + sc * 2 ^ 16))

/-- A job ends FAILED_MAPPING (R112, R113): one class 2 record and the layout of Table 12-7. -/
def endMapping (d : Dev) (si : Nat) (f : MFault) : Dev :=
  let x := scope d si
  if !x.jobValid then d
  else
    let unit := tileGlobal x.kind f.tile
    let d := record d { cls := 2, block := 0x14, code := 0x0E, unit := unit, scope := scopeCode x.kind, slot := x.slot,
                        detail := f.pos }
    endScope d si .failedMapping f.resource
      (leBytes 6 f.pos ++ leBytes 6 f.beat ++ leBytes 2 (f.tile % 1024 + f.slot * 1024) ++ leBytes 2 f.detail)

end Sys2Proof.Machine
end

