-- ==== Sys2Proof/Machine/Fabric.lean ====
section
/-! DEFINITION. How Reedway packets leave the device: headers and trailers (R318), routing (R321), budgets (R322), returns
(R320), credits (R325), wrapping (R334), and what a packet that comes back does to its requester. -/

namespace Sys2Proof.Machine

/-! ### Packets (R318) -/

/-- The 32 header bytes with the fields that the trailer does not cover taken as zero. -/
def pktCovered (p : Pkt) : List Byte :=
  leBytes 1 (p.ver.toNat * 32 + p.ty.toNat) ++ leBytes 1 0 ++ leBytes 2 p.len.toNat
    ++ leBytes 4 p.dst.toNat ++ leBytes 4 p.src.toNat ++ leBytes 4 0 ++ leBytes 4 0
    ++ leBytes 2 p.tag.toNat ++ leBytes 2 p.word.toNat ++ leBytes 8 p.off.toNat

/-- The trailer: CRC-32 over the header and the payload. -/
def pktTrailer (p : Pkt) : Word := crc32 (pktCovered p ++ p.payload)

/-- Flits of a packet: one for the header and one for each 64 bytes of payload. -/
def flits (p : Pkt) : Nat := p.payload.length / 64 + 1

def rwPort (d : Dev) (n : Nat) : RwPort := mget d.rw.ports n RwPort.reset
def setRw (d : Dev) (n : Nat) (x : RwPort) : Dev := { d with rw := { d.rw with ports := mset d.rw.ports n x } }
def updRw (d : Dev) (n : Nat) (f : RwPort → RwPort) : Dev := setRw d n (f (rwPort d n))

/-- RWG_ID. -/
def rwgId (d : Dev) : Nat := fld (regGet d 0x68000) 0 18

/-- A request or response that this device starts. -/
def newPkt (d : Dev) (ty vc dst budget tag word off : Nat) (payload : List Byte) : RPkt :=
  let p : Pkt :=
    { ver := 1, ty := BitVec.ofNat 5 ty, len := BitVec.ofNat 16 (payload.length / 64), vc := BitVec.ofNat 2 vc, ret := false, wrap := false, replay := false
      dst := BitVec.ofNat 18 dst, hops := 0, src := BitVec.ofNat 18 (rwgId d), budget := BitVec.ofNat 20 budget
      status := 0, wrapTo := 0, lseq := 0, tag := BitVec.ofNat 16 tag, word := BitVec.ofNat 16 word
      off := BitVec.ofNat 64 off, payload := payload, trailer := 0 }
  ⟨{ p with trailer := pktTrailer p }, d.clk.localNs, budget % 2 ^ 20⟩

/-- Whether a packet is a return or a response, to which R322 does not apply (R320). -/
def isAnswer (p : Pkt) : Bool := p.ret || p.ty == 3 || p.ty == 4

/-! ### Requests that wait for an answer -/

/-- The scope's COL instances of a group end with the job. -/
def failCol (d : Dev) (c : ColInst) : Dev :=
  let x := scope d c.scope
  let d := { d with rw := { d.rw with cols := d.rw.cols.filter (fun y => y != c) } }
  if x.jobValid && c.gen ≥ x.genFloor then
    let d := record d { cls := 2, block := 0x11, code := 0x0A, unit := c.group, scope := scopeCode x.kind, slot := x.slot,
                        detail := c.group }
    endFault d c.scope 2 (faultCode 2 0x11 0x0A)
  else d

/-- What a return does at its source (R320, R330): the request is answered, and its job ends. -/
def returnHome (d : Dev) (p : Pkt) : Dev :=
  if p.ty = 5 then
    match d.rw.cols.find? (fun c => c.group == p.word.toNat % 4096 && c.seq == p.off.toNat % 2 ^ 16
        && c.tile == fld p.off.toNat 16 10) with
    | some c => failCol d c
    | none => d
  else
    match d.rw.reqs.find? (fun r => r.tag == p.tag.toNat) with
    | none => d
    | some r =>
      let d := { d with rw := { d.rw with reqs := d.rw.reqs.filter (fun y => y.tag != r.tag) } }
      if (scope d r.scope).genFloor ≤ r.gen then endTier d r.scope (if p.status = 1 || p.status == 4 then 6 else 2) r.handle else d

/-! ### Routing (R321, R339) -/

/-- Whether an entry matches a destination. -/
def routeHits (r : Route) (dst : Nat) : Bool := dst / 2 ^ (18 - r.plen) == r.pfx / 2 ^ (18 - r.plen)

/-- The entry used: longest PLEN, then lowest index. -/
def routeOf (d : Dev) (dst : Nat) : Option (Nat × Route) :=
  d.rw.routes.foldl (fun best p =>
    if routeHits p.2 dst then
      match best with
      | some b => if b.2.plen < p.2.plen then some p else best
      | none => some p
    else best) none

def portUp (d : Dev) (n : Nat) : Bool := (rwPort d n).st == .up

/-- The other port of the ring that a port belongs to (R333). -/
def ringMate (d : Dev) (n : Nat) : Option Nat :=
  (List.range 4).findSome? (fun r =>
    let w := regGet d (0x68010 + 4 * r)
    if bit w 31 then
      if fld w 3 3 = n then some (fld w 0 3) else if fld w 0 3 = n then some (fld w 3 3) else none
    else none)

/-- Where a packet goes. -/
inductive Egress where
  | port (n : Nat)
  | wrapped (failed other : Nat)
  | noRoute
  deriving DecidableEq, Repr

/-- Egress of a packet that is not wrapped. `mine` when this device originates it. -/
def egressOf (d : Dev) (p : Pkt) (mine : Bool) : Egress :=
  match routeOf d p.dst.toNat with
  | none => .noRoute
  | some (_, r) =>
    if portUp d r.port && !(rwPort d r.port).wrapping then
      if mine && p.vc == 1 && r.altEn && r.onAlt && portUp d r.alt then .port r.alt else .port r.port
    else
      match ringMate d r.port with
      | some o =>
        if portUp d r.port && (rwPort d r.port).joinWait then .port r.port
        else if portUp d o then .wrapped r.port o else .noRoute
      | none => if r.altEn && portUp d r.alt then .port r.alt else .noRoute

/-! ### Sending -/

/-- A packet put on a port's queue, or held there until JOIN (R337). -/
def enqueue (d : Dev) (n : Nat) (p : RPkt) : Dev :=
  updRw d n (fun x =>
    if x.joinWait && !p.p.wrap then { x with held := x.held ++ [p] } else { x with txq := x.txq ++ [p] })

/-- A packet wrapped round the ring from its failed port (R334). -/
def wrapOnto (d : Dev) (failed other : Nat) (p : RPkt) (replay : Bool) (lseq : Nat) : Dev :=
  let w : RPkt := { p with p := { p.p with wrap := true, replay := replay, lseq := BitVec.ofNat 12 lseq,
                                            wrapTo := BitVec.ofNat 18 (rwPort d failed).peerId } }
  if portUp d other then enqueue d other w else d

/-- A return or response that cannot be routed is dropped (R320). -/
def dropAnswer (d : Dev) : Dev :=
  record { d with rw := { d.rw with retDrop := satAdd 8 d.rw.retDrop 1 } } (fspec 2 0x11 0x0A)

/-- An answer on its way. -/
def sendAnswer (d : Dev) (p : RPkt) : Dev :=
  if p.p.dst.toNat = rwgId d then (if p.p.ret then returnHome d p.p else d)
  else
    match egressOf d p.p true with
    | .port n => enqueue d n p
    | .wrapped f o => wrapOnto d f o p false (rwPort d f).txSeq
    | .noRoute => dropAnswer d

/-- A packet sent back to its source with a status (R320); a return or a response is dropped instead. -/
def bounce (d : Dev) (p : RPkt) (status : Nat) : Dev :=
  if isAnswer p.p then dropAnswer d
  else
    let q : Pkt := { p.p with ret := true, wrap := false, replay := false, payload := [], len := 0, dst := p.p.src,
                              src := BitVec.ofNat 18 (rwgId d), hops := 0, status := BitVec.ofNat 8 status }
    let q := { q with trailer := pktTrailer q }
    let d := { d with rw := { d.rw with returned := satAdd 16 d.rw.returned 1 } }
    sendAnswer d ⟨q, d.clk.localNs, q.budget.toNat⟩

/-- A packet given to the routing of R321. -/
def sendPkt (d : Dev) (p : RPkt) (mine : Bool) : Dev :=
  match egressOf d p.p mine with
  | .port n => enqueue d n p
  | .wrapped f o => wrapOnto d f o p false (rwPort d f).txSeq
  | .noRoute => bounce d p 2

/-- Credit pool of a packet (Table 15-5). -/
def poolOf (p : Pkt) : Nat := if p.wrap then 4 else p.vc.toNat

def pool (x : RwPort) (i : Nat) : Pool := mget x.pools i ⟨0, 0, 0, 0, 0, 0⟩

/-- Whether a port holds the credits and the retry room for a packet. -/
def canSend (x : RwPort) (p : Pkt) : Bool :=
  x.st == .up && decide (flits p ≤ (pool x (poolOf p)).avail)
    && decide ((x.retry.map (fun r => flits r.2.p)).sum + flits p ≤ 512)

/-- First packet of a VC that waits at a port: packets of one source, destination and VC keep their order (R323). -/
def headOf (x : RwPort) (vc : Nat) : Option RPkt := x.txq.find? (fun p => p.p.vc.toNat == vc)

/-- The packet a port serves next (R324): MGT, LC, then COLL and BE in alternation. -/
def nextPkt (x : RwPort) : Option RPkt :=
  let order := if x.lastColl then [3, 0, 1, 2] else [3, 0, 2, 1]
  order.findSome? (fun vc => match headOf x vc with
    | some p => if canSend x p.p then some p else none
    | none => none)

/-- One packet leaves a port, or is returned for want of budget or hops: HOPS never reaches 255 on a link (R321, R322, Table 15-4). -/
def transmit (d : Dev) (n : Nat) (p : RPkt) : Dev :=
  let x := rwPort d n
  let d := setRw d n { x with txq := x.txq.erase p, lastColl := if p.p.vc = 2 then true else if p.p.vc = 1 then false else x.lastColl }
  let cost := (d.clk.localNs - p.born) + x.lat
  if 254 ≤ p.p.hops then bounce d p 2
  else if !isAnswer p.p && decide (p.bud < cost) && (p.p.ty == 1 || p.p.ty == 2 || p.p.ty == 5) then bounce d p 1
  else
    let q : Pkt := { p.p with hops := p.p.hops + 1,
                              budget := if isAnswer p.p then p.p.budget else BitVec.ofNat 20 (p.bud - cost) }
    let k := flits q
    let i := poolOf q
    let d := updRw d n (fun x =>
      let c := pool x i
      { x with pools := mset x.pools i { c with avail := c.avail - k, sent := (c.sent + k) % 2 ^ 32 }
               retry := x.retry ++ [(x.txSeq, { p with p := q })], txSeq := (x.txSeq + k) % 4096 })
    emit d (.packet n q)

/-- Packets leave while any port can send. -/
def pump : Nat → Dev → Dev
  | 0, d => d
  | k + 1, d =>
    match (List.range 8).findSome? (fun n => (nextPkt (rwPort d n)).map (fun p => (n, p))) with
    | some (n, p) => pump k (transmit d n p)
    | none => d

/-- Every packet that can leave leaves. DEDUCED (notes/assumptions/47.md). -/
def flushPorts (d : Dev) : Dev :=
  pump (2 * ((List.range 8).map (fun n => (rwPort d n).txq.length)).sum + 8) d

/-! ### Requests of this device -/

/-- Bytes cut into spans of at most 4,096 (R318). -/
def chunk4k (off : Nat) (bs : List Byte) : List (Nat × List Byte) :=
  (List.range (ceilDiv bs.length 4096)).map (fun i => (off + 4096 * i, (bs.drop (4096 * i)).take 4096))

/-- The side of an entry after the estimates have moved (R339). -/
def sideAfter (d : Dev) (i : Nat) (r : Route) : Route :=
  let pri := (rwPort d r.port).est + 16 * r.extraPri
  let alt := (rwPort d r.alt).est + 16 * r.extraAlt
  let hyst := fld (regGet d 0x68028) 0 16
  let other := if r.onAlt then pri + hyst < alt else alt + hyst < pri
  if r.altEn && portUp d r.port && portUp d r.alt && other && !bit (regGet d 0x68028) 31
      && !d.rw.reqs.any (fun q => q.entry == some i) then { r with onAlt := !r.onAlt }
  else r

/-- Entries of the route table take the side that R339 gives. -/
def settleRoutes (d : Dev) : Dev := { d with rw := { d.rw with routes := mmap d.rw.routes (sideAfter d) } }

/-- One request with its own TAG, remembered until it is answered. -/
def request (d : Dev) (i : Issuer) (kind : ReqKind) (mk : Nat → RPkt) : Dev :=
  let d := settleRoutes d
  let t := d.rw.nextTag
  let p := mk t
  let e := if p.p.vc = 1 then (routeOf d p.p.dst.toNat).map (fun r => r.1) else none
  let d := { d with rw := { d.rw with nextTag := (t + 1) % 2 ^ 16, reqs := d.rw.reqs ++ [⟨t, i.scope, i.pos, i.tile, i.slot, i.used, kind, e, i.gen⟩] } }
  sendPkt d p true

/-- Consecutive WRs of at most 4,096 bytes (R318) to an object of another device: an RWS, or a TMG write to a PEER object. -/
def remoteWrite (d : Dev) (i : Issuer) (dst rhandle off vc budget : Nat) (bs : List Byte) : Dev :=
  flushPorts ((chunk4k off bs).foldl (fun d c =>
    request d i .write (fun t => newPkt d 1 vc dst budget t rhandle c.1 c.2)) d)

/-- A request for `n` bytes of an object. DEDUCED (notes/assumptions/14.md). -/
def readPkt (d : Dev) (dst budget tag word off n : Nat) : RPkt :=
  let p := newPkt d 2 0 dst budget tag word off []
  let q : Pkt := { p.p with len := BitVec.ofNat 16 (n / 64) }
  { p with p := { q with trailer := pktTrailer q } }

/-- RD_REQs of at most 4,096 bytes for a read of a PEER object. -/
def remoteRead (d : Dev) (by_ : Issuer) (dst rhandle off len budget xfer : Nat) : Dev :=
  flushPorts ((List.range (ceilDiv len 4096)).foldl (fun d i =>
    let n := Nat.min 4096 (len - 4096 * i)
    request d by_ (.read xfer (4096 * i) n)
      (fun t => readPkt d dst budget t rhandle (off + 4096 * i) n)) d)

end Sys2Proof.Machine
end

