-- ==== Sys2Proof/Machine/Tmg.lean ====
section
/-! DEFINITION. The tier manager's objects and pages (chapter 10): the object table (R199, R200), the checks of an access
(R201), page placement and pool (R202, R203), fills, evictions and write-backs (R204, R209 to R213), and accesses to an
object of any class by tiles and engines (R205 to R208), with the memory-side adders they reach (R235 to R238). -/

namespace Sys2Proof.Machine

/-! ### Objects (R199, R200) -/

def pageSize : Nat := 65536

/-- Number of handles of an object's run. -/
def handleRun (npages : Nat) : Nat := ceilDiv npages 65536

/-- The object a handle names, with its first handle. -/
def objOf (d : Dev) (h : Nat) : Option (Nat × Obj) :=
  d.tmg.objs.find? (fun p => decide (p.1 ≤ h) && decide (h < p.1 + handleRun p.2.npages))

def obj? (d : Dev) (h : Nat) : Option Obj := mget? d.tmg.objs h

def setObj (d : Dev) (h : Nat) (o : Obj) : Dev := { d with tmg := { d.tmg with objs := mset d.tmg.objs h o } }

/-- Key of a byte of an object in T1's listing. -/
def t1Key (h off : Nat) : Nat := h * 2 ^ 40 + off

/-- Key of a page, as waiting accesses name it. -/
def pageKey (h i : Nat) : Nat := h * 2 ^ 24 + i

/-- Handle and page of a key. -/
def keyPage (k : Nat) : Nat × Nat := (k / 2 ^ 24, k % 2 ^ 24)

/-- Channels in service in a stack mask, 0 meaning every stack (R203). -/
def chansOf (d : Dev) (stk : Nat) : List Nat :=
  (List.range 192).filter (fun c =>
    (stk == 0 || bit stk (c / 16)) && !(mget d.hbm.stk (c / 16) Stack.reset).retired.contains (c % 16))

/-- A page as it stands: a page that is not listed is mapped in a RESIDENT object and unmapped in any other. -/
def pageOf (o : Obj) (i : Nat) : Page :=
  match mget? o.pages i with
  | some p => p
  | none =>
    ⟨if o.cls = .resident then .mapped else .unmapped,
     if o.chans.isEmpty then 0 else o.chans.getD (i % o.chans.length) 0, 0, 0, false, false, false, false, false, 0⟩

def setPage (d : Dev) (h i : Nat) (p : Page) : Dev :=
  match obj? d h with
  | some o => setObj d h { o with pages := mset o.pages i p }
  | none => d

/-- The pages a span touches. -/
def pagesOf (off len : Nat) : List Nat :=
  if len = 0 then [] else (List.range ((off + len - 1) / pageSize - off / pageSize + 1)).map (· + off / pageSize)

/-! ### Accesses (R201, R204) -/

/-- Whether an access lies in its object as R201 asks; the granularity is 64 bytes but for what R92 exempts. -/
def accessOk (o : Obj) (off len : Nat) (write : Bool) : Bool :=
  off % 64 == 0 && len % 64 == 0 && decide (off + len ≤ o.npages * pageSize) && !(write && o.rdonly)

/-- The pages of a span that an access must wait for; only BACKED objects have any. -/
def missing (h : Nat) (o : Obj) (off len : Nat) : List Nat :=
  if o.cls = .backed then
    ((pagesOf off len).filter (fun i =>
      let p := pageOf o i
      !p.poisoned && !p.lost && (p.st == .unmapped || p.st == .wanting || p.st == .filling))).map (pageKey h)
  else []

/-! ### Block moves (R206) -/

/-- Element size in bits of S[Sn] of a block move. -/
def blkBits (w : Nat) : Nat :=
  match fld w 0 2 with
  | 0 => 4
  | 1 => 8
  | 2 => 16
  | _ => 32

/-- Row pitch of S[Sn]. -/
def blkPitch (w : Nat) : Nat := fld w 8 24

/-- Bytes of the object that a block move spans: 64 rows, the last without its pitch. -/
def blkSpan (w : Nat) : Nat := 63 * blkPitch w + 8 * blkBits w

/-- T0 element index of element (r, c). -/
def blkIndex (w r c : Nat) : Nat := if bit w 2 then 64 * c + r else 64 * r + c

/-- The T0 bytes of a block read from row-major object bytes. -/
def blkGather (w : Nat) (bs : List Byte) : List Byte :=
  let s := blkBits w
  let elem (i : Nat) : Nat :=
    let r := if bit w 2 then i % 64 else i / 64
    let c := if bit w 2 then i / 64 else i % 64
    let b := r * blkPitch w * 8 + c * s
    fld (leAt bs (b / 8) 5) (b % 8) s
  let per := 8 / Nat.min s 8
  if s = 4 then
    (List.range 2048).map (fun i => BitVec.ofNat 8 (((List.range per).map (fun j => elem (per * i + j) * 2 ^ (s * j))).sum))
  else ((List.range 4096).map (fun i => leBytes (s / 8) (elem i))).flatten

/-- The row-major rows (offset in the object, bytes) of a block written from T0 bytes. -/
def blkScatter (w : Nat) (t0 : List Byte) : List (Nat × List Byte) :=
  let s := blkBits w
  let elem (i : Nat) : Nat := let b := i * s; fld (leAt t0 (b / 8) 5) (b % 8) s
  (List.range 64).map (fun r =>
    (r * blkPitch w,
     if s = 4 then
       (List.range 32).map (fun j => BitVec.ofNat 8 (elem (blkIndex w r (2 * j)) + 16 * elem (blkIndex w r (2 * j + 1))))
     else ((List.range 64).map (fun c => leBytes (s / 8) (elem (blkIndex w r c)))).flatten))

/-! ### Issuers and spans of waiting accesses -/

/-- Bytes of an ATM element. -/
def atmBytes (afmt : Nat) : Nat :=
  match afmt with
  | 0 => 4
  | 1 => 2
  | 2 => 4
  | _ => 8

/-- What an access of a scope's tile records. -/
def issuerOf (d : Dev) (si pos tile used : Nat) : Issuer :=
  let x := scope d si
  ⟨si, pos, tile, x.slot, x.gen, used⟩

/-- Whether the job that issued an access still runs. -/
def issuerLive (d : Dev) (i : Issuer) : Bool := (scope d i.scope).jobValid && decide ((scope d i.scope).genFloor ≤ i.gen)

/-- Who issued a waiting access of a scope. -/
def waiterBy (w : Waiter) : Option Issuer :=
  match w with
  | .wr i _ _ _ _ => some i
  | .atm i _ _ _ _ => some i
  | .nrw i _ _ _ => some i
  | .col i _ _ _ _ _ _ => some i
  | .coll _ => none
  | .serve _ => none
  | .win .. => none
  | .winRd .. => none

/-- Whether a waiting access is a write or an add of a scope. -/
def waiterWrites (w : Waiter) : Bool :=
  match w with
  | .wr .. => true
  | .atm .. => true
  | .nrw .. => true
  | .col .. => false
  | .coll _ => false
  | .serve _ => false
  | .win .. => false
  | .winRd .. => false

/-- Handle of the object, and spans in it, that a waiting access reaches. -/
def waiterSpans (w : Waiter) : Nat × List (Nat × Nat) :=
  match w with
  | .wr _ h off data blk => (h, [(off, match blk with
      | some b => blkSpan b
      | none => data.length)])
  | .atm _ h offs _ afmt => (h, (offs.filterMap (fun x => x)).map (fun a => (a, atmBytes afmt)))
  | .nrw _ h offs _ => (h, (offs.filterMap (fun x => x)).map (fun a => (a, 32)))
  | .win _ h off data => (h, [(off, data.length)])
  | .winRd _ h off n => (h, [(off, n)])
  | .serve _ => (0, [])
  | .col .. => (0, [])
  | .coll _ => (0, [])

/-- The spans of its object that a transfer reads. -/
def xferSpans (t : Xfer) : List (Nat × Nat) :=
  match t.lanes with
  | some ls => (ls.filterMap (fun x => x)).map (fun a => (a, 32))
  | none => [(t.off, match t.blk with
      | some w => blkSpan w
      | none => t.len)]

/-- Handle as the east half's accesses use it (R250). -/
def rebase (d : Dev) (si h : Nat) : Nat :=
  let x := scope d si
  if x.kind = .east then
    match mget? d.sched.slots x.slot with
    | some j =>
      if j.desc.pairLo ≤ h && h ≤ j.desc.pairHi && !(j.desc.pairLo == 0 && j.desc.pairHi == 0) then (h + j.desc.pairDelta) % 2 ^ 16 else h
    | none => h
  else h

/-! ### Prefetch leads (R215) -/

/-- Source class of an object's data for the estimates of R215: 0 T1, 1 host, 2 peer. -/
def srcClassOf (o : Obj) (waits : Bool) : Nat :=
  match o.cls with
  | .far => 1
  | .peer => 2
  | _ => if waits then 1 else 0

/-- TMG_LEAD_CTRL. -/
def leadCtrl (d : Dev) : Nat := regGet d 0x20030

def estOf (d : Dev) (c : Nat) : Nat := if c = 0 then d.tmg.est0 else if c = 1 then d.tmg.est1 else d.tmg.est2

/-- The lead of an entry, in units of 64 beats. -/
def leadOf (d : Dev) (e : PfEntry) (c : Nat) : Nat :=
  let l := ceilDiv (estOf d c + fld (leadCtrl d) 0 12) 64
  let l := if l < e.leadMin then e.leadMin else l
  if e.leadMax < l then e.leadMax else l

/-- Source class of an entry now: its object, and its span there. -/
def pfClass (h : Nat) (o : Obj) (off : Nat) (e : PfEntry) : Nat :=
  if e.kind = 0 then 1 else srcClassOf o (!(missing h o off e.len).isEmpty)

/-- Whether the stream has passed an entry's issue position (R214). -/
def pfPassed (d : Dev) (si : Nat) (e : PfEntry) : Bool :=
  let hd := rebase d si e.handle
  let lead := match objOf d hd with
    | some (h, o) => leadOf d e (pfClass h o ((hd - h) * 2 ^ 32 + e.off) e)
    | none => leadOf d e (if e.kind = 0 then 1 else 0)
  decide (e.need - 64 * lead ≤ (scope d si).pos)

/-- Whether an entry may be issued now (R214, R216): the stream has passed its issue position, fewer than 1,024 moves are outstanding, and the
landing buffer of one of kind 1 is armed. -/
def pfReady (d : Dev) (si : Nat) (e : PfEntry) : Bool :=
  let x := scope d si
  !e.issued && decide (x.moves.length < 1024) && pfPassed d si e
    && (e.kind == 0 || (lbuf (tile d (tileGlobal x.kind e.tile)).core e.lb).st == .armed)

/-- Whether another entry goes first: entries that may be issued go in NEED order, those of one NEED in the order of the list (R214). DEDUCED
(notes/assumptions/30.md). -/
def pfBehind (d : Dev) (si i : Nat) (e : PfEntry) : Bool :=
  let es := (scope d si).prefetch
  (List.range es.length).any (fun j => match es[j]? with
    | some f => pfReady d si f && (decide (f.need < e.need) || (f.need == e.need && decide (j < i)))
    | none => false)

/-- Whether an entry of a scope's job must be issued before its stream goes on (R214). -/
def prefetchDue (d : Dev) (si : Nat) : Bool := (scope d si).prefetch.any (pfReady d si)

/-! ### Pool moves (C7) -/

/-- Pages move between the states of the pool, and C7 is audited (R202). -/
def poolMove (d : Dev) (free mapped transit : Int) : Dev :=
  poolAudit { d with tmg := { d.tmg with poolFree := (d.tmg.poolFree + free).toNat
                                         poolMapped := (d.tmg.poolMapped + mapped).toNat
                                         poolTransit := (d.tmg.poolTransit + transit).toNat } }

/-- A mapped page leaves the object: its bytes are no longer held. -/
def dropPage (d : Dev) (h i : Nat) : Dev :=
  match obj? d h with
  | none => d
  | some o =>
    { d with tmg := { d.tmg with objs := mset d.tmg.objs h { o with pages := mdel o.pages i }
                                 mem := memZero d.tmg.mem (t1Key h (i * pageSize)) pageSize } }

/-- T2 address of a byte of a BACKED or FAR object. -/
def t2Addr (o : Obj) (off : Nat) : Nat := o.base + off

/-- A write-back starts: a snapshot of each dirty sub-page goes to T2 (R211). -/
def startWb (d : Dev) (h i : Nat) (evicting again : Bool) : Dev :=
  match obj? d h with
  | none => d
  | some o =>
    let p := pageOf o i
    let d := (List.range 16).foldl (fun d u =>
      if bit p.dirty u then
        hostPost d (t2Link d) none (t2Addr o (i * pageSize + u * 4096)) (memRead d.tmg.mem (t1Key h (i * pageSize + u * 4096)) 4096)
      else d) d
    poolMove (setPage d h i { p with st := .writeback, wbMask := p.dirty, dirty := 0, evicting := evicting, again := again }) 0 (-1) 1

/-- Whether a prefetch entry of a running job holds a page: its issue position has been passed, and its NEED has not (R210). -/
def prefetchHolds (d : Dev) (h i : Nat) : Bool :=
  [0, 1].any (fun si =>
    let x := scope d si
    x.jobValid && x.prefetch.any (fun e =>
      decide (x.pos ≤ e.need) && (e.issued || pfPassed d si e) &&
        (let hd := rebase d si e.handle
         match objOf d hd with
         | some (h', _) => h' == h && (pagesOf ((hd - h') * 2 ^ 32 + e.off) e.len).contains i
         | none => false)))

/-- Whether an access is in flight on a page: one that waits, for this page or another, an add, a transfer whose bytes have not been read, or a
command of an engine. -/
def pageBusy (d : Dev) (h i : Nat) : Bool :=
  let k := pageKey h i
  let on (w : Nat × List (Nat × Nat)) : Bool := w.1 == h && w.2.any (fun s => (pagesOf s.1 s.2).contains i)
  d.tmg.waiters.any (fun w => w.1.contains k || on (waiterSpans w.2))
    || d.hbm.stk.any (fun q => q.2.adds.any (fun a => a.handle == h && a.off / pageSize == i))
    || [d.sc0, d.sc1].any (fun x => x.xfers.any (fun t => t.wait.contains k || (t.owed != 0 && on (t.handle, xferSpans t))))
    || d.pxe.any (fun p => p.2.pages.contains k) || d.vce.any (fun v => v.2.pages.contains k)

/-- Pages that may be evicted (R210), as (dirty, last access, handle, page). -/
def evictable (d : Dev) : List (Nat × Nat × Nat × Nat) :=
  (d.tmg.objs.map (fun ho =>
    if ho.2.cls = .backed && !ho.2.pin then
      (ho.2.pages.filter (fun p => p.2.st == .mapped && !p.2.pinned && !pageBusy d ho.1 p.1 && !prefetchHolds d ho.1 p.1)).map
        (fun p => (if p.2.dirty = 0 then 0 else 1, p.2.last, ho.1, p.1))
    else [])).flatten

/-- Clean before dirty, then oldest access. -/
def evictBefore (a b : Nat × Nat × Nat × Nat) : Bool :=
  decide (a.1 < b.1) || (a.1 == b.1 && decide (a.2.1 < b.2.1))

/-- The page to evict next. -/
def victim (d : Dev) : Option (Nat × Nat × Nat × Nat) :=
  (evictable d).foldl (fun b c => match b with
    | none => some c
    | some x => if evictBefore c x then some c else some x) none

/-- One eviction: a clean page is freed, a dirty one is written back first (R210, R211). -/
def evictOne (d : Dev) : Dev :=
  match victim d with
  | none => d
  | some (dirty, _, h, i) =>
    if dirty = 0 then poolMove (dropPage d h i) 1 (-1) 0 else startWb d h i true true

/-- Pages that evictions under way will free. -/
def evictingNow (d : Dev) : Nat :=
  (d.tmg.objs.map (fun ho => countIf ho.2.pages (fun p => p.2.st == .writeback && p.2.evicting))).sum

/-- Evictions while the pool is below 1/64 FREE or a fill finds no FREE page (R210). -/
def reclaim : Nat → Dev → Dev
  | 0, d => d
  | k + 1, d =>
    let low := decide (64 * (d.tmg.poolFree + evictingNow d) < d.tmg.poolSize)
      || (d.tmg.poolFree + evictingNow d == 0)
    if low && (victim d).isSome then reclaim k (evictOne d) else d

/-- As many evictions as there are pages to evict. -/
def reclaimAll (d : Dev) : Dev := reclaim (evictable d).length d

/-- Next channel of an object in round-robin order (R203). DEDUCED (notes/assumptions/30.md). -/
def nextCh (d : Dev) (o : Obj) : Nat :=
  let cs := chansOf d o.stk
  match o.lastCh with
  | none => cs.headD 0
  | some l => (cs.find? (fun c => decide (l < c))).getD (cs.headD 0)

/-- A fill starts, or waits for a FREE page (R204, R210). -/
def startFill (d : Dev) (h i : Nat) : Dev :=
  match obj? d h with
  | none => d
  | some o =>
    let p := pageOf o i
    if p.st != .unmapped && p.st != .wanting then d
    else
      let d := if d.tmg.poolFree = 0 then reclaimAll d else d
      if d.tmg.poolFree = 0 then setPage d h i { p with st := .wanting }
      else
        match obj? d h with
        | none => d
        | some o =>
          let c := nextCh d o
          let d := setObj d h { o with lastCh := some c, pages := mset o.pages i { p with st := .filling, ch := c } }
          reclaimAll (poolMove d (-1) 0 1)

/-- Fills that waited for a FREE page start once there is one. -/
def feedWanting (d : Dev) : Dev :=
  d.tmg.objs.foldl (fun d ho => ho.2.pages.foldl (fun d p =>
    if p.2.st = .wanting && d.tmg.poolFree != 0 then startFill d ho.1 p.1 else d) d) d

/-! ### What an access does to pages -/

/-- Every missing page of a span requested. -/
def requestPages (d : Dev) (ks : List Nat) : Dev := ks.foldl (fun d k => startFill d (keyPage k).1 (keyPage k).2) d

/-- An access that waits, for pages, which are requested (R204), or for what stands before it. -/
def waitFor (d : Dev) (ms : List Nat) (w : Waiter) : Dev :=
  requestPages { d with tmg := { d.tmg with waiters := d.tmg.waiters ++ [(ms, w)] } } ms

/-- A span read or written is the latest access of its pages; an eviction that had chosen one is abandoned (R219). -/
def touch (d : Dev) (h off len : Nat) : Dev :=
  match obj? d h with
  | none => d
  | some o =>
    if o.cls = .backed then
      let n := d.tmg.clock + 1
      let o := (pagesOf off len).foldl (fun o i =>
        { o with pages := mset o.pages i { pageOf o i with last := n, evicting := false } }) o
      setObj { d with tmg := { d.tmg with clock := n } } h o
    else d

/-- A span with a page that is poisoned or lost (R220). -/
def spanBad (o : Obj) (off len : Nat) : Bool :=
  (pagesOf off len).any (fun i => let p := pageOf o i; p.poisoned || p.lost)

/-- Handles of validated or running images that lie in an object. -/
def imageIn (h : Nat) (o : Obj) (img : Nat) : Bool := decide (h ≤ img) && decide (img < h + handleRun o.npages)

/-- Whether a queued or running job names an image in an object (R98). -/
def jobNames (d : Dev) (h : Nat) (o : Obj) : Bool :=
  d.sched.slots.any (fun p => !p.2.ended && imageIn h o p.2.desc.image)

/-- A write reaches an object that holds a validated image no job names, or one being validated (R98, Table 4-17). -/
def touchImage (d : Dev) (h : Nat) (o : Obj) : Dev :=
  { d with imgs := { d.imgs with valid := d.imgs.valid.filter (fun i => !imageIn h o i)
                                 dirty := d.imgs.dirty || (d.imgs.busy && imageIn h o d.imgs.cur) } }

/-- Bytes of T1 changed: dirty bits of sub-pages whose bytes change (R209). DEDUCED (notes/assumptions/30.md). -/
def t1Put (d : Dev) (h off : Nat) (bs : List Byte) : Dev :=
  match obj? d h with
  | none => d
  | some o =>
    let changed (u : Nat) : Bool :=
      (List.range bs.length).any (fun i => (off + i) / 4096 == u && memGet d.tmg.mem (t1Key h (off + i)) != byteAt bs i)
    let us := (List.range (ceilDiv (off % 4096 + bs.length) 4096)).map (· + off / 4096)
    let o' :=
      if o.cls = .backed then
        (us.filter changed).foldl (fun o u =>
          let p := pageOf o (u / 16)
          { o with pages := mset o.pages (u / 16) { p with dirty := p.dirty ||| 2 ^ (u % 16) } }) o
      else o
    { d with tmg := { d.tmg with objs := mset d.tmg.objs h o', mem := memWrite d.tmg.mem (t1Key h off) bs } }

/-- A write to T1 with what R98 says of image objects. -/
def t1Write (d : Dev) (h off : Nat) (bs : List Byte) : Dev :=
  match obj? d h with
  | none => d
  | some o =>
    if jobNames d h o then discarded d 0x08 h
    else t1Put (touchImage (touch d h off bs.length) h o) h off bs

/-- A span of T1. -/
def t1Read (d : Dev) (h off n : Nat) : List Byte := memRead d.tmg.mem (t1Key h off) n

end Sys2Proof.Machine
end

