-- ==== Sys2Proof/Machine/Access.lean ====
section
/-! DEFINITION. Accesses to an object of any class by tiles, other devices and the host (R205 to R208, R235, R239): what an access waits for,
the adders that take adds (R235 to R238), the collectives that read their groups from T1 (R327 to R330), and what goes on when a page
arrives, a run of rounds ends or a fill fails. -/

namespace Sys2Proof.Machine

/-! ### Memory-side adds (R235 to R238) -/

/-- Stack of a byte of T1, by its page's channel. -/
def stackOf (o : Obj) (off : Nat) : Nat := (pageOf o (off / pageSize)).ch / 16

/-- Adds accepted by the adders of their stacks. -/
def acceptAdds (d : Dev) (i : Issuer) (h afmt : Nat) (lanes : List (Nat × Nat × List Byte)) : Dev :=
  lanes.foldl (fun d l =>
    match obj? d h with
    | none => d
    | some o =>
      let n := stackOf o l.2.1
      let st := mget d.hbm.stk n Stack.reset
      let a : Add := ⟨i, h, l.2.1, afmt, l.2.2, l.1⟩
      let st : Stack := { st with adds := st.adds ++ [a], accepted := (st.accepted + 1) % 2 ^ 64 }
      { d with hbm := { d.hbm with stk := mset d.hbm.stk n st } }) d

/-! ### Requests of a scope -/

/-- Whether one access stands before another of the same tile. -/
def issuedBefore (j i : Issuer) : Bool := j.scope == i.scope && j.tile == i.tile && j.slot == i.slot && decide (j.pos < i.pos)

/-- Whether two lists of spans share a byte. -/
def spansMeet (a b : List (Nat × Nat)) : Bool := a.any (fun s => b.any (fun t => overlap s.1 s.2 t.1 t.2))

/-- Whether a stack holds an add that the same tile issued earlier to the same bytes (R207, R241). -/
def addsBefore (d : Dev) (i : Issuer) (h : Nat) (spans : List (Nat × Nat)) : Bool :=
  d.hbm.stk.any (fun s => s.2.adds.any (fun a => a.handle == h && issuedBefore a.by_ i && spansMeet spans [(a.off, atmBytes a.afmt)]))

/-- Whether something that the same tile issued earlier to the same bytes still waits (R207, R241): a write or an add, or, before a write, a
read. -/
def earlierOpen (d : Dev) (i : Issuer) (h : Nat) (spans : List (Nat × Nat)) (write : Bool) : Bool :=
  let x := scope d i.scope
  d.tmg.waiters.any (fun w => waiterWrites w.2 && (waiterSpans w.2).1 == h && spansMeet spans (waiterSpans w.2).2 && (match waiterBy w.2 with
        | some j => issuedBefore j i
        | none => false))
    || (write && x.xfers.any (fun t => t.owed != 0 && t.handle == h && tileIndex x.kind t.tile == i.tile && decide (x.genFloor ≤ t.gen)
        && decide (t.pos < i.pos) && spansMeet spans (xferSpans t)))

/-- Whether a run of refresh rounds holds an access to spans of an object (R229). -/
def roundsHold (d : Dev) (o : Obj) (spans : List (Nat × Nat)) : Bool :=
  (o.cls == .resident || o.cls == .backed)
    && spans.any (fun s => (pagesOf s.1 s.2).any (fun i => (stack d ((pageOf o i).ch / 16)).runLeft != 0))

/-- Whether an access must wait although its pages are there. -/
def mustWait (d : Dev) (i : Issuer) (h : Nat) (o : Obj) (spans : List (Nat × Nat)) (write : Bool) : Bool :=
  roundsHold d o spans || addsBefore d i h spans || earlierOpen d i h spans write

/-- A span with a page that is lost: any access to it ends the requesting job (R220). -/
def spanLost (o : Obj) (off len : Nat) : Bool := (pagesOf off len).any (fun i => (pageOf o i).lost)

/-- TMG_PEER_BUDGET. -/
def peerBudget (d : Dev) : Nat := fld (regGet d 0x20044) 0 20

/-- An object write performed: bytes of T1, T2 or a peer (R205, R207). Rows of a block go one by one. -/
def performWrite (d : Dev) (i : Issuer) (h0 : Nat) (o : Obj) (rows : List (Nat × List Byte)) : Dev :=
  match o.cls with
  | .far => rows.foldl (fun d r => hostPost d (t2Link d) none (t2Addr o r.1) r.2) d
  | .peer => rows.foldl (fun d r => remoteWrite d i o.devid o.rhandle r.1 0 (peerBudget d) r.2) d
  | _ => rows.foldl (fun d r => t1Write d h0 r.1 r.2) d

/-- Object write of a scope (R201, R204): `blk` is S[Sn] of a block move. -/
def scopeWrite (d : Dev) (i : Issuer) (off : Nat) (data : List Byte) (blk : Option Nat) : Dev :=
  let handle := i.used
  match objOf d handle with
  | none => endTier d i.scope 4 handle
  | some (h, o) =>
    let off := (handle - h) * 2 ^ 32 + off
    let span := match blk with
      | some w => blkSpan w
      | none => data.length
    let okLen := match blk with
      | some _ => roundUp span 64
      | none => span
    if !accessOk o off okLen true then endTier d i.scope 4 handle
    else if spanLost o off span then endTier d i.scope 3 handle
    else
      let rows := match blk with
        | some w => (blkScatter w data).map (fun r => (off + r.1, r.2))
        | none => [(off, data)]
      let ms := missing h o off span
      if ms.isEmpty && !mustWait d i h o [(off, span)] true then performWrite d i h o rows
      else waitFor d ms (.wr i h off data blk)

/-- Adds of a scope once its pages are there. -/
def performAtm (d : Dev) (i : Issuer) (h : Nat) (o : Obj) (offs : List (Option Nat)) (vals : List (List Byte))
    (afmt : Nat) : Dev :=
  let lanes := (List.range 64).filterMap (fun k => match offs.getD k none with
    | some a => some (k, a, vals.getD k [])
    | none => none)
  let d := if jobNames d h o then discarded d 0x08 h else d
  if jobNames d h o then d
  else acceptAdds (touchImage (lanes.foldl (fun d l => touch d h l.2.1 (atmBytes afmt)) d) h o) i h afmt lanes

/-- ATM or NRW lanes: the offset of each lane in the object, none for a null index; no list where a lane fails or the
object operand is not on a 64-byte boundary (R235, R239). -/
def laneOffs (h : Nat) (o : Obj) (handle off : Nat) (idx : List (Option Nat)) (step sz : Nat) (write : Bool) :
    Option (List (Option Nat)) :=
  let b := (handle - h) * 2 ^ 32 + off
  let offs := idx.map (fun x => x.map (fun i => b + i * step))
  if off % 64 != 0 || (write && o.rdonly) then none
  else if offs.all (fun x => match x with
      | some a => decide (a + sz ≤ o.npages * pageSize)
      | none => true)
  then some offs
  else none

/-- Pages that a list of lanes waits for, each once. -/
def lanePages (h : Nat) (o : Obj) (offs : List (Option Nat)) (sz : Nat) : List Nat :=
  ((offs.filterMap (fun x => x)).map (fun a => missing h o a sz)).flatten.eraseDups

/-- ATM of a scope (R208, R235): every lane is checked before any is sent. -/
def scopeAtm (d : Dev) (i : Issuer) (off : Nat) (idx : List (Option Nat)) (vals : List (List Byte)) (afmt : Nat) : Dev :=
  let handle := i.used
  match objOf d handle with
  | none => endTier d i.scope 4 handle
  | some (h, o) =>
    if o.cls = .far || o.cls = .peer then endTier d i.scope 5 handle
    else
      match laneOffs h o handle off idx (atmBytes afmt) (atmBytes afmt) true with
      | none => endTier d i.scope 4 handle
      | some offs =>
        let w : Waiter := .atm i h offs vals afmt
        let ms := lanePages h o offs (atmBytes afmt)
        if ms.isEmpty && !earlierOpen d i h (waiterSpans w).2 true then performAtm d i h o offs vals afmt
        else waitFor d ms w

/-- Narrow scatter performed: lanes in ascending order (R239). -/
def performNrw (d : Dev) (h : Nat) (offs : List (Option Nat)) (vals : List (List Byte)) : Dev :=
  (List.range 64).foldl (fun d k => match offs.getD k none with
    | some a => t1Write d h a (vals.getD k [])
    | none => d) d

/-- NRW scatter of a scope (R208, R239). -/
def scopeScatter (d : Dev) (i : Issuer) (off : Nat) (idx : List (Option Nat)) (vals : List (List Byte)) : Dev :=
  let handle := i.used
  match objOf d handle with
  | none => endTier d i.scope 4 handle
  | some (h, o) =>
    if o.cls = .far || o.cls = .peer then endTier d i.scope 5 handle
    else
      match laneOffs h o handle off idx 32 32 true with
      | none => endTier d i.scope 4 handle
      | some offs =>
        let w : Waiter := .nrw i h offs vals
        let ms := lanePages h o offs 32
        if (waiterSpans w).2.any (fun s => spanLost o s.1 s.2) then endTier d i.scope 3 handle
        else if ms.isEmpty && !mustWait d i h o (waiterSpans w).2 true then performNrw d h offs vals
        else waitFor d ms w

/-- Whether a transfer's generation is still live. -/
def genLive (x : Scope) (gen : Nat) : Bool :=
  decide (x.genFloor ≤ gen) && !x.deadGens.any (fun r => decide (r.1 ≤ gen) && decide (gen ≤ r.2))

/-! ### Reads into landing buffers -/

/-- The bytes a transfer lands, once every page of its span is there; a null lane lands zeros (R239). -/
def xferBytes (d : Dev) (h off len : Nat) (blk : Option Nat) (lanes : Option (List (Option Nat))) : List Byte :=
  match lanes with
  | some ls => (ls.map (fun x => match x with
      | some a => t1Read d h a 32
      | none => List.replicate 32 0)).flatten
  | none =>
    match blk with
    | some w => blkGather w (t1Read d h off (blkSpan w))
    | none => t1Read d h off len

/-- A read of a scope into a landing buffer (RD, or a prefetch entry of kind 1): checked (R201), then served from T1 at
once, after the fills it needs, or from T2 (R204, R205). -/
def scopeRead (d : Dev) (si pos tile lb : Nat) (addr : Option Nat) (handle off len : Nat) (blk : Option Nat) : Dev :=
  match objOf d handle with
  | none => endTier d si 4 handle
  | some (h, o) =>
    let off := (handle - h) * 2 ^ 32 + off
    let span := match blk with
      | some w => blkSpan w
      | none => len
    let chk := match blk with
      | some _ => roundUp span 64
      | none => span
    let total := match blk with
      | some w => 512 * blkBits w
      | none => len
    if !accessOk o off chk false then endTier d si 4 handle
    else
      let x := scope d si
      let base : Xfer := { id := x.nextXfer, tile := tile, lb := lb, gen := x.gen, addr := addr, data := [], owed := total,
                           wait := [], handle := h, used := handle, off := off, len := len, blk := blk, lanes := none, senders := [], via := none, pos := pos }
      let i := issuerOf d si pos (tileIndex x.kind tile) handle
      let put (d : Dev) (t : Xfer) : Dev :=
        updScope d si (fun x => { x with xfers := x.xfers ++ [t], nextXfer := x.nextXfer + 1 })
      match o.cls with
      | .far => put d base
      | .peer =>
        let n := if blk.isSome then chk else len
        remoteRead (put d { base with owed := n }) i o.devid o.rhandle off n (peerBudget d) base.id
      | _ =>
        let ms := missing h o off span
        if ms.isEmpty then
          if spanBad o off span then endTier d si 3 handle
          else if mustWait d i h o [(off, span)] false then put d base
          else put (touch d h off span) { base with data := xferBytes d h off len blk none, owed := 0 }
        else requestPages (put d { base with wait := ms }) ms

/-- A narrow gather of a scope (R208, R239): 64 lanes of 32 bytes for a landing buffer. -/
def scopeGather (d : Dev) (si pos tile lb handle off : Nat) (idx : List (Option Nat)) : Dev :=
  match objOf d handle with
  | none => endTier d si 4 handle
  | some (h, o) =>
    if o.cls = .far || o.cls = .peer then endTier d si 5 handle
    else
      match laneOffs h o handle off idx 32 32 false with
      | none => endTier d si 4 handle
      | some offs =>
        let x := scope d si
        let ms := lanePages h o offs 32
        let as := offs.filterMap (fun a => a)
        let base : Xfer := { id := x.nextXfer, tile := tile, lb := lb, gen := x.gen, addr := none, data := [], owed := 2048,
                             wait := ms, handle := h, used := handle, off := 0, len := 0, blk := none, lanes := some offs,
                             senders := [], via := none, pos := pos }
        let put (t : Xfer) : Dev := updScope d si (fun x => { x with xfers := x.xfers ++ [t], nextXfer := x.nextXfer + 1 })
        if !ms.isEmpty then requestPages (put base) ms
        else if as.any (fun a => spanBad o a 32) then endTier d si 3 handle
        else if mustWait d (issuerOf d si pos (tileIndex x.kind tile) handle) h o (as.map (fun a => (a, 32))) false then put base
        else
          as.foldl (fun d a => touch d h a 32) (put { base with data := xferBytes d h 0 0 none (some offs), owed := 0 })

/-! ### Accesses from outside: other devices (R319) and BAR2 (R405) -/

/-- A WR or RD_REQ at its destination: served as an access under R201, after the pages it needs, or returned. DEDUCED
(notes/assumptions/14.md). -/
def serveReq (d : Dev) (p : RPkt) : Dev :=
  let wr := p.p.ty == 1
  let n := if wr then p.p.payload.length else 64 * p.p.len.toNat
  if d.boot.st != .service then bounce d p 6
  else
    match objOf d p.p.word.toNat with
    | none => bounce d p 4
    | some (h, o) =>
      let off := (p.p.word.toNat - h) * 2 ^ 32 + p.p.off.toNat
      let answer (ty : Nat) (bs : List Byte) : RPkt :=
        newPkt d ty p.p.vc.toNat p.p.src.toNat 0 p.p.tag.toNat p.p.word.toNat p.p.off.toNat bs
      if !accessOk o off n wr || o.cls == .far || o.cls == .peer then bounce d p 4
      else
        let ms := missing h o off n
        if !ms.isEmpty || roundsHold d o [(off, n)] then waitFor d ms (.serve p)
        else if wr then
          let d := t1Write d h off p.p.payload
          sendAnswer d (answer 4 [])
        else if spanBad o off n then bounce d p 5
        else sendAnswer (touch d h off n) (answer 3 (t1Read d h off n))

/-- The object span behind a BAR2 access; none where it completes with Unsupported Request (R405). -/
def winSpan (d : Dev) (off n : Nat) : Option (Nat × Obj × Nat) :=
  let c := regGet d 0x70020
  if !bit c 31 then none
  else
    match objOf d (fld c 0 16) with
    | none => none
    | some (h, o) =>
      let off := (fld c 0 16 - h) * 2 ^ 32 + regGet d 0x70024 + regGet d 0x70028 * 2 ^ 32 + off
      if o.npages * pageSize < off + n || o.cls == .far || o.cls == .peer then none else some (h, o, off)

/-- A BAR2 write whose pages are there; RDONLY does not affect it (R201). -/
def winWrite (d : Dev) (link h off : Nat) (bs : List Byte) : Dev := emit (t1Write d h off bs) (.bar2 link true false [])

/-- A BAR2 read whose pages are there: poisoned data completes with the poisoned bit. -/
def winRead (d : Dev) (link h off n : Nat) : Dev :=
  match obj? d h with
  | none => emit d (.bar2 link false false [])
  | some o => emit (touch d h off n) (.bar2 link true (spanBad o off n) (t1Read d h off n))

/-- What a waiting access from outside gets when its page cannot be filled: a return, or a completion that says so. -/
def failWaiter (d : Dev) (w : Waiter) : Dev :=
  match w with
  | .serve p => bounce d p 5
  | .win l _ _ _ => emit d (.bar2 l false false [])
  | .winRd l _ _ n => emit d (.bar2 l true true (List.replicate n 0))
  | _ => d

/-! ### Collectives (R327 to R330) -/

/-- Whether tile `ti` of a scope has a write or an add, issued before stream position `pos`, that has not been performed (R207): one that waits, an add
that its stack holds, or a request to a peer. -/
def writesOpen (d : Dev) (si ti pos : Nat) : Bool :=
  let x := scope d si
  let old (i : Issuer) : Bool := i.scope == si && i.tile == ti && i.slot == x.slot && decide (i.pos < pos)
  d.tmg.waiters.any (fun w => waiterWrites w.2 && (match waiterBy w.2 with
      | some i => old i
      | none => false))
    || d.hbm.stk.any (fun q => q.2.adds.any (fun a => old a.by_))
    || d.rw.reqs.any (fun r => r.scope == si && r.tile == ti && r.slot == x.slot && r.kind == .write && decide (r.pos < pos))

/-- A transfer whose bytes are at hand, into a landing buffer of global tile `g`. -/
def addXfer (d : Dev) (si g lb gen : Nat) (addr : Option Nat) (bs : List Byte) (senders : List Nat) (pos : Nat)
    (via : Option Nat := none) : Dev :=
  updScope d si (fun x =>
    { x with
      xfers := x.xfers ++ [{ id := x.nextXfer, tile := g, lb := lb, gen := gen, addr := addr, data := bs, owed := 0,
                             wait := [], handle := 0, used := 0, off := 0, len := bs.length, blk := none, lanes := none,
                             senders := senders, via := via, pos := pos }]
      nextXfer := x.nextXfer + 1 })

/-- The group entry of RWG_GROUP (Table 15-6), 64 bytes; none where no object holds it. -/
def groupEntry (d : Dev) (group : Nat) : Option (Nat × List Byte) :=
  match objOf d (fld (regGet d 0x6802C) 0 16) with
  | some (h, _) => some (h, t1Read d h (64 * group) 64)
  | none => none

/-- Whether a COL keeps R328 and R329: a valid entry, its rank, the size and the format. -/
def colOk (e : List Byte) (kind fmt c : Nat) : Bool :=
  let n := leAt e 2 2
  leAt e 0 1 == 1 && bit (leAt e 1 1) 0 && decide (2 ≤ n) && decide (n ≤ 4096) && decide (leAt e 4 2 < n)
    && c % 64 == 0 && decide (64 ≤ c) && decide (c ≤ 2 ^ 21)
    && (kind == 2 || decide (fmt ≤ 2)) && !(kind == 1 && c % (64 * n) != 0)

/-- Pages of a group's entry and member list that are not there (R204). -/
def groupWaits (d : Dev) (group : Nat) : List Nat :=
  match objOf d (fld (regGet d 0x6802C) 0 16) with
  | none => []
  | some (h, o) =>
    let ms := missing h o (64 * group) 64
    if ms.isEmpty then
      let e := t1Read d h (64 * group) 64
      missing h o (leAt e 16 8) (4 * leAt e 2 2)
    else ms

/-- Device of a rank (R328). -/
def memberOf (d : Dev) (h : Nat) (e : List Byte) (r : Nat) : Nat := fld (leNat (t1Read d h (leAt e 16 8 + 4 * r) 4)) 0 18

/-- Pairwise tree over ranks: an absent partner passes the other through (R144, R329). -/
def treeStep : List Word → List Word
  | a :: b :: r => fadd a b :: treeStep r
  | l => l

/-- The sum of a list of FP32 words in the pairwise tree. -/
def treeSum : Nat → List Word → Word
  | 0, l => l.headD 0
  | k + 1, l => if l.length ≤ 1 then l.headD 0 else treeSum k (treeStep l)

/-- Elements of a contribution widened to FP32. -/
def widenAll (fmt : Nat) (bs : List Byte) : List Word :=
  (List.range (bs.length * 8 / fmtBits fmt)).map (fun i => widen fmt (elemAt bs (fmtBits fmt) i))

/-- Contributions combined element by element and rounded once to the format; overflow gives an infinity (R329). -/
def combine (fmt : Nat) (parts : List (List Byte)) : List Byte :=
  let ws := parts.map (widenAll fmt)
  let n := (ws.map (fun w => w.length)).foldl Nat.max 0
  let sum (i : Nat) : Word := treeSum 13 (ws.filterMap (fun w => w[i]?))
  packLanes (fmtBits fmt) ((List.range n).map (fun i => (convert fmt .rne false (.fin false 1 1) (dec32 (sum i))).code))

/-- The result that a rank lands, from every rank's contribution. -/
def colResult (c : ColInst) : List Byte :=
  let ps := (List.range c.nrank).map (fun r => mget c.parts r [])
  match c.kind with
  | 0 => combine c.fmt ps
  | 1 => ((combine c.fmt ps).drop (c.rank * (c.size / c.nrank))).take (c.size / c.nrank)
  | _ => ps.flatten

/-- An instance whose contributions are all here lands its result. -/
def colSettle (d : Dev) (c : ColInst) : Dev :=
  if (List.range c.nrank).all (fun r => decide (c.size ≤ mget c.got r 0)) then
    let d := { d with rw := { d.rw with cols := d.rw.cols.filter (fun y => !(y.group == c.group && y.tile == c.tile && y.seq == c.seq)) } }
    addXfer d c.scope c.gtile c.lb c.gen none (colResult c) [] 0
  else { d with rw := { d.rw with cols := d.rw.cols.map (fun y =>
      if y.group == c.group && y.tile == c.tile && y.seq == c.seq then c else y) } }

/-- Bytes of a rank's contribution arrived. -/
def colPut (c : ColInst) (r off : Nat) (bs : List Byte) : ColInst :=
  let old := mget c.parts r (List.replicate c.size 0)
  let new := (old.take off ++ bs ++ old.drop (off + bs.length)).take c.size
  { c with parts := mset c.parts r new, got := mset c.got r (mget c.got r 0 + bs.length) }

/-- A COLL packet for an instance of this device: GROUP, SEQ, tile index and offset come from its header. -/
def colTake (d : Dev) (p : Pkt) : Option Dev :=
  let o := p.off.toNat
  match d.rw.cols.find? (fun c => c.group == p.word.toNat % 4096 && c.seq == fld o 0 16 && c.tile == fld o 16 10) with
  | none => none
  | some c =>
    let ms := groupWaits d c.group
    if !ms.isEmpty then some (waitFor d ms (.coll p)) else
    match groupEntry d c.group with
    | none => some d
    | some (h, e) =>
      match (List.range c.nrank).find? (fun r => memberOf d h e r == p.src.toNat) with
      | some r => some (colSettle d (colPut c r (fld o 32 32) p.payload))
      | none => some d

/-- COLL packets kept for longer than COLL_TO are returned NOT_SERVING (R330). DESIGN CHOICE (notes/assumptions/41.md). -/
def expireEarly (d : Dev) : Dev :=
  let old (p : RPkt) : Bool := decide (p.born + 1000 * Nat.max 1 (fld (regGet d 0x6802C) 16 16) < d.clk.localNs)
  (d.rw.early.filter old).foldl (fun d p => bounce d p 6) { d with rw := { d.rw with early := d.rw.early.filter (fun p => !old p) } }

/-- COL performed: an instance opens with this rank's contribution, which goes to every other rank (DESIGN CHOICE,
notes/assumptions/15.md); packets that came early are taken in. It waits for the pages of its group's table (R204), and for every write and add
that its tile issued before it (R207). -/
def performCol (d : Dev) (i : Issuer) (g kind fmt group lb : Nat) (data : List Byte) : Dev :=
  let ms := groupWaits d group
  if !ms.isEmpty || writesOpen d i.scope i.tile i.pos then waitFor d ms (.col i g kind fmt group lb data) else
  match groupEntry d group with
  | none => mapFault d g 5 mfEngineCmd (group % 64) 0
  | some (h, e) =>
    if !colOk e kind fmt data.length then mapFault d g 5 mfEngineCmd (group % 64) 0
    else
      let ti := i.tile
      let key := group * 1024 + ti
      let sq := mget d.rw.seqs key 0
      let n := leAt e 2 2
      let me := leAt e 4 2
      let c : ColInst := { group := group, tile := ti, seq := sq, kind := kind, fmt := fmt, size := data.length, nrank := n,
                           rank := me, scope := i.scope, gtile := g, lb := lb, gen := i.gen, parts := [], got := [] }
      let d := { d with rw := { d.rw with seqs := mset d.rw.seqs key ((sq + 1) % 2 ^ 16), cols := d.rw.cols ++ [c] } }
      let d := (List.range n).foldl (fun d r =>
        if r = me then d
        else (chunk4k 0 data).foldl (fun d ch =>
          sendPkt d (newPkt d 5 2 (memberOf d h e r) (fld (leAt e 8 4) 0 20) 0 group
            (sq + ti * 2 ^ 16 + ch.1 * 2 ^ 32) ch.2) true) d) d
      let d := expireEarly (colSettle d (colPut c me 0 data))
      let mine (p : RPkt) : Bool :=
        p.p.word.toNat % 4096 == group && fld p.p.off.toNat 0 16 == sq && fld p.p.off.toNat 16 10 == ti
      let early := d.rw.early.filter mine
      let d := { d with rw := { d.rw with early := d.rw.early.filter (fun p => !mine p) } }
      flushPorts (early.foldl (fun d p => (colTake d p.p).getD d) d)

/-- Poison that a transfer from T1 meets is an uncorrectable read of its page's channel (R224, R226). DEDUCED (notes/assumptions/31.md). -/
def readPoison (d : Dev) (t : Xfer) : Dev :=
  match obj? d t.handle with
  | none => d
  | some o =>
    if t.handle = 0 || o.cls == .far || o.cls == .peer then d
    else
      let c := (pageOf o (((xferSpans t).head?.map (fun s => s.1)).getD 0 / pageSize)).ch
      uncorrected d (c / 16) (c % 16)

/-! ### When a page arrives or fails -/

/-- Whether a waiting access must go on waiting although its pages are there: rounds on its stacks (R229), an earlier access of its tile (R207). -/
def waiterBlocked (d : Dev) (w : Waiter) : Bool :=
  let sp := waiterSpans w
  let held := match obj? d sp.1 with
    | some o => roundsHold d o sp.2
    | none => false
  match w with
  | .wr i _ _ _ _ => held || addsBefore d i sp.1 sp.2 || earlierOpen d i sp.1 sp.2 true
  | .nrw i _ _ _ => held || addsBefore d i sp.1 sp.2 || earlierOpen d i sp.1 sp.2 true
  | .atm i _ _ _ _ => earlierOpen d i sp.1 sp.2 true
  | .col i _ _ _ _ _ _ => writesOpen d i.scope i.tile i.pos
  | .coll _ => false
  | .win .. => held
  | .winRd .. => held
  | .serve p =>
    match objOf d p.p.word.toNat with
    | some (h, o) =>
      roundsHold d o [((p.p.word.toNat - h) * 2 ^ 32 + p.p.off.toNat, if p.p.ty == 1 then p.p.payload.length else 64 * p.p.len.toNat)]
    | none => false

/-- A waiting access performed. -/
def runWaiter (d : Dev) (w : Waiter) : Dev :=
  match w with
  | .wr i h off data blk =>
    match obj? d h with
    | none => d
    | some o =>
      performWrite d i h o (match blk with
        | some w => (blkScatter w data).map (fun r => (off + r.1, r.2))
        | none => [(off, data)])
  | .atm i h offs vals afmt =>
    match obj? d h with
    | none => d
    | some o => performAtm d i h o offs vals afmt
  | .nrw _ h offs vals => performNrw d h offs vals
  | .col i g kind fmt group lb data => performCol d i g kind fmt group lb data
  | .coll p => (colTake d p).getD d
  | .serve p => serveReq d p
  | .win l h off bs => winWrite d l h off bs
  | .winRd l h off n => winRead d l h off n

/-- Waiting accesses that can go on do, in issue order. -/
def runWaiters : Nat → Dev → Dev
  | 0, d => d
  | k + 1, d =>
    match d.tmg.waiters.find? (fun w => w.1.isEmpty && !waiterBlocked d w.2) with
    | none => d
    | some w => runWaiters k (runWaiter { d with tmg := { d.tmg with waiters := d.tmg.waiters.erase w } } w.2)

/-- Transfers of a scope that have all their pages, and nothing before them, take their bytes. -/
def supplyXfers (d : Dev) (si : Nat) : Dev :=
  (scope d si).xfers.foldl (fun d t =>
    if t.wait.isEmpty && t.owed != 0 && t.handle != 0 then
      match obj? d t.handle with
      | none => d
      | some o =>
        let sp := xferSpans t
        if o.cls = .far || o.cls = .peer
            || mustWait d (issuerOf d si t.pos (tileIndex (scope d si).kind t.tile) t.used) t.handle o sp false then d
        else if sp.any (fun s => spanBad o s.1 s.2) then
          if (scope d si).genFloor ≤ t.gen then endTier d si 3 t.used else d
        else
          updScope (sp.foldl (fun d s => touch d t.handle s.1 s.2) d) si (fun x => { x with xfers := x.xfers.map (fun u =>
            if u.id = t.id then { u with data := xferBytes d t.handle t.off t.len t.blk t.lanes, owed := 0 } else u) })
    else d) d

/-- Rounds of waiting writes and reads, until nothing more can go on. -/
def settleRounds : Nat → Dev → Dev
  | 0, d => d
  | k + 1, d => settleRounds k (supplyXfers (supplyXfers (runWaiters d.tmg.waiters.length d) 0) 1)

/-- Everything in T1 that can go on does, each tile's accesses in issue order where they meet. DEDUCED (notes/assumptions/47.md). -/
def settleT1 (d : Dev) : Dev := flushPorts (settleRounds (d.tmg.waiters.length + 1) d)

/-- A page is there: whatever waited for it alone goes on (R204). -/
def pageReady (d : Dev) (k : Nat) : Dev :=
  let strip (l : List Nat) : List Nat := l.filter (· != k)
  let tm := { d.tmg with waiters := d.tmg.waiters.map (fun w => (strip w.1, w.2)), cmdPages := strip d.tmg.cmdPages }
  let upd (x : Scope) : Scope :=
    { x with xfers := x.xfers.map (fun t => { t with wait := strip t.wait })
             moves := x.moves.map (fun m => { m with wait := strip m.wait }) }
  settleT1 { d with tmg := tm, sc0 := upd d.sc0, sc1 := upd d.sc1 }

/-- The job of an engine's front command, when it runs still and the engine waits for a page. -/
def engineAsks (d : Dev) (k : Nat) (pages : List Nat) (queue : List EngCmd) : List (Nat × Nat) :=
  match queue with
  | c :: _ =>
    if pages.contains k && (scope d c.scope).jobValid && (scope d c.scope).slot == c.slot then [(c.scope, (keyPage k).1)] else []
  | [] => []

/-- Jobs that asked for a page, with the handle that each used (R217, R218). -/
def waitersOf (d : Dev) (k : Nat) : List (Nat × Nat) :=
  let reads (si : Nat) : List (Nat × Nat) :=
    let x := scope d si
    (x.xfers.filter (fun t => t.wait.contains k && decide (x.genFloor ≤ t.gen))).map (fun t => (si, t.used))
      ++ (x.moves.filter (fun m => m.wait.contains k && m.need.isSome)).map (fun m => (si, m.used))
  reads 0 ++ reads 1
    ++ d.tmg.waiters.filterMap (fun w => match waiterBy w.2 with
        | some i => if w.1.contains k && issuerLive d i then some (i.scope, i.used) else none
        | none => none)
    ++ (d.pxe.map (fun p => engineAsks d k p.2.pages p.2.queue)).flatten
    ++ (d.vce.map (fun v => engineAsks d k v.2.pages v.2.queue)).flatten

/-- A fill fails (R218): the page is FREE and unmapped again, and every waiting requester ends. A page that no fill is under way for stays
as it is. -/
def fillFails (d : Dev) (h i cause : Nat) : Dev :=
  match obj? d h with
  | none => d
  | some o =>
    let st := (pageOf o i).st
    if st != .filling && st != .wanting then d
    else
      let k := pageKey h i
      let who := waitersOf d k
      let out := d.tmg.waiters.filter (fun w => w.1.contains k)
      let d := setObj d h { o with pages := mdel o.pages i }
      let d := if st = .filling then poolMove d 1 0 (-1) else d
      let drop (x : Scope) : Scope :=
        { x with xfers := x.xfers.filter (fun t => !t.wait.contains k), moves := x.moves.filter (fun m => !m.wait.contains k) }
      let d := { d with sc0 := drop d.sc0, sc1 := drop d.sc1
                        pxe := mmap d.pxe (fun _ p => if p.pages.contains k then { p with pages := [] } else p)
                        vce := mmap d.vce (fun _ v => if v.pages.contains k then { v with pages := [] } else v)
                        tmg := { d.tmg with waiters := d.tmg.waiters.filter (fun w => !w.1.contains k)
                                            cmdErr := d.tmg.cmdErr || d.tmg.cmdPages.contains k
                                            cmdPages := d.tmg.cmdPages.filter (· != k) } }
      feedWanting (who.foldl (fun d r => endTier d r.1 cause r.2) (out.foldl (fun d w => failWaiter d w.2) d))

end Sys2Proof.Machine
end

