-- ==== Sys2Proof/Machine/Vpu.lean ====
section
/-! DEFINITION. The VPU slot (R86, chapter 07): arithmetic, integer, conversion and move operations (latency 4), lane
reductions and statistics (latency 8), VLD (latency 3) and VST. Lanes are written under the guard (R78, R143). -/

namespace Sys2Proof.Machine

/-- The lanes an operation may write (R78). -/
def vmask (d : Dev) (g : Nat) (gd : Guard) : Word64 := guardMask (tile d g).core gd.pg.val gd.pn

/-- Enabled lanes of a vector, for the monitors. -/
def enabled (mask : Word64) (v : VReg) : List Word :=
  ((List.range 64).filter (fun k => bit mask.toNat k)).map (lane v)

/-- A register that may lie past V31, as WMRG's Va + 2 can: what it reads is open (DESIGN CHOICE, notes/assumptions/13.md). -/
def rdVx (d : Dev) (g r : Nat) : VReg := if r < 32 then rdV (tile d g).core r else vec (Config.pastV31 r)

/-- An operation that writes Vd lane by lane after `l` beats; `fp` when its lanes are FP32 values that the monitors see
(R154). -/
def vpuOp (g : Fin 800) (gd : Guard) (r : VR) (s : State) (ok : Bool) (l : Nat) (fp : Bool)
    (f : VReg → VReg → VReg → VReg) : Out3 :=
  laneRun s g gd ok (fun d =>
    let c := (tile d g.val).core
    let out := f (rdV c r.va.val) (rdV c r.vb.val) (rdV c r.vc.val)
    let m := vmask d g.val gd
    let d := if fp then monitorNan d g.val (enabled m out) else d
    result d g.val l (.v r.vd.val m out))

/-- Two operands lane by lane. -/
def lanes2 (f : Word → Word → Word) (a b _c : VReg) : VReg := vec (fun k => f (lane a k) (lane b k))

/-- Three operands lane by lane. -/
def lanes3 (f : Word → Word → Word → Word) (a b c : VReg) : VReg := vec (fun k => f (lane a k) (lane b k) (lane c k))

/-- One operand lane by lane. -/
def lanes1 (f : Word → Word) (a _b _c : VReg) : VReg := vec (fun k => f (lane a k))

/-! ### FP32 arithmetic (R133, R138, Table 7-1) -/

def execVpuAdd (g : Fin 800) (gd : Guard) (r : VR) (s : State) : Out3 := vpuOp g gd r s true 4 true (lanes2 fadd)
def execVpuSub (g : Fin 800) (gd : Guard) (r : VR) (s : State) : Out3 := vpuOp g gd r s true 4 true (lanes2 fsub)
def execVpuMul (g : Fin 800) (gd : Guard) (r : VR) (s : State) : Out3 := vpuOp g gd r s true 4 true (lanes2 fmul)
def execFma (g : Fin 800) (gd : Guard) (r : VR) (s : State) : Out3 := vpuOp g gd r s true 4 true (lanes3 ffma)
def execFms (g : Fin 800) (gd : Guard) (r : VR) (s : State) : Out3 := vpuOp g gd r s true 4 true (lanes3 ffms)
def execVpuMin (g : Fin 800) (gd : Guard) (r : VR) (s : State) : Out3 := vpuOp g gd r s true 4 true (lanes2 fmin)
def execVpuMax (g : Fin 800) (gd : Guard) (r : VR) (s : State) : Out3 := vpuOp g gd r s true 4 true (lanes2 fmax)
def execAbs (g : Fin 800) (gd : Guard) (r : VR) (s : State) : Out3 := vpuOp g gd r s true 4 true (lanes1 fabs)
def execNeg (g : Fin 800) (gd : Guard) (r : VR) (s : State) : Out3 := vpuOp g gd r s true 4 true (lanes1 fneg)

/-- CMP: bit k of P[Vd[3:0]] in enabled lanes (R143, Table 7-2). -/
def execCmp (g : Fin 800) (gd : Guard) (r : VR) (s : State) : Out3 :=
  laneRun s g gd (wfCmp r) (fun d =>
    let c := (tile d g.val).core
    let a := rdV c r.va.val
    let b := rdV c r.vb.val
    let v : Nat := ((List.range 64).map (fun k => if fcond r.fmt.val (lane a k) (lane b k) then 2 ^ k else 0)).sum
    let pd := r.vd.val % 16
    if pd = 0 then d else result d g.val 4 (.p pd (vmask d g.val gd) (BitVec.ofNat 64 v)))

/-! ### INT32 (R142) -/

def execVpuIntAdd (g : Fin 800) (gd : Guard) (r : VR) (s : State) : Out3 :=
  vpuOp g gd r s true 4 false (lanes2 (iadd r.wrap))
def execVpuIntSub (g : Fin 800) (gd : Guard) (r : VR) (s : State) : Out3 :=
  vpuOp g gd r s true 4 false (lanes2 (isub r.wrap))
def execVpuIntMul (g : Fin 800) (gd : Guard) (r : VR) (s : State) : Out3 :=
  vpuOp g gd r s true 4 false (lanes2 (imul r.wrap))
def execVpuAnd (g : Fin 800) (gd : Guard) (r : VR) (s : State) : Out3 :=
  vpuOp g gd r s true 4 false (lanes2 (fun a b => a &&& b))
def execVpuOr (g : Fin 800) (gd : Guard) (r : VR) (s : State) : Out3 :=
  vpuOp g gd r s true 4 false (lanes2 (fun a b => a ||| b))
def execVpuXor (g : Fin 800) (gd : Guard) (r : VR) (s : State) : Out3 :=
  vpuOp g gd r s true 4 false (lanes2 (fun a b => a ^^^ b))
def execVpuShl (g : Fin 800) (gd : Guard) (r : VR) (s : State) : Out3 := vpuOp g gd r s true 4 false (lanes2 ishl)
def execVpuShr (g : Fin 800) (gd : Guard) (r : VR) (s : State) : Out3 := vpuOp g gd r s true 4 false (lanes2 ishr)
def execVpuSra (g : Fin 800) (gd : Guard) (r : VR) (s : State) : Out3 := vpuOp g gd r s true 4 false (lanes2 isra)
def execVpuIntMin (g : Fin 800) (gd : Guard) (r : VR) (s : State) : Out3 := vpuOp g gd r s true 4 false (lanes2 imin)
def execVpuIntMax (g : Fin 800) (gd : Guard) (r : VR) (s : State) : Out3 := vpuOp g gd r s true 4 false (lanes2 imax)

/-! ### Conversions (R129, R130, R134) -/

/-- A NaN as an operation that computes gives it: the canonical one (R133). -/
def canon (w : Word) : Word := if isNan32 w then nan32 else w

/-- CVI: the element in the low bits of each lane, widened exactly (Table 7-1); it is no copy, so a NaN is canonical (R133). -/
def execCvi (g : Fin 800) (gd : Guard) (r : VR) (s : State) : Out3 :=
  vpuOp g gd r s (wfFmtV r.fmt) 4 true
    (lanes1 (fun w => canon (widen r.fmt.val (fld w.toNat 0 (fmtBits r.fmt.val)))))

/-- Integer outputs of CVO take WRAP, the others SAT (R136). -/
def cvoSat (r : VR) : Bool :=
  if r.fmt.val == 0x5 || r.fmt.val == 0x6 || r.fmt.val == 0xE || r.fmt.val == 0xD then !r.wrap else r.sat

/-- CVO to a block format, guarded as a whole (R130, R143). -/
def cvoBlockRun (d : Dev) (g : Nat) (r : VR) : Dev :=
  let c := (tile d g).core
  let va := rdV c r.va.val
  let lat := latchOf d g r.tag.val
  let (m, d) := roundBeat d g
  let (out, cs, sats) := cvoBlock r.fmt.val (cvoSat r) (fun k => m (512 + k)) lat va (rdV c r.vb.val)
  let d := monitorConv d g r.tag.val va cs
  let d := monitorScaleSat d g (countIf sats (fun b => b))
  let blocks := if fmtBlock r.fmt.val = 64 then [va] else [va.take 32, va.drop 32]
  let d := blockAmax d g r.tag.val blocks
  result d g 4 (.v r.vd.val (BitVec.allOnes 64) out)

/-- CVO to a format without blocks: lane k divides by Vb[k] × L[TAG]. -/
def cvoLanesRun (d : Dev) (g : Nat) (gd : Guard) (r : VR) : Dev :=
  let c := (tile d g).core
  let va := rdV c r.va.val
  let vb := rdV c r.vb.val
  let lat := latchOf d g r.tag.val
  let mask := vmask d g gd
  let (m, d) := roundBeat d g
  let cs := (List.range 64).map (fun k =>
    convert r.fmt.val (m (512 + k)) (cvoSat r) (numMul (dec32 (lane vb k)) lat) (dec32 (lane va k)))
  let out := cs.map (fun x => BitVec.ofNat 32 x.code)
  let on := (List.range 64).filter (fun k => bit mask.toNat k)
  let d := monitorConv d g r.tag.val (on.map (lane va)) (on.map (fun k => cs.getD k ⟨0, false, false, false⟩))
  result d g 4 (.v r.vd.val mask out)

/-- CVO. -/
def execCvo (g : Fin 800) (gd : Guard) (r : VR) (s : State) : Out3 :=
  liftIf s (wfCvo r) (fun d =>
    if !tileRuns d g.val then d
    else if fmtBlock r.fmt.val != 0 then
      (if guardOn (tile d g.val).core gd then cvoBlockRun d g.val r else d)
    else if guardAny (tile d g.val).core gd then cvoLanesRun d g.val gd r else d)

/-! ### Moves (R142, R143) -/

def execMov (g : Fin 800) (gd : Guard) (r : VR) (s : State) : Out3 := vpuOp g gd r s true 4 false (lanes1 (fun a => a))

def execBcast (g : Fin 800) (gd : Guard) (r : VR) (s : State) : Out3 :=
  vpuOp g gd r s true 4 false (fun a b _ => vec (fun _ => lane a ((lane b 0).toNat % 64)))

/-- SEL: the guard chooses the source and all 64 lanes are written, also where it enables none (R143). DEDUCED (notes/assumptions/58.md). -/
def execSel (g : Fin 800) (gd : Guard) (r : VR) (s : State) : Out3 :=
  ctlRun s g true (fun d =>
    let c := (tile d g.val).core
    let m := vmask d g.val gd
    result d g.val 4 (.v r.vd.val (BitVec.allOnes 64) (maskLanes m (rdV c r.vb.val) (rdV c r.va.val))))

def execPerm (g : Fin 800) (gd : Guard) (r : VR) (s : State) : Out3 :=
  vpuOp g gd r s true 4 false (fun a b _ => vec (fun k => lane a ((lane b k).toNat % 64)))

def execSlide (g : Fin 800) (gd : Guard) (r : VR) (s : State) : Out3 :=
  vpuOp g gd r s true 4 false (fun a b c => vec (fun k =>
    let n := (lane c 0).toNat % 64
    if k + n < 64 then lane a (k + n) else lane b (k + n - 64)))

/-! ### Reductions (R144): every lane is read whatever the guard -/

def execRsum (g : Fin 800) (gd : Guard) (r : VR) (s : State) : Out3 :=
  vpuOp g gd r s true 8 true (fun a _ _ => inLane0 (reduce64 fadd a))
def execRmax (g : Fin 800) (gd : Guard) (r : VR) (s : State) : Out3 :=
  vpuOp g gd r s true 8 true (fun a _ _ => inLane0 (reduce64 fmax a))
def execRmin (g : Fin 800) (gd : Guard) (r : VR) (s : State) : Out3 :=
  vpuOp g gd r s true 8 true (fun a _ _ => inLane0 (reduce64 fmin a))

/-! ### Statistics -/

/-- Consecutive registers written from Vd up, counted by the monitors in enabled lanes (R142, R154). -/
def statWrite (d : Dev) (g : Nat) (gd : Guard) (vd : Nat) (outs : List VReg) : Dev :=
  let m := vmask d g gd
  let d := monitorNan d g ((outs.map (enabled m)).flatten)
  (List.range outs.length).foldl (fun d i => result d g 8 (.v (vd + i) m (outs.getD i zeroVec))) d

/-- WEL (R149): the state in Vd, Vd+1, Vd+2 takes sample Va. -/
def execWel (g : Fin 800) (gd : Guard) (r : VR) (s : State) : Out3 :=
  laneRun s g gd (wfWel r) (fun d =>
    let c := (tile d g.val).core
    let vd := r.vd.val
    let o := (List.range 64).map (fun k =>
      welLane ⟨lane (rdV c vd) k, lane (rdV c (vd + 1)) k, lane (rdV c (vd + 2)) k⟩ (lane (rdV c r.va.val) k))
    statWrite d g.val gd vd [o.map (fun x => x.n), o.map (fun x => x.mu), o.map (fun x => x.m)])

/-- WMRG (R150): the state in Va to Va+2 merges into the state in Vd to Vd+2. -/
def execWmrg (g : Fin 800) (gd : Guard) (r : VR) (s : State) : Out3 :=
  laneRun s g gd (wfWmrg r) (fun d =>
    let c := (tile d g.val).core
    let vd := r.vd.val
    let b0 := rdV c r.va.val
    let b1 := rdVx d g.val (r.va.val + 1)
    let b2 := rdVx d g.val (r.va.val + 2)
    let o := (List.range 64).map (fun k =>
      wmrgLane ⟨lane (rdV c vd) k, lane (rdV c (vd + 1)) k, lane (rdV c (vd + 2)) k⟩ ⟨lane b0 k, lane b1 k, lane b2 k⟩)
    statWrite d g.val gd vd [o.map (fun x => x.n), o.map (fun x => x.mu), o.map (fun x => x.m)])

/-- SMXU (R153): m and l in Vd and Vd+1, alpha and beta to Vd+2 and Vd+3. -/
def execSmxu (g : Fin 800) (gd : Guard) (r : VR) (s : State) : Out3 :=
  laneRun s g gd (wfSmxu r) (fun d =>
    let c := (tile d g.val).core
    let vd := r.vd.val
    let o := (List.range 64).map (fun k =>
      smxuLane (lane (rdV c vd) k) (lane (rdV c (vd + 1)) k) (lane (rdV c r.va.val) k) (lane (rdV c r.vb.val) k))
    statWrite d g.val gd vd
      [o.map (fun x => x.1), o.map (fun x => x.2.1), o.map (fun x => x.2.2.1), o.map (fun x => x.2.2.2)])

/-- SKMRG (R168): O_a in Vd, O_b in Va, m_a in Vb, m_b in Vc. -/
def execSkmrg (g : Fin 800) (gd : Guard) (r : VR) (s : State) : Out3 :=
  laneRun s g gd (wfSkmrg r) (fun d =>
    let c := (tile d g.val).core
    let o := vec (fun k => skmrgLane (lane (rdV c r.vd.val) k) (lane (rdV c r.va.val) k) (lane (rdV c r.vb.val) k)
      (lane (rdV c r.vc.val) k))
    statWrite d g.val gd r.vd.val [o])

/-! ### VLD and VST (R79, R100, Table 5-2) -/

/-- Bytes of 64 elements of a format. -/
def vmBytes (f : Nat) : Nat := 8 * fmtBits f

/-- VLD: 64 elements from T0, widened to FP32. A suppressed read returns zero (R112). -/
def execVld (g : Fin 800) (gd : Guard) (m : VM) (s : State) : Out3 :=
  laneRun s g gd (wfVM m) (fun d =>
    let a := t0Addr (tile d g.val).core m.aa.val m.off.toNat
    let f := m.fmt.val
    let mask := vmask d g.val gd
    match staticRead d g.val 2 a (vmBytes f) with
    | (none, d) => result d g.val 3 (.v m.vt.val mask zeroVec)
    | (some bs, d) =>
      let out := vec (fun k => widen f (elemAt bs (fmtBits f) k))
      let d := if f = 0 then d else monitorNan d g.val (enabled mask out)
      releaseAt (result d g.val 3 (.v m.vt.val mask out)) g.val m.rel a)

/-- The bits of enabled elements put over old bytes (R124). -/
def mergeElems (bits : Nat) (mask : Word64) (old : List Byte) (codes : List Nat) : List Byte :=
  packLanes bits ((List.range 64).map (fun k =>
    if bit mask.toNat k then codes.getD k 0 else elemAt old bits k))

/-- VST: the enabled lanes, narrowed to FMT under SAT and TAG; FMT 0x0 stores lane bits unchanged (R129, R133). It reads no landing buffer, so it
releases none (R80). -/
def execVst (g : Fin 800) (gd : Guard) (m : VM) (s : State) : Out3 :=
  laneRun s g gd (wfVM m) (fun d =>
    let c := (tile d g.val).core
    let a := t0Addr c m.aa.val m.off.toNat
    let f := m.fmt.val
    let v := rdV c m.vt.val
    let mask := vmask d g.val gd
    let on := (List.range 64).filter (fun k => bit mask.toNat k)
    let lat := latchOf d g.val m.tag.val
    let (rm, d) := if f = 0 then ((fun _ => RMode.rne), d) else roundBeat d g.val
    let cs := (List.range 64).map (fun k =>
      if f = 0 then (⟨(lane v k).toNat, false, false, false⟩ : Conv)
      else convert f (rm (512 + k)) m.sat lat (dec32 (lane v k)))
    let d := if f = 0 then d
      else monitorConv d g.val m.tag.val (on.map (lane v)) (on.map (fun k => cs.getD k ⟨0, false, false, false⟩))
    let sp := inSpec d g.val
    staticWrite d g.val 2 a (vmBytes f) (fun t =>
      t0Write t sp a (mergeElems (fmtBits f) mask (t0Read t a (vmBytes f)) (cs.map (fun x => x.code)))))

end Sys2Proof.Machine
end

