-- ==== Sys2Proof/Machine/Lsu.lean ====
section
/-! DEFINITION. The LSU slot (R88): object reads and writes (R205, R206), copies, memory-side adds (R235), the narrow path
(R239), gather and compaction within T0 (R188, R189), engine commands; and the common path of outbound operations: sources
(R102), holding (R52, R58) and release. -/

namespace Sys2Proof.Machine

/-! ### Transfers and engine commands -/

/-- The completion word of an engine command, for the landing buffer its slot named (R119, R271, R288). -/
def engineWord (d : Dev) (c : EngCmd) (bs : List Byte) : Dev :=
  if c.lb = 0x3F then d else addXfer d c.scope c.tile c.lb c.gen none bs [] 0

/-- Engine that an ENG of a scope reaches (R269). -/
def engineIndex (k : ScopeKind) (kind index : Nat) : Nat :=
  if kind = 1 && k == .east then (index + 8) % 16 else index

/-- A command reaches a pixel engine: VER, OP and the permit of R118 are checked. -/
def pxeAccept (d : Dev) (index : Nat) (c : EngCmd) : Dev :=
  let op := leAt c.bytes 0 1
  if leAt c.bytes 1 1 != 1 || op == 0 || 7 < op then mapFault d c.tile 4 mfEngineCmd index 0
  else if op == 7 && !(d.boot.st == .selftest || d.boot.st == .recovery || (scope d c.scope).maint) then
    mapFault d c.tile 4 mfEnginePermit index 0
  else
    let p := mget d.pxe index Pxe.reset
    { d with pxe := mset d.pxe index { p with queue := p.queue ++ [c] } }

/-- Commands that wait in their tiles enter the places that a pixel engine's queue of 16 has (R115). -/
def pxeRefill (d : Dev) (n : Nat) : Dev :=
  (mget d.pxe n Pxe.reset).wait.foldl (fun d c =>
    let p := mget d.pxe n Pxe.reset
    if p.queue.length < 16 then pxeAccept { d with pxe := mset d.pxe n { p with wait := p.wait.drop 1 } } n c else d) d

/-- The same for a codec engine's queue of 32 (R270). -/
def vceRefill (d : Dev) (n : Nat) : Dev :=
  let v := mget d.vce n Vce.reset
  let k := 32 - v.queue.length
  { d with vce := mset d.vce n { v with queue := v.queue ++ v.wait.take k, wait := v.wait.drop k } }

/-- A command that leaves its tile for its engine or port: where an engine's queue is full it waits in the tile (R115, R270); an EMP
or CAP answers a malformed block at once (R288, R311). -/
def engineArrive (d : Dev) (g kind index : Nat) (c : EngCmd) : Dev :=
  let op := leAt c.bytes 0 1
  let ver := leAt c.bytes 1 1
  match kind with
  | 0 =>
    let p := mget d.pxe index Pxe.reset
    pxeRefill { d with pxe := mset d.pxe index { p with wait := p.wait ++ [c] } } index
  | 1 =>
    let v := mget d.vce index Vce.reset
    vceRefill { d with vce := mset d.vce index { v with wait := v.wait ++ [c] } } index
  | 2 =>
    if ver != 1 || op == 0 || 4 < op then engineWord d c (leBytes 16 1)
    else
      let e := mget d.ports.emp index Emp.reset
      { d with ports := { d.ports with emp := mset d.ports.emp index { e with cmds := e.cmds ++ [c] } } }
  | _ =>
    if 7 < index then mapFault d g 4 mfEngineCmd index 0
    else if ver != 1 || op == 0 || 2 < op then engineWord d c (leBytes 16 1)
    else
      let e := mget d.ports.cap index Cap.reset
      { d with ports := { d.ports with cap := mset d.ports.cap index { e with cmds := e.cmds ++ [c] } } }

/-! ### Performing and holding outbound operations -/

/-- An operation of tile `g` acts (at its issue, or at its release). A send to a tile index past the scope names no receiver. DEDUCED
(notes/assumptions/25.md). -/
def performOut (d : Dev) (g : Nat) (o : Held) : Dev :=
  let si := scopeOf d g
  let x := scope d si
  let ti := tileIndex x.kind g
  let by_ (h : Nat) : Issuer := { issuerOf d si o.pos ti (rebase d si h) with gen := o.gen }
  match o.op with
  | .wr h off data blk => scopeWrite d (by_ h) off data blk
  | .atm h off idx vals afmt => scopeAtm d (by_ h) off idx vals afmt
  | .nrw h off idx vals => scopeScatter d (by_ h) off idx vals
  | .eng kind index lb cmd =>
    engineArrive d g kind (engineIndex x.kind kind index)
      ⟨si, g, x.slot, lb, o.gen, o.src, cmd, mget d.flt.supEpoch (flag (x.kind == .east)) 0, o.rm⟩
  | .rws dev h off data vc budget =>
    if data.length % 64 != 0 || data.isEmpty || decide (2 ^ 21 < data.length) then endTier d si 4 h
    else remoteWrite d (by_ h) dev (rebase d si h) off vc budget data
  | .col kind fmt group lb data => performCol d (by_ 0) g kind fmt group lb data
  | .red fmt lb root data =>
    if scopeTiles x.kind ≤ root then d
    else updScope d si (fun x => { x with reds := x.reds ++ [⟨o.pos, root, lb, fmt, ti, o.gen, data⟩] })
  | .snd dst lb via data =>
    if scopeTiles x.kind ≤ dst then d
    else addXfer d si (tileGlobal x.kind dst) lb o.gen none data [ti] o.pos (some via)

/-- Whether an operation waits in the egress (sends between tiles) rather than in the hold queue (R52). -/
def isSend (o : OutOp) : Bool :=
  match o with
  | .snd .. => true
  | .red .. => true
  | _ => false

/-- Operations of the hold queue, with those of the beat that will enter it. -/
def holdCount (t : Tile) : Nat := t.hold.length + countIf t.issued (fun o => o.held && !isSend o.op)

/-- An outbound operation of a slot, its source being `n` bytes of T0 at `a`: source faults, the pending-source table (R102), the hold queue (R58);
it leaves the tile, or is held (R52, R58), at the end of its beat. DEDUCED (notes/assumptions/24.md). -/
def outbound (d : Dev) (g slot a n : Nat) (mk : List Byte → OutOp) : Dev :=
  let t := tile d g
  match sourceFault t.core a n with
  | some f => mapFault d g slot f.1 f.2 a
  | none =>
    if 64 ≤ t.psrc.length then mapFault d g slot mfPendingFull 0 a
    else
      let x := scope d (scopeOf d g)
      let op := mk (t0Read t a n)
      let held := if isSend op then inSpec d g else holding d g
      if held && !isSend op && !inSpec d g && decide (64 ≤ holdCount t) then mapFault d g slot mfHoldQueue 0 a
      else
        updTile d g (fun t =>
          { t with psrc := t.psrc ++ [⟨t.nextSrc, a, n, held⟩], nextSrc := t.nextSrc + 1
                   issued := t.issued ++ [⟨op, x.pos, x.gen, t.nextSrc, t.core.rm, held⟩] })

/-- An operation of the beat leaves its tile: into the egress or the hold queue, or it acts. -/
def issueOne (d : Dev) (g : Nat) (o : Held) : Dev :=
  if !o.held then performOut d g o
  else if isSend o.op then updTile d g (fun t => { t with egress := t.egress ++ [o] })
  else updTile d g (fun t => { t with hold := t.hold ++ [o] })

/-- The operations of a beat leave their tile, but for one with a mapping fault, which issues none from that beat on (R112). -/
def issueBeat (d : Dev) (g : Nat) : Dev :=
  let t := tile d g
  let gone := t.issued.map (fun o => o.src)
  if t.stopIssue then setTile d g { t with issued := [], psrc := t.psrc.filter (fun p => !gone.contains p.id) }
  else t.issued.foldl (fun d o => issueOne d g o) (setTile d g { t with issued := [] })

/-- Consecutive pieces of `n` bytes. -/
def pieces (n : Nat) (bs : List Byte) : List (List Byte) := (List.range 64).map (fun k => (bs.drop (n * k)).take n)

/-- An operation with its source read anew. -/
def withSource (o : OutOp) (bs : List Byte) : OutOp :=
  match o with
  | .wr h off _ blk => .wr h off bs blk
  | .atm h off idx _ afmt => .atm h off idx (pieces (atmBytes afmt) bs) afmt
  | .nrw h off idx _ => .nrw h off idx (pieces 32 bs)
  | .eng kind index lb _ => .eng kind index lb bs
  | .rws dev h off _ vc budget => .rws dev h off bs vc budget
  | .col kind fmt group lb _ => .col kind fmt group lb bs
  | .red fmt lb root _ => .red fmt lb root bs
  | .snd dst lb via _ => .snd dst lb via bs

/-- A held operation as it is released: its source stayed in T0 (R52). -/
def reread (d : Dev) (g : Nat) (o : Held) : Held :=
  match (tile d g).psrc.find? (fun p => p.id == o.src) with
  | some p => { o with op := withSource o.op (t0Read (tile d g) p.addr p.len) }
  | none => o

/-! ### RD, WR, CPY -/

/-- RD (R205, R206): S[Sn] is the byte count, or the block's shape; the destination keeps to T0's window (R79). DEDUCED
(notes/assumptions/25.md). -/
def execRd (g : Fin 800) (gd : Guard) (aa ab : Fin 16) (lb sn : Fin 64) (blk : Bool) (s : State) : Out3 :=
  slotRun s g gd true (fun d =>
    let c := (tile d g.val).core
    let si := scopeOf d g.val
    let x := scope d si
    let w := (rdS c sn.val).toNat
    let h := rebase d si (objHandle c aa.val)
    let dst := t0Addr c ab.val 0
    let n := if blk then 512 * blkBits w else w
    if 2 ^ 21 < dst + n then mapFault d g.val 4 mfAddrWindow (bankOf dst) dst
    else if blk then scopeRead d si x.pos g.val lb.val (some dst) h (objOff c aa.val) n (some w)
    else if w = 0 then endTier d si 4 h
    else scopeRead d si x.pos g.val lb.val (some dst) h (objOff c aa.val) w none)

/-- WR (R205 to R207). -/
def execWr (g : Fin 800) (gd : Guard) (aa ab : Fin 16) (sn : Fin 64) (blk : Bool) (s : State) : Out3 :=
  slotRun s g gd true (fun d =>
    let c := (tile d g.val).core
    let w := (rdS c sn.val).toNat
    let n := if blk then 512 * blkBits w else w
    outbound d g.val 4 (t0Addr c ab.val 0) n (fun bs =>
      .wr (objHandle c aa.val) (objOff c aa.val) bs (if blk then some w else none)))

/-- CPY: T0 to T0 through the fill port, landing in LB at the destination; REL releases the buffer that the slot names (R80). -/
def execCpy (g : Fin 800) (gd : Guard) (aa ab : Fin 16) (sn : Fin 64) (rel : Bool) (lb : Fin 64) (s : State) : Out3 :=
  slotRun s g gd true (fun d =>
    let t := tile d g.val
    let c := t.core
    let src := t0Addr c ab.val 0
    let n := (rdS c sn.val).toNat
    match sourceFault c src n with
    | some f => mapFault d g.val 4 f.1 f.2 src
    | none =>
      let si := scopeOf d g.val
      let x := scope d si
      let dst := t0Addr c aa.val 0
      if 2 ^ 21 < dst + n then mapFault d g.val 4 mfAddrWindow (bankOf dst) dst
      else
        let d := addXfer d si g.val lb.val x.gen (some dst) (t0Read t src n) [] x.pos
        if rel then release d g.val lb.val else d)

/-! ### ATM and NRW -/

/-- Lane indices of Vi: 0xFFFF_FFFF is null (R235, R239). -/
def laneIdx (c : TileCore) (vi : Nat) : List (Option Nat) :=
  (List.range 64).map (fun k => let w := lane (rdV c vi) k; if w = 0xFFFFFFFF#32 then none else some w.toNat)

/-- ATM (R235). -/
def execAtm (g : Fin 800) (gd : Guard) (aa ab : Fin 16) (vi : Fin 32) (afmt : Fin 4) (s : State) : Out3 :=
  slotRun s g gd true (fun d =>
    let c := (tile d g.val).core
    let z := atmBytes afmt.val
    outbound d g.val 4 (t0Addr c ab.val 0) (64 * z) (fun bs =>
      .atm (objHandle c aa.val) (objOff c aa.val) (laneIdx c vi.val) (pieces z bs) afmt.val))

/-- NRW (R239): a gather lands in LB, a scatter is an outbound operation. -/
def execNrw (g : Fin 800) (gd : Guard) (aa ab : Fin 16) (vi : Fin 32) (dir : Bool) (lb : Fin 64) (s : State) : Out3 :=
  slotRun s g gd true (fun d =>
    let c := (tile d g.val).core
    let si := scopeOf d g.val
    if dir then
      outbound d g.val 4 (t0Addr c ab.val 0) 2048 (fun bs =>
        .nrw (objHandle c aa.val) (objOff c aa.val) (laneIdx c vi.val) (pieces 32 bs))
    else
      scopeGather d si (scope d si).pos g.val lb.val (rebase d si (objHandle c aa.val)) (objOff c aa.val) (laneIdx c vi.val))

/-! ### GTH and CMPT -/

/-- Bytes that a gather writes into its destination window, none where it writes nothing (R188). -/
def gthWrite (src : List Byte) (idx : VReg) (n es : Nat) : List (Option Byte) :=
  let w := 512 / es
  (List.range n).foldl (fun out k =>
    let v := (lane idx k).toNat
    let a := (fld v 0 16 % w) * es
    let b := (fld v 16 16 % w) * es
    (List.range es).foldl (fun o j => listUpd o (b + j) (fun _ => some (byteAt src (a + j)))) out)
    (List.replicate 512 none)

/-- GTH: reads at b, writes at b + 4 (Table 5-2), in which a fault of the write is raised (R113). -/
def execGth (g : Fin 800) (gd : Guard) (aa ab : Fin 16) (vi : Fin 32) (sn : Fin 64) (s : State) : Out3 :=
  slotRun s g gd true (fun d =>
    let c := (tile d g.val).core
    let w := (rdS c sn.val).toNat
    let n := Nat.min (fld w 0 7) 64
    let es := 2 ^ fld w 8 2
    let dst := t0Addr c aa.val 0
    match staticRead d g.val 4 (t0Addr c ab.val 0) 512 with
    | (none, d) => d
    | (some src, d) =>
      let sp := inSpec d g.val
      updCore d g.val (fun c => lateWrite 4 4 dst 512 (gthWrite src (rdV c vi.val) n es) sp c))

/-- CMPT (R189, R190). -/
def execCmpt (g : Fin 800) (gd : Guard) (aa ab : Fin 16) (vi : Fin 32) (sn : Fin 64) (s : State) : Out3 :=
  slotRun s g gd true (fun d =>
    let c := (tile d g.val).core
    let w := (rdS c sn.val).toNat
    let b := Nat.min (fld w 0 16) 32768
    let cur := fld w 16 4
    let old := if bit w 31 then (0, 0) else mget c.cur cur (0, 0)
    let dst := t0Addr c aa.val 0
    match staticRead d g.val 4 (t0Addr c ab.val 0) 256 with
    | (none, d) => d
    | (some src, d) =>
      let lo := 4 * old.1 / 64 * 64
      let span := roundUp (4 * old.1 + 256) 64 - lo
      let kept := (List.range 64).filter (fun k => lane (rdV c vi.val) k != 0)
      let n := kept.length
      let out := (List.range n).filter (fun i => decide (old.1 + i < b))
      let data := out.foldl (fun o i =>
        (List.range 4).foldl (fun o j =>
          listUpd o (4 * (old.1 + i) - lo + j) (fun _ => some (byteAt src (4 * kept.getD i 0 + j)))) o)
        (List.replicate span none)
      let drop := old.1 + n - b
      let sp := inSpec d g.val
      updCore d g.val (fun c => lateWrite 4 4 (dst + lo) span data sp
        { c with cur := mset c.cur cur (Nat.min b (old.1 + n), satAdd 32 old.2 drop)
                 cmptDrop := satAdd 32 c.cmptDrop drop }))

/-! ### ENG -/

/-- ENG (R88): a 64-byte command for an engine or port. -/
def execEng (g : Fin 800) (gd : Guard) (aa kind index : Fin 16) (lb : Fin 64) (s : State) : Out3 :=
  slotRun s g gd (wfEng kind) (fun d =>
    outbound d g.val 4 (t0Addr (tile d g.val).core aa.val 0) 64 (fun bs => .eng kind.val index.val lb.val bs))

end Sys2Proof.Machine
end

