-- ==== Sys2Proof/Machine/Net.lean ====
section
/-! DEFINITION. The NET slot (R89): sends between tiles, Reedway writes, collectives and reductions. -/

namespace Sys2Proof.Machine

/-- SND: to landing buffer LB of tile DST of the scope. -/
def execSnd (g : Fin 800) (gd : Guard) (dst : Fin 1024) (via : Bool) (aa : Fin 16) (lb sn : Fin 64) (s : State) : Out3 :=
  slotRun s g gd true (fun d =>
    let c := (tile d g.val).core
    outbound d g.val 5 (t0Addr c aa.val 0) (rdS c sn.val).toNat (fun bs => .snd dst.val lb.val (flag via) bs))

/-- RWS (R318). -/
def execRws (g : Fin 800) (gd : Guard) (aa ab : Fin 16) (sn sd : Fin 64) (vc : Fin 4) (sb : Fin 64) (s : State) : Out3 :=
  slotRun s g gd (wfRws vc) (fun d =>
    let c := (tile d g.val).core
    outbound d g.val 5 (t0Addr c aa.val 0) (rdS c sn.val).toNat (fun bs =>
      .rws (fld (rdS c sd.val).toNat 0 18) (objHandle c ab.val) (objOff c ab.val) bs vc.val (fld (rdS c sb.val).toNat 0 20)))

/-- COL (R327 to R330). -/
def execCol (g : Fin 800) (gd : Guard) (aa : Fin 16) (sn : Fin 64) (kind : Fin 8) (fmt : Fin 16) (group : Fin 4096)
    (lb : Fin 64) (s : State) : Out3 :=
  slotRun s g gd (wfCol kind fmt) (fun d =>
    let c := (tile d g.val).core
    outbound d g.val 5 (t0Addr c aa.val 0) (rdS c sn.val).toNat (fun bs => .col kind.val fmt.val group.val lb.val bs))

/-- RED (R261). -/
def execRed (g : Fin 800) (gd : Guard) (aa : Fin 16) (sn : Fin 64) (fmt : Fin 16) (lb : Fin 64) (root : Fin 1024)
    (s : State) : Out3 :=
  slotRun s g gd (wfFmto fmt) (fun d =>
    let c := (tile d g.val).core
    outbound d g.val 5 (t0Addr c aa.val 0) (rdS c sn.val).toNat (fun bs => .red fmt.val lb.val root.val bs))

end Sys2Proof.Machine
end

