-- ==== Sys2Proof/Machine/Sfu.lean ====
section
/-! DEFINITION. The SFU slot (R87, R145 to R148): EVAL on 16 lanes, TLD of a payload over its nine beats, TSEL of a
built-in set. -/

namespace Sys2Proof.Machine

def sfuSlot (c : TileCore) (ts : Nat) : SfuSlot := mget c.sfu ts ⟨false, false, 0, [], 0, []⟩

/-- One lane of EVAL: a built-in set keeps its stated error (R148), and set 0 is exact on integers (R168). -/
def evalSlotLane (sl : SfuSlot) (t : Table) (x free : Word) : Word :=
  if sl.builtin then (if sl.set = 0 then exp2 x else evalBuiltin sl.set x) else evalTable t x free

/-- EVAL (R146, R147): lanes 16Q to 16Q + 15 under the guard; an empty slot, or one within 64 beats of its load, is a
mapping fault (R87). -/
def execEvalTs (g : Fin 800) (gd : Guard) (ts : Fin 4) (vd va : Fin 32) (q : Fin 4) (s : State) : Out3 :=
  laneRun s g gd true (fun d =>
    let c := (tile d g.val).core
    let sl := sfuSlot c ts.val
    if !sl.loaded || sl.wait != 0 then mapFault d g.val 3 mfSfuTable ts.val 0
    else
      let m := vmask d g.val gd
      let sel : Word64 := m &&& BitVec.ofNat 64 (0xFFFF * 2 ^ (16 * q.val))
      if sel = 0 then d
      else
        let t := parseTable sl.payload
        let v := rdV c va.val
        let out := vec (fun k =>
          if bit sel.toNat k then evalSlotLane sl t (lane v k) (Config.evalFree sl.payload (lane v k)) else 0)
        let d := monitorNan d g.val (enabled sel out)
        result d g.val 8 (.v vd.val sel out))

/-- TLD (R145): one access a beat, each with its port and its faults in its own beat (R113); a payload whose header is not accepted is a mapping
fault. -/
def execTld (g : Fin 800) (gd : Guard) (ts : Fin 4) (aa : Fin 16) (off : BitVec 16) (s : State) : Out3 :=
  slotRun s g gd true (fun d =>
    let c := (tile d g.val).core
    let a := t0Addr c aa.val off.toNat
    if a / 2 ^ 17 != (a + 4159) / 2 ^ 17 && a + 4160 ≤ 2 ^ 21 then mapFault d g.val 3 mfBankCross (bankOf a) a
    else if a + 4160 ≤ 2 ^ 21 && !tableOk (t0Read (tile d g.val) a 4160) then mapFault d g.val 3 mfSfuTable ts.val a
    else
      let q := planPorts 3 c 0 ((List.range 9).map (fun i => (0, a + 512 * i, if i = 8 then 64 else 512)))
      updCore d g.val (fun _ =>
        { q.1 with sfu := mset q.1.sfu ts.val ⟨true, false, 0, [], 64, q.2.map (fun p => (p.2.1, p.2.2, decide (4 ≤ p.1)))⟩ }))

/-- TSEL (R148). -/
def execTsel (g : Fin 800) (gd : Guard) (ts : Fin 4) (set : Fin 8) (s : State) : Out3 :=
  slotRun s g gd true (fun d =>
    updCore d g.val (fun c => { c with sfu := mset c.sfu ts.val ⟨true, true, set.val, [], 64, []⟩ }))

/-- The access of this beat of each table load under way, and the beats until the slot may be read. -/
def sfuBeat (d : Dev) (g : Nat) : Dev :=
  (tile d g).core.sfu.foldl (fun d p =>
    let sl := p.2
    match sl.plan with
    | [] => updCore d g (fun c => { c with sfu := mset c.sfu p.1 { sl with wait := sl.wait - 1 } })
    | (a, n, off) :: rest =>
      let zero : List Byte := List.replicate n 0
      let q : List Byte × Dev :=
        if off then (zero, d)
        else match readFault (tile d g).core a n with
          | some f => (zero, mapFault d g 3 f.1 f.2 a)
          | none => (t0Read (tile d g) a n, d)
      let sl' : SfuSlot := { sl with payload := sl.payload ++ q.1, plan := rest, wait := sl.wait - 1 }
      updCore q.2 g (fun c => { c with sfu := mset c.sfu p.1 sl' })) d

end Sys2Proof.Machine
end

