-- ==== Sys2Proof/Machine/Seq.lean ====
section
/-! DEFINITION. The sequencer of a scope (chapter 03): how a beat closes in each tile, how the stream position moves through
regions, skips, slips, speculations and replays, what a checkpoint holds and what a restore returns. -/

namespace Sys2Proof.Machine

/-- The tiles that hold something, of a scope. -/
def tilesOf (d : Dev) (k : ScopeKind) : List Nat := (d.tiles.map (fun p => p.1)).filter (inScope k)

/-- Every listed tile of a scope changed. -/
def mapTiles (d : Dev) (k : ScopeKind) (f : Nat → Tile → Tile) : Dev :=
  { d with tiles := mmap d.tiles (fun g t => if inScope k g then f g t else t) }

/-! ### Lanes (R72 to R75) -/

/-- The word a lane fetcher stands at. -/
def laneWord (t : Tile) : Option (List Byte) := t.lane[t.core.fetch.word]?

/-- Kind of a lane directive; none for a bundle (R73). -/
def directive (w : List Byte) : Option Nat :=
  let ctl := leAt w 0 4
  if fld ctl 26 6 = 0x3E then some (fld ctl 24 2) else none

/-- A word is past: loop bodies that end there run again or end (R73, R74). -/
def settleLoops : List LoopFrame → Nat → List LoopFrame × Nat
  | [], w => ([], w)
  | f :: r, w =>
    if w = f.start + f.body then
      if 1 < f.trips then ({ f with trips := f.trips - 1 } :: r, f.start) else settleLoops r w
    else (f :: r, w)

/-- The fetcher one word on. -/
def nextWord (f : Fetcher) : Fetcher :=
  let r := settleLoops f.loops (f.word + 1)
  { f with loops := r.1, word := r.2 }

/-- REST: COUNT beats of all-NOP bundles. -/
def takeRest (f : Fetcher) (w : List Byte) : Fetcher := { nextWord f with restLeft := leAt w 4 6 }

/-- LOOP: the next BODY words run TRIPS times. -/
def takeLoop (f : Fetcher) (w : List Byte) : Fetcher :=
  { f with word := f.word + 1, loops := ⟨leAt w 4 4, leAt w 8 2, f.word + 1⟩ :: f.loops }

/-- END: the lane is over. -/
def takeEnd (f : Fetcher) : Fetcher := { f with ended := true }

/-- One directive taken, if the fetcher stands at one and no REST is running. -/
def takeDirective (t : Tile) : Option Fetcher :=
  let f := t.core.fetch
  if f.ended || f.restLeft != 0 then none
  else
    match laneWord t with
    | none => none
    | some w =>
      match directive w with
      | some 0 => some (takeRest f w)
      | some 1 => some (takeLoop f w)
      | some 2 => some (takeEnd f)
      | _ => none

/-- Directives occupy no beat: all that stand before the next bundle are taken. -/
def takeDirectives : Nat → Tile → Tile
  | 0, t => t
  | k + 1, t =>
    match takeDirective t with
    | some f => takeDirectives k { t with core := { t.core with fetch := f } }
    | none => t

/-- The fetcher over one beat: nested loops and END fit in 6 directives (R74). -/
def fetchBeat (t : Tile) : Tile :=
  let t := takeDirectives 6 t
  let f := t.core.fetch
  if f.ended || t.lane.isEmpty then t
  else if f.restLeft != 0 then { t with core := { t.core with fetch := { f with restLeft := f.restLeft - 1 } } }
  else { t with core := { t.core with fetch := nextWord f } }

/-- The fetcher moved to word `w` of its lane, outside every loop: E + 1 of a skipped region (R75). -/
def fetchSeek (t : Tile) (w : Nat) : Tile :=
  { t with core := { t.core with fetch := ⟨w, 0, [], false⟩ } }

/-! ### A beat closes in a tile (R81) -/

/-- A result takes effect. -/
def applyRes (d : Dev) (g : Nat) (r : Res) : Dev :=
  match r with
  | .s i v => updCore d g (fun c => { c with s := mset c.s i v })
  | .a i v => updCore d g (fun c => { c with a := mset c.a i v })
  | .p i mask v => updCore d g (fun c =>
      let old := mget c.p i 0
      { c with p := mset c.p i ((old &&& ~~~mask) ||| (v &&& mask)) })
  | .v i mask v => updCore d g (fun c => { c with v := mset c.v i (maskLanes mask (mget c.v i zeroVec) v) })
  | .rm v => updCore d g (fun c => { c with rm := v })
  | .accRow b row v => updCore d g (fun c => { c with accVis := mset c.accVis (b * 64 + row) v })
  | .accZero b => updCore d g (fun c => { c with accVis := c.accVis.filter (fun p => p.1 / 64 != b) })
  | .lbReady lb => updCore d g (fun c =>
      let e := lbuf c lb
      if e.st = .armed then { c with lbs := mset c.lbs lb { e with st := .ready } } else c)
  | .lbFree lb => updCore d g (fun c =>
      let e := lbuf c lb
      if e.st = .ready then { c with lbs := mset c.lbs lb { e with st := .free } } else c)
  | .fault slot r dt a => mapFault d g slot r dt a
  | .t0 slot a data sp =>
    match writeFault (tile d g) a data.length with
    | some f => mapFault d g slot f.1 f.2 a
    | none =>
      updTile d g (fun t => (List.range data.length).foldl (fun t i =>
        match data.getD i none with
        | some b => if sp then t0PutSpec t (a + i) b else t0PutHome t (a + i) b
        | none => t) t)

/-- The end of a beat within tile `g`: accesses of long operations, results that become readable, port counts, the fetcher. -/
def tileEnd (d : Dev) (g : Nat) : Dev :=
  let d := sfuBeat (ldwBeat (ldwStart d g) g) g
  let ps := (tile d g).core.pend
  let now := ps.filter (fun p => decide (p.rem ≤ 1))
  let d := updTile d g (fun t =>
    fetchBeat { t with core := { t.core with
      pend := (ps.filter (fun p => decide (1 < p.rem))).map (fun p => { p with rem := p.rem - 1 })
      ports := (t.core.ports.filter (fun p => p.1 != 0)).map (fun p => (p.1 - 1, p.2))
      stepped := false } })
  now.foldl (fun d p => applyRes d g p.res) d

/-- The end of a beat in tile `g`; then its outbound operations leave. -/
def tileBeat (d : Dev) (g : Nat) : Dev := issueBeat (tileEnd d g) g

/-! ### Reductions in the network-on-package (R261) -/

/-- Contributions of one reduction, by tile index. -/
def insertPart (p : RedPart) : List RedPart → List RedPart
  | [] => [p]
  | q :: r => if p.tile < q.tile then p :: q :: r else q :: insertPart p r

/-- A level of the tree over the scope's tiles: node i combines children 2i and 2i + 1, and an absent child passes the other through. -/
def leafStep : List (Nat × Word) → List (Nat × Word)
  | (i, a) :: (j, b) :: r => if i / 2 = j / 2 then (i / 2, fadd a b) :: leafStep r else (i / 2, a) :: leafStep ((j, b) :: r)
  | [(i, a)] => [(i / 2, a)]
  | [] => []

/-- The sum of leaves, ascending, in a tree of so many levels (R144, R261). -/
def leafSum : Nat → List (Nat × Word) → Word
  | 0, l => (l.head?.map (fun p => p.2)).getD 0
  | k + 1, l => leafSum k (leafStep l)

/-- Combined elements, each contribution at its tile's leaf of the tree of 1,024 leaves, which is that of 512 too (R144, R261); formats without a
rule of combination give free bytes. DEDUCED (notes/assumptions/33.md). -/
def redData (ps : List RedPart) : List Byte :=
  let fmt := (ps.head?.map (fun p => p.fmt)).getD 0
  let n := (ps.map (fun p => p.data.length)).foldl Nat.max 0
  if fmt ≤ 2 then
    let ws := ps.map (fun p => widenAll fmt p.data)
    let byTile (i : Nat) : List (Nat × Word) := (ps.zip ws).filterMap (fun q => (q.2[i]?).map (fun w => (q.1.tile, w)))
    let len := n * 8 / fmtBits fmt
    packLanes (fmtBits fmt) ((List.range len).map (fun i =>
      (convert fmt .rne false (.fin false 1 1) (dec32 (leafSum 10 (byTile i)))).code))
  else (List.range n).map (fun i => BitVec.ofNat 8 (Config.redFree fmt (ps.map (fun p => p.data)) i))

/-- The reductions whose contributions have left land at their roots. -/
def redSettle (d : Dev) (si : Nat) : Dev :=
  let x := scope d si
  let d := updScope d si (fun x => { x with reds := [] })
  let keys := (x.reds.map (fun p => (p.pos, p.root, p.lb))).eraseDups
  keys.foldl (fun d k =>
    let ps := (x.reds.filter (fun p => (p.pos, p.root, p.lb) == k)).foldl (fun l p => insertPart p l) []
    let gen := (ps.map (fun p => p.gen)).foldl Nat.max 0
    addXfer d si (tileGlobal x.kind k.2.1) k.2.2 gen none (redData ps) (ps.map (fun p => p.tile)) k.1) d

/-! ### Generations and checkpoints (R44, R52) -/

/-- Bytes counted into an entry, with the transition they cause (Table 3-2). -/
def countLanded (c : TileCore) (lb n : Nat) : TileCore :=
  let e := lbuf c lb
  if e.st = .armed then
    let l := e.landed + n
    { c with lbs := mset c.lbs lb { e with landed := l, st := if e.expected ≤ l then .ready else .armed } }
  else c

/-- A tile back at a checkpoint: everything R52 names, and the entries with what landed since from live generations
(R44). TIL_GATED is a count of energy saved and stays. -/
def tileRestore (x : Scope) (t : Tile) (c : TileCore) : Tile :=
  let since := (t.landLog.drop c.logMark).filter (fun l => genLive x l.2.1)
  let core := since.foldl (fun c l => countLanded c l.1 l.2.2) { c with gated := t.core.gated }
  { t with core := core, landLog := t.landLog.take c.logMark ++ since }

/-- The checkpoint a tile takes now. -/
def tileCk (t : Tile) : TileCore := { t.core with logMark := t.landLog.length }

/-- What the scope holds at a checkpoint, with the new generation it starts. -/
def scopeCk (x : Scope) : ScopeCk :=
  { pos := x.pos, cycle := x.jobCycles, gpreds := x.gpreds, gen := x.gen + 1, decided := x.decided.map (fun p => p.1),
    glane := x.glane, reps := x.reps }

/-- Reports that a restore returns: those of the checkpoint, with what has been observed since (R45). -/
def restoreReps (x : Scope) (ck : ScopeCk) : List ChkRep :=
  ck.reps.map (fun r => match x.reps.find? (fun q => q.use == r.use && q.tile == r.tile && q.lb == r.lb) with
    | some q => q
    | none => r)

/-- The scope back at a checkpoint (R432): predicates and decisions, the lane, a new generation with all since then dead,
reports and sends of discarded beats dropped, prefetch entries issued since due again. -/
def scopeRestore (x : Scope) (ck : ScopeCk) : Scope :=
  { x with
    pos := ck.pos, gpreds := ck.gpreds
    glane := x.glane.filter (fun e => decide (e.pos < ck.pos)) ++ ck.glane.filter (fun e => decide (ck.pos ≤ e.pos))
    decided := x.decided.filter (fun p => ck.decided.contains p.1)
    deadGens := x.deadGens ++ [(ck.gen, x.gen)], gen := x.gen + 1
    flight := x.flight.filter (fun p => decide (p.sent < ck.cycle))
    reps := restoreReps x ck
    reds := x.reds.filter (fun r => decide (r.pos < ck.pos))
    prefetch := x.prefetch.map (fun e => if e.issued && ck.pos ≤ e.issuedAt then { e with issued := false } else e)
    slipAt := none }

/-! ### Global predicates (R49, R432) -/

/-- A predicate of region `r`, when the predicate decides its skip. -/
def regionAt (x : Scope) (i : Nat) : Option Region := x.regions[i]?

/-- Q of a speculation, once both its predicate has arrived and S has executed (R54). -/
def specDue (sp : Spec) : Spec :=
  match sp.arr, sp.sCycle with
  | some a, some s => if sp.tail || sp.due.isSome then sp else { sp with due := some (Nat.max a s + 16) }
  | _, _ => sp

/-- A delivery at cycle `cyc`: it makes the predicate valid, or is discarded and recorded. The open speculation on it is
resolved 16 cycles after the later of the delivery and S (R54). -/
def deliver (d : Dev) (si idx : Nat) (val : Bool) (cyc : Nat) : Dev :=
  let x := scope d si
  match mget? x.gpreds idx with
  | some _ =>
    let sc := scopeCode x.kind
    record d { fspec 0 0x08 0x02 with scope := sc, slot := x.slot, detail := idx + sc * 256 }
  | none =>
    let fit (sp : Spec) : Bool := !sp.tail && sp.arr.isNone && (match x.regions[sp.region]? with
      | some r => r.gpred == idx
      | none => false)
    setScope d si { x with
      gpreds := mset x.gpreds idx val
      spec := x.spec.map (fun sp => if fit sp then specDue { sp with arr := some cyc, value := val } else sp) }

/-- A delivery that a restore must keep is remembered by the checkpoints held: one from CHT_GPRED_SET, or from a PSEND
executed before the checkpoint. -/
def noteKept (x : Scope) (idx : Nat) (val : Bool) (sent : Option Nat) : Scope :=
  let old (c : Nat) : Bool := match sent with
    | some s => decide (s < c)
    | none => true
  { x with
    spec := x.spec.map (fun sp => if old sp.ck.cycle then { sp with kept := sp.kept ++ [(idx, val)] } else sp)
    rrun := x.rrun.map (fun r => if old r.ck.cycle then { r with kept := r.kept ++ [(idx, val)] } else r) }

/-- A delivery reaches the SCD in cycle `cyc`; one that makes its predicate valid is remembered for a restore. -/
def receive (d : Dev) (si idx : Nat) (val : Bool) (cyc : Nat) (sent : Option Nat) : Dev :=
  let x := scope d si
  deliver (if (mget? x.gpreds idx).isNone then setScope d si (noteKept x idx val sent) else d) si idx val cyc

/-- Predicates that CHT_GPRED_SET gave in the cycle before are delivered (R49). -/
def flushSets (d : Dev) (si : Nat) : Dev :=
  let x := scope d si
  x.sets.foldl (fun d p => receive d si p.1 p.2 x.jobCycles none) (setScope d si { x with sets := [] })

/-- The predicate of a region is consumed. DEDUCED (notes/assumptions/23.md). -/
def consumePred (x : Scope) (region : Nat) : Scope :=
  match x.regions[region]? with
  | some r => { x with gpreds := mdel x.gpreds r.gpred }
  | none => x

/-! ### Skip decisions (R50) -/

/-- What a decision says: 0 skip, 1 execute, 2 late, 3 execute by a resolution that has consumed the predicate. -/
def skipDecided (x : Scope) (i : Nat) : Bool :=
  match x.decided.find? (fun p => p.1 == i), x.regions[i]? with
  | some p, some r => p.2 == 0 || (p.2 == 2 && r.assumeSkip)
  | _, _ => false

/-- Beats from the position to a region's start on the path being executed. -/
def pathDist (x : Scope) (s : Nat) : Nat :=
  let cut := (List.range x.regions.length).foldl (fun n i =>
    match x.regions[i]? with
    | some r => if x.pos ≤ r.s && r.e < s && skipDecided x i then n + (r.e + 1 - r.s) else n
    | none => n) 0
  s - x.pos - cut

/-- The regions whose decision beat has come are decided, in stream order. `near` is 256, or 255 before beat 0. -/
def decide256 (x : Scope) (near : Nat) : Scope :=
  (List.range x.regions.length).foldl (fun x i =>
    match x.regions[i]? with
    | none => x
    | some r =>
      if r.skip && decide (x.pos ≤ r.s) && !x.decided.any (fun p => p.1 == i) && decide (pathDist x r.s ≤ near) then
        let v := match mget? x.gpreds r.gpred with
          | some true => 1
          | some false => 0
          | none => 2
        { x with decided := x.decided ++ [(i, v)] }
      else x) x

/-! ### Regions begin (R51, R56 to R58) -/

/-- Index of the region that starts at a position. -/
def regionStart (x : Scope) (p : Nat) : Option (Nat × Region) :=
  (List.range x.regions.length).findSome? (fun i => match x.regions[i]? with
    | some r => if r.s = p then some (i, r) else none
    | none => none)

/-- Place of a region among those with SKIP = 1, as the seek lists count them (R75). -/
def seekIndex (x : Scope) (i : Nat) : Nat := countIf (x.regions.take i) (fun r => r.skip)

/-- Every tile's fetcher jumps to E + 1 of a region. -/
def seekAll (d : Dev) (si i : Nat) : Dev :=
  let x := scope d si
  let k := seekIndex x i
  mapTiles d x.kind (fun _ t => if t.lane.isEmpty then t else fetchSeek t (t.seek.getD k 0))

/-- The stream jumps over a region: position, lane entries and reports of the positions it holds (R45, R50, R231). -/
def jumpOver (d : Dev) (si i : Nat) : Dev :=
  match (scope d si).regions[i]? with
  | none => d
  | some r =>
    let d := seekAll d si i
    updScope d si (fun x =>
      { x with pos := r.e + 1
               glane := x.glane.filter (fun e => !(decide (r.s ≤ e.pos) && decide (e.pos ≤ r.e)))
               reps := x.reps.filter (fun p => !(decide (r.s ≤ p.use) && decide (p.use ≤ r.e))) })

/-- A skip that was decided in time: `SKIPPED_BEATS` grows now, or when the enclosing speculation commits (R432). -/
def countSkip (x : Scope) (r : Region) : Scope :=
  let n := r.e + 1 - r.s
  match x.spec with
  | some sp => { x with spec := some { sp with heldSkipped := sp.heldSkipped + n } }
  | none => { x with skipped := x.skipped + n }

/-- A speculation or check tail opens: checkpoints of every tile and of the scope, a new generation. `pred` is its predicate where that came
between D and S. -/
def openSpec (d : Dev) (si : Nat) (tail : Bool) (region : Nat) (assumeSkip : Bool) (pred : Option Bool) (idle : Bool) : Dev :=
  let x := scope d si
  let d := mapTiles d x.kind (fun _ t => { t with ck := some (tileCk t) })
  updScope d si (fun x =>
    { x with
      gen := x.gen + 1
      spec := some { tail := tail, region := region, assumeSkip := assumeSkip, ck := scopeCk x, startCycle := x.jobCycles,
                     beats := 0, due := none, sCycle := none, arr := pred.map (fun _ => x.jobCycles),
                     idle := idle, value := pred.getD false, heldLane := [], heldSkipped := 0, stallAt := none,
                     slipCycles := 0, kept := [] } })

/-- Scale latches of a tile at S: the tensor scale of each monitored tensor, read from T0 (R129). -/
def loadLatches (t : Tile) (r : Region) : FMap Word :=
  r.tensors.foldl (fun m ts => mset m ts.tag (wordAt (t0Read t ts.scale 4) 0)) []

/-- A tile when a replayable region begins or is replayed: monitors and block indices zero (R56, R130). -/
def clearMonitors (c : TileCore) : TileCore := { c with ovf := 0, sat := 0, nan := 0, amax := [], jctr := [] }

/-- The areas of a region's RETAIN list that concern a tile. -/
def retainOf (r : Region) (ti : Nat) : List (Nat × Nat) :=
  r.retain.filterMap (fun e => match e.1 with
    | none => some e.2
    | some t => if t = ti then some e.2 else none)

/-- A replayable region begins: a checkpoint at S, monitors zero, a new generation (R44, R56, R58). -/
def beginRegion (d : Dev) (si i : Nat) (r : Region) : Dev :=
  let x := scope d si
  let d := mapTiles d x.kind (fun g t =>
    let t := { t with core := { clearMonitors t.core with latch := loadLatches t r }, retain := retainOf r (tileIndex x.kind g) }
    { t with rck := some (tileCk t) })
  updScope d si (fun x =>
    { x with
      gen := x.gen + 1
      rrun := some { region := i, ck := scopeCk x, num := 0, startCycle := x.jobCycles, slipCycles := 0, kept := [] } })

/-- The scope stalls in the cycle it has reached (R53). -/
def stallNow (x : Scope) : Scope :=
  { x with phase := .specStall, spec := x.spec.map (fun sp =>
      let sp := specDue { sp with sCycle := some (sp.sCycle.getD x.jobCycles) }
      { sp with
        stallAt := (match sp.stallAt with | none => some x.jobCycles | some n => some n)
        due := if sp.tail then some (match sp.due with | some q => q | none => Nat.max x.jobCycles (sp.startCycle + 32))
               else sp.due }) }

/-- Whether a position starts a region that cannot begin while a speculation is open (R53). -/
def mustStall (x : Scope) : Bool :=
  x.spec.isSome &&
    (decide (x.staticBeats ≤ x.pos)
      || (match regionStart x x.pos with
          | some (i, r) =>
            if skipDecided x i && x.decided.any (fun p => p.1 == i && p.2 == 0) then false
            else r.replay || x.decided.any (fun p => p.1 == i && p.2 == 2)
          | none => false))

/-- What happens at the position just reached, before its bundle: skips, run-ahead, replayable regions and check tails, in
turn, until the next bundle to execute is found (R50, R51, R53, R57). -/
def arrive : Nat → Dev → Nat → Dev
  | 0, d, _ => d
  | k + 1, d, si =>
    let x := scope d si
    match x.rrun with
    | some rr =>
      if x.spec.isNone && (match x.regions[rr.region]? with | some r => x.pos == r.e + 1 | none => false) then
        let d := openSpec d si true rr.region false none false
        updScope d si (fun x => if x.staticBeats ≤ x.pos then stallNow x else x)
      else if mustStall x then setScope d si (stallNow x) else d
    | none =>
      if mustStall x then setScope d si (stallNow x)
      else
        match regionStart x x.pos with
        | none => d
        | some (i, r) =>
          match x.decided.find? (fun p => p.1 == i) with
          | some (_, 0) =>
            let d := jumpOver (updScope d si (fun x => countSkip (if r.skip then consumePred x i else x) r)) si i
            arrive k d si
          | some (_, 2) =>
            let stall := r.replay && !r.assumeSkip
            let d := openSpec d si false i r.assumeSkip (mget? x.gpreds r.gpred) stall
            if r.assumeSkip then arrive k (jumpOver d si i) si
            else if stall then updScope d si stallNow
            else d
          | some (_, 3) => if r.replay then beginRegion d si i r else d
          | _ =>
            let d := updScope d si (fun x => if r.skip then consumePred x i else x)
            if r.replay then beginRegion d si i r else d

/-- Number of steps that `arrive` may take. -/
def arriveFuel (x : Scope) : Nat := x.regions.length + 1

/-! ### Commit and squash (R54, R55) -/

/-- Held operations of all tiles in issue order: ascending position, tiles in order within one. -/
def insertHeld (p : Nat × Held) : List (Nat × Held) → List (Nat × Held)
  | [] => [p]
  | q :: r => if p.2.pos < q.2.pos then p :: q :: r else q :: insertHeld p r

def heldInOrder (d : Dev) (k : ScopeKind) : List (Nat × Held) :=
  let all := (tilesOf d k).map (fun g => let t := tile d g; (t.hold ++ t.egress).map (fun h => (g, h)))
  all.flatten.foldl (fun l p => insertHeld p l) []

/-- A tile at a commit: lines become architectural, held releases take effect, faults held become committed ones. -/
def tileCommit (t : Tile) (keepHold : Bool) : Tile :=
  let free (c : TileCore) (lb : Nat) : TileCore :=
    let e := lbuf c lb
    if e.st = .ready then { c with lbs := mset c.lbs lb { e with st := .free } } else c
  let core := t.heldRel.foldl free t.core
  let core := { core with pend := core.pend.map (fun p => match p.res with
    | .t0 s a dt _ => { p with res := .t0 s a dt false }
    | _ => p) }
  { t with
    core := core, shadow := mmap t.shadow (fun _ l => { l with isOpen := false }), heldRel := []
    hold := if keepHold then t.hold else [], egress := []
    psrc := t.psrc.map (fun p => if keepHold && t.hold.any (fun h => h.src == p.id) then p else { p with held := false })
    ck := none }

/-- Mapping faults held over a speculation that commits (R114): each tile latches its own with SPEC = 1. -/
def commitFaults (d : Dev) (si : Nat) : Dev :=
  let x := scope d si
  (tilesOf d x.kind).foldl (fun d g =>
    let t := tile d g
    match t.specFault with
    | none => d
    | some f =>
      let f := { f with spec := true }
      let d := setTile d g
        { t with specFault := none, specCount := 0
                 mflt := (match t.mflt with | none => some f | some o => some o)
                 later := satAdd 16 t.later (match t.mflt with | none => t.specCount - 1 | some _ => t.specCount) }
      updScope d si (fun x => scopeFault x f)) d

/-- Held operations performed, unless a mapping fault stops the scope (R112); reductions among them land. -/
def releaseHeld (d : Dev) (si : Nat) (l : List (Nat × Held)) : Dev :=
  redSettle (l.foldl (fun d p =>
    if (scope d si).fault.isSome || !(scope d si).jobValid then d else performOut d p.1 (reread d p.1 p.2)) d) si

/-- Lane actions of committed beats: DEVTIME stamps and events carry the DEVTIME of the commit (R62, R92). -/
def laneStamp (d : Dev) (si off : Nat) : Dev :=
  let x := scope d si
  match mget? d.sched.slots x.slot with
  | none => d
  | some j =>
    let h := j.desc.result
    match objOf d (rebase d si h) with
    | none => endTier d si 4 h
    | some (h0, o) =>
      let a := j.desc.resultOff + off
      if h = 0 || o.rdonly || decide (o.npages * pageSize < a + 8) then endTier d si 4 h
      else
        let ms := missing h0 o a 8
        let bs := leBytes 8 d.clk.devtime.toNat
        let i := issuerOf d si x.pos 0 (rebase d si h)
        if ms.isEmpty && !roundsHold d o [(a, 8)] then performWrite d i h0 o [(a, bs)] else waitFor d ms (.wr i h0 a bs none)

/-- EVENT: the resident service, or emulation port n, is signalled, with the DEVTIME of the commit (R62). -/
def laneEvent (d : Dev) (target code pos : Nat) : Dev :=
  let d := emit d (.event code pos d.clk.devtime)
  if 0x10 ≤ target then
    let e := mget d.ports.emp (target - 0x10) Emp.reset
    { d with ports := { d.ports with emp := mset d.ports.emp (target - 0x10) { e with event := code, eventAt := d.clk.devtime } } }
  else d

/-- A refresh window opens on the stacks its mask names (R230, R231, R234), with what remains of its length since beat `opened`, the one
after its bundle's; one that opens during forced rounds waits for their end. -/
def laneRefresh (d : Dev) (si : Nat) (e : GEntry) (opened : Nat) : Dev :=
  let x := scope d si
  let m := fld e.operand 0 12
  let stk := (List.range 12).filter (fun n => match x.kind with
    | .device => bit m n
    | .west => decide (n < 6) && bit m n
    | .east => decide (6 ≤ n) && bit m (n - 6))
  let left := opened + fld e.operand 16 16 - x.beat
  let upd (hb : Hbm) (n : Nat) : Hbm :=
    let st := mget hb.stk n Stack.reset
    if !st.present || left = 0 then hb
    else if st.runLeft != 0 then { hb with stk := mset hb.stk n { st with winPend := x.beat + left } }
    else { hb with stk := mset hb.stk n (refOpen d st left (x.beat + left)) }
  { d with hbm := stk.foldl upd d.hbm }

/-- The action of a lane entry takes effect; `opened` is the count of beats after its bundle. -/
def laneAct (d : Dev) (si : Nat) (e : GEntry) (opened : Nat) : Dev :=
  match e.act with
  | 3 => laneRefresh d si e opened
  | 4 => laneStamp d si (fld e.operand 0 32)
  | 5 => laneEvent d (fld e.operand 0 8) (fld e.operand 16 16) e.pos
  | _ => d

/-- The open speculation commits (R54): `keepHold` while its region goes on. -/
def commitSpec (d : Dev) (si : Nat) (sp : Spec) : Dev :=
  let x := scope d si
  let held := heldInOrder d x.kind
  let d := mapTiles d x.kind (fun _ t => tileCommit t false)
  let d := updScope d si (fun x => { x with spec := none, skipped := x.skipped + sp.heldSkipped })
  let d := commitFaults d si
  let d := releaseHeld d si held
  let d := sp.heldLane.foldl (fun d e => laneAct d si e.1 e.2) d
  if x.rrun.isNone then mapTiles d x.kind (fun _ t => { t with landLog := [] }) else d

/-- A tile at a squash: back at the checkpoint, lines of the epoch, sends and held operations gone (R54, R114). -/
def tileSquash (x : Scope) (t : Tile) (c : TileCore) : Tile :=
  let gone := (t.hold ++ t.egress).map (fun h => h.src)
  let t := tileRestore x t c
  { t with
    shadow := t.shadow.filter (fun p => !p.2.isOpen), heldRel := [], hold := [], egress := []
    psrc := t.psrc.filter (fun p => !gone.contains p.id)
    sqCount := satAdd 16 t.sqCount t.specCount, specFault := none, specCount := 0, stopIssue := t.mflt.isSome, ck := none }

/-- Deliveries that a restore keeps, applied again. -/
def redeliver (d : Dev) (si : Nat) (kept : List (Nat × Bool)) (skip : Option Nat) (cyc : Nat) : Dev :=
  kept.foldl (fun d p => if skip = some p.1 then d else deliver d si p.1 p.2 cyc) d

/-- Number of cycles that slips of the open speculation, with one now in progress up to cycle `q`, have taken. -/
def slipPart (x : Scope) (q : Nat) : Nat := if x.phase = .slip then q - x.slipFrom else 0

end Sys2Proof.Machine
end

