-- ==== Sys2Proof/Machine/Chanter.lean ====
section
/-! DEFINITION. The sequencer's commands (chapter 03): beats, slips, arrivals, predicates, speculation, replay, the global
lane, audits, job end and its tokens, and the lane directives. An event whose condition does not hold leaves the block as it
is. -/

namespace Sys2Proof.Machine

/-! ### BEAT (R37) -/

/-- What must happen before the next bundle executes: deliveries and resolutions that are due, lane entries of executed bundles, freeze
orders, a due audit, the stop order of a mapping fault. DEDUCED (notes/assumptions/23.md). -/
def beatBlocked (x : Scope) : Bool :=
  decide (x.staticBeats ≤ x.pos)
    || x.flight.any (fun p => decide (p.due ≤ x.jobCycles))
    || (match x.spec with
        | some sp => (match sp.due with | some q => decide (q ≤ x.jobCycles) | none => false)
        | none => false)
    || x.glane.any (fun e => decide (e.pos < x.pos))
    || x.reps.any (fun r => !r.ordered && decide (r.use ≤ x.pos + 18))
    || (x.auditDue && x.spec.isNone)
    || (match x.fault with | some f => decide (f.cycle + 26 ≤ x.jobCycles) | none => false)

/-- Credits that the sends held in a tile's egress have taken: each send is one packet and holds its own (R52, R54). DESIGN CHOICE
(notes/assumptions/57.md). -/
def heldCredits (t : Tile) : Nat := t.egress.length

/-- A tile whose shadow area, egress or hold queue is full (R52, R53): a committed line takes its place until it has drained, and an operation
counts as one packet. DESIGN CHOICE (notes/assumptions/57.md). -/
def tileFull (t : Tile) : Bool :=
  decide (4096 ≤ t.shadow.length) || decide (32 ≤ heldCredits t) || decide (64 ≤ t.hold.length)

/-- Whether a stall of R53 or R114 begins now. -/
def stallDue (d : Dev) (x : Scope) : Bool :=
  match x.spec with
  | none => false
  | some sp =>
    (!sp.tail && decide (4096 ≤ sp.beats))
      || (match sp.stallAt with | some n => decide (n ≤ x.jobCycles) | none => false)
      || (tilesOf d x.kind).any (fun g => tileFull (tile d g))

/-- The freeze that the position just reached takes, if a CHECK was reported for it (R45). -/
def freezeHere (x : Scope) : Scope :=
  if x.phase == .run && x.reps.any (fun r => r.use == x.pos) then
    { x with phase := .slip, slipAt := some x.pos, slipFrom := x.jobCycles }
  else x

/-- Whether a check tail has run its 32 beats: the decision comes before the next position is taken (R57). -/
def tailOver (x : Scope) : Bool :=
  x.phase == .run && (match x.spec with
    | some sp => sp.tail && sp.due.isSome
    | none => false)

/-- The position reached: regions, then a freeze. -/
def enter (d : Dev) (si : Nat) : Dev :=
  if tailOver (scope d si) then d
  else
    let d := arrive (arriveFuel (scope d si)) d si
    updScope d si freezeHere

/-- The counters of an executed bundle. -/
def countBeat (x : Scope) : Scope :=
  let c := x.jobCycles + 1
  let audit := decide (x.auditAt + 2 ^ 20 ≤ c)
  { x with
    jobCycles := c, beat := x.beat + 1, pos := x.pos + 1
    auditDue := x.auditDue || audit, auditAt := if audit then c else x.auditAt
    spec := x.spec.map (fun sp =>
      let sp := specDue { sp with sCycle := some (sp.sCycle.getD x.jobCycles), beats := sp.beats + 1 }
      { sp with due := if sp.tail && sp.beats == 32 then some c else sp.due }) }

/-- One beat of a scope: decisions (R50), every tile (R37), reductions, counters, then the position after. DEDUCED
(notes/assumptions/23.md). -/
def beat (d : Dev) (si : Nat) : Dev :=
  let d := updScope d si (fun x => decide256 x 256)
  let d := (tilesOf d (scope d si).kind).foldl tileBeat d
  let d := redSettle d si
  if !(scope d si).jobValid then d
  else
    let d := flushSets (updScope d si countBeat) si
    if stallDue d (scope d si) && !tailOver (scope d si) then updScope d si stallNow else enter d si

/-- BEAT. A prefetch entry whose issue position has come is issued before the stream goes on (R214). -/
def execBeat (sc : Fin 2) (s : State) : Out3 :=
  lift s (fun d =>
    let x := scope d sc.val
    if running x && !beatBlocked x && !prefetchDue d sc.val then beat d sc.val else d)

/-! ### Slips (R45 to R47) -/

/-- FREEZE_ORDER: the reports at the SCD are ordered. -/
def execFreezeOrder (sc : Fin 2) (s : State) : Out3 :=
  lift s (fun d => updScope d sc.val (fun x => { x with reps := x.reps.map (fun r => { r with ordered := true }) }))

/-- READY_OBSERVED in cycle `y` of the job, for a buffer that is READY. -/
def execReadyObserved (g : Fin 800) (lb : Fin 64) (y : Nat) (s : State) : Out3 :=
  lift s (fun d =>
    if (lbuf (tile d g.val).core lb.val).st = .ready then
      updScope d (scopeOf d g.val) (fun x =>
        { x with reps := x.reps.map (fun r =>
            if r.tile = g.val && r.lb == lb.val && r.seen.isNone then { r with seen := some (Nat.max y x.jobCycles) } else r) })
    else d)

/-- CAUSE of CHTs_LAST_SLIP. -/
def slipCause (c : SrcClass) : Nat :=
  match c with
  | .t1 => 1
  | .t2 => 2
  | .net => 3
  | .rwy => 4
  | .eng => 5

/-- The last of the observed buffers: highest cycle; of those seen in one cycle, the highest tile and then entry. DESIGN CHOICE
(notes/assumptions/57.md). -/
def lastSeen (rs : List ChkRep) : Option (Nat × ChkRep) :=
  rs.foldl (fun b r => match r.seen, b with
    | some y, none => some (y, r)
    | some y, some (y', q) =>
      if y' < y || (y' == y && (decide (q.tile < r.tile) || (q.tile == r.tile && decide (q.lb ≤ r.lb)))) then some (y, r) else b
    | none, _ => b) none

/-- Cycles of a slip counted, in the job and in the speculation and region it falls in. -/
def countSlip (x : Scope) (n : Nat) : Scope :=
  { x with
    slipCycles := x.slipCycles + n, jobCycles := x.jobCycles + n
    spec := x.spec.map (fun sp => { sp with slipCycles := sp.slipCycles + n })
    rrun := x.rrun.map (fun r => { r with slipCycles := r.slipCycles + n }) }

/-- Reports settled by a slip are gone from the scope and from the checkpoints held. -/
def dropReps (x : Scope) (u : Nat) : Scope :=
  let keep (l : List ChkRep) : List ChkRep := l.filter (fun r => !(decide (u ≤ r.use) && decide (r.use ≤ u + 31)))
  { x with
    reps := keep x.reps
    spec := x.spec.map (fun sp => { sp with ck := { sp.ck with reps := keep sp.ck.reps } })
    rrun := x.rrun.map (fun r => { r with ck := { r.ck with reps := keep r.ck.reps } }) }

/-- Whether a delivery or a resolution falls before cycle `c`. -/
def eventBefore (x : Scope) (c : Nat) : Bool :=
  x.flight.any (fun p => decide (p.due < c))
    || (match x.spec with
        | some sp => (match sp.due with | some q => decide (q < c) | none => false)
        | none => false)

/-- A slip ends in beat U (R45, R47). -/
def slipRestart (d : Dev) (si : Nat) : Dev :=
  let x := scope d si
  match x.slipAt with
  | none => d
  | some u =>
    let rs := x.reps.filter (fun r => decide (u ≤ r.use) && decide (r.use ≤ u + 31))
    if x.phase == .slip && rs.all (fun r => r.seen.isSome) then
      match lastSeen rs with
      | none => d
      | some (y, r) =>
        let go := Nat.max x.slipFrom y + 32
        if eventBefore x go then d
        else
          let e := lbuf (tile d r.tile).core r.lb
          setScope d si (dropReps (countSlip
            { x with phase := .run, slipAt := none, slipEvents := satAdd 32 x.slipEvents 1, lastCause := slipCause e.cls,
                     lastTile := r.tile, lastLb := r.lb } (go - x.slipFrom)) u)
    else d

/-- SLIP_RESTART. -/
def execSlipRestart (sc : Fin 2) (s : State) : Out3 := lift s (fun d => slipRestart d sc.val)

/-! ### Arrivals (R41, R44) -/

/-- Whether a transfer from tiles waits for what one of them wrote before it. -/
def sendBlocked (d : Dev) (si : Nat) (t : Xfer) : Bool := t.senders.any (fun ti => writesOpen d si ti t.pos)

/-- Bytes land in an entry: counted toward READY, or a mapping fault (Table 3-2, R58, R79), its conditions tested in the order written. DEDUCED
(notes/assumptions/24.md), DESIGN CHOICE (notes/assumptions/56.md). -/
def land (d : Dev) (g lb gen addr : Nat) (bs : List Byte) : Dev :=
  let e := lbuf (tile d g).core lb
  if e.st != .armed then mapFault d g 6 mfLbState lb addr
  else if decide (addr < e.base) || decide (e.base + e.len < addr + bs.length) then mapFault d g 6 mfLbOverrun lb addr
  else if 2 ^ 21 < addr + bs.length then mapFault d g 6 mfAddrWindow (bankOf addr) addr
  else if retained (tile d g) addr bs.length then mapFault d g 6 mfRetain 0 addr
  else
    updTile d g (fun t =>
      let t := t0Write t false addr bs
      let log := if t.ck.isSome || t.rck.isSome then t.landLog ++ [(lb, gen, bs.length)] else []
      { t with core := countLanded t.core lb bs.length, landLog := log })

/-- A transfer with bytes taken from its front. -/
def xferAfter (t : Xfer) (n : Nat) : Xfer := { t with data := t.data.drop n, addr := t.addr.map (· + n) }

/-- Bytes of a transfer whose data come from outside the device: T2 gives the span that it reads. -/
def xferSupply (t : Xfer) (bs : List Byte) : Xfer :=
  if t.owed = 0 || bs.isEmpty then t
  else
    match t.blk with
    | some w => { t with data := blkGather w bs, owed := 0 }
    | none => { t with data := t.data ++ bs.take t.owed, owed := t.owed - bs.length }

/-- Up to `n` bytes of a transfer land; `data` are what the host memory gave for a FAR object; `poison` is an arrival that
failed its checks (R41, R220). A transfer of a discarded generation is dropped whole at its first arrival, and counts once in STALE (R44).
DESIGN CHOICE (notes/assumptions/57.md). -/
def arrival (d : Dev) (si id n : Nat) (data : List Byte) (poison : Bool) : Dev :=
  let x := scope d si
  match x.xfers.find? (fun t => t.id == id) with
  | none => d
  | some t =>
    let drop (d : Dev) : Dev := updScope d si (fun x => { x with xfers := x.xfers.filter (fun u => u.id != id) })
    if !genLive x t.gen then
      updTile (drop d) t.tile (fun k => { k with stale := satAdd 16 k.stale 1 })
    else if sendBlocked d si t then d
    else if poison then endTier (readPoison (drop d) t) si 3 t.used
    else
      let far : Bool := match obj? d t.handle with
        | some o => o.cls == .far
        | none => false
      let t := if far then xferSupply t data else t
      let bs := if t.blk.isSome && t.owed != 0 then [] else t.data.take n
      let u := xferAfter t bs.length
      let d := if u.data.isEmpty && u.owed == 0 then drop d
               else updScope d si (fun x => { x with xfers := x.xfers.map (fun v => if v.id = id then u else v) })
      let e := lbuf (tile d t.tile).core t.lb
      if bs.isEmpty then d else land d t.tile t.lb t.gen (t.addr.getD (e.base + e.landed)) bs

/-- LANDING_ARRIVAL. -/
def execLandingArrival (sc : Fin 2) (id n : Nat) (data : List Byte) (poison : Bool) (s : State) : Out3 :=
  lift s (fun d => arrival d sc.val id n data poison)

/-! ### Global predicates -/

/-- GPRED_DELIVERY: the oldest PSEND to a predicate reaches the SCD. -/
def execGpredDelivery (sc : Fin 2) (idx : Fin 256) (s : State) : Out3 :=
  lift s (fun d =>
    let x := scope d sc.val
    match x.flight.find? (fun p => p.idx == idx.val) with
    | none => d
    | some p =>
      if x.phase == .run && decide (x.jobCycles < p.due) then d
      else
        receive (setScope d sc.val { x with flight := x.flight.erase p }) sc.val p.idx p.val p.due (some p.sent))

/-- A write of CHT_GPRED_SET: delivered in the cycle after, which is the next beat's end while the scope runs, and `wait` cycles into a freeze.
Without a job there is no predicate to set: the write is discarded. -/
def gpredSet (d : Dev) (si idx : Nat) (val : Bool) (wait : Nat) : Dev :=
  let x := scope d si
  if running x then setScope d si { x with sets := x.sets ++ [(idx, val)] }
  else if x.jobValid then receive d si idx val (x.jobCycles + wait + 1) none
  else discarded d 0x08 (0x8280 + 4 * si)

/-- GPRED_SET. -/
def execGpredSet (src : Iface) (sc : Fin 2) (idx : Fin 256) (val : Bool) (wait : Nat) (s : State) : Out3 :=
  lift s (fun d => ownerOnly d src (fun d => gpredSet d sc.val idx.val val wait))

/-! ### Resolution (R53 to R55, R114) -/

/-- The decision of a region replaced by what its resolution showed. -/
def setDecided (x : Scope) (i v : Nat) : Scope :=
  { x with decided := x.decided.map (fun p => if p.1 = i then (i, v) else p) }

/-- The speculation commits in cycle `q`. -/
def resolveCommit (d : Dev) (si : Nat) (sp : Spec) (q : Nat) : Dev :=
  let d := updScope d si (fun x =>
    let x := setDecided (consumePred x sp.region) sp.region (if sp.assumeSkip then 0 else 3)
    let n := match x.regions[sp.region]? with
      | some r => if sp.assumeSkip then r.e + 1 - r.s else 0
      | none => 0
    { x with skipped := x.skipped + n, resume := if x.phase == .specStall then Nat.max q x.jobCycles + 32 else x.resume })
  commitSpec d si sp

/-- The speculation is squashed in cycle `q`: every beat since S discarded, its predicate consumed (R432), the other path taken 32 cycles
later. -/
def resolveSquash (d : Dev) (si : Nat) (sp : Spec) (q : Nat) : Dev :=
  let x := scope d si
  let q := if x.phase == .slip then q else Nat.max q x.jobCycles
  let slip := slipPart x q
  let x1 := scopeRestore
    { x with
      specCycles := x.specCycles + (q - sp.startCycle - sp.slipCycles - slip)
      slipCycles := x.slipCycles + slip
      slipEvents := if x.phase == .slip then satAdd 32 x.slipEvents 1 else x.slipEvents
      jobCycles := q, phase := .squash, resume := q + 32 } sp.ck
  let x1 := consumePred (setDecided { x1 with spec := none } sp.region (if sp.value then 3 else 0)) sp.region
  let d := setScope d si x1
  let d := mapTiles d x.kind (fun _ t => match t.ck with
    | some c => tileSquash x1 t c
    | none => t)
  let res := (x.regions[sp.region]?).map (fun r => r.gpred)
  let d := redeliver d si sp.kept res q
  let d := if sp.value then d
    else jumpOver (updScope d si (fun x => { x with skipped := x.skipped + (match x.regions[sp.region]? with
      | some r => r.e + 1 - r.s
      | none => 0) })) si sp.region
  if x.rrun.isNone then mapTiles d x.kind (fun _ t => { t with landLog := [] }) else d

/-- SPEC_RESOLVE: in cycle Q. -/
def execSpecResolve (sc : Fin 2) (s : State) : Out3 :=
  lift s (fun d =>
    let x := scope d sc.val
    match x.spec with
    | none => d
    | some sp =>
      match sp.due with
      | none => d
      | some q =>
        if sp.tail || (x.phase == .run && decide (x.jobCycles < q)) then d
        else
          let d := flushSets d sc.val
          let sp := (scope d sc.val).spec.getD sp
          if sp.value != sp.assumeSkip then resolveCommit d sc.val sp q else resolveSquash d sc.val sp q)

/-- A scope runs again in cycle `resume`; a region that the path has come upon only now is decided now (R50). -/
def resumeAt (d : Dev) (si : Nat) (count : Scope → Nat → Scope) : Dev :=
  let x := scope d si
  enter (setScope d si (decide256 { count x (x.resume - x.jobCycles) with jobCycles := x.resume, phase := .run } 0)) si

/-- SQUASH_RESUME: after a squash, and after the restore that ends a replay's steps (R59). -/
def execSquashResume (sc : Fin 2) (s : State) : Out3 :=
  lift s (fun d =>
    let x := scope d sc.val
    match x.phase with
    | .squash => resumeAt d sc.val (fun x n => { x with specCycles := x.specCycles + n })
    | .replay => resumeAt d sc.val (fun x n => { x with replayCycles := x.replayCycles + n })
    | _ => d)

/-- STALL_RESUME. -/
def execStallResume (sc : Fin 2) (s : State) : Out3 :=
  lift s (fun d =>
    let x := scope d sc.val
    if x.phase == .specStall && x.spec.isNone && x.fault.isNone then
      resumeAt d sc.val (fun x n => { x with specCycles := x.specCycles + n })
    else d)

/-! ### Replay (R57 to R61, R140) -/

/-- Largest finite magnitude of a format (R60, R140). -/
def fmtMax (f : Nat) : Q :=
  match f with
  | 0x1 => ⟨255 * 2 ^ 120, 1⟩
  | 0x2 => ⟨65504, 1⟩
  | 0x3 => ⟨448, 1⟩
  | 0x4 => ⟨57344, 1⟩
  | 0x5 => ⟨127, 1⟩
  | 0x6 => ⟨7, 1⟩
  | 0x7 => ⟨6, 1⟩
  | 0x8 => ⟨4, 1⟩
  | 0x9 => ⟨1, 1⟩
  | 0xA => ⟨448, 1⟩
  | 0xB => ⟨28, 1⟩
  | 0xC => ⟨6, 1⟩
  | 0xD => ⟨127, 64⟩
  | _ => ⟨255, 1⟩

/-- 2^ceil(log2 (amax / FMT_MAX)), bounded to the powers of two of FP32. -/
def newScaleExp (f : Nat) (n dn : Nat) : Int :=
  let m := fmtMax f
  let e := ceilLog2Q (n * m.den) (dn * m.num.natAbs)
  if e < -149 then -149 else if 127 < e then 127 else e

/-- A positive finite magnitude of an FP32 word as a fraction. -/
def posFin (w : Word) : Option (Nat × Nat) :=
  match dec32 w with
  | .fin _ n dn => if n = 0 then none else some (n, dn)
  | _ => none

/-- The block scale that a block amax gives. -/
def newBlockScale (f : Nat) (ts : Q) (w : Word) : Nat :=
  let m := qMul (fmtMax f) ts
  let q : Num := match dec32 w with
    | .fin _ n dn => .fin false (n * m.den) (dn * m.num.natAbs)
    | x => x
  if fmtMX f then (roundUpE8M0 q).1
  else if (posFin w).isNone && !(isNan32 w) && w.toNat % 2 ^ 31 == 0 then 0x08 else (roundUpUE5M3 q).1

/-- The scale recompute of one tensor in one tile (R60); `am` is the amax of the scope. DEDUCED (notes/assumptions/33.md). -/
def rescaleTensor (d : Dev) (g : Nat) (ts : Tensor) (am : Word) : Dev :=
  match posFin am with
  | none => d
  | some (n, dn) =>
    if ts.fmt = 0 then d
    else
      let e := if fmtMX ts.fmt then 0 else newScaleExp ts.fmt n dn
      let sc := qPow2 e
      let d :=
        match ts.bscale with
        | none => d
        | some bo =>
          (List.range (mget (tile d g).core.jctr ts.tag 0)).foldl (fun d b =>
            if 2 ^ 21 ≤ bo + b then mapFault d g 2 mfAddrWindow (bankOf bo) (bo + b)
            else
              let w := wordAt (t0Read (tile d g) (ts.bamax + 4 * b) 4) 0
              updTile d g (fun t => t0Write t false (bo + b) (leBytes 1 (newBlockScale ts.fmt sc w)))) d
      let v := rnd32 (numOfQ sc false)
      updTile d g (fun t =>
        let t := t0Write t false ts.scale (leBytes 4 v.toNat)
        { t with core := { t.core with latch := mset t.core.latch ts.tag v } })

/-- A count of the monitors summed over the scope. -/
def sumCount (d : Dev) (k : ScopeKind) (f : TileCore → Nat) : Nat := ((tilesOf d k).map (fun g => f (tile d g).core)).sum

/-- Amax of a tensor over the scope. -/
def scopeAmax (d : Dev) (k : ScopeKind) (tag : Nat) : Word :=
  (tilesOf d k).foldl (fun m g => fmax m (mget (tile d g).core.amax tag 0)) 0

/-- A tile restored to its checkpoint at S with the new scales, monitors clear (R59). -/
def tileReplay (x : Scope) (t : Tile) (c : TileCore) : Tile :=
  let new := t.core.latch
  let t := tileSquash x t c
  { t with core := { clearMonitors t.core with latch := new } }

/-- A replay: the tail squashed, scales recomputed, tiles and scope back at S (R59). Every tile of the scope recomputes every tensor of the
region, as each holds its own copy of the scales. DESIGN CHOICE (notes/assumptions/57.md). -/
def replayNow (d : Dev) (si : Nat) (sp : Spec) (rr : RRun) (r : Region) (q : Nat) : Dev :=
  let x := scope d si
  let ams := r.tensors.map (fun ts => (ts, scopeAmax d x.kind ts.tag))
  let d := mapTiles d x.kind (fun _ t => { t with shadow := t.shadow.filter (fun p => !p.2.isOpen) })
  let d := setScope d si { x with spec := none }
  let d := (tilesOf d x.kind).foldl (fun d g => ams.foldl (fun d a => rescaleTensor d g a.1 a.2) d) d
  let x := scope d si
  let lost := q - rr.startCycle - rr.slipCycles
  let x1 := scopeRestore
    { x with replayCycles := x.replayCycles + lost, jobCycles := q, phase := .replay, resume := q + 96
             replays := satAdd 16 x.replays 1 } rr.ck
  let x1 := { x1 with rrun := some { rr with num := rr.num + 1, startCycle := q + 96, slipCycles := 0 } }
  let d := setScope d si x1
  let d := mapTiles d x.kind (fun _ t => match t.rck with
    | some c => tileReplay x1 t c
    | none => t)
  redeliver d si rr.kept none q

/-- The region commits with its tail (R57, R61), before the position after it is taken. -/
def commitRegion (d : Dev) (si : Nat) (sp : Spec) (q : Nat) (exceeded : Bool) : Dev :=
  let d := updScope d si (fun x =>
    { x with exceeded := if exceeded then satAdd 16 x.exceeded 1 else x.exceeded, rrun := none
             resume := if x.phase == .specStall then Nat.max q x.jobCycles + 32 else x.resume })
  let k := (scope d si).kind
  let d := mapTiles d k (fun _ t => { t with retain := [], rck := none })
  let d := commitSpec d si sp
  if running (scope d si) then enter d si else d

/-- REPLAY_DECISION: at the end of the check tail. -/
def execReplayDecision (sc : Fin 2) (s : State) : Out3 :=
  lift s (fun d =>
    let x := scope d sc.val
    match x.spec, x.rrun with
    | some sp, some rr =>
      match sp.due, x.regions[rr.region]? with
      | some q, some r =>
        if !sp.tail || (x.phase == .run && decide (x.jobCycles < q)) then d
        else
          let d := flushSets d sc.val
          let x := scope d sc.val
          let sp := x.spec.getD sp
          let rr := x.rrun.getD rr
          let q := Nat.max q x.jobCycles
          let nans := sumCount d x.kind (fun c => c.nan)
          let high := decide (r.ovfT < sumCount d x.kind (fun c => c.ovf)) || decide (r.satT < sumCount d x.kind (fun c => c.sat))
            || decide (r.nanT < nans)
          let bad := r.nanStrict && nans != 0
          if (high || bad) && decide (rr.num < 2) then replayNow d sc.val sp rr r q
          else if bad then endScope d sc.val .failedNumeric 0 []
          else commitRegion d sc.val sp q high
      | _, _ => d
    | _, _ => d)

/-! ### Shadow, sources, audits, overrun, stop -/

/-- SHADOW_DRAIN: a committed line goes to its home bank. -/
def execShadowDrain (g : Fin 800) (line : Fin 32768) (s : State) : Out3 :=
  lift s (fun d => updTile d g.val (fun t =>
    match mget? t.shadow line.val with
    | some l => if l.isOpen then t else { t with t0 := memWrite t.t0 (64 * line.val) l.data, shadow := mdel t.shadow line.val }
    | none => t))

/-- Whether an engine command of this source waits beyond its engine's queue (R115, R269). -/
def beyondQueue (d : Dev) (g id : Nat) : Bool :=
  d.pxe.any (fun p => p.2.wait.any (fun c => c.tile == g && c.src == id))
    || d.vce.any (fun p => p.2.wait.any (fun c => c.tile == g && c.src == id))

/-- SOURCE_READ_DONE: the fill port has read the whole source of pending entry `id`. -/
def execSourceReadDone (g : Fin 800) (id : Nat) (s : State) : Out3 :=
  lift s (fun d =>
    if beyondQueue d g.val id then d
    else updTile d g.val (fun t => { t with psrc := t.psrc.filter (fun p => p.held || p.id != id) }))

/-- AUDIT_POINT (R38): a violation is a unit-contained fault, and ends the job; its end records it. -/
def execAuditPoint (sc : Fin 2) (s : State) : Out3 :=
  lift s (fun d =>
    let x := scope d sc.val
    if !x.jobValid || x.spec.isSome || !(x.phase == .run || x.phase == .ending) then d
    else
      let d := updScope d sc.val (fun x => { x with auditDue := false })
      if auditOk x then d else endFault d sc.val 3 (faultCode 3 0x08 0x08))

/-- R67's condition. -/
def overBudget (x : Scope) : Bool :=
  decide (x.staticBeats + x.slipBudget + x.replayBudget < x.jobCycles + x.skipped)

/-- JOB_OVERRUN (R67, R258, R259): an LC job that overruns bars new LC descriptors; a BE job ends FAILED_OVERRUN when the
plan is not empty, and runs on otherwise. -/
def execJobOverrun (sc : Fin 2) (s : State) : Out3 :=
  lift s (fun d =>
    let x := scope d sc.val
    if !x.jobValid || x.overrun || !overBudget x then d
    else
      let d := updScope d sc.val (fun x => { x with overrun := true })
      match mget? d.sched.slots x.slot with
      | none => d
      | some j =>
        let d := { d with sched := { d.sched with slots := mset d.sched.slots x.slot { j with overrun := true }
                                                  lcOverrun := d.sched.lcOverrun || !j.desc.be } }
        if j.desc.be && !d.sched.plan.isEmpty then abortJob d x.slot .failedOverrun else d)

/-- SCOPE_STOP (R112, R113). -/
def execScopeStop (sc : Fin 2) (s : State) : Out3 :=
  lift s (fun d =>
    match (scope d sc.val).fault with
    | some f => endMapping d sc.val f
    | none => d)

/-! ### The global lane (R62, R92) -/

/-- The next lane entry of an action, once its bundle has executed: it acts, or waits for the commit of the speculation its
beat lies in. -/
def laneTake (d : Dev) (si act : Nat) : Dev :=
  let x := scope d si
  match x.glane with
  | [] => d
  | e :: rest =>
    if !x.jobValid || e.act != act || !(decide (e.pos < x.pos) || (e.pos == x.staticBeats && x.pos == x.staticBeats)) then d
    else
      let d := setScope d si { x with glane := rest }
      match x.spec with
      | some sp =>
        if sp.ck.pos ≤ e.pos then
          updScope d si (fun x => { x with spec := some { sp with heldLane := sp.heldLane ++ [(e, x.beat)] } })
        else laneAct d si e x.beat
      | none => laneAct d si e x.beat

/-- REGION_BEGIN. -/
def execRegionBegin (sc : Fin 2) (s : State) : Out3 := lift s (fun d => laneTake d sc.val 1)

/-- REGION_END. -/
def execRegionEnd (sc : Fin 2) (s : State) : Out3 := lift s (fun d => laneTake d sc.val 2)

/-- REFRESH. -/
def execRefresh (sc : Fin 2) (s : State) : Out3 := lift s (fun d => laneTake d sc.val 3)

/-- STAMP. -/
def execStamp (sc : Fin 2) (s : State) : Out3 := lift s (fun d => laneTake d sc.val 4)

/-- EVENT. -/
def execEvent (sc : Fin 2) (s : State) : Out3 := lift s (fun d => laneTake d sc.val 5)

/-! ### Job end (R64, R261, R262) -/

/-- JOB_END: once the stream is over and no speculation is open; what is held has been issued by the last commit. -/
def execJobEnd (sc : Fin 2) (s : State) : Out3 :=
  lift s (fun d =>
    let x := scope d sc.val
    if running x && x.pos == x.staticBeats && x.spec.isNone && x.rrun.isNone && x.glane.all (fun e => e.act == 6)
        && x.fault.isNone then
      let held := heldInOrder d x.kind
      let d := setScope d sc.val { x with phase := .ending, jobEnded := true, endCycle := x.jobCycles, glane := [], tokens := [] }
      let d := mapTiles d x.kind (fun _ t => { t with hold := [], egress := [] })
      flushPorts (releaseHeld d sc.val held)
    else d)

/-- Whether every write, add and send of a tile has been acknowledged (R64). -/
def tileDrained (d : Dev) (si g : Nat) : Bool :=
  let x := scope d si
  let ti := tileIndex x.kind g
  let mine (i : Issuer) : Bool := i.scope == si && i.tile == ti && i.slot == x.slot
  !d.tmg.waiters.any (fun w => match waiterBy w.2 with
      | some i => mine i
      | none => false)
    && !d.hbm.stk.any (fun q => q.2.adds.any (fun a => mine a.by_))
    && !d.rw.reqs.any (fun r => r.scope == si && r.tile == ti && r.slot == x.slot && r.kind == .write)
    && !x.xfers.any (fun t => t.senders.contains ti && genLive x t.gen)
    && !x.reds.any (fun r => r.tile == ti)
    && (tile d g).hold.isEmpty

/-- COMPLETION_TOKEN of tile `g`, `drain` cycles after JOB_END. A token of a tile outside the scope, or a second one, is a
violation of C4 that the collector reports (R262). -/
def execCompletionToken (sc : Fin 2) (g : Fin 800) (drain : Nat) (s : State) : Out3 :=
  lift s (fun d =>
    let x := scope d sc.val
    if !x.jobValid || x.phase != .ending then d
    else if !inScope x.kind g.val || x.tokens.contains g.val then setScope d sc.val { x with c4bad := true }
    else if !tileDrained d sc.val g.val then d
    else
      let n := x.endCycle + drain - x.jobCycles
      let x := { x with tokens := x.tokens ++ [g.val], jobCycles := x.jobCycles + n, slipCycles := x.slipCycles + n }
      setScope d sc.val (if n = 0 then x else { x with lastCause := 6, lastTile := g.val, lastLb := 0 }))

/-- A violation of C4 is reported, and the job ends FAILED_FAULT (R28, R262). DESIGN CHOICE (notes/assumptions/27.md). -/
def tokenFault (d : Dev) (si code : Nat) (detail : Nat) : Dev :=
  let x := scope d si
  let d := record d { cls := 3, block := 0x08, code := code, unit := si, scope := scopeCode x.kind, slot := x.slot, detail := detail }
  endFault d si 3 (faultCode 3 0x08 code)

/-- TOKEN_COLLECT: 68 NCLK cycles after the last token. -/
def execTokenCollect (sc : Fin 2) (s : State) : Out3 :=
  lift s (fun d =>
    let x := scope d sc.val
    if !x.jobValid || x.phase != .ending then d
    else if x.c4bad then tokenFault d sc.val 0x08 (lawDetail 4 (scopeTiles x.kind) (x.tokens.length + 1))
    else if x.tokens.length = scopeTiles x.kind then endScope d sc.val .served 0 []
    else d)

/-- TOKEN_TIMEOUT: tokens still short TOKEN_TO microseconds after JOB_END. -/
def execTokenTimeout (sc : Fin 2) (s : State) : Out3 :=
  lift s (fun d =>
    let x := scope d sc.val
    if x.jobValid && x.phase == .ending && decide (x.tokens.length < scopeTiles x.kind) then
      tokenFault d sc.val 0x17 x.tokens.length
    else d)

/-! ### Lane directives (R73) -/

/-- A directive of one kind, taken by the fetcher of tile `g` that stands at it. -/
def laneTakes (d : Dev) (g kind : Nat) : Dev :=
  updTile d g (fun t =>
    match laneWord t with
    | none => t
    | some w =>
      if directive w = some kind then
        match takeDirective t with
        | some f => { t with core := { t.core with fetch := f } }
        | none => t
      else t)

/-- LANE_REST. -/
def execLaneRest (g : Fin 800) (s : State) : Out3 := lift s (fun d => laneTakes d g.val 0)

/-- LANE_LOOP. -/
def execLaneLoop (g : Fin 800) (s : State) : Out3 := lift s (fun d => laneTakes d g.val 1)

/-- LANE_END. -/
def execLaneEnd (g : Fin 800) (s : State) : Out3 := lift s (fun d => laneTakes d g.val 2)

end Sys2Proof.Machine
end

