-- ==== Sys2Proof/Machine/Image.lean ====
section
/-! DEFINITION. The job image (chapter 04): container, sections and tables as bytes, the checks of Table 4-17 in their order,
and the commands that validate and invalidate images (R97, R98). -/

namespace Sys2Proof.Machine

/-! ### The container (R68 to R70) -/

/-- A directory entry: type, reserved bytes, CRC, byte offset, length. -/
structure Sect where
  ty : Nat
  rsvd : Nat
  crc : Nat
  off : Nat
  len : Nat
  deriving DecidableEq, Repr

/-- SECTIONS. -/
def sectCount (b : List Byte) : Nat := leAt b 0xA 2

/-- The section directory. -/
def sects (b : List Byte) : List Sect :=
  (List.range (sectCount b)).map (fun i =>
    let e := slice b (0x40 + 16 * i) 16
    ⟨leAt e 0 2, leAt e 2 2, leAt e 4 4, 64 * leAt e 8 4, leAt e 12 4⟩)

/-- Bytes of the section of a type; none where the image has none. -/
def sectOf (b : List Byte) (ty : Nat) : Option (List Byte) :=
  ((sects b).find? (fun s => s.ty == ty)).map (fun s => slice b s.off s.len)

/-- The section of a type, empty where the image has none. -/
def sectBytes (b : List Byte) (ty : Nat) : List Byte := (sectOf b ty).getD []

def imgLevel (b : List Byte) : Nat := leAt b 4 1
def imgFlags (b : List Byte) : Nat := leAt b 0xC 4
def imgHalf (b : List Byte) : Bool := bit (imgFlags b) 0
def imgResident (b : List Byte) : Bool := bit (imgFlags b) 1
def imgMaint (b : List Byte) : Bool := bit (imgFlags b) 2
def imgStatic (b : List Byte) : Nat := leAt b 0x10 8
def imgDies (b : List Byte) : Nat := leAt b 0x18 4
def imgPages (b : List Byte) : Nat := leAt b 0x1C 4
def imgSize (b : List Byte) : Nat := leAt b 0x20 8
def imgClass (b : List Byte) : Nat := leAt b 9 1

/-- Lane entries of an image: 40 at level 1, 400 in a half image, 800 otherwise (R72). -/
def imgLanes (b : List Byte) : Nat := if imgLevel b = 1 then 40 else if imgHalf b then 400 else 800

/-! ### Lanes (R72 to R76) -/

/-- An entry of LANE_INDEX: start and length in words, place of the seek list. -/
structure LaneEnt where
  start : Nat
  len : Nat
  seek : Nat
  deriving DecidableEq, Repr

def laneEnt (ix : List Byte) (i : Nat) : LaneEnt :=
  let e := slice ix (16 * i) 16
  ⟨leAt e 0 8, leAt e 8 4, leAt e 12 4⟩

/-- The words of a lane. -/
def laneWords (lanes : List Byte) (e : LaneEnt) : List (List Byte) :=
  (List.range e.len).map (fun i => slice lanes (32 * (e.start + i)) 32)

/-- The K entries of a seek list. -/
def seekList (ix : List Byte) (e : LaneEnt) : List Nat :=
  if e.seek = 0 then [] else (List.range (leAt ix (4 * e.seek) 4)).map (fun i => leAt ix (4 * e.seek + 4 + 4 * i) 4)

/-- Beats of `n` words of a lane inside a loop of depth `dep`; none where they break R73 or R74. -/
def bodyBeats : Nat → Nat → List (List Byte) → Nat → Option Nat
  | 0, _, _, n => if n = 0 then some 0 else none
  | k + 1, dep, ws, n =>
    if n = 0 then some 0
    else
      match ws with
      | [] => none
      | w :: r =>
        match directive w with
        | none => (bodyBeats k dep r (n - 1)).map (· + 1)
        | some 0 => if leAt w 4 6 = 0 then none else (bodyBeats k dep r (n - 1)).map (· + leAt w 4 6)
        | some 1 =>
          let t := leAt w 4 4
          let m := leAt w 8 2
          if t = 0 || m = 0 || 1024 < m || n - 1 < m || 4 ≤ dep then none
          else
            match bodyBeats k (dep + 1) r m, bodyBeats k dep (r.drop m) (n - 1 - m) with
            | some a, some b => some (t * a + b)
            | _, _ => none
        | some _ => none

/-- A word that stands outside every loop body: its index, the position at which it begins, the words that fetching it
takes, its beats. -/
structure TopItem where
  idx : Nat
  pos : Nat
  words : Nat
  beats : Nat
  deriving DecidableEq, Repr

/-- The words of a lane outside loops, up to its END; none where the lane breaks R73 or R74. -/
def topItems : Nat → List (List Byte) → Nat → Nat → Option (List TopItem)
  | 0, _, _, _ => none
  | k + 1, ws, i, p =>
    match ws with
    | [] => none
    | w :: r =>
      match directive w with
      | none => (topItems k r (i + 1) (p + 1)).map (fun l => ⟨i, p, 1, 1⟩ :: l)
      | some 0 =>
        let c := leAt w 4 6
        if c = 0 then none else (topItems k r (i + 1) (p + c)).map (fun l => ⟨i, p, 1, c⟩ :: l)
      | some 1 =>
        let t := leAt w 4 4
        let m := leAt w 8 2
        if t = 0 || m = 0 || 1024 < m || r.length < m then none
        else
          match bodyBeats (m + 1) 1 r m with
          | none => none
          | some b => (topItems k (r.drop m) (i + 1 + m) (p + t * b)).map (fun l => ⟨i, p, m + 1, t * b⟩ :: l)
      | some 2 => if r.isEmpty then some [⟨i, p, 1, 0⟩] else none
      | some _ => none

/-- The bundles of a lane in order, with long rests and many trips cut to what any window of 8 beats can see. -/
def expand : Nat → List (List Byte) → Nat → List (List Byte)
  | 0, _, _ => []
  | k + 1, ws, n =>
    if n = 0 then []
    else
      match ws with
      | [] => []
      | w :: r =>
        match directive w with
        | none => w :: expand k r (n - 1)
        | some 0 => List.replicate (Nat.min (leAt w 4 6) 8) (List.replicate 32 0) ++ expand k r (n - 1)
        | some 1 =>
          let m := leAt w 8 2
          let b := expand k r m
          let t := Nat.min (leAt w 4 4) (8 / Nat.max b.length 1 + 2)
          (List.replicate t b).flatten ++ expand k (r.drop m) (n - 1 - m)
        | some _ => expand k r (n - 1)

/-! ### Bundles (R77, R83 to R90, R120) -/

def slotNet (w : List Byte) : Nat := leAt w 26 6
def slotLsu (w : List Byte) : Nat := leAt w 20 6
def slotSfu (w : List Byte) : Nat := leAt w 16 4
def slotVpu (w : List Byte) : Nat := leAt w 10 6
def slotMxu (w : List Byte) : Nat := leAt w 4 6
def slotCtl (w : List Byte) : Nat := leAt w 0 4

/-- A field that must be 0. -/
def zeroAt (v lo n : Nat) : Bool := fld v lo n == 0

/-- CTL slot: no reserved code and no reserved bit (Table 4-6). -/
def ctlOk (v : Nat) : Bool :=
  match fld v 26 6 with
  | 0x00 => zeroAt v 0 26
  | 0x01 =>
    let n := fld v 24 2
    (decide (1 ≤ n) || zeroAt v 12 6) && (decide (2 ≤ n) || zeroAt v 6 6) && (decide (3 ≤ n) || zeroAt v 0 6)
  | 0x02 => decide (fld v 17 3 ≤ 4) && zeroAt v 0 5
  | 0x03 => zeroAt v 0 14
  | 0x04 => decide (fld v 19 3 ≤ 5) && zeroAt v 0 7
  | 0x05 => zeroAt v 0 12
  | 0x06 => decide (fld v 22 4 ≤ 12) && zeroAt v 0 4
  | 0x07 => zeroAt v 16 3
  | 0x08 => fld v 20 2 != 3
  | 0x09 => zeroAt v 22 4 && zeroAt v 0 16
  | _ => false

/-- FMTW codes of Table 5-3. -/
def fmtwOk (f : Nat) : Bool := [0x1, 0x2, 0x3, 0x4, 0x5, 0x6, 0x7, 0x8, 0x9, 0xA, 0xC, 0xD].contains f

/-- MXU slot (Tables 4-7 and 6-2): a code of FMTO that DRN does not take fails here, and is a mapping fault where a DRN command has it all the
same (R107, R121). -/
def mxuOk (v : Nat) : Bool :=
  match fld v 44 4 with
  | 0 => zeroAt v 0 39
  | 1 => fmtwOk (fld v 35 4) && zeroAt v 0 9
  | 2 => decide (1 ≤ fld v 35 4) && decide (fld v 35 4 ≤ 6) && zeroAt v 0 10
  | 3 => decide (fld v 33 4 ≤ 5) && zeroAt v 0 7
  | 4 => zeroAt v 0 37
  | _ => false

/-- Formats of VLD, VST and CVI. -/
def fmtVOk (f : Nat) : Bool := decide (f ≤ 6) || f == 0xE

/-- VPU slot (Tables 4-8 and 4-9, R120, R142, R168). -/
def vpuOk (v : Nat) : Bool :=
  let op := fld v 42 6
  let vd := fld v 32 5
  let fmt := fld v 13 4
  if op = 0 then zeroAt v 0 37
  else if op = 0x3C || op = 0x3D then fmtVOk (fld v 8 4) && zeroAt v 0 1
  else
    zeroAt v 0 6 && fmt != 0xF &&
      (if op ≤ 0x0A then op != 0x0A || decide (fmt ≤ 7)
       else if 0x10 ≤ op && op ≤ 0x1A then true
       else if op = 0x20 then fmtVOk fmt
       else if op = 0x21 then decide (1 ≤ fmt) && decide (fmt ≤ 0xE)
       else if 0x28 ≤ op && op ≤ 0x2C then true
       else if 0x30 ≤ op && op ≤ 0x32 then true
       else if op = 0x38 || op = 0x39 then decide (vd ≤ 29)
       else if op = 0x3A then decide (vd ≤ 28)
       else if op = 0x3B then fmt == 0 && zeroAt v 11 2 && zeroAt v 6 5
       else false)

/-- SFU slot (Table 4-10). -/
def sfuOk (v : Nat) : Bool :=
  match fld v 28 4 with
  | 0 => zeroAt v 0 21
  | 1 => zeroAt v 0 9
  | 2 => zeroAt v 0 1
  | 3 => decide (fld v 17 4 ≤ 7) && zeroAt v 0 17
  | _ => false

/-- LSU slot (Table 4-11). -/
def lsuOk (v : Nat) : Bool :=
  match fld v 44 4 with
  | 0 => zeroAt v 0 39
  | 1 => zeroAt v 0 18
  | 2 => zeroAt v 0 24
  | 3 => zeroAt v 0 18
  | 4 => zeroAt v 0 24
  | 5 => zeroAt v 0 19
  | 6 => zeroAt v 0 20
  | 7 => zeroAt v 0 20
  | 8 => decide (fld v 31 4 ≤ 3) && zeroAt v 0 21
  | _ => false

/-- NET slot (Table 4-12). -/
def netOk (v : Nat) : Bool :=
  match fld v 44 4 with
  | 0 => zeroAt v 0 39
  | 1 => zeroAt v 0 12
  | 2 => fld v 17 2 != 3 && zeroAt v 0 11
  | 3 => decide (fld v 26 3 ≤ 2) && fld v 22 4 != 0xF && zeroAt v 0 4
  | 4 => fld v 25 4 != 0xF && zeroAt v 0 9
  | _ => false

/-- A lane word without reserved codes or bits: check 0x06. -/
def wordOk (w : List Byte) : Bool :=
  match directive w with
  | some 0 => zeroAt (slotCtl w) 0 24 && leNat (w.drop 10) == 0
  | some 1 => zeroAt (slotCtl w) 0 24 && leNat (w.drop 10) == 0
  | some 2 => zeroAt (slotCtl w) 0 24 && leNat (w.drop 4) == 0
  | some _ => false
  | none => ctlOk (slotCtl w) && mxuOk (slotMxu w) && vpuOk (slotVpu w) && sfuOk (slotSfu w) && lsuOk (slotLsu w)
      && netOk (slotNet w)

/-- TAG of a slot that has one, 0 otherwise. -/
def tagsOf (w : List Byte) : List Nat :=
  let m := slotMxu w
  let v := slotVpu w
  (if fld m 44 4 = 3 then [fld m 27 5] else [])
    ++ (if fld v 42 6 = 0x21 then [fld v 6 5] else if fld v 42 6 = 0x3C || fld v 42 6 = 0x3D then [fld v 2 5] else [])

/-- R83, R85 and R90 in one bundle of tile `i` (index in the scope). -/
def bundleOk (lvl i : Nat) (w : List Byte) : Bool :=
  let c := slotCtl w
  let n := slotNet w
  !(fld c 26 6 == 2 && fld c 5 6 % 2 == 1)
    && !(fld c 26 6 == 8 && fld c 20 2 == 0 && fld c 14 6 == 63)
    && (tagsOf w).all (fun t => decide (t ≤ 16))
    && !(fld n 44 4 == 1 && bit n 28 && (lvl == 1 || fld n 29 10 / 40 == i / 40))

/-- Register writes of a bundle that become readable later: (beats, register); V registers from 0, predicates from 64. -/
def writesOf (w : List Byte) : List (Nat × Nat) :=
  let c := slotCtl w
  let v := slotVpu w
  let s := slotSfu w
  let op := fld v 42 6
  let vd := fld v 32 5
  let cp := if fld c 26 6 = 4 || fld c 26 6 = 5 then [(1, 64 + fld c 22 4)] else []
  let vp :=
    if op = 0 || op = 0x3D then []
    else if op = 0x0A then [(4, 64 + vd % 16)]
    else if op = 0x3C then [(3, vd)]
    else if 0x30 ≤ op && op ≤ 0x32 then [(8, vd)]
    else if op = 0x38 || op = 0x39 then [(8, vd), (8, vd + 1), (8, vd + 2)]
    else if op = 0x3A then [(8, vd), (8, vd + 1), (8, vd + 2), (8, vd + 3)]
    else if op = 0x3B then [(8, vd)]
    else [(4, vd)]
  let sp := if fld s 28 4 = 1 then [(8, fld s 16 5)] else []
  (cp ++ vp ++ sp).filter (fun p => p.2 != 64)

/-- No two writes of a register become readable in one beat (R82). -/
def noConflict (bs : List (List Byte)) : Bool :=
  let ws := (List.range bs.length).map (fun i => (writesOf (bs.getD i [])).map (fun p => (i + p.1, p.2)))
  (List.range ws.length).all (fun i =>
    let mine := ws.getD i []
    let later := ((List.range 8).map (fun j => ws.getD (i + 1 + j) [])).flatten
    mine.all (fun p => !later.contains p) && mine.eraseDups.length == mine.length)

/-- The three bundles after a MAC with REF = 1 carry MXU NOP (R85). -/
def refOk (bs : List (List Byte)) : Bool :=
  (List.range bs.length).all (fun i =>
    let m := slotMxu (bs.getD i [])
    if fld m 44 4 = 2 && bit m 31 then
      (List.range 3).all (fun j => fld (slotMxu (bs.getD (i + 1 + j) (List.replicate 32 0))) 44 4 == 0)
    else true)

/-- The last 8 of a list of bundles, which is what R82 and R85 reach back to. -/
def lastFew (l : List (List Byte)) : List (List Byte) := l.drop (l.length - 8)

/-- The first `k` bundles of every path through segments, of which those marked may be skipped (R50). -/
def heads : List (Bool × List (List Byte)) → Nat → List (List (List Byte))
  | [], _ => [[]]
  | (sk, bs) :: r, k =>
    let here := if k ≤ bs.length then [bs.take k] else (heads r (k - bs.length)).map (bs ++ ·)
    if sk then here ++ heads r k else here

/-- A test of neighbouring bundles, in every segment and across every path out of it. -/
def pathsOk (f : List (List Byte) → Bool) : List (Bool × List (List Byte)) → Bool
  | [] => true
  | (_, bs) :: r => f bs && (heads r 8).all (fun h => f (lastFew bs ++ h)) && pathsOk f r

/-- A word within level 1 (Table 4-16). -/
def wordLevel1 (w : List Byte) : Bool :=
  match directive w with
  | some _ => true
  | none =>
    let m := slotMxu w
    let v := slotVpu w
    let n := slotNet w
    let l := fld (slotLsu w) 44 4
    let op := fld v 42 6
    fld (slotCtl w) 26 6 != 3
      && !(fld m 44 4 == 1 && (decide (5 < fld m 35 4) || bit m 34))
      && !(fld m 44 4 == 2 && (decide (5 < fld m 35 4) || bit m 31))
      && !(fld m 44 4 == 3 && decide (5 < fld m 33 4))
      && decide ((if op = 0x3C || op = 0x3D then fld v 8 4 else if op = 0x20 || op = 0x21 then fld v 13 4 else 0) ≤ 5)
      && (l == 0 || l == 1 || l == 2 || l == 3 || l == 6)
      && (fld n 44 4 == 0 || (fld n 44 4 == 1 && zeroAt n 35 4 && decide (fld n 29 6 ≤ 39) && !bit n 28))

/-! ### Tables (R91 to R95) -/

/-- Region entries of REGION_TABLE. -/
def regionCount (t : List Byte) : Nat := leAt t 0 4
def regionBytes (t : List Byte) (i : Nat) : List Byte := slice t (4 + 64 * i) 64

def tensorOf (t : List Byte) (off i : Nat) : Tensor :=
  let e := slice t (off + 16 * i) 16
  ⟨leAt e 0 1, leAt e 1 1, leAt e 4 4, if leAt e 8 4 = 0xFFFFFFFF then none else some (leAt e 8 4), leAt e 12 4⟩

/-- A RETAIN list. -/
def retainList (t : List Byte) (off : Nat) : List (Option Nat × Nat × Nat) :=
  if off = 0 then []
  else (List.range (leAt t off 4)).map (fun i =>
    let e := slice t (off + 4 + 16 * i) 16
    (if leAt e 0 2 = 0xFFFF then none else some (leAt e 0 2), leAt e 4 4, leAt e 8 4))

def regionOf (t : List Byte) (i : Nat) : Region :=
  let e := regionBytes t i
  let a := leAt e 0x10 1
  { s := leAt e 0 6, e := leAt e 8 6, skip := bit a 0, replay := bit a 1, nanStrict := bit a 2, assumeSkip := bit a 3,
    gpred := leAt e 0x11 1, ovfT := leAt e 0x14 4, satT := leAt e 0x18 4, nanT := leAt e 0x1C 4
    tensors := (List.range (leAt e 0x12 1)).map (tensorOf t (leAt e 0x20 4))
    retain := if bit a 1 then retainList t (leAt e 0x24 4) else [] }

/-- The regions of an image, in index order. -/
def imgRegions (b : List Byte) : List Region :=
  let t := sectBytes b 4
  (List.range (regionCount t)).map (regionOf t)

/-- The entries of the global lane. -/
def imgGlane (b : List Byte) : List GEntry :=
  let t := sectBytes b 3
  (List.range (t.length / 16)).map (fun i => let e := slice t (16 * i) 16; ⟨leAt e 0 6, leAt e 6 1, leAt e 8 8⟩)

/-- The prefetch entries. -/
def imgPrefetch (b : List Byte) : List PfEntry :=
  let t := sectBytes b 5
  (List.range (t.length / 32)).map (fun i =>
    let e := slice t (32 * i) 32
    { need := leAt e 0 6, kind := leAt e 6 1, handle := leAt e 8 2, tile := leAt e 0xA 2, lb := leAt e 0xC 1
      leadMin := leAt e 0xE 2, leadMax := leAt e 0x1C 2, off := leAt e 0x10 8, len := leAt e 0x18 4
      issued := false, issuedAt := 0 })

/-- A record of SFU_TABLES or T0_INIT: T0 offset, tile (none for every tile), payload, reserved bytes. -/
structure InitRec where
  off : Nat
  tile : Option Nat
  rsvd : Nat
  data : List Byte
  deriving DecidableEq, Repr

/-- The records of a section; none where one runs past its end or its padding is not zero (R94). -/
def initRecs : Nat → List Byte → Option (List InitRec)
  | 0, bs => if bs.isEmpty then some [] else none
  | k + 1, bs =>
    if bs.isEmpty then some []
    else
      let n := leAt bs 4 4
      let size := roundUp (16 + n) 64
      if bs.length < size || leNat (slice bs (16 + n) (size - 16 - n)) != 0 then none
      else (initRecs k (bs.drop size)).map (fun l =>
        ⟨leAt bs 0 4, if leAt bs 8 2 = 0xFFFF then none else some (leAt bs 8 2), leAt bs 10 6, (bs.drop 16).take n⟩ :: l)

/-- Records of a section type. -/
def recsOf (b : List Byte) (ty : Nat) : Option (List InitRec) := let t := sectBytes b ty; initRecs (t.length / 64 + 1) t

/-! ### The checks of Table 4-17 -/

/-- 0x04. -/
def archOk (b : List Byte) : Bool :=
  let lo := leAt b 6 1
  let hi := leAt b 7 1
  decide (lo ≤ 2) && decide (2 ≤ hi) && decide (lo ≤ hi)

/-- 0x05. -/
def stepOk (b : List Byte) : Bool := decide (leAt b 8 1 ≤ fld Config.devVersion.toNat 0 8)

/-- Operand bits of a lane entry that Table 4-14 does not name. -/
def operandOk (e : GEntry) : Bool :=
  match e.act with
  | 1 => decide (e.operand < 2 ^ 12)
  | 2 => decide (e.operand < 2 ^ 12)
  | 3 => zeroAt e.operand 12 4 && decide (e.operand < 2 ^ 32)
  | 4 => decide (e.operand < 2 ^ 32)
  | 5 => zeroAt e.operand 8 8 && decide (e.operand < 2 ^ 32)
  | 6 => e.operand == 0
  | _ => false

/-- The lanes that the index names, with their tile index. -/
def imgLaneList (b : List Byte) : List (Nat × LaneEnt) :=
  let ix := sectBytes b 1
  ((List.range (imgLanes b)).map (fun i => (i, laneEnt ix i))).filter (fun p => p.2.len != 0)

/-- All words of all lanes meet a test. -/
def allWords (b : List Byte) (f : List Byte → Bool) : Bool :=
  let t := sectBytes b 2
  (imgLaneList b).all (fun p => (laneWords t p.2).all f)

/-- 0x06: reserved fields, growth bits, reserved codes and opcodes are 0. DEDUCED (notes/assumptions/26.md). -/
def reservedOk (b : List Byte) : Bool :=
  let rt := sectBytes b 4
  zeroAt (imgFlags b) 3 29 && decide (imgClass b ≤ 2) && zeroAt (imgDies b) 20 12
    && (!imgHalf b || zeroAt (imgDies b) 10 10) && leAt b 0x3C 4 == 0 && zeroAt (imgStatic b) 48 16
    && (sects b).all (fun s => s.rsvd == 0 && decide (1 ≤ s.ty) && decide (s.ty ≤ 8))
    && (List.range (regionCount rt)).all (fun i =>
        let e := regionBytes rt i
        zeroAt (leAt e 0x10 1) 4 4 && leAt e 0x13 1 == 0 && leNat (e.drop 0x28) == 0 && leAt e 6 2 == 0 && leAt e 14 2 == 0
          && (List.range (leAt e 0x12 1)).all (fun j => leAt rt (leAt e 0x20 4 + 16 * j + 2) 2 == 0)
          && (leAt e 0x24 4 == 0 || (List.range (leAt rt (leAt e 0x24 4) 4)).all (fun j =>
              let o := leAt e 0x24 4 + 4 + 16 * j
              leAt rt (o + 2) 2 == 0 && leAt rt (o + 12) 4 == 0)))
    && (let g := sectBytes b 3
        (List.range (g.length / 16)).all (fun i => leAt g (16 * i + 7) 1 == 0))
    && (imgGlane b).all operandOk
    && (let p := sectBytes b 5
        (List.range (p.length / 32)).all (fun i =>
          decide (leAt p (32 * i + 6) 1 ≤ 1) && leAt p (32 * i + 7) 1 == 0 && leAt p (32 * i + 0xD) 1 == 0
            && leAt p (32 * i + 0x1E) 2 == 0))
    && ((recsOf b 6).getD []).all (fun r => r.rsvd == 0) && ((recsOf b 7).getD []).all (fun r => r.rsvd == 0)
    && (let s := sectBytes b 8
        s.isEmpty || leNat (slice s 2 14) == 0)
    && allWords b wordOk

/-- 0x07. -/
def crcOk (b : List Byte) : Bool :=
  let hd := slice b 0 (0x40 + 16 * sectCount b)
  (crc32 (hd.take 0x38 ++ [0, 0, 0, 0] ++ hd.drop 0x3C)).toNat == leAt b 0x38 4
    && (sects b).all (fun s => (crc32 (slice b s.off s.len)).toNat == s.crc)

/-- Whether a type has exactly one section, or at most one. -/
def tyCount (b : List Byte) (ty : Nat) : Nat := countIf (sects b) (fun s => s.ty == ty)

/-- R93. -/
def prefetchOk (b : List Byte) : Bool :=
  let l := imgPrefetch b
  (sectBytes b 5).length % 32 == 0
    && (List.range (l.length - 1)).all (fun i => match l[i]?, l[i + 1]? with
        | some a, some c => decide (a.need ≤ c.need)
        | _, _ => true)
    && l.all (fun e => decide (e.leadMin ≤ e.leadMax)
        && (if e.kind = 1 then decide (e.tile < imgLanes b) && decide (e.lb ≤ 63) else e.tile == 0xFFFF && e.lb == 0xFF))

/-- The records of a section fit R94: each whole, and for every tile or one of the image's. -/
def recsOk (b : List Byte) (ty : Nat) : Bool :=
  match recsOf b ty with
  | some l => l.all (fun r => match r.tile with
      | some i => decide (i < imgLanes b)
      | none => true)
  | none => false

/-- 0x08: R68, R70, R93, R94. A missing signature is check 0x0E. -/
def layoutOk (b : List Byte) (objLen : Nat) : Bool :=
  let ss := sects b
  let n := sectCount b
  imgSize b % 64 == 0 && decide (imgSize b ≤ objLen) && decide (3 ≤ n) && decide (n ≤ 64)
    && ss.all (fun s => decide (0x40 + 16 * n ≤ s.off) && decide (s.off + s.len ≤ imgSize b))
    && (List.range n).all (fun i => (List.range n).all (fun j => match ss[i]?, ss[j]? with
        | some a, some c => i == j || !overlap a.off a.len c.off c.len
        | _, _ => true))
    && [1, 2, 3].all (fun t => tyCount b t == 1) && [4, 5, 6, 7, 8].all (fun t => decide (tyCount b t ≤ 1))
    && !(imgLevel b == 1 && tyCount b 4 != 0)
    && (match ss.find? (fun s => s.ty == 8) with
        | some s => imgResident b && ss.all (fun t => decide (t.off ≤ s.off))
        | none => true)
    && prefetchOk b
    && recsOk b 6 && recsOk b 7

/-- A seek list names the words that begin at E + 1 of the skippable regions (R75). -/
def seekOk (b ix : List Byte) (e : LaneEnt) (items : List TopItem) : Bool :=
  let rs := (imgRegions b).filter (fun r => r.skip)
  (rs.isEmpty && e.seek == 0) ||
    (decide (16 * imgLanes b ≤ 4 * e.seek) && decide (4 * e.seek + 4 + 4 * rs.length ≤ ix.length)
      && leAt ix (4 * e.seek) 4 == rs.length
      && (List.range rs.length).all (fun i => match rs[i]? with
          | some r => items.any (fun t => t.pos == r.e + 1 && t.idx == leAt ix (4 * e.seek + 4 + 4 * i) 4)
          | none => true))

/-- 0x09: R72 to R75. -/
def lanesOk (b : List Byte) : Bool :=
  let ix := sectBytes b 1
  let ls := sectBytes b 2
  let rs := imgRegions b
  imgStatic b != 0 && decide (16 * imgLanes b ≤ ix.length)
    && (List.range (imgLanes b)).all (fun i =>
        let e := laneEnt ix i
        if e.len = 0 then e.seek == 0
        else
          bit (imgDies b) (i / 40) && decide (32 * (e.start + e.len) ≤ ls.length)
            && (match topItems (e.len + 1) (laneWords ls e) 0 0 with
                | none => false
                | some items =>
                  (match items.getLast? with
                   | some t => t.pos == imgStatic b
                   | none => false)
                    && rs.all (fun r => items.any (fun t => t.pos == r.s) && items.any (fun t => t.pos == r.e + 1))
                    && seekOk b ix e items))

/-- Position at which each of the first `n` words of a lane is first needed, from position `p` on, and the position after them: a word of a loop
in its first trip (R76). -/
def fetchPos : Nat → List (List Byte) → Nat → Nat → List Nat × Nat
  | 0, _, _, p => ([], p)
  | k + 1, ws, n, p =>
    match n, ws with
    | 0, _ => ([], p)
    | _, [] => ([], p)
    | n + 1, w :: r =>
      match directive w with
      | none => let q := fetchPos k r n (p + 1); (p :: q.1, q.2)
      | some 0 => let q := fetchPos k r n (p + leAt w 4 6); (p :: q.1, q.2)
      | some 1 =>
        let m := leAt w 8 2
        let a := fetchPos k r m p
        let q := fetchPos k (r.drop m) (n - m) (p + leAt w 4 4 * (a.2 - p))
        (p :: (a.1 ++ q.1), q.2)
      | some _ => let q := fetchPos k r n p; (p :: q.1, q.2)

/-- 0x0A: at most 512 words are first needed in any window of 4,096 beats (R76). DEDUCED (notes/assumptions/26.md). -/
def densityOk (b : List Byte) : Bool :=
  let ls := sectBytes b 2
  (imgLaneList b).all (fun p =>
    let l := (fetchPos (p.2.len + 1) (laneWords ls p.2) p.2.len 0).1
    (l.zip (l.drop 512)).all (fun q => decide (q.1 + 4096 ≤ q.2)))

/-- The bundles of a lane, cut where a region that may be skipped begins or ends. -/
def laneSegs (rs : List Region) (items : List TopItem) (ws : List (List Byte)) : List (Bool × List (List Byte)) :=
  let at_ (p : Nat) : Nat := ((items.find? (fun t => t.pos == p)).map (fun t => t.idx)).getD ws.length
  let ex (i n : Nat) : List (List Byte) := expand (ws.length + 8) (ws.drop i) n
  let cut := rs.foldl (fun (q : Nat × List (Bool × List (List Byte))) r =>
    let i := at_ r.s
    let j := at_ (r.e + 1)
    (j, q.2 ++ [(false, ex q.1 (i - q.1)), (true, ex i (j - i))])) (0, [])
  cut.2 ++ [(false, ex cut.1 (ws.length - cut.1))]

/-- 0x0B: R82, R83, R85, R90, on every path that skips may take (R50). -/
def bundlesOk (b : List Byte) : Bool :=
  let ls := sectBytes b 2
  (imgLaneList b).all (fun p =>
    let ws := laneWords ls p.2
    let items := (topItems (p.2.len + 1) ws 0 0).getD []
    let segs := laneSegs ((imgRegions b).filter (fun r => r.skip)) items ws
    ws.all (fun w => (directive w).isSome || bundleOk (imgLevel b) p.1 w) && pathsOk noConflict segs && pathsOk refOk segs)

/-- End of the tensor block, where the retain block may begin (R91). -/
def tensorEnd (t : List Byte) : Nat :=
  (List.range (regionCount t)).foldl (fun m i =>
    let e := regionBytes t i
    Nat.max m (leAt e 0x20 4 + 16 * leAt e 0x12 1)) (4 + 64 * regionCount t)

/-- 0x0C: R48, R91. -/
def regionsOk (b : List Byte) : Bool :=
  let t := sectBytes b 4
  let n := regionCount t
  let base := 4 + 64 * n
  let rs := imgRegions b
  tyCount b 4 == 0 ||
    (decide (n ≤ 4096) && decide (base ≤ t.length)
      && (List.range n).all (fun i =>
          let e := regionBytes t i
          let r := regionOf t i
          let nt := leAt e 0x12 1
          let toff := leAt e 0x20 4
          let ro := leAt e 0x24 4
          decide (r.s ≤ r.e) && decide (r.e < imgStatic b) && (r.skip || r.gpred == 0)
            && decide (nt ≤ 16) && (r.replay || (nt == 0 && ro == 0))
            && (nt == 0) == (toff == 0)
            && (toff == 0 || (decide (base ≤ toff) && (toff - base) % 16 == 0 && decide (toff + 16 * nt ≤ t.length)))
            && (ro == 0 || (decide (tensorEnd t ≤ ro) && decide (ro + 4 + 16 * leAt t ro 4 ≤ t.length)))
            && r.tensors.all (fun x => decide (1 ≤ x.tag) && decide (x.tag ≤ 16) && decide (x.fmt ≤ 0xE) && x.scale % 4 == 0
                && decide (x.scale ≤ 0x1FFFFC) && decide (x.bscale.getD 0 < 0x200000) && decide (x.bamax < 0x200000))
            && (!r.replay || decide (r.e + 1 - r.s ≤ 1048576))
            && (!r.replay || rs.all (fun q => !((decide (r.e < q.s) && decide (q.s ≤ r.e + 32))
                || (decide (r.e < q.e) && decide (q.e ≤ r.e + 32)))))
            && (match rs[i + 1]? with
                | some q => decide (r.e < q.s)
                | none => true)))

/-- 0x0D: R92, R234. -/
def glaneOk (b : List Byte) : Bool :=
  let l := imgGlane b
  let rs := imgRegions b
  (sectBytes b 3).length % 16 == 0
    && (List.range (l.length - 1)).all (fun i => match l[i]?, l[i + 1]? with
      | some a, some c => decide (a.pos ≤ c.pos)
      | _, _ => true)
    && l.all (fun e => decide (e.pos ≤ imgStatic b)
        && (e.act == 4 || e.act == 5 || e.act == 6 || decide (e.pos < imgStatic b))
        && !(e.act == 4 && e.operand % 8 != 0)
        && !(e.act == 5 && !(fld e.operand 0 8 == 0 || (decide (0x10 ≤ fld e.operand 0 8) && decide (fld e.operand 0 8 ≤ 0x1F))))
        && !(e.act == 3 && imgHalf b && !zeroAt e.operand 6 6)
        && !((e.act == 1 || e.act == 2) && decide (rs.length ≤ e.operand)))
    && (List.range rs.length).all (fun i => match rs[i]? with
        | some r => countIf l (fun e => e.act == 1 && e.operand == i) == 1 && l.any (fun e => e.act == 1 && e.operand == i && e.pos == r.s)
            && countIf l (fun e => e.act == 2 && e.operand == i) == 1 && l.any (fun e => e.act == 2 && e.operand == i && e.pos == r.e)
        | none => true)
    && countIf l (fun e => e.act == 6) == 1
    && (match l.getLast? with
        | some e => e.act == 6 && e.pos == imgStatic b
        | none => false)

/-- 0x0E: a signature exactly in a RESIDENT image, with its 16 zero bytes, by a key of the active Kindling (R95). DESIGN CHOICE
(notes/assumptions/11.md). -/
def signatureOk (b : List Byte) (keys : FMap (List Byte)) : Bool :=
  match (sects b).find? (fun s => s.ty == 8) with
  | none => !imgResident b
  | some s =>
    let sg := slice b s.off 112
    let slot := leAt sg 0 1
    imgResident b && s.len == 112 && s.off + 128 == imgSize b && leNat (slice b (s.off + 112) 16) == 0
      && decide (slot ≤ 3) && leAt sg 1 1 == 1
      && (match mget? keys slot with
          | some k => Config.ecdsaOk (b.take s.off) sg k
          | none => false)

/-- 0x0F: R96. -/
def levelOk (b : List Byte) : Bool :=
  imgLevel b != 1 ||
    (imgDies b == 1 && imgClass b == 0 && (imgGlane b).all (fun e => e.act == 4 || e.act == 5 || e.act == 6)
      && allWords b wordLevel1)

/-- The first failing check on an image's bytes, 0 when none fails. DEDUCED (notes/assumptions/26.md). -/
def checkImage (b : List Byte) (objLen : Nat) (keys : FMap (List Byte)) : Nat :=
  if leAt b 0 4 != 0x544E4843 then 0x01
  else if imgLevel b != 1 && imgLevel b != 2 then 0x02
  else if leAt b 5 1 != imgLevel b then 0x03
  else if !archOk b then 0x04
  else if !stepOk b then 0x05
  else if !reservedOk b then 0x06
  else if !crcOk b then 0x07
  else if !layoutOk b objLen then 0x08
  else if !lanesOk b then 0x09
  else if !densityOk b then 0x0A
  else if !bundlesOk b then 0x0B
  else if !regionsOk b then 0x0C
  else if !glaneOk b then 0x0D
  else if !signatureOk b keys then 0x0E
  else if !levelOk b then 0x0F
  else 0

/-- The bytes of an image object. -/
def imageBytes (d : Dev) (h : Nat) (o : Obj) : List Byte :=
  let n := leNat (t1Read d h 0x20 8)
  t1Read d h 0 (Nat.min (Nat.max n 64) (o.npages * pageSize))

/-! ### Validation and invalidation (R97, R98) -/

/-- Whether a queued or running job names this image. -/
def imageNamed (d : Dev) (h : Nat) : Bool := d.sched.slots.any (fun p => !p.2.ended && p.2.desc.image == h)

/-- A command of CHT_IMG_CTRL while BUSY is discarded and sets DROPPED. -/
def imgCommand (d : Dev) (f : Dev → Dev) : Dev :=
  if d.imgs.busy then { d with imgs := { d.imgs with dropped := true } } else f d

/-- VALIDATE starts; pages that the object lacks are fetched. -/
def validateStart (d : Dev) (h : Nat) : Dev :=
  imgCommand d (fun d =>
    let d := { regPut d 0x82C0 (2 ^ 30 + h) with imgs := { d.imgs with busy := true, cur := h, dirty := false, handle := h } }
    match objOf d h with
    | some (h0, o) => requestPages d (missing h0 o 0 (o.npages * pageSize))
    | none => d)

/-- Ownership of the table once an image has been checked: the code, and the validated images. A success leaves an INVALIDATE that waits for a job
in force. DEDUCED, DESIGN CHOICE (notes/assumptions/26.md). -/
def validateEnd (d : Dev) (h code : Nat) : Dev :=
  let code := if code = 0 && !d.imgs.valid.contains h && decide (1024 ≤ d.imgs.valid.length) then 0x12 else code
  let rest := d.imgs.valid.filter (· != h)
  { d with imgs := { d.imgs with busy := false, code := code, valid := if code = 0 then rest ++ [h] else rest } }

/-- VALIDATION_DONE: `failed` when a read of the object failed or returned poisoned data. -/
def validateDone (d : Dev) (failed : Bool) : Dev :=
  if !d.imgs.busy then d
  else
    let h := d.imgs.cur
    match objOf d h with
    | none => validateEnd d h 0x14
    | some (h0, o) =>
      if failed || o.cls == .far || o.cls == .peer || spanBad o 0 (o.npages * pageSize) then validateEnd d h 0x13
      else if !(missing h0 o 0 (o.npages * pageSize)).isEmpty then d
      else
        let c := checkImage (imageBytes d h0 o) (o.npages * pageSize) d.boot.keys
        validateEnd d h (if c = 0 && d.imgs.dirty then 0x10 else c)

/-- INVALIDATE: at once, or when the last job that names the image ends; it reports 0x00 while the object holds a validated image. -/
def invalidate (d : Dev) (h : Nat) : Dev :=
  imgCommand d (fun d =>
    let d := regPut d 0x82C0 (2 * 2 ^ 30 + h)
    let had := d.imgs.valid.contains h
    let im := { d.imgs with handle := h, code := if had then 0 else 0x11 }
    if !had then { d with imgs := im }
    else if imageNamed d h then
      { d with imgs := { im with invalPend := if im.invalPend.contains h then im.invalPend else im.invalPend ++ [h] } }
    else { d with imgs := { im with valid := im.valid.filter (· != h) } })

/-- OP 3: nothing starts; class 0 fault. -/
def imgReserved (d : Dev) (h : Nat) : Dev :=
  let d := if d.imgs.busy then { d with imgs := { d.imgs with dropped := true } } else d
  discarded d 0x08 (3 * 2 ^ 30 + h)

/-- VALIDATE. -/
def execValidate (src : Iface) (h : BitVec 16) (s : State) : Out3 :=
  lift s (fun d => ownerOnly d src (fun d => validateStart d h.toNat))

/-- VALIDATION_DONE. -/
def execValidationDone (failed : Bool) (s : State) : Out3 := lift s (fun d => validateDone d failed)

/-- INVALIDATE. -/
def execInvalidate (src : Iface) (h : BitVec 16) (s : State) : Out3 :=
  lift s (fun d => ownerOnly d src (fun d => invalidate d h.toNat))

/-- IMG_CTRL_RESERVED. -/
def execImgCtrlReserved (src : Iface) (h : BitVec 16) (s : State) : Out3 :=
  lift s (fun d => ownerOnly d src (fun d => imgReserved d h.toNat))

end Sys2Proof.Machine
end

