-- ==== Sys2Proof/Machine/Pixel.lean ====
section
/-! DEFINITION. The pixel engines (R115 to R119, Tables 5-10 and 5-11). The spec lays out no operation parameter (block bytes
0x24 to 0x3F): the rows carry them decoded (notes/assumptions/16.md). Samples lie pixel by pixel with their channels together,
in rows of the source pitch; results are dense (notes/assumptions/16.md). -/

namespace Sys2Proof.Machine

def pxe (d : Dev) (n : Nat) : Pxe := mget d.pxe n Pxe.reset
def setPxe (d : Dev) (n : Nat) (p : Pxe) : Dev := { d with pxe := mset d.pxe n p }

/-- The fields of a pixel-engine command block (Table 5-10). -/
structure PxeBlk where
  op : Nat
  toLb : Bool
  src : Nat
  dst : Nat
  srcOff : Nat
  dstOff : Nat
  w : Nat
  h : Nat
  pitch : Nat
  cin : Nat
  cout : Nat
  fin : Nat
  fout : Nat
  rsvd : Nat
  deriving DecidableEq, Repr

/-- DESIGN CHOICE (notes/assumptions/16.md). -/
def pxeBlk (b : List Byte) : PxeBlk :=
  { op := leAt b 0 1, toLb := bit (leAt b 2 2) 0, src := leAt b 4 2, dst := leAt b 6 2, srcOff := leAt b 8 8
    dstOff := leAt b 0x10 8, w := leAt b 0x18 2, h := leAt b 0x1A 2, pitch := leAt b 0x1C 4, cin := leAt b 0x20 1
    cout := leAt b 0x21 1, fin := fld (leAt b 0x22 1) 0 4, fout := fld (leAt b 0x22 1) 4 4
    rsvd := leAt b 2 2 / 2 + leAt b 0x23 1 }

/-- Formats that a pixel engine takes: a block format is raw data to it (R121); those of OP 0x01 are its own (Table 5-11). DEDUCED
(notes/assumptions/16.md). -/
def pxeFmtOk (p : PxeBlk) : Bool :=
  if p.op = 1 then [1, 2, 3, 4, 5, 0xE].contains p.fin && [1, 3, 4, 0xE].contains p.fout
  else (p.fin < 7 || p.fin == 0xE) && (p.fout < 7 || p.fout == 0xE)

/-- The limits that every operation has: source size, formats and reserved fields. -/
def pxeOk (p : PxeBlk) : Bool :=
  p.rsvd == 0 && decide (1 ≤ p.w) && decide (p.w ≤ 8192) && decide (1 ≤ p.h) && decide (p.h ≤ 4096)
    && pxeFmtOk p && decide (1 ≤ p.cin) && decide (1 ≤ p.cout)

/-- Bytes of the source: `frames` pictures of `h` rows. -/
def srcSpan (p : PxeBlk) (frames : Nat) : Nat := p.pitch * (p.h * frames - 1) + ceilDiv (p.w * p.cin * fmtBits p.fin) 8

/-! ### An engine's accesses (R201, R204, R219) -/

/-- What a read of the source gives: bytes, a read error, an access that breaks R201, poison, or nothing while a run of rounds holds it. -/
inductive SrcRead where
  | ok (bs : List Byte)
  | bad
  | range (handle : Nat)
  | poison (handle : Nat)
  | held
  deriving DecidableEq, Repr

/-- A span of an object as an engine or port reads it. An object that is not in T1 is a read error. -/
def engRead (d : Dev) (si handle off n : Nat) : SrcRead :=
  let handle := rebase d si handle
  match objOf d handle with
  | none => .range handle
  | some (h, o) =>
    let off := (handle - h) * 2 ^ 32 + off
    if o.npages * pageSize < off + n then .range handle
    else if o.cls == .far || o.cls == .peer then .bad
    else if spanBad o off n then .poison handle
    else .ok (t1Read d h off n)

/-- Whether a run of refresh rounds holds an engine's access (R229). -/
def engHeld (d : Dev) (si handle off n : Nat) : Bool :=
  let handle := rebase d si handle
  match objOf d handle with
  | some (h, o) => roundsHold d o [((handle - h) * 2 ^ 32 + off, n)]
  | none => false

/-- The same read by a job's command: from a 64-byte boundary, in whole lines, which must lie in the object (R201). DEDUCED
(notes/assumptions/16.md). -/
def engLines (d : Dev) (si handle off n : Nat) : SrcRead :=
  if off % 64 != 0 then .range (rebase d si handle)
  else if engHeld d si handle off n then .held
  else match engRead d si handle off (roundUp n 64) with
    | .ok bs => .ok (bs.take n)
    | r => r

/-- What a write gives: the state it leaves, an object that is not in T1, or an access that breaks R201. -/
inductive DstWrite where
  | ok (d : Dev)
  | bad
  | range (handle : Nat)
  deriving DecidableEq, Repr

/-- A span of an object written by an engine or port. -/
def engStore (d : Dev) (si handle off : Nat) (bs : List Byte) : DstWrite :=
  let handle := rebase d si handle
  match objOf d handle with
  | none => .range handle
  | some (h, o) =>
    let off := (handle - h) * 2 ^ 32 + off
    if o.npages * pageSize < off + bs.length || o.rdonly then .range handle
    else if o.cls == .far || o.cls == .peer then .bad
    else .ok (t1Write d h off bs)

/-- The same write by a job's command, from a 64-byte boundary (R201). -/
def engStoreLines (d : Dev) (si handle off : Nat) (bs : List Byte) : DstWrite :=
  if off % 64 != 0 then .range (rebase d si handle) else engStore d si handle off bs

/-- A port's write; none where it does not lie in an object that may be written. -/
def engWrite (d : Dev) (si handle off : Nat) (bs : List Byte) : Option Dev :=
  match engStore d si handle off bs with
  | .ok d => some d
  | _ => none

/-- Pages that an engine's access must wait for (R204). -/
def engWaits (d : Dev) (si handle off n : Nat) : List Nat :=
  let handle := rebase d si handle
  match objOf d handle with
  | some (h, o) => missing h o ((handle - h) * 2 ^ 32 + off) n
  | none => []

/-- The span has been accessed, which R210 and R219 heed. -/
def engTouch (d : Dev) (si handle off n : Nat) : Dev :=
  let handle := rebase d si handle
  match objOf d handle with
  | some (h, _) => touch d h ((handle - h) * 2 ^ 32 + off) n
  | none => d

/-- The job of a command ends FAILED_TIER, when it is still the one that runs. -/
def engTier (d : Dev) (c : EngCmd) (cause handle : Nat) : Dev :=
  if (scope d c.scope).jobValid && (scope d c.scope).slot == c.slot then endTier d c.scope cause handle else d

/-! ### Execution of a command (R115, R119) -/

/-- The completion word (R119). -/
def pxeWord (status bad pixels : Nat) : List Byte := leBytes 2 status ++ leBytes 2 (sat 16 bad) ++ leBytes 4 (sat 32 pixels)

/-- What an operation makes of its sources: nothing, since its parameters are malformed, or the result bytes, the count of non-finite boxes
or values, and the output pixels. -/
inductive PxeRes where
  | malformed
  | done (out : List Byte) (bad pix : Nat)
  deriving DecidableEq, Repr

/-- A pixel engine's command leaves the queue and is executed, with its word once there is one. -/
def pxePop (d : Dev) (n : Nat) (rest : List EngCmd) (cur : Option EngCmd) (w : Option (List Byte)) : Dev :=
  pxeRefill (setPxe d n { pxe d n with queue := rest, pages := [], cur := cur, word := w }) n

/-- The front command waits for pages. -/
def pxeWaits (d : Dev) (n : Nat) (ws : List Nat) : Dev := requestPages (setPxe d n { pxe d n with pages := ws }) ws

/-- The engine executes its front command: `f` makes the result of the source bytes and those of a second source `aux` (handle, offset,
length; length 0 for none). A malformed block of a known OP completes with status 1, as does a destination that is not in T1, and only VER and
OP give `ENGINE_CMD`. DESIGN CHOICE (notes/assumptions/54.md). -/
def pxeRun (d : Dev) (n op frames : Nat) (aux : Nat × Nat × Nat) (f : PxeBlk → EngCmd → List Byte → List Byte → PxeRes) : Dev :=
  let p := pxe d n
  match p.cur, p.queue with
  | none, c :: rest =>
    let b := pxeBlk c.bytes
    if b.op != op then d
    else
      let done (d : Dev) (w : List Byte) : Dev := pxePop d n rest (some c) (some w)
      let fails (d : Dev) (cause h : Nat) : Dev := engTier (pxePop d n rest none none) c cause h
      let span := srcSpan b frames
      let ws := engWaits d c.scope b.src b.srcOff span
        ++ (if aux.2.2 = 0 then [] else engWaits d c.scope aux.1 aux.2.1 aux.2.2)
      if !pxeOk b then done d (pxeWord 1 0 0)
      else if !ws.isEmpty then pxeWaits d n ws
      else
        match engLines d c.scope b.src b.srcOff span,
            (if aux.2.2 = 0 then SrcRead.ok [] else engLines d c.scope aux.1 aux.2.1 aux.2.2) with
        | .held, _ => d
        | _, .held => d
        | .range h, _ => fails d 4 h
        | .poison h, _ => fails d 3 h
        | .bad, _ => done d (pxeWord 2 0 0)
        | .ok _, .range h => fails d 4 h
        | .ok _, .poison h => fails d 3 h
        | .ok _, .bad => done d (pxeWord 2 0 0)
        | .ok bs, .ok xs =>
          let d := engTouch d c.scope b.src b.srcOff span
          let d := if aux.2.2 = 0 then d else engTouch d c.scope aux.1 aux.2.1 aux.2.2
          match f b c bs xs with
          | .malformed => done d (pxeWord 1 0 0)
          | .done out bad pix =>
            if b.toLb then
              let lb := (lbAt (tile d c.tile).core (b.dstOff % 2 ^ 21)).getD c.lb
              done (addXfer d c.scope c.tile lb c.gen (some (b.dstOff % 2 ^ 21)) out [] 0) (pxeWord 0 bad pix)
            else
              let ws := engWaits d c.scope b.dst b.dstOff out.length
              if !ws.isEmpty then pxeWaits d n ws
              else if engHeld d c.scope b.dst b.dstOff out.length then d
              else
                match engStoreLines d c.scope b.dst b.dstOff out with
                | .ok d => done d (pxeWord 0 bad pix)
                | .range h => fails d 4 h
                | .bad => done d (pxeWord 1 0 0)
  | _, _ => d

/-! ### Samples -/

/-- Code of channel `c` of the pixel in row `y`, column `x`. DESIGN CHOICE (notes/assumptions/16.md). -/
def srcCode (p : PxeBlk) (bs : List Byte) (y x c : Nat) : Nat :=
  let s := fmtBits p.fin
  let b := (x * p.cin + c) * s
  fld (leAt bs (y * p.pitch + b / 8) 5) (b % 8) s

/-- The same sample as a number. -/
def srcNum (p : PxeBlk) (bs : List Byte) (y x c : Nat) : Num := decFmt p.fin (srcCode p bs y x c)

/-- Rounding of element `i` of a command's output by the RM of its tile (R134). -/
def engRound (c : EngCmd) (i : Nat) : RMode :=
  match c.rm with
  | 1 => .rtz
  | 2 => .stoch (Config.pixelRnd c.bytes i % 2 ^ 16)
  | _ => .rne

/-- A number in the output format. A value beyond the format saturates. DESIGN CHOICE (notes/assumptions/55.md). -/
def outCode (f : Nat) (m : RMode) (x : Num) : Nat := (convert f m true (.fin false 1 1) x).code

/-- Values packed in the output format, rounded as `m` says for each element. -/
def packOut (f : Nat) (m : Nat → RMode) (xs : List Num) : List Byte :=
  packLanes (fmtBits f) (((List.range xs.length).zip xs).map (fun x => outCode f (m x.1) x.2))

/-- Values that are not finite. -/
def badNums (xs : List Num) : Nat := countIf xs (fun x => match x with
  | .fin _ _ _ => false
  | _ => true)

/-! ### The operations (Table 5-11) -/

/-- COLOUR_CONVERSION: the interpolation at picture edges and the conversion coefficients are not stated, so the values are
free, a function of the command and its source (R17; DESIGN CHOICE, notes/assumptions/17.md). -/
def execColourConversion (n : Fin 16) (s : State) : Out3 :=
  lift s (fun d => pxeRun d n.val 1 1 (0, 0, 0) (fun p c bs _ =>
    let k := p.w * p.h * p.cout
    let codes := (List.range k).map (fun i => Config.pixelFree 1 c.bytes [] bs i % 2 ^ fmtBits p.fout)
    .done (packLanes (fmtBits p.fout) codes) (badNums (codes.map (decFmt p.fout))) (p.w * p.h)))

/-- Channel that a Bayer pattern (0 RGGB, 1 GRBG, 2 GBRG, 3 BGGR) takes at a pixel. -/
def bayerChannel (pat y x : Nat) : Nat :=
  let row := match pat with
    | 0 => [0, 1, 1, 2]
    | 1 => [1, 0, 2, 1]
    | 2 => [1, 2, 0, 1]
    | _ => [2, 1, 1, 0]
  row.getD (2 * (y % 2) + x % 2) 0

/-- REMOSAIC to a pattern at a depth of 8 to 16 bits, from samples of one or two bytes. -/
def execRemosaic (n : Fin 16) (pat : Fin 4) (depth : Fin 17) (s : State) : Out3 :=
  lift s (fun d => pxeRun d n.val 2 1 (0, 0, 0) (fun p _ bs _ =>
    if p.cin != 3 || depth.val < 8 then .malformed
    else
      let z := if depth.val = 8 then 1 else 2
      let px (y x : Nat) : List Byte :=
        leBytes z (leAt bs (y * p.pitch + (3 * x + bayerChannel pat.val y x) * z) z % 2 ^ depth.val)
      .done ((List.range (p.h * p.w)).map (fun i => px (i / p.w) (i % p.w))).flatten 0 (p.w * p.h)))

/-- Elements of a token row: frame, row, column, channel, each within the one before. -/
def tokenElems (p c : Nat) (t : Nat) : List (Nat × Nat × Nat × Nat) :=
  (List.range (t * p * p * c)).map (fun i => (i / (c * p * p), i / (c * p) % p, i / c % p, i % c))

/-- Limits of OP 0x03 and 0x04. -/
def patchOk (p c t : Nat) : Bool := (p == 8 || p == 16) && decide (1 ≤ t) && decide (t ≤ 4) && decide (1 ≤ c) && decide (c ≤ 4)

/-- PATCHIFY: `p` × `p` pixels of `t` frames into each token row. -/
def execPatchify (n : Fin 16) (p : Fin 17) (t : Fin 5) (s : State) : Out3 :=
  lift s (fun d => pxeRun d n.val 3 t.val (0, 0, 0) (fun b c bs _ =>
    if !patchOk p.val b.cin t.val || b.w % p.val != 0 || b.h % p.val != 0 then .malformed
    else
      let cols := b.w / p.val
      let tok (k : Nat) : List Num := (tokenElems p.val b.cin t.val).map (fun e =>
        srcNum b bs (e.1 * b.h + k / cols * p.val + e.2.1) (k % cols * p.val + e.2.2.1) e.2.2.2)
      let xs := ((List.range (cols * (b.h / p.val))).map tok).flatten
      .done (packOut b.fout (engRound c) xs) (badNums xs) (b.w * b.h * t.val)))

/-- UNPATCHIFY to `oh` × `ow` pixels: the source rows are tokens of a picture of `h` × `w`. -/
def execUnpatchify (n : Fin 16) (p : Fin 17) (t : Fin 5) (oh ow : Nat) (s : State) : Out3 :=
  lift s (fun d => pxeRun d n.val 4 1 (0, 0, 0) (fun b cmd bs _ =>
    if !patchOk p.val b.cout t.val || ow = 0 || oh = 0 then .malformed
    else
      let cols := ceilDiv ow p.val
      let z := fmtBits b.fin
      let elem (f y x c : Nat) : Num :=
        let k := y / p.val * cols + x / p.val
        let i := ((f * p.val + y % p.val) * p.val + x % p.val) * b.cout + c
        decFmt b.fin (fld (leAt bs (k * b.pitch + i * z / 8) 5) (i * z % 8) z)
      let xs := (List.range (t.val * oh * ow * b.cout)).map (fun i =>
        elem (i / (b.cout * ow * oh)) (i / (b.cout * ow) % oh) (i / b.cout % ow) (i % b.cout))
      .done (packOut b.fout (engRound cmd) xs) (badNums xs) (oh * ow * t.val)))

/-- Whether numbers are multiples of one power of two so large that every partial sum, in any order, is an FP32 number. -/
def sumExact (xs : List Num) : Bool :=
  let fr (x : Num) : Nat × Nat := match x with
    | .fin _ n dn => (n, dn)
    | _ => (0, 1)
  let den := (xs.map (fun x => (fr x).2)).foldl Nat.lcm 1
  let ns := xs.map (fun x => (fr x).1 * (den / (fr x).2))
  let unit := Nat.gcd (ns.foldl Nat.gcd 0) (2 ^ 300)
  decide (ns.sum ≤ 2 ^ 24 * unit) && decide (ns.sum < 2 ^ 127 * den) && decide (den ≤ unit * 2 ^ 149)

/-- FP32 accumulation of products (OP 0x05): NaN and infinities as in IEEE 754, the exact sum where no order of accumulation can change it, and
else free. DESIGN CHOICE (notes/assumptions/17.md). -/
def accumulate (c : EngCmd) (xs : List Num) : Num :=
  let pos := xs.any (fun x => x == .inf false)
  let neg := xs.any (fun x => x == .inf true)
  if xs.any (fun x => x == .nan) || (pos && neg) then .nan
  else if pos then .inf false
  else if neg then .inf true
  else if sumExact xs then xs.foldl numAdd (.fin false 0 1)
  else dec32 (Config.pixelSum c.bytes (xs.map (fun x => (rnd32 x).toNat)))

/-- VAE_CONVOLUTION to `oh` × `ow` pixels, one kernel per output channel, rows, columns and input channels within it; the kernel's first place
lies `py` rows above and `px` columns left of the source, and zeros stand outside (R116).
DESIGN CHOICE (notes/assumptions/16.md). -/
def execVaeConvolution (n : Fin 16) (kh kw : Fin 8) (conv : ConvForm) (oh ow : Nat) (s : State) : Out3 :=
  lift s (fun d =>
    let b := ((pxe d n.val).queue.head?.map (fun c => pxeBlk c.bytes)).getD (pxeBlk [])
    let z := fmtBits conv.wf.val
    pxeRun d n.val 5 1 (conv.wh.toNat, conv.woff, ceilDiv (b.cout * kh.val * kw.val * b.cin * z) 8) (fun b cmd bs ws =>
      if kh.val = 0 || kw.val = 0 || conv.stride.val = 0 || 32 < b.cin || 32 < b.cout || (4 < b.cin && 4 < b.cout)
          || !([1, 3, 4, 5].contains conv.wf.val) then .malformed
      else
        let prod (i j co q : Nat) : Num :=
          let ky := q / (kw.val * b.cin)
          let kx := q / b.cin % kw.val
          let y := i * conv.stride.val + ky
          let x := j * conv.stride.val + kx
          let w := decFmt conv.wf.val (elemAt ws z (co * kh.val * kw.val * b.cin + q))
          if y < conv.py.val || b.h + conv.py.val ≤ y || x < conv.px.val || b.w + conv.px.val ≤ x then numMul (.fin false 0 1) w
          else numMul (srcNum b bs (y - conv.py.val) (x - conv.px.val) (q % b.cin)) w
        let xs := (List.range (oh * ow * b.cout)).map (fun e =>
          accumulate cmd ((List.range (kh.val * kw.val * b.cin)).map (prod (e / (b.cout * ow)) (e / b.cout % ow) (e % b.cout))))
        .done (packOut b.fout (engRound cmd) xs) (badNums xs) (oh * ow)))

/-- Mean of numbers, rounded by the caller. DESIGN CHOICE (notes/assumptions/17.md). -/
def meanNum (xs : List Num) : Num :=
  numDiv (xs.tail.foldl numAdd (xs.headD (.fin false 0 1))) (.fin false (Nat.max xs.length 1) 1)

/-- Maximum under the rules of R138. -/
def maxNum (f : Nat) (xs : List Nat) : Num := dec32 ((xs.map (widen f)).tail.foldl fmax ((xs.map (widen f)).headD 0))

/-- PXE_POOLING: windows of `k` × `k` at `stride`; only the elements inside the source count (R116). -/
def execPxePooling (n : Fin 16) (avg : Bool) (k stride : Fin 9) (oh ow : Nat) (s : State) : Out3 :=
  lift s (fun d => pxeRun d n.val 6 1 (0, 0, 0) (fun b cmd bs _ =>
    if k.val < 2 || stride.val = 0 || b.cin != b.cout then .malformed
    else
      let win (i j c : Nat) : List Nat :=
        ((List.range (k.val * k.val)).map (fun q => (i * stride.val + q / k.val, j * stride.val + q % k.val))).filterMap (fun q =>
          if q.1 < b.h && q.2 < b.w then some (srcCode b bs q.1 q.2 c) else none)
      let val (i j c : Nat) : Num :=
        if avg then meanNum ((win i j c).map (decFmt b.fin)) else maxNum b.fin (win i j c)
      let xs := (List.range (oh * ow * b.cin)).map (fun q => val (q / (b.cin * ow)) (q / b.cin % ow) (q % b.cin))
      .done (packOut b.fout (engRound cmd) xs) (badNums xs) (oh * ow)))

/-! ### Crop and resize (R117) -/

/-- A finite number as a rational. -/
def ratOf (x : Num) : Option Q :=
  match x with
  | .fin neg n dn => some (finQ neg n dn)
  | _ => none

/-- Sample coordinate `i` of `m` between two box edges: a + (i + 1/2)(b − a)/m − 1/2, clamped to the picture. -/
def sampleAt (a b : Q) (i m size : Nat) : Q :=
  let q := qAdd (qAdd a (qMul ⟨2 * i + 1, 2 * m⟩ (qAdd b (qNeg a)))) ⟨-1, 2⟩
  if qLt q ⟨0, 1⟩ then ⟨0, 1⟩ else if qLt ⟨(size : Int) - 1, 1⟩ q then ⟨(size : Int) - 1, 1⟩ else q

/-- Bilinear interpolation at a clamped coordinate, exact and rounded to FP32. DESIGN CHOICE (notes/assumptions/17.md). -/
def bilinear (p : PxeBlk) (bs : List Byte) (y x : Q) (c : Nat) : Num :=
  let y0 := (qFloor y).toNat
  let x0 := (qFloor x).toNat
  let y1 := Nat.min (y0 + 1) (p.h - 1)
  let x1 := Nat.min (x0 + 1) (p.w - 1)
  let fy := qAdd y ⟨-(y0 : Int), 1⟩
  let fx := qAdd x ⟨-(x0 : Int), 1⟩
  let mix (f : Q) (a b : Num) : Num :=
    if f.num = 0 then a else numAdd (numMul (numOfQ (qAdd ⟨1, 1⟩ (qNeg f)) false) a) (numMul (numOfQ f false) b)
  dec32 (rnd32 (mix fy (mix fx (srcNum p bs y0 x0 c) (srcNum p bs y0 x1 c))
    (mix fx (srcNum p bs y1 x0 c) (srcNum p bs y1 x1 c))))

/-- The pixels of one box; none where a coordinate is not finite. -/
def cropBox (p : PxeBlk) (bs box : List Byte) (oh ow : Nat) : Option (List Num) :=
  let w (k : Nat) : Option Q := ratOf (dec32 (wordAt box (4 * k)))
  match w 0, w 1, w 2, w 3 with
  | some y0, some x0, some y1, some x1 =>
    some ((List.range (oh * ow * p.cin)).map (fun q =>
      bilinear p bs (sampleAt y0 y1 (q / (p.cin * ow)) oh p.h) (sampleAt x0 x1 (q / p.cin % ow) ow p.w) (q % p.cin)))
  | _, _, _, _ => none

/-- CROP_AND_RESIZE of the boxes at an offset of object `bh`, each to `oh` × `ow`. The permit of R118 was checked as the
command reached the engine. -/
def execCropAndResize (n : Fin 16) (bh : BitVec 16) (boff : Nat) (boxes : Fin 4097) (oh ow : Fin 513) (s : State) : Out3 :=
  lift s (fun d => pxeRun d n.val 7 1 (bh.toNat, boff, 16 * boxes.val) (fun b _ bs bx =>
    if boxes.val = 0 || oh.val = 0 || ow.val = 0 || b.cin != b.cout then .malformed
    else
      let rs := (List.range boxes.val).map (fun k => cropBox b bs (slice bx (16 * k) 16) oh.val ow.val)
      let zeros := List.replicate (oh.val * ow.val * b.cin) (Num.fin false 0 1)
      .done (packOut b.fout (fun _ => .rne) (rs.map (fun r => r.getD zeros)).flatten) (countIf rs (fun r => r.isNone))
        (boxes.val * oh.val * ow.val)))

/-- PXE_COMPLETION: the executed command's word is written to the buffer its slot named. -/
def execPxeCompletion (n : Fin 16) (s : State) : Out3 :=
  lift s (fun d =>
    let p := pxe d n.val
    match p.cur, p.word with
    | some c, some w => engineWord (setPxe d n.val { p with cur := none, word := none }) c w
    | _, _ => d)

end Sys2Proof.Machine
end

