-- ==== Sys2Proof/Machine/Tier.lean ====
section
/-! DEFINITION. The tier manager's commands and events (R209 to R221): fills, write-backs, prefetch, time-outs and the owner's
commands. -/

namespace Sys2Proof.Machine

/-! ### Fills and write-backs -/

/-- PAGE_FILL_DONE: the page's bytes from T2 are in T1 and it is mapped (R204). -/
def fillDone (d : Dev) (h p : Nat) (data : List Byte) : Dev :=
  match obj? d h with
  | none => d
  | some o =>
    let g := pageOf o p
    if g.st != .filling then d
    else
      let a := t1Key h (p * pageSize)
      let d := setObj d h { o with pages := mset o.pages p { g with st := .mapped, dirty := 0, last := d.tmg.clock + 1 } }
      let d := { d with tmg := { d.tmg with clock := d.tmg.clock + 1
                                            mem := memWrite (memZero d.tmg.mem a pageSize) a (data.take pageSize) } }
      pageReady (poolMove d 0 1 (-1)) (pageKey h p)

/-- PAGE_FILL_DONE. -/
def execPageFillDone (h : BitVec 16) (p : Nat) (data : List Byte) (s : State) : Out3 :=
  lift s (fun d => fillDone d h.toNat p data)

/-- The running command no longer waits for a page. -/
def cmdPast (d : Dev) (k : Nat) : Dev := { d with tmg := { d.tmg with cmdPages := d.tmg.cmdPages.filter (· != k) } }

/-- A page on a channel that has been retired. -/
def onRetired (d : Dev) (p : Page) : Bool := (mget d.hbm.stk (p.ch / 16) Stack.reset).retired.contains (p.ch % 16)

/-- Whether a page that its write-back leaves clean goes: an eviction with nothing pinning it, or a page on a retired
channel, where no pin holds it (R220). -/
def goesFree (d : Dev) (o : Obj) (p : Page) : Bool := onRetired d p || (p.evicting && !p.pinned && !o.pin)

/-- WRITEBACK_DONE: T2 has acknowledged the last sub-page. A page of an eviction that has been written meanwhile is written back again, whether the
eviction still stands or an access has abandoned it (R211, R219). -/
def wbDone (d : Dev) (h i : Nat) : Dev :=
  match obj? d h with
  | none => d
  | some o =>
    let p := pageOf o i
    let k := pageKey h i
    if p.st != .writeback then d
    else if p.dirty = 0 && goesFree d o p then
      feedWanting (cmdPast (poolMove (dropPage d h i) 1 0 (-1)) k)
    else
      let d := poolMove (setPage d h i { p with st := .mapped, wbMask := 0 }) 0 1 (-1)
      if p.dirty != 0 && (p.again || onRetired d p || d.tmg.cmdPages.contains k) then startWb d h i p.evicting p.again
      else cmdPast d k

/-- WRITEBACK_DONE. -/
def execWritebackDone (h : BitVec 16) (p : Nat) (s : State) : Out3 := lift s (fun d => wbDone d h.toNat p)

/-- WRITEBACK_FAIL: the page stays mapped, dirty and pinned, and a class 2 record names the object (R213). On a channel
being retired it is handled as a dirty page that cannot be read (R220). -/
def wbFail (d : Dev) (h i : Nat) : Dev :=
  match obj? d h with
  | none => d
  | some o =>
    let p := pageOf o i
    let k := pageKey h i
    if p.st != .writeback then d
    else
      let gone := onRetired d p
      let err := d.tmg.cmdErr || d.tmg.cmdPages.contains k
      let d := record d { fspec 2 0x0B 0x0F with unit := 0, detail := h + 2 * 2 ^ 16 }
      let d := { d with tmg := { d.tmg with cmdErr := err } }
      let d :=
        if gone then
          poolMove (setPage d h i { p with st := .unmapped, poisoned := true, dirty := 0, wbMask := 0, evicting := false, again := false }) 1 0 (-1)
        else
          poolMove (setPage d h i { p with st := .mapped, dirty := p.dirty ||| p.wbMask, wbMask := 0, pinned := true,
                                           evicting := false, again := false }) 0 1 (-1)
      cmdPast d k

/-- WRITEBACK_FAIL. -/
def execWritebackFail (h : BitVec 16) (p : Nat) (s : State) : Out3 := lift s (fun d => wbFail d h.toNat p)

/-! ### Prefetch (R214 to R216) -/

/-- An estimate given a value; it saturates (R215). -/
def setEst (d : Dev) (c v : Nat) : Dev :=
  let v := sat 20 v
  { d with tmg := if c = 0 then { d.tmg with est0 := v } else if c = 1 then { d.tmg with est1 := v } else { d.tmg with est2 := v } }

/-- An entry marked as issued at the scope's position. -/
def pfMark (x : Scope) (i : Nat) : Scope :=
  { x with prefetch := listUpd x.prefetch i (fun e => { e with issued := true, issuedAt := x.pos }) }

/-- A prefetch entry that is due is issued (R214, R216). An entry of kind 0 whose object has no pages to fill is issued and complete at once. -/
def prefetchIssue (d : Dev) (si i : Nat) : Dev :=
  let x := scope d si
  match x.prefetch[i]? with
  | none => d
  | some e =>
    if !x.jobValid || x.jobEnded || !pfReady d si e || pfBehind d si i e then d
    else
      let hd := rebase d si e.handle
      let d := updScope d si (fun x => pfMark x i)
      match objOf d hd with
      | none => endTier d si 4 hd
      | some (h, o) =>
        let off := (hd - h) * 2 ^ 32 + e.off
        if e.kind = 0 then
          if o.cls != .backed then d
          else if o.npages * pageSize < off + e.len then endTier d si 4 hd
          else
            let ms := missing h o off e.len
            if ms.isEmpty then d
            else requestPages (updScope d si (fun x => { x with moves := x.moves ++ [⟨i, 1, ms, none, hd, some e.need, false⟩] })) ms
        else
          let c := pfClass h o off e
          let d := updScope d si (fun x => { x with moves := x.moves ++ [⟨i, c, [], some x.nextXfer, hd, some e.need, false⟩] })
          scopeRead d si x.pos (tileGlobal x.kind e.tile) e.lb none hd e.off e.len none

/-- PREFETCH_ISSUE. -/
def execPrefetchIssue (sc : Fin 2) (i : Nat) (s : State) : Out3 := lift s (fun d => prefetchIssue d sc.val i)

/-- The estimate after a move of `n` cycles (R215). -/
def estNext (est n shift : Nat) : Nat :=
  if est < n then est + (n - est) / 2 ^ shift else est - (est - n) / 2 ^ (shift + 2)

/-- A move that has landed or mapped completes after `n` cycles; that of a job that has ended too (R216). -/
def prefetchComplete (d : Dev) (si i n : Nat) : Dev :=
  let x := scope d si
  match x.moves.find? (fun m => m.idx == i && m.wait.isEmpty && (match m.xfer with
      | some id => !x.xfers.any (fun t => t.id == id)
      | none => true)) with
  | none => d
  | some m =>
    let d := setScope d si { x with moves := x.moves.erase m }
    let late := m.late || (match m.need with
      | some need => decide (need < x.pos)
      | none => false)
    let d := if late then { d with tmg := { d.tmg with late := satAdd 32 d.tmg.late 1 } } else d
    if bit (leadCtrl d) 31 then d else setEst d m.cls (estNext (estOf d m.cls) n (fld (leadCtrl d) 26 2))

/-- PREFETCH_COMPLETE. -/
def execPrefetchComplete (sc : Fin 2) (i n : Nat) (s : State) : Out3 := lift s (fun d => prefetchComplete d sc.val i n)

/-! ### Late and failed tiers (R217, R218) -/

/-- Whether a page waits for a FREE page. -/
def pageWants (d : Dev) (k : Nat) : Bool :=
  match obj? d (keyPage k).1 with
  | some o => (pageOf o (keyPage k).2).st == .wanting
  | none => false

/-- The engines' front commands of a scope's job that wait for pages, each with the first page it lacks. -/
def engineFills (d : Dev) (si : Nat) : List (EngCmd × Nat) :=
  let x := scope d si
  let of (pages : List Nat) (queue : List EngCmd) : Option (EngCmd × Nat) :=
    match queue, pages.find? (fun k => match obj? d (keyPage k).1 with
        | some o => !(missing (keyPage k).1 o ((keyPage k).2 * pageSize) pageSize).isEmpty
        | none => false) with
    | c :: _, some k => if x.jobValid && c.scope == si && c.slot == x.slot then some (c, k) else none
    | _, _ => none
  d.pxe.filterMap (fun p => of p.2.pages p.2.queue) ++ d.vce.filterMap (fun v => of v.2.pages v.2.queue)

/-- T2_TIMEOUT: a slip has waited TMG_T2_TIMEOUT on a T2, peer or fill move, or a fill has waited as long for a page. -/
def t2Timeout (d : Dev) (si : Nat) : Dev :=
  let x := scope d si
  let slow (t : Xfer) : Bool := t.owed != 0 && genLive x t.gen
  match x.xfers.find? (fun t => slow t && t.wait.any (pageWants d)) with
  | some t => endTier d si 7 t.used
  | none =>
    match d.tmg.waiters.findSome? (fun w => match waiterBy w.2 with
        | some i => if w.1.any (pageWants d) && i.scope == si && issuerLive d i then some i.used else none
        | none => none) with
    | some h => endTier d si 7 h
    | none =>
      match (engineFills d si).find? (fun e => pageWants d e.2) with
      | some e => endTier d si 7 (keyPage e.2).1
      | none =>
        if x.phase != .slip then d
        else
          let open_ (g lb : Nat) : Bool := x.reps.any (fun r => r.tile == g && r.lb == lb && r.seen.isNone)
          match x.xfers.find? (fun t => slow t && open_ t.tile t.lb) with
          | some t => endTier d si 1 t.used
          | none =>
            match (engineFills d si).find? (fun e => open_ e.1.tile e.1.lb) with
            | some e => endTier d si 1 (keyPage e.2).1
            | none => d

/-- T2_TIMEOUT. -/
def execT2Timeout (sc : Fin 2) (s : State) : Out3 := lift s (fun d => t2Timeout d sc.val)

/-- TIER_FAIL: a move fails (T2_ERROR), or poisoned data arrives (POISON). -/
def tierFail (d : Dev) (w : TierWhat) (poison : Bool) : Dev :=
  let cause := if poison then 3 else 2
  match w with
  | .fill h p => fillFails d h p cause
  | .xfer sc id =>
    match (scope d sc.val).xfers.find? (fun t => t.id == id) with
    | none => d
    | some t =>
      let x := scope d sc.val
      let d := setScope d sc.val { x with xfers := x.xfers.filter (fun u => u.id != id) }
      let d := if poison then readPoison d t else d
      if genLive x t.gen then endTier d sc.val cause t.used else d
  | .access sc h => endTier d sc.val cause h

/-- TIER_FAIL. -/
def execTierFail (w : TierWhat) (poison : Bool) (s : State) : Out3 := lift s (fun d => tierFail d w poison)

/-! ### Commands (R221) -/

/-- An object that a queued or running job names, as image or result (R219). DEDUCED (notes/assumptions/30.md). -/
def namedByJob (d : Dev) (h : Nat) (o : Obj) : Bool :=
  d.sched.slots.any (fun p => !p.2.ended && (imageIn h o p.2.desc.image || (p.2.desc.result != 0 && imageIn h o p.2.desc.result)))

/-- Mapped pages of an object. -/
def mappedCount (o : Obj) : Nat :=
  if o.cls = .resident then o.npages - countIf o.pages (fun p => p.2.st != .mapped)
  else countIf o.pages (fun p => p.2.st == .mapped)

/-- The class that TMG_ARG_CLASS names. -/
def argClass (w : Nat) : ObjClass :=
  match fld w 30 2 with
  | 0 => .resident
  | 1 => .backed
  | 2 => .far
  | _ => .peer

/-- Whether the run of handles from `h` meets an allocated one or passes 0xFFFF (R200). -/
def runTaken (d : Dev) (h npages : Nat) : Bool :=
  decide (0x10000 < h + handleRun npages)
    || d.tmg.objs.any (fun p => decide (p.1 < h + handleRun npages) && decide (h < p.1 + handleRun p.2.npages))

/-- CREATE with the argument registers: the result, and the block after it. -/
def tmgCreate (d : Dev) (h : Nat) : Nat × Dev :=
  let np := fld (regGet d 0x20004) 0 25
  let cw := regGet d 0x20008
  let lo := regGet d 0x2000C
  let hi := regGet d 0x20010
  let cls := argClass cw
  let badBase := match cls with
    | .resident => false
    | .peer => fld lo 18 14 != 0 || fld hi 16 16 != 0
    | _ => fld lo 0 16 != 0
  if h = 0 || np = 0 || 16777216 < np || badBase then (1, d)
  else if runTaken d h np then (2, d)
  else if cls = .resident && decide (d.tmg.poolFree < np) then (4, d)
  else
    let o : Obj :=
      { npages := np, cls := cls, rdonly := bit cw 29, pin := bit cw 28, stk := fld cw 0 12, base := lo + hi * 2 ^ 32
        devid := fld lo 0 18, rhandle := fld hi 0 16, chans := chansOf d (fld cw 0 12), lastCh := none, pages := [] }
    if cls = .resident then
      let last := if o.chans.isEmpty then none else some (o.chans.getD ((np - 1) % o.chans.length) 0)
      (0, reclaimAll (poolMove (setObj d h { o with lastCh := last }) (-(np : Int)) np 0))
    else (0, setObj d h o)

/-- An object leaves no validated image behind (R98). -/
def dropImages (d : Dev) (h : Nat) (o : Obj) : Dev :=
  { d with imgs := { d.imgs with valid := d.imgs.valid.filter (fun i => !imageIn h o i)
                                 dirty := d.imgs.dirty || (d.imgs.busy && imageIn h o d.imgs.cur) } }

/-- DESTROY: fills under way fail their requesters (they name no object any more), every page is freed. DEDUCED (notes/assumptions/30.md).
-/
def tmgDestroy (d : Dev) (h : Nat) (o : Obj) : Dev :=
  let d := (o.pages.filter (fun p => p.2.st == .filling || p.2.st == .wanting)).foldl (fun d p => fillFails d h p.1 4) d
  match obj? d h with
  | none => d
  | some o =>
    let wb := countIf o.pages (fun p => p.2.st == .writeback)
    let m := mappedCount o - (if o.cls = .resident then wb else 0)
    let d := poolMove (dropImages d h o) (m + wb) (-(m : Int)) (-(wb : Int))
    { d with tmg := { d.tmg with objs := mdel d.tmg.objs h, mem := memZero d.tmg.mem (t1Key h 0) (o.npages * pageSize) } }

/-- Every dirty page of an object is written back; the command waits for those under way. DEDUCED (notes/assumptions/30.md). -/
def tmgFlush (d : Dev) (h : Nat) (o : Obj) (evict : Bool) : Dev :=
  let d := o.pages.foldl (fun d p =>
    if p.2.st == .mapped && p.2.dirty != 0 then startWb d h p.1 evict evict
    else if p.2.st == .writeback && evict then setPage d h p.1 { p.2 with evicting := true, again := true }
    else d) d
  match obj? d h with
  | none => d
  | some o => { d with tmg := { d.tmg with cmdPages := (o.pages.filter (fun p => p.2.st == .writeback)).map (fun p => pageKey h p.1) } }

/-- Mapped pages that meet a test are freed. -/
def freePages (d : Dev) (h : Nat) (o : Obj) (ok : Page → Bool) : Dev :=
  o.pages.foldl (fun d p => if p.2.st == .mapped && ok p.2 then poolMove (dropPage d h p.1) 1 (-1) 0 else d) d

/-- What a command does when it is accepted: its result as far as known, and the pages it waits for. -/
def tmgRun (d : Dev) (op h : Nat) : Nat × Dev :=
  if op = 1 then tmgCreate d h
  else if 7 ≤ op then (1, d)
  else
    match obj? d h with
    | none => (3, d)
    | some o =>
      let busy := namedByJob d h o
      if op = 2 then (if busy then (5, d) else (0, tmgDestroy d h o))
      else if o.cls != .backed then (1, d)
      else
        match op with
        | 3 => (0, tmgFlush d h o false)
        | 4 =>
          if busy then (5, d)
          else (0, feedWanting (tmgFlush (freePages (dropImages d h o) h o (fun p => p.dirty == 0 && !p.pinned && !o.pin)) h o true))
        | 5 =>
          if busy then (5, d)
          else
            let d := freePages (dropImages d h o) h o (fun _ => true)
            let d := o.pages.foldl (fun d p =>
              if p.2.st == .writeback then setPage d h p.1 { p.2 with dirty := 0, evicting := true, again := false, pinned := false } else d) d
            (0, feedWanting d)
        | _ =>
          let ms := (List.range o.npages).filter (fun i => (pageOf o i).st == .unmapped)
          if d.tmg.poolFree < ms.length then (4, d)
          else
            let d := { d with tmg := { d.tmg with cmdPages := missing h o 0 (o.npages * pageSize) } }
            (0, requestPages d (ms.map (pageKey h)))

/-- A write of TMG_CMD (R221). -/
def tmgCommand (d : Dev) (op h : Nat) : Dev :=
  if d.tmg.busy then { d with tmg := { d.tmg with dropped := true } }
  else if op = 0 then regPut d 0x20000 h
  else
    let d := regPut { d with tmg := { d.tmg with cmdPages := [], cmdErr := false } } 0x20000 (put op 28 4 + put h 0 16)
    let r := tmgRun d op h
    { r.2 with tmg := { r.2.tmg with busy := true, cmdRes := r.1, statHandle := h } }

/-- TMG_CMD_DONE: nothing the command waits for is left. -/
def tmgDone (d : Dev) : Dev :=
  if !d.tmg.busy || !d.tmg.cmdPages.isEmpty then d
  else
    { d with tmg := { d.tmg with busy := false, result := if d.tmg.cmdRes = 0 && d.tmg.cmdErr then 6 else d.tmg.cmdRes } }

/-- CREATE. -/
def execCreate (src : Iface) (h : BitVec 16) (s : State) : Out3 :=
  lift s (fun d => ownerOnly d src (fun d => tmgCommand d 1 h.toNat))

/-- DESTROY. -/
def execDestroy (src : Iface) (h : BitVec 16) (s : State) : Out3 :=
  lift s (fun d => ownerOnly d src (fun d => tmgCommand d 2 h.toNat))

/-- FLUSH. -/
def execFlush (src : Iface) (h : BitVec 16) (s : State) : Out3 :=
  lift s (fun d => ownerOnly d src (fun d => tmgCommand d 3 h.toNat))

/-- EVICT. -/
def execEvict (src : Iface) (h : BitVec 16) (s : State) : Out3 :=
  lift s (fun d => ownerOnly d src (fun d => tmgCommand d 4 h.toNat))

/-- DISCARD. -/
def execDiscard (src : Iface) (h : BitVec 16) (s : State) : Out3 :=
  lift s (fun d => ownerOnly d src (fun d => tmgCommand d 5 h.toNat))

/-- FETCH. -/
def execFetch (src : Iface) (h : BitVec 16) (s : State) : Out3 :=
  lift s (fun d => ownerOnly d src (fun d => tmgCommand d 6 h.toNat))

/-- TMG_CMD_RESERVED: OP 7 to 15. -/
def execTmgCmdReserved (src : Iface) (k : Fin 9) (h : BitVec 16) (s : State) : Out3 :=
  lift s (fun d => ownerOnly d src (fun d => tmgCommand d (7 + k.val) h.toNat))

/-- TMG_CMD_DONE. -/
def execTmgCmdDone (s : State) : Out3 := lift s tmgDone

end Sys2Proof.Machine
end

