-- ==== Sys2Proof/Machine/Stacks.lean ====
section
/-! DEFINITION. The commands of the stacked memory (chapter 11): temperature readings and refresh (R228 to R234), scrub (R225), retirement of channels (R220, R226, R227), memory-side adds and their watermarks (R235 to R238). -/

namespace Sys2Proof.Machine

/-- HBM_TEMP_READ. -/
def execHbmTempRead (n : Fin 12) (t : Byte) (s : State) : Out3 :=
  lift s (fun d =>
    let st := stack d n.val
    let v := t.toNat
    classCheck (setStack d n.val { st with temp := v, peak := Nat.max st.peak v, band := bandNext st.band v (hystOf d n.val) }) n.val)

/-! ### Refresh (R229 to R231) -/

/-- REFRESH_ACCRUAL. -/
def execRefreshAccrual (n : Fin 12) (s : State) : Out3 :=
  lift s (fun d =>
    let st := stack d n.val
    if !st.present then d
    else
      let st := refSync d.clk.localNs st
      refStart (setStack d n.val { st with debt := Nat.min 8 (st.debt + 1) }) n.val)

/-- REFRESH_RUN_END, at the end of the run's last round: a window that waited opens, and the accesses that waited go on. -/
def execRefreshRunEnd (n : Fin 12) (s : State) : Out3 :=
  lift s (fun d =>
    let st := stack d n.val
    if st.runLeft = 0 then d
    else
      let d := untilLocal d (runEnd st)
      let st := { refSync d.clk.localNs st with runLeft := 0, runDone := 0 }
      let beat := match govScope d n.val with
        | some si => (scope d si).beat
        | none => 0
      let st := if beat < st.winPend then refOpen d st (st.winPend - beat) st.winPend else { st with winPend := 0 }
      settleT1 (refStart (setStack d n.val st) n.val))

/-! ### Errors and retirement (R225 to R227, R220) -/

/-- Lines of a channel: 36,864 pages of 1,024 lines. -/
def channelLines : Nat := 36864 * 1024

/-- SCRUB_READ of the channel's next line: what R224 found (0 nothing, 1 corrected and rewritten, 2 uncorrectable, 3 corrected
by the stack's on-die ECC). -/
def execScrubRead (n : Fin 12) (c : Fin 16) (res : Fin 4) (s : State) : Out3 :=
  lift s (fun d =>
    let st := stack d n.val
    if !st.present || st.runLeft != 0 || st.retired.contains c.val then d
    else
      let line := mget st.scrub c.val 0
      let d := setStack d n.val { st with scrub := mset st.scrub c.val ((line + 1) % channelLines) }
      match res.val with
      | 1 => corrected d n.val c.val line
      | 2 => uncorrected d n.val c.val
      | 3 =>
        let st := stack d n.val
        setStack d n.val { st with odecc := mset st.odecc c.val (satAdd 16 (mget st.odecc c.val 0) 1) }
      | _ => d)

/-- CE_PERIOD_END. -/
def execCePeriodEnd (n : Fin 12) (s : State) : Out3 :=
  lift s (fun d => let st := stack d n.val; setStack d n.val { st with ce := [] })

/-- The pages of a channel, in ascending order. -/
def pagesOn (d : Dev) (ch : Nat) : List (Nat × Nat) :=
  (d.tmg.objs.map (fun ho =>
    let is := if ho.2.cls = .resident then List.range ho.2.npages else ho.2.pages.map (fun p => p.1)
    (is.filter (fun i => let p := pageOf ho.2 i; p.ch == ch && p.st != .unmapped && p.st != .wanting)).map (fun i => (ho.1, i)))).flatten

/-- Pages of a channel that no page of an object holds. -/
def freeOn (d : Dev) (ch : Nat) : Nat := 36864 - (pagesOn d ch).length

/-- FREE pages left for the pages of an object on the other channels of its stacks while channel `ch` is being retired, and never more than the
whole pool has beside that channel. Where the TMG's own reserved pages lie is not stated. DESIGN CHOICE (notes/assumptions/31.md). -/
def roomFor (d : Dev) (ch : Nat) (o : Obj) : Nat :=
  Nat.min (d.tmg.poolFree - freeOn d ch) (((chansOf d o.stk).filter (· != ch)).map (freeOn d)).sum

/-- A page that leaves a retired channel without a copy. -/
def unmapPage (d : Dev) (h i : Nat) (keep : Option Page) : Dev :=
  let d := poolMove (dropPage d h i) 1 (-1) 0
  match keep with
  | some p => setPage d h i p
  | none => d

/-- A page placed on another channel: the object's next one in service (R203), any other where its stacks have none. -/
def placePage (d : Dev) (h i : Nat) (own : Bool) (p : Page) : Dev :=
  match obj? d h with
  | none => d
  | some o =>
    let c := if own then nextCh d o else ((chansOf d 0).find? (fun c => freeOn d c != 0)).getD 0
    setObj d h { o with lastCh := some c, pages := mset o.pages i { p with ch := c } }

/-- One page of the retired channel is dealt with (R220): moved while there is room, and else, once no eviction under way can make some, by its
class. `bad` names it as unreadable. DEDUCED (notes/assumptions/31.md). -/
def retirePage (d : Dev) (ch : Nat) (bad : Bool) (h i : Nat) : Dev :=
  match obj? d h with
  | none => d
  | some o =>
    let p := pageOf o i
    if p.st = .writeback then setPage d h i { p with evicting := true }
    else if p.st = .filling then placePage d h i (!(chansOf d o.stk).isEmpty) p
    else if bad then
      if o.cls = .backed && p.dirty == 0 then startFill (unmapPage d h i none) h i
      else placePage d h i (!(chansOf d o.stk).isEmpty) { p with poisoned := true }
    else if roomFor d ch o != 0 then placePage d h i true p
    else if evictingNow d != 0 then d
    else if o.cls = .resident then
      if d.tmg.poolFree ≤ freeOn d ch then
        record (unmapPage d h i (some { p with st := .unmapped, lost := true })) { fspec 2 0x0B 0x0F with detail := h + 3 * 2 ^ 16 }
      else placePage d h i false p
    else if p.dirty = 0 then unmapPage d h i none
    else startWb d h i true true

/-- Evictions that make room beside a retired channel for the pages of each object on it (R220). -/
def makeRoom : Nat → Dev → Nat → Dev
  | 0, d, _ => d
  | k + 1, d, ch =>
    let short := d.tmg.objs.any (fun ho =>
      decide (roomFor d ch ho.2 + evictingNow d < countIf (pagesOn d ch) (fun p => p.1 == ho.1)))
    if !short || (victim d).isNone then d else makeRoom k (evictOne d) ch

/-- What is left on the channel being retired is dealt with; jobs see slips only. Once no page is left the pool shrinks, and with it the count of
FREE pages (R202, R226), which may call for evictions (R210). -/
def retireStep (d : Dev) (bad : List (Nat × Nat)) : Dev :=
  match d.hbm.retiring with
  | none => d
  | some ch =>
    let d := (pagesOn d ch).foldl (fun d p => retirePage d ch (bad.contains p) p.1 p.2) d
    if (pagesOn d ch).isEmpty then
      let tm := { d.tmg with poolSize := d.tmg.poolSize - 36864, poolFree := d.tmg.poolFree - 36864 }
      reclaimAll (poolAudit { d with tmg := tm, hbm := { d.hbm with retiring := none } })
    else d

/-- CHANNEL_RETIRE: the first channel of the queue; `bad` lists its pages that cannot be read. While adds pend on its pages
they are applied first (Table 11-4). Given again while pages are left on the channel, it goes on with them. -/
def channelRetire (d : Dev) (bad : List (Nat × Nat)) : Dev :=
  match d.hbm.retiring, d.hbm.retireQ with
  | some _, _ => retireStep d bad
  | none, [] => d
  | none, ch :: rest =>
    let n := ch / 16
    let st := stack d n
    if st.adds.any (fun a => match obj? d a.handle with
        | some o => (pageOf o (a.off / pageSize)).ch == ch
        | none => false) then d
    else
      let d := setStack d n { st with retired := st.retired ++ [ch % 16] }
      let d := { d with hbm := { d.hbm with retireQ := rest, retiring := some ch } }
      let d := record d { fspec 3 0x0C 0x10 with unit := ch, detail := ch }
      let d := jWrite d (.retire 0 ch)
      retireStep (makeRoom (evictable d).length d ch) bad

/-- CHANNEL_RETIRE. -/
def execChannelRetire (bad : List (Nat × Nat)) (s : State) : Out3 := lift s (fun d => channelRetire d bad)

/-- A write of HBn_RETIRE (R226, R227). -/
def hbCommand (d : Dev) (n op c : Nat) : Dev :=
  let d := regPut d (hbBase n + 0x14) (put op 30 2 + put c 0 4)
  match op with
  | 1 => wantRetire d (n * 16 + c)
  | 2 => jWrite d (.restore 0 (n * 16 + c))
  | _ => d

/-- HB_RETIRE. -/
def execHbRetire (src : Iface) (n : Fin 12) (c : Fin 16) (s : State) : Out3 :=
  lift s (fun d => ownerOnly d src (fun d => hbCommand d n.val 1 c.val))

/-- HB_RESTORE. -/
def execHbRestore (src : Iface) (n : Fin 12) (c : Fin 16) (s : State) : Out3 :=
  lift s (fun d => ownerOnly d src (fun d => hbCommand d n.val 2 c.val))

/-! ### Memory-side adds (R236 to R238) -/

/-- The sum that the adder writes. -/
def addSum (afmt : Nat) (old val : List Byte) : List Byte :=
  match afmt with
  | 0 => leBytes 4 (fadd (wordAt old 0) (wordAt val 0)).toNat
  | 1 =>
    leBytes 2 (convert 1 .rne false (.fin false 1 1) (numAdd (decFmt 1 (leAt old 0 2)) (decFmt 1 (leAt val 0 2)))).code
  | 2 => leBytes 4 (leAt old 0 4 + leAt val 0 4)
  | _ => leBytes 8 (leAt old 0 8 + leAt val 0 8)

/-- The order of R237. -/
def keyBefore (a b : Add) : Bool :=
  decide (a.by_.pos < b.by_.pos)
    || (a.by_.pos == b.by_.pos && (decide (a.by_.tile < b.by_.tile) || (a.by_.tile == b.by_.tile && decide (a.lane < b.lane))))

/-- Whether a format is an integer one. -/
def addInt (afmt : Nat) : Bool := afmt == 2 || afmt == 3

/-- Whether two adds meet in a byte. -/
def addsMeet (a b : Add) : Bool := a.handle == b.handle && overlap a.off (atmBytes a.afmt) b.off (atmBytes b.afmt)

/-- Whether every tile of an add's scope has reported a watermark above its position; a job that has ended sends no more adds (R237). -/
def watermarked (d : Dev) (a : Add) : Bool :=
  let x := scope d a.by_.scope
  !issuerLive d a.by_ || (List.range (scopeTiles x.kind)).all (fun i => decide (a.by_.pos < mget d.hbm.marks (tileGlobal x.kind i) 0))

/-- Whether the `k`-th add that a stack holds may be applied (R237): an integer add in arrival order at its bytes; an FP add once the watermarks are
past it, before none of its job to the element that comes earlier, and after the adds of its tile that arrived before it at its bytes. -/
def addReady (d : Dev) (adds : List Add) (k : Nat) (a : Add) : Bool :=
  if addInt a.afmt then !(adds.take k).any (fun b => addInt b.afmt && addsMeet a b)
  else
    watermarked d a
      && !adds.any (fun b => !addInt b.afmt && b.by_.scope == a.by_.scope && b.by_.slot == a.by_.slot && addsMeet a b && keyBefore b a)
      && !(adds.take k).any (fun b => addInt b.afmt && b.by_.scope == a.by_.scope && b.by_.tile == a.by_.tile && addsMeet a b)

/-- An add finds its line uncorrectable: the page is poisoned as R220 sets out, the line stays as it is, and the job that issued the add ends
(R238, Table 11-4). -/
def addBad (d : Dev) (a : Add) : Dev :=
  let d := match obj? d a.handle with
    | some o => let i := a.off / pageSize; setPage d a.handle i { pageOf o i with poisoned := true }
    | none => d
  if issuerLive d a.by_ then endTier d a.by_.scope 3 a.by_.used else d

/-- ATM_APPLY of the `k`-th pending add of a stack; `bad` when its line is uncorrectable, as it is on a page that is poisoned or lost. -/
def atmApply (d : Dev) (n k : Nat) (bad : Bool) : Dev :=
  let st := stack d n
  match st.adds[k]? with
  | none => d
  | some a =>
    if st.runLeft != 0 || !addReady d st.adds k a then d
    else
      let d := setStack d n { st with adds := st.adds.eraseIdx k, applied := (st.applied + 1) % 2 ^ 64 }
      let z := atmBytes a.afmt
      match obj? d a.handle with
      | none => settleT1 d
      | some o =>
        if spanBad o a.off z then settleT1 (addBad d a)
        else if bad then settleT1 (addBad (uncorrected d n ((pageOf o (a.off / pageSize)).ch % 16)) a)
        else settleT1 (t1Put d a.handle a.off (addSum a.afmt (t1Read d a.handle a.off z) a.val))

/-- ATM_APPLY. -/
def execAtmApply (n : Fin 12) (k : Nat) (bad : Bool) (s : State) : Out3 := lift s (fun d => atmApply d n.val k bad)

/-- The watermark of a tile: the lowest position of an ATM it has executed and not yet sent, or its position. -/
def markOf (d : Dev) (g : Nat) : Nat :=
  let si := scopeOf d g
  let x := scope d si
  let ti := tileIndex x.kind g
  let held := (tile d g).hold.filterMap (fun h => match h.op with
    | .atm .. => some h.pos
    | _ => none)
  let wait := d.tmg.waiters.filterMap (fun w => match w.2 with
    | .atm i _ _ _ _ => if i.scope = si && i.tile == ti && i.slot == x.slot then some i.pos else none
    | _ => none)
  (held ++ wait).foldl Nat.min x.pos

/-- WATERMARK. -/
def execWatermark (g : Fin 800) (s : State) : Out3 :=
  lift s (fun d => { d with hbm := { d.hbm with marks := mset d.hbm.marks g.val (markOf d g.val) } })

/-- ATM_AUDIT (R238): a violation of C6 is a record of class 3, and the running jobs, which may have adds in the stack, end. DESIGN CHOICE
(notes/assumptions/53.md). -/
def execAtmAudit (n : Fin 12) (s : State) : Out3 :=
  lift s (fun d =>
    violation d (law6 d n.val) [0, 1])

end Sys2Proof.Machine
end

