-- ==== Sys2Proof/Machine/Sched.lean ====
section
/-! DEFINITION. The scheduler (chapter 12): queues and doorbells (R242 to R245), admission (R251 to R253), dispatch (R248 to
R250, R254, R255, R63), overrun and abort (R258 to R260), completion records and accounts (R264 to R266). -/

namespace Sys2Proof.Machine

/-! ### Queues (R242, R243) -/

def qBase (q : Nat) : Nat := 0x8400 + q * 0x20
def qCtrl (d : Dev) (q : Nat) : Nat := regGet d (qBase q + 0x10)
def qEn (d : Dev) (q : Nat) : Bool := bit (qCtrl d q) 31

/-- Entries of a ring: the field is one less, and 0 acts as 1. -/
def ringSize (f : Nat) : Nat := if f = 0 then 2 else f + 1
def sqSize (d : Dev) (q : Nat) : Nat := ringSize (fld (regGet d (qBase q + 0x14)) 16 16)
def cqSize (d : Dev) (q : Nat) : Nat := ringSize (fld (regGet d (qBase q + 0x14)) 0 16)

def queue (d : Dev) (q : Nat) : Queue := mget d.sched.queues q ⟨0, 0, 0, 0, false⟩
def setQueue (d : Dev) (q : Nat) (x : Queue) : Dev := { d with sched := { d.sched with queues := mset d.sched.queues q x } }

/-- A CQ is full when tail + 1 = head. -/
def cqFull (d : Dev) (c : Nat) : Bool := (((queue d c).cqTail + 1) % cqSize d c) == (queue d c).cqHead

/-- Whether the scheduler works: in SERVICE and RECOVERY, but for an entry to SLEEP (R373, R399). -/
def schedOn (d : Dev) : Bool := (d.boot.st == .service || d.boot.st == .recovery) && !d.pwr.entering

/-- Whether a pair's host traffic is stopped by a planned move (R411). -/
def pairMoves (d : Dev) (q : Nat) : Bool :=
  match d.hlk.move with
  | some m => m.pairs.contains q
  | none => false

/-- Whether a ring can be reached: in T1, or over the link that serves the pair. -/
def ringReach (d : Dev) (q : Nat) (t1 : Bool) : Bool := t1 || (linkUp d (servingLink d q) && !pairMoves d q)

/-- An SQ that the scheduler visits (R244). -/
def sqReady (d : Dev) (q : Nat) : Bool :=
  qEn d q && (queue d q).sqHead != (queue d q).sqTail && !cqFull d (cqOf d q) && ringReach d q (bit (qCtrl d q) 30)

/-- The SQ whose turn it is. -/
def nextSq (d : Dev) : Option Nat :=
  ((List.range 64).map (fun i => (d.sched.rrNext + i) % 64)).find? (sqReady d)

/-- Host address, or T1 handle and offset, of a ring: its LO and HI words. -/
def ringAddr (d : Dev) (q o : Nat) : Nat := regGet d (qBase q + o) / 64 * 64 + regGet d (qBase q + o + 4) * 2 ^ 32

/-- Handle and byte offset of a ring in T1. -/
def ringObj (d : Dev) (q o : Nat) : Nat × Nat := (fld (regGet d (qBase q + o + 4)) 0 16, regGet d (qBase q + o) / 64 * 64)

/-- A write of Qq_CTRL: EN from 0 to 1 clears the pointers; while EN is 1 the ring places and the CQ stay (R242). DEDUCED
(notes/assumptions/32.md). -/
def qCtrlWrite (d : Dev) (q w : Nat) : Dev :=
  let old := qCtrl d q
  let w := w / 2 ^ 10 * 2 ^ 10
  if bit old 31 then
    regPut d (qBase q + 0x10)
      (put (fld w 31 1) 31 1 + put (fld old 29 2) 29 2 + put (fld w 28 1) 28 1 + put (fld old 22 6) 22 6 + put (fld w 10 12) 10 12)
  else
    let d := regPut d (qBase q + 0x10) w
    if bit w 31 then setQueue d q ⟨0, 0, 0, 0, false⟩ else d

/-- A wake event (R400): at once in SLEEP, after the entry while that runs (R401). -/
def wakeEvent (d : Dev) : Dev :=
  if d.pwr.entering then { d with pwr := { d.pwr with wakeAsked := true } }
  else if d.boot.st == .sleep && !d.pwr.waking then startTimer { d with pwr := { d.pwr with waking := true } } .wake
  else d

/-- PWR_SLEEP.DB_WAKE: a doorbell wakes the device. -/
def doorbellWake (d : Dev) : Dev := if bit (regGet d 0x4014) 29 then wakeEvent d else d

/-- A write of Qq_SQ_TAIL. DEDUCED (notes/assumptions/32.md). -/
def sqDoorbell (d : Dev) (q i : Nat) : Dev :=
  let d := doorbellWake d
  if sqSize d q ≤ i then discarded d 0x08 (0x9000 + 8 * q) else setQueue d q { queue d q with sqTail := i }

/-- A write of Qq_CQ_HEAD. -/
def cqDoorbell (d : Dev) (q i : Nat) : Dev :=
  let d := doorbellWake d
  if cqSize d q ≤ i then discarded d 0x08 (0x9004 + 8 * q) else setQueue d q { queue d q with cqHead := i }

/-- SQ_DOORBELL, from any master (R243, R379). -/
def execSqDoorbell (_src : Iface) (q : Fin 64) (i : BitVec 16) (s : State) : Out3 :=
  lift s (fun d => sqDoorbell d q.val i.toNat)

/-- CQ_DOORBELL, from any master. -/
def execCqDoorbell (_src : Iface) (q : Fin 64) (i : BitVec 16) (s : State) : Out3 :=
  lift s (fun d => cqDoorbell d q.val i.toNat)

/-- QUEUE_ENABLE: a write of Qq_CTRL with EN = 1 and these other bits. -/
def execQueueEnable (src : Iface) (q : Fin 64) (w : BitVec 31) (s : State) : Out3 :=
  lift s (fun d => ownerOnly d src (fun d => qCtrlWrite d q.val (2 ^ 31 + w.toNat)))

/-! ### The descriptor (Table 12-1) -/

/-- A descriptor read from a queue; `client` is the one it counts for. -/
def descOf (b : List Byte) (client : Nat) : Desc :=
  { bytes := b.take 2 ++ leBytes 2 client ++ b.drop 4, be := bit (leAt b 1 1) 0, client := client, image := leAt b 4 2
    result := leAt b 6 2, resultOff := leAt b 8 8, release := leAt b 0x10 8, deadline := leAt b 0x18 8
    slipBudget := leAt b 0x20 4, replayBudget := leAt b 0x24 4, seed := BitVec.ofNat 32 (leAt b 0x28 4), keep := leAt b 0x2C 4
    pairLo := leAt b 0x30 2, pairHi := leAt b 0x32 2, pairDelta := leAt b 0x34 2 }

/-- The first test of Table 12-3. -/
def descFormOk (b : List Byte) : Bool :=
  let be := bit (leAt b 1 1) 0
  let rel := leAt b 0x10 8
  let dl := leAt b 0x18 8
  leAt b 0 1 == 1 && fld (leAt b 1 1) 1 7 == 0 && fld (leAt b 2 2) 12 4 == 0 && leAt b 0x36 10 == 0
    && (if be then dl == 0 else decide (rel < dl)) && leAt b 8 8 % 64 == 0 && decide (leAt b 0x30 2 ≤ leAt b 0x32 2)

/-! ### Bounds and the plan (R252, R253, R256) -/

/-- BOUND_NS at the divider in force. -/
def boundNs (d : Dev) (c : Nat) : Nat := ceilDiv (c * cclkDiv d) 6 + 34

/-- The bound in cycles. -/
def boundCycles (img : List Byte) (b : Desc) : Nat := 2080 + imgStatic img + b.slipBudget + b.replayBudget

def setJob (d : Dev) (k : Nat) (j : Job) : Dev := { d with sched := { d.sched with slots := mset d.sched.slots k j } }

def now (d : Dev) : Nat := d.clk.devtime.toNat

/-- Where the plan begins. A running BE job that already overruns is taken to end 10,000 ns from now (R258). -/
def planStart (d : Dev) : Nat :=
  match d.sched.running with
  | none => now d
  | some k =>
    match mget? d.sched.slots k with
    | none => now d
    | some j => if j.desc.be then (if j.overrun then now d + 10000 else j.fin + 10000) else j.fin

/-- The plan times of jobs in order. -/
def planTimes (d : Dev) : List (Nat × Job) → Nat → List (Nat × Job)
  | [], _ => []
  | (k, j) :: r, t =>
    let s := Nat.max t j.desc.release
    let e := s + boundNs d j.cBound
    (k, { j with start := s, fin := e }) :: planTimes d r e

/-- The jobs of the plan. -/
def planJobs (d : Dev) : List (Nat × Job) := d.sched.plan.filterMap (fun k => (mget? d.sched.slots k).map (fun j => (k, j)))

/-- Jobs given the times just planned. -/
def storePlan (d : Dev) (l : List (Nat × Job)) : Dev := l.foldl (fun d p => setJob d p.1 p.2) d

/-- The first test after a step change computes the plan and every bound anew, the running job's too (R256). -/
def replan (d : Dev) : Dev :=
  if !d.sched.planDirty then d
  else
    let d := { d with sched := { d.sched with planDirty := false } }
    let d := match d.sched.running with
      | none => d
      | some k =>
        match mget? d.sched.slots k with
        | some j => setJob d k { j with fin := j.start + boundNs d j.cBound }
        | none => d
    storePlan d (planTimes d (planJobs d) (planStart d))

/-- A job put into the plan by deadline, after those of the same deadline. -/
def planInsert (x : Nat × Job) : List (Nat × Job) → List (Nat × Job)
  | [] => [x]
  | y :: r => if x.2.desc.deadline < y.2.desc.deadline then x :: y :: r else y :: planInsert x r

/-! ### Admission (R251) -/

/-- Pool that admission tests against: the size, less a channel that is being retired (R220). DEDUCED (notes/assumptions/31.md). -/
def poolForJobs (d : Dev) : Nat := if d.hbm.retiring.isSome then d.tmg.poolSize - 36864 else d.tmg.poolSize

/-- A client's account. -/
def client (d : Dev) (c : Nat) : Client := mget d.sched.clients c ⟨0, 0, 0, 0, 0, 0, [], 0⟩
def setClient (d : Dev) (c : Nat) (x : Client) : Dev := { d with sched := { d.sched with clients := mset d.sched.clients c x } }

/-- CLT_c_CAP.CAP. DEDUCED (notes/assumptions/32.md). -/
def capOf (d : Dev) (c : Nat) : Nat := fld (regGet d (0xE0000 + 16 * c + 0xC)) 16 14

/-- The lowest free stream slot of the 8,192 (R246). -/
def freeSlot (d : Dev) : Option Nat :=
  if 8192 ≤ d.sched.slots.length then none
  else (List.range (d.sched.slots.length + 1)).find? (fun k => (mget? d.sched.slots k).isNone)

/-- Whether a validated image may be named by a new descriptor (R98). -/
def imageOk (d : Dev) (h : Nat) : Bool := d.imgs.valid.contains h && !d.imgs.invalPend.contains h && (objOf d h).isSome

/-- A validated image's bytes. -/
def imageOf (d : Dev) (h : Nat) : List Byte :=
  match objOf d h with
  | some (h0, o) => imageBytes d h0 o
  | none => []

/-- Whether the image's kind does not fit the mode (Table 12-2). -/
def kindMisfit (d : Dev) (half : Bool) : Bool := half != paired d

/-- A refusal: status, DETAIL and the bytes from offset 0x10. -/
structure RefusalOf where
  st : Status
  detail : Nat
  extra : List Byte
  deriving DecidableEq, Repr

/-- The tests of Table 12-3 but the last, on a descriptor as read and as accepted. -/
def refusalOf (d : Dev) (raw : List Byte) (b : Desc) : Option RefusalOf :=
  let img := imageOf d b.image
  let fenced := d.flt.fencedW || d.flt.fencedE
  let cap := capOf d b.client
  if !descFormOk raw then some ⟨.refusedVersion, 0x80, []⟩
  else if !imageOk d b.image then some ⟨.refusedVersion, 0x11, []⟩
  else if kindMisfit d (imgHalf img) then some ⟨.refusedVersion, 0x81, []⟩
  else if d.own.st = .noOwner then some ⟨.refusedNoOwner, 1, []⟩
  else if d.own.st = .dispute then some ⟨.refusedNoOwner, 2, []⟩
  else if cap != 0 && decide (cap ≤ (client d b.client).inflight) then some ⟨.refusedClientCap, 0, leBytes 2 cap⟩
  else if (freeSlot d).isNone then some ⟨.refusedFull, 0, []⟩
  else if poolForJobs d < imgPages img then
    some ⟨.refusedResources, 0, leBytes 4 (imgPages img) ++ leBytes 4 d.tmg.poolSize⟩
  else if (if imgHalf img then d.flt.fencedW && d.flt.fencedE else fenced) then
    some ⟨.refusedResources, 1, leBytes 4 (imgPages img) ++ leBytes 4 d.tmg.poolSize⟩
  else none

/-- The record of a refused descriptor falls due; submitted and refused grow together (R265). -/
def refuse (d : Dev) (q index : Nat) (b : Desc) (r : RefusalOf) : Dev :=
  let e : EndInfo := ⟨r.st, r.detail, r.extra, 0, 0, 0, 0, 0, 0, 0, 0⟩
  let c := client d b.client
  let i := statusCode r.st
  let c := { c with refused := c.refused + 1, refusals := mset c.refusals i (mget c.refusals i 0 + 1) }
  let rec_ : DueRec := { cq := cqOf d q, bytes := recordBytes q index 0 0 e, slot := none, client := b.client, status := r.st }
  let d := setClient d b.client c
  { d with sched := { d.sched with due := d.sched.due ++ [rec_] } }

/-- A job takes its slot. -/
def admitJob (d : Dev) (k : Nat) (j : Job) : Dev :=
  let c := client d j.desc.client
  setJob (setClient d j.desc.client { c with inflight := c.inflight + 1 }) k j

/-- The plan test of R253, and admission. -/
def admitLc (d : Dev) (q index k : Nat) (j : Job) : Dev :=
  if d.sched.lcOverrun then refuse d q index j.desc ⟨.refusedDeadline, 2, leBytes 8 0⟩
  else
    let l := planTimes d (planInsert (k, j) (planJobs d)) (planStart d)
    let late := l.filter (fun p => decide (p.2.desc.deadline < p.2.fin))
    let mine := l.filter (fun p => p.1 == k)
    let fin := (mine.head?.map (fun p => p.2.fin)).getD 0
    if late.isEmpty then
      let d := storePlan (admitJob d k j) l
      let d := { d with sched := { d.sched with plan := l.map (fun (p : Nat × Job) => p.1) } }
      match d.sched.running with
      | none => d
      | some r =>
        match mget? d.sched.slots r with
        | some x => if x.desc.be && x.overrun then abortJob d r .failedOverrun else d
        | none => d
    else
      refuse d q index j.desc ⟨.refusedDeadline, if late.any (fun (p : Nat × Job) => p.1 == k) then 0 else 1, leBytes 8 fin⟩

/-- Client of a descriptor: the queue's where it fixes one (R243). -/
def clientOf (d : Dev) (q : Nat) (raw : List Byte) : Nat :=
  if bit (qCtrl d q) 28 then fld (regGet d (qBase q + 0x18)) 0 12 else fld (leAt raw 2 2) 0 12

/-- C8: the account of a client balances, modulo 2 ^ 32 (R265). -/
def law8 (d : Dev) (cl : Nat) : Option FSpec :=
  let c := client d cl
  let got := c.served + c.refused + c.failed + c.aborted + BitVec.ofNat 32 c.inflight
  if c.submitted = got then none
  else some { fspec 3 0x08 0x08 with unit := cl, detail := lawDetail 8 c.submitted.toNat got.toNat }

/-- C8 audited for a client: every job uses the scheduler. -/
def clientAudit (d : Dev) (cl : Nat) : Dev := violation d (law8 d cl) [0, 1]

/-- A descriptor is accepted and tested (R244, R251). -/
def acceptTest (d : Dev) (q : Nat) (raw : List Byte) : Dev :=
  let x := queue d q
  let index := x.sqHead
  let d := setQueue d q { x with sqHead := (index + 1) % sqSize d q }
  let d := { d with sched := { d.sched with rrNext := (q + 1) % 64, accepted := d.sched.accepted + 1 } }
  let cl := clientOf d q raw
  let b := descOf raw cl
  let c := client d cl
  let d := setClient d cl { c with submitted := c.submitted + 1 }
  match refusalOf d raw b with
  | some r => refuse d q index b r
  | none =>
    let img := imageOf d b.image
    let d := replan d
    let j : Job := { desc := b, sq := q, index := index, cBound := boundCycles img b, half := imgHalf img, delayed := 0,
                     start := 0, fin := 0, running := false, ended := false, westEnd := none, eastEnd := none,
                     fencedDuring := false, overrun := false }
    match freeSlot d with
    | none => d
    | some k =>
      if b.be then
        let d := admitJob d k j
        { d with sched := { d.sched with be := d.sched.be ++ [k] } }
      else admitLc d q index k j

/-- A descriptor is accepted, and C8 is audited for its client. -/
def accept (d : Dev) (q : Nat) (raw : List Byte) : Dev := clientAudit (acceptTest d q raw) (clientOf d q raw)

/-- A descriptor in a T1 ring: its bytes once its pages are mapped. -/
def ringRead (d : Dev) (q : Nat) : Option (List Byte) × Dev :=
  let r := ringObj d q 0
  let off := r.2 + 64 * (queue d q).sqHead
  match objOf d r.1 with
  | none => (none, d)
  | some (h, o) =>
    let ms := missing h o off 64
    if !accessOk o off 64 false || spanBad o off 64 || o.cls == .far || o.cls == .peer then (none, d)
    else if !ms.isEmpty then (none, requestPages d ms)
    else (some (t1Read d h off 64), touch d h off 64)

/-- DESCRIPTOR_ACCEPT: the SQ whose turn it is; `data` are the bytes that the host returns for a ring in its memory. -/
def execDescriptorAccept (q : Fin 64) (data : List Byte) (s : State) : Out3 :=
  lift s (fun d =>
    if !schedOn d || !bit (regGet d 0x8000) 31 || nextSq d != some q.val then d
    else if bit (qCtrl d q.val) 30 then
      match ringRead d q.val with
      | (some b, d) => accept d q.val b
      | (none, d) => d
    else accept d q.val (slice data 0 64))

/-! ### Dispatch (R248 to R250, R254, R255, R63) -/

/-- What a job leaves of T0 in the segments that KEEP names. DEDUCED (notes/assumptions/32.md). -/
def keptT0 (keep : Nat) (m : List (Nat × Byte)) : List (Nat × Byte) := m.filter (fun c => bit keep (c.1 / 65536))

/-- The dispatch block: the descriptor as accepted, its handles rebased for the east half (R249, R250). -/
def dispatchBlock (k : ScopeKind) (b : Desc) : List Byte :=
  if k = .east && b.pairLo ≤ b.result && b.result ≤ b.pairHi && !(b.pairLo == 0 && b.pairHi == 0) then
    b.bytes.take 6 ++ leBytes 2 (b.result + b.pairDelta) ++ b.bytes.drop 8
  else b.bytes

/-- T0 of tile `i` of the scope at dispatch, from what the last job left; a payload that reaches past 2 MiB is cut there. DESIGN CHOICE
(notes/assumptions/26.md). -/
def startT0 (k : ScopeKind) (b : Desc) (recs : List InitRec) (i : Nat) (old : List (Nat × Byte)) : List (Nat × Byte) :=
  let m := recs.foldl (fun m r =>
    if r.tile = none || r.tile == some i then memWrite m r.off (r.data.take (2 ^ 21 - r.off)) else m) (keptT0 b.keep old)
  memWrite m 0x1FFFC0 (dispatchBlock k b)

/-- A tile at beat 0 (R63): cleared but for T0, its lane and seek list loaded, its LFSR seeded. -/
def startTile (k : ScopeKind) (b : Desc) (img ix lanes : List Byte) (recs : List InitRec) (i : Nat) (old : Tile) : Tile :=
  let e := laneEnt ix i
  let has := decide (i < imgLanes img)
  { Tile.reset with
    t0 := startT0 k b recs i old.t0, powered := old.powered
    core := { TileCore.reset with lfsr := lfsrSeed b.seed i }
    lane := if has then laneWords lanes e else []
    seek := if has then seekList ix e else [] }

/-- All tiles of a scope at beat 0. -/
def startTiles (d : Dev) (k : ScopeKind) (b : Desc) (img : List Byte) : Dev :=
  let ix := sectBytes img 1
  let lanes := sectBytes img 2
  let recs := (recsOf img 6).getD [] ++ (recsOf img 7).getD []
  let new := (List.range (scopeTiles k)).map (fun i =>
    let g := tileGlobal k i
    (g, startTile k b img ix lanes recs i (tile d g)))
  let first := tileGlobal k 0
  { d with tiles := d.tiles.filter (fun p => decide (p.1 < first)) ++ new
      ++ d.tiles.filter (fun p => decide (first + scopeTiles k ≤ p.1)) }

/-- The scope's sequencer at beat 0. What is still in flight for the last job keeps its place, and its generation is dead
(R44). -/
def startScope (x : Scope) (k : ScopeKind) (slot : Nat) (b : Desc) (img : List Byte) : Scope :=
  { Scope.reset with
    jobValid := true, kind := k, phase := .run, slot := slot, staticBeats := imgStatic img, slipBudget := b.slipBudget
    replayBudget := b.replayBudget, half := imgHalf img, maint := imgMaint img, lastCause := x.lastCause
    lastTile := x.lastTile, lastLb := x.lastLb, regions := imgRegions img, glane := imgGlane img
    prefetch := imgPrefetch img, gen := x.gen + 1, genFloor := x.gen + 1, xfers := x.xfers, nextXfer := x.nextXfer
    startBand := imgClass img }

/-- Stacks that a job's REFRESH entries name (R230, R234). -/
def windowMask (img : List Byte) : Nat :=
  (imgGlane img).foldl (fun m e => if e.act = 3 then m ||| fld e.operand 0 12 else m) 0

/-- A stack when the job of its scope starts: refreshed up to beat 0 (R230). DEDUCED (notes/assumptions/31.md). -/
def startStack (mask : Nat) (st : Stack) (i : Nat) : Stack :=
  { st with windowed := bit mask i, overSeen := false, overClass := false, forced := 0, winOpen := 0, winPend := 0
            debt := Nat.min st.debt 1, runLeft := 0 }

/-- A job starts in a scope. -/
def startIn (d : Dev) (si : Nat) (k : ScopeKind) (slot : Nat) (b : Desc) (img : List Byte) : Dev :=
  let d := startTiles d k b img
  let d := setScope d si (startScope (scope d si) k slot b img)
  let m := windowMask img
  let d := (stacksOf k).foldl (fun d p =>
    if (stack d p.1).present then classCheck (setStack d p.1 (startStack m (stack d p.1) p.2)) p.1 else d) d
  let d := { d with hbm := { d.hbm with marks := d.hbm.marks.filter (fun p => !inScope k p.1) } }
  enter (updScope d si (fun x => decide256 x 255)) si

/-- Scopes that a job would run in now (Table 12-2); none when they are not available. -/
def scopesFor (d : Dev) (half : Bool) : List (Nat × ScopeKind) :=
  if half then
    (if d.flt.fencedW then [] else [(0, .west)]) ++ (if d.flt.fencedE then [] else [(1, .east)])
  else if d.flt.fencedW || d.flt.fencedE then [] else [(0, .device)]

/-- A job that is released and waits. -/
def waits (d : Dev) (k : Nat) : Bool :=
  match mget? d.sched.slots k with
  | some j => !j.running && !j.ended && decide (j.desc.release ≤ now d)
  | none => false

/-- Every other job that is released and waiting is passed over (R255). -/
def passOver (d : Dev) (k : Nat) : Dev :=
  ((d.sched.plan ++ d.sched.be).filter (fun i => i != k && waits d i)).foldl (fun d i =>
    match mget? d.sched.slots i with
    | none => d
    | some j =>
      let c := client d j.desc.client
      setJob (setClient d j.desc.client { c with delayed := c.delayed + 1 }) i { j with delayed := j.delayed + 1 }) d

/-- Whether a BE job fits before the plan head (R254). -/
def beFits (d : Dev) (j : Job) : Bool :=
  match planJobs d with
  | [] => true
  | (_, h) :: _ => decide (now d + boundNs d j.cBound + 10000 ≤ h.desc.release)

/-- The choice of R254, with the plan it leaves. -/
def choose (d : Dev) : Option Nat :=
  match d.sched.plan with
  | h :: _ =>
    if waits d h then some h
    else d.sched.be.find? (fun k => waits d k && (match mget? d.sched.slots k with | some j => beFits d j | none => false))
  | [] => d.sched.be.find? (waits d)

/-- The chosen job starts. DEDUCED (notes/assumptions/32.md). -/
def dispatch (d : Dev) (k : Nat) : Dev :=
  match mget? d.sched.slots k with
  | none => d
  | some j =>
    let img := imageOf d j.desc.image
    let ss := scopesFor d j.half
    if ss.isEmpty then d
    else
      let d := passOver d k
      let j := { j with running := true, start := now d, fin := now d + boundNs d j.cBound
                        fencedDuring := j.half && (d.flt.fencedW || d.flt.fencedE) }
      let d := setJob d k j
      let d := { d with sched := { d.sched with running := some k, plan := d.sched.plan.filter (· != k)
                                                be := d.sched.be.filter (· != k) } }
      ss.foldl (fun d p => startIn d p.1 p.2 k j.desc img) d

/-- Whether the choice makes a BE fit test: the plan head is not released, and a BE job waits. -/
def fitTested (d : Dev) : Bool :=
  match d.sched.plan with
  | h :: _ => !waits d h && d.sched.be.any (waits d)
  | [] => false

/-- The choice now, with the plan redrawn before a BE fit test (R256). -/
def pick (d : Dev) : Option Nat × Dev :=
  let d := if fitTested d then replan d else d
  (choose d, d)

/-- The earliest RELEASE to come at which some job can be chosen. -/
def soonest (d : Dev) : Option Nat :=
  (d.sched.plan ++ d.sched.be).foldl (fun b k =>
    match mget? d.sched.slots k with
    | none => b
    | some j =>
      let r := j.desc.release
      if r ≤ now d || (match b with | some x => decide (x ≤ r) | none => false) || (pick (untilDevtime d r)).1.isNone then b
      else some r) none

/-- DISPATCH (R254): the start sequence of R63 runs whole in this command. With no job to choose now, it is the dispatch that the
next RELEASE allows. -/
def execDispatch (s : State) : Out3 :=
  lift s (fun d =>
    if !schedOn d || d.sched.running.isSome then d
    else
      match pick d with
      | (some k, d) => dispatch d k
      | (none, d') =>
        match soonest d with
        | none => d'
        | some r =>
          match pick (untilDevtime d r) with
          | (some k, d) => dispatch d k
          | (none, _) => d')

/-! ### Completion records (R245, R265) -/

/-- The account of a record that is written. -/
def accountRec (c : Client) (st : Status) (held : Bool) : Client :=
  let c := if held then { c with inflight := c.inflight - 1 } else c
  match st with
  | .served => { c with served := c.served + 1 }
  | .failedMapping => { c with failed := c.failed + 1 }
  | .failedTier => { c with failed := c.failed + 1 }
  | .failedNumeric => { c with failed := c.failed + 1 }
  | .failedFault => { c with failed := c.failed + 1 }
  | .failedOverrun => { c with aborted := c.aborted + 1 }
  | .aborted => { c with aborted := c.aborted + 1 }
  | .refusedFull => c
  | .refusedDeadline => c
  | .refusedResources => c
  | .refusedClientCap => c
  | .refusedNoOwner => c
  | .refusedVersion => c

/-- The record's bytes with PHASE. -/
def withPhase (bs : List Byte) (p : Bool) : List Byte := if p then listUpd bs 2 (fun b => b ||| 1#8) else bs

/-- The record is written where its CQ stands; none while it cannot be. -/
def putRecord (d : Dev) (c : Nat) (bs : List Byte) : Option Dev :=
  let tail := (queue d c).cqTail
  if bit (qCtrl d c) 29 then
    let r := ringObj d c 8
    let off := r.2 + 32 * tail
    match objOf d r.1 with
    | none => none
    | some (h, o) =>
      if o.npages * pageSize < off + 32 || o.rdonly || o.cls == .far || o.cls == .peer || !(missing h o off 32).isEmpty then none
      else some (t1Write d h off bs)
  else some (hostPost d (servingLink d c) (some c) (ringAddr d c 8 + 32 * tail) bs)

/-- Pages that a CQ in T1 lacks are requested. -/
def cqPages (d : Dev) (c : Nat) : Dev :=
  let r := ringObj d c 8
  match objOf d r.1 with
  | some (h, o) => if bit (qCtrl d c) 29 then requestPages d (missing h o (r.2 + 32 * (queue d c).cqTail) 32) else d
  | none => d

/-- The record just written is counted, its CQ moves on, its vector is raised, its slot is free, and C3 and C8 are audited. -/
def recordWritten (d : Dev) (k : Nat) (r : DueRec) : Dev :=
  let x := queue d r.cq
  let next := (x.cqTail + 1) % cqSize d r.cq
  let d := setQueue d r.cq { x with cqTail := next, phase := if next = 0 then !x.phase else x.phase }
  let d := setClient d r.client (accountRec (client d r.client) r.status r.slot.isSome)
  let d := { d with sched := { d.sched with
    due := d.sched.due.eraseIdx k
    recorded := d.sched.recorded + 1
    slots := match r.slot with | some i => mdel d.sched.slots i | none => d.sched.slots } }
  let d := if bit (qCtrl d r.cq) 21 then raiseOn d (servingLink d r.cq) (fld (qCtrl d r.cq) 10 11) else d
  clientAudit (violation d (law3 d) [0, 1]) r.client

/-- Whether everything that the job of a stream slot writes has been performed (R207, R237): nothing of it waits, no stack holds an add of it, and
every peer has acknowledged. -/
def jobPerformed (d : Dev) (slot : Nat) : Bool :=
  !d.tmg.waiters.any (fun w => waiterWrites w.2 && (match waiterBy w.2 with
      | some i => i.slot == slot
      | none => false))
    && !d.hbm.stk.any (fun q => q.2.adds.any (fun a => a.by_.slot == slot))
    && !d.rw.reqs.any (fun r => r.kind == .write && r.slot == slot)

/-- COMPLETION_RECORD of the `k`-th record that is due: held while its CQ is full or cannot be reached (R245, R410), and until the job's writes and
adds have been performed (R64, R207, R237). -/
def execCompletionRecord (k : Nat) (s : State) : Out3 :=
  lift s (fun d =>
    match d.sched.due[k]? with
    | none => d
    | some r =>
      if !schedOn d || !(match r.slot with | some i => jobPerformed d i | none => true) || cqFull d r.cq || !ringReach d r.cq (bit (qCtrl d r.cq) 29) then d
      else
        match putRecord d r.cq (withPhase r.bytes (queue d r.cq).phase) with
        | some d => recordWritten d k r
        | none => cqPages d r.cq)

/-! ### Abort and paired mode (R260, R349) -/

/-- SCH_ABORT. -/
def execSchAbort (src : Iface) (slot : Fin 8192) (s : State) : Out3 :=
  lift s (fun d => ownerOnly d src (fun d => abortJob d slot.val .aborted))

/-- A write of SCH_CTRL: PAIRED changes only while no slot is held, and the token with it (R349). -/
def schCtrlWrite (d : Dev) (w : Nat) : Dev :=
  let old := paired d
  let new := bit w 30
  let p := if d.sched.slots.isEmpty then new else old
  let d := regPut d 0x8000 (put (fld w 31 1) 31 1 + put (flag p) 30 1 + put w 0 16)
  if p = old then d
  else tokenChange d (flag (p && d.flt.fencedW)) (p && !d.flt.fencedW && !d.flt.fencedE)

/-- PAIRED_SET: SCH_CTRL written with this PAIRED and its other fields as they are. -/
def execPairedSet (src : Iface) (value : Bool) (s : State) : Out3 :=
  lift s (fun d => ownerOnly d src (fun d =>
    let w := regGet d 0x8000
    schCtrlWrite d (put (fld w 31 1) 31 1 + put (flag value) 30 1 + put w 0 16)))

end Sys2Proof.Machine
end

