-- ==== Sys2Proof/Machine/Codec.lean ====
section
/-! DEFINITION. The codec engines (chapter 13): commands, contexts, the buffer pool and rate control. What ITU-T H.265 alone
decides (samples, coded bits, parameter sets, reference marking, output order) is free within the limits of the rules
(notes/assumptions/18.md). -/

namespace Sys2Proof.Machine

def vce (d : Dev) (n : Nat) : Vce := mget d.vce n Vce.reset
def setVce (d : Dev) (n : Nat) (v : Vce) : Dev := { d with vce := mset d.vce n v }

def vceBase (n : Nat) : Nat := 0x40000 + n * 0x1000

/-- SIZE of VCEn_POOL_CTRL; more than 1,024 acts as 1,024. -/
def vcePool (d : Dev) (n : Nat) : Nat := Nat.min 1024 (fld (regGet d (vceBase n + 8)) 16 11)

/-- The buffer of an index; one that is not listed is unused and not held. -/
def vbuf (bs : FMap VBuf) (i : Nat) : VBuf := mget bs i ⟨.unused, false, 0, 0⟩

/-- A buffer set; one that is free is not listed. -/
def setVbuf (bs : FMap VBuf) (i : Nat) (b : VBuf) : FMap VBuf :=
  if b.mark = .unused && !b.hold then mdel bs i else mset bs i b

/-! ### Counting buffers (R274, C5) -/

def vceProducer (v : Vce) : Nat := countIf v.bufs (fun p => p.2.mark != .unused)
def vceConsumer (v : Vce) : Nat := countIf v.bufs (fun p => p.2.mark == .unused && p.2.hold)

/-- Free buffers of a pool: those that are neither marked nor held. -/
def vceFree (d : Dev) (n : Nat) (v : Vce) : Nat := countIf (List.range (vcePool d n)) (fun i => (mget? v.bufs i).isNone)

/-- Lowest buffer that is UNUSED and not held (R273). -/
def takeBuf (d : Dev) (n : Nat) (v : Vce) : Option Nat := (List.range (vcePool d n)).find? (fun i => (mget? v.bufs i).isNone)

/-- Every buffer of a context becomes unused and its holds end. -/
def dropCtx (bs : FMap VBuf) (c : Nat) : FMap VBuf := bs.filter (fun p => p.2.ctx != c)

/-! ### Completion words (Table 13-4) -/

/-- What a completion word says. -/
structure VceWord where
  status : Nat
  buf : Nat
  bytes : Nat
  poc : Nat
  attempts : Nat
  qp : Nat
  flags : Nat
  waiting : Nat
  deriving DecidableEq, Repr

def vceWord (w : VceWord) : List Byte :=
  leBytes 2 w.status ++ leBytes 2 w.buf ++ leBytes 4 w.bytes ++ leBytes 4 w.poc ++ leBytes 1 w.attempts ++ leBytes 1 w.qp
    ++ leBytes 1 w.flags ++ leBytes 1 w.waiting

/-- A word of a status, with the pictures that wait for output in the context. -/
def vceStatus (st waiting : Nat) : VceWord := ⟨st, 0xFFFF, 0, 0, 0, 0, 0, waiting⟩

/-- Pictures that wait for output in a context. -/
def ctxWaiting (v : Vce) (k : Nat) : Nat := ((mget? v.ctxs k).map (fun x => x.outq.length)).getD 0

/-! ### Running a command -/

/-- The engine's front command, when it is free to start one of operation `op`. -/
def vceFront (v : Vce) (op : Nat) : Option (EngCmd × List EngCmd) :=
  match v.cur, v.queue with
  | none, c :: rest => if !v.faulted && leAt c.bytes 0 1 == op && leAt c.bytes 1 1 == 1 then some (c, rest) else none
  | _, _ => none

/-- The command executes: its word and what it leaves are kept until VCE_COMPLETION, and a command that waits takes its place in the queue. -/
def vceEnd (d : Dev) (n : Nat) (c : EngCmd) (rest : List EngCmd) (cur : FMap VBuf) (w : VceWord) (ctxs : FMap VCtx)
    (bufs : FMap VBuf) : Dev :=
  let v := vce d n
  vceRefill (setVce d n { v with queue := rest, pages := [], cur := some c, word := some (vceWord w), after := some (ctxs, bufs), bufs := cur
                                 lastCtx := leAt c.bytes 2 1 }) n

/-- A command that ends with a status and leaves everything as it was. -/
def vceStop (d : Dev) (n : Nat) (c : EngCmd) (rest : List EngCmd) (st : Nat) : Dev :=
  let v := vce d n
  vceEnd d n c rest v.bufs (vceStatus st (ctxWaiting v (leAt c.bytes 2 1))) v.ctxs v.bufs

/-- A command that a read or write of an object ends: the job ends as chapter 10 sets out (READ_ERROR). -/
def vceReadError (d : Dev) (n : Nat) (c : EngCmd) (rest : List EngCmd) (cause handle : Nat) : Dev :=
  engTier (vceStop d n c rest 8) c cause handle

/-- The front command waits for pages. -/
def vceWaits (d : Dev) (n : Nat) (ws : List Nat) : Dev := requestPages (setVce d n { vce d n with pages := ws }) ws

/-- The front command reads a span: it waits for its pages, ends on a read that fails, and goes on with the bytes. An object that is not in T1
cannot be read. DEDUCED (notes/assumptions/18.md). -/
def vceRead (d : Dev) (n : Nat) (c : EngCmd) (rest : List EngCmd) (handle off len : Nat) (f : Dev → List Byte → Dev) : Dev :=
  let ws := engWaits d c.scope handle off len
  if !ws.isEmpty then vceWaits d n ws
  else
    match engLines d c.scope handle off len with
    | .held => d
    | .bad => vceReadError d n c rest 4 handle
    | .range h => vceReadError d n c rest 4 h
    | .poison h => vceReadError d n c rest 3 h
    | .ok b => f (engTouch d c.scope handle off len) b

/-- Context object of an engine: HANDLE of VCEn_CTX_BASE. -/
def ctxObject (d : Dev) (n : Nat) : Nat := fld (regGet d (vceBase n + 4)) 0 16

/-- Operation `op` of engine `n`: with no context object every command ends NO_CONTEXT, and the context's 64 KiB of it are loaded first (R268,
R272). What a context holds stands in `Vce.ctxs`. DESIGN CHOICE (notes/assumptions/18.md). -/
def vceRun (d : Dev) (n op : Nat) (f : Dev → EngCmd → List EngCmd → Dev) : Dev :=
  match vceFront (vce d n) op with
  | none => d
  | some (c, rest) =>
    let h := ctxObject d n
    let off := 65536 * leAt c.bytes 2 1
    let ws := engWaits d 2 h off 65536
    if h = 0 then vceStop d n c rest 3
    else if !ws.isEmpty then vceWaits d n ws
    else
      match engLines d 2 h off 65536 with
      | .held => d
      | .bad => vceReadError d n c rest 4 h
      | .range r => vceReadError d n c rest 4 r
      | .poison r => vceReadError d n c rest 3 r
      | .ok _ => f (engTouch d 2 h off 65536) c rest

/-! ### CONFIG (R267, R272, R277) -/

/-- MaxLumaPs of a level of H.265 Annex A; none for a value that names no level (DESIGN CHOICE, notes/assumptions/18.md). -/
def maxLumaPs (level : Nat) : Option Nat :=
  match level with
  | 30 => some 36864
  | 60 => some 122880
  | 63 => some 245760
  | 90 => some 552960
  | 93 => some 983040
  | 120 => some 2228224
  | 123 => some 2228224
  | 150 => some 8912896
  | 153 => some 8912896
  | 156 => some 8912896
  | 180 => some 35651584
  | 183 => some 35651584
  | 186 => some 35651584
  | _ => none

/-- Whether a picture size lies within a level: its area, and each side at most the root of 8 areas. -/
def sizeInLevel (level w h : Nat) : Bool :=
  match maxLumaPs level with
  | some m => decide (w * h ≤ m) && decide (w * w ≤ 8 * m) && decide (h * h ≤ 8 * m) && decide (1 ≤ w) && decide (1 ≤ h)
  | none => false

def prmW (b : List Byte) : Nat := leAt b 4 2
def prmH (b : List Byte) : Nat := leAt b 6 2
def prmDepth (b : List Byte) : Nat := leAt b 8 1
def prmRc (b : List Byte) : Nat := leAt b 9 1
def prmNum (b : List Byte) : Nat := leAt b 0x10 4
def prmScale (b : List Byte) : Nat := leAt b 0x14 4
def prmRate (b : List Byte) : Nat := leAt b 0x18 4
def prmCpb (b : List Byte) : Nat := leAt b 0x1C 4
def prmDelay (b : List Byte) : Nat := leAt b 0x20 4

/-- Reserved fields and fields that decoding does not use are 0. -/
def decFormOk (b : List Byte) : Bool :=
  leAt b 0 1 == 1 && decide (leAt b 3 1 ≤ 1) && leNat (slice b 9 119) == 0

/-- Reserved fields, and fields that the RC mode does not use, are 0; the others hold values that Table 13-6 gives. -/
def encFormOk (b : List Byte) : Bool :=
  leAt b 0 1 == 1 && decide (leAt b 3 1 ≤ 3) && decide (prmRc b ≤ 2) && decide (leAt b 0xA 1 ≤ 51) && decide (leAt b 0xB 1 ≤ 51)
    && decide (leAt b 0xE 1 ≤ 3) && decide (1 ≤ leAt b 0xF 1) && leNat (slice b 0x24 92) == 0
    && (if prmRc b = 0 then leAt b 0xB 1 == 0 && prmRate b == 0 && prmCpb b == 0 && prmDelay b == 0
        else prmScale b != 0 && prmRate b % 64 == 0 && prmCpb b % 16 == 0)

/-- Profile and bit depth of Table 13-1; profile 3 decodes only. -/
def profileOk (b : List Byte) (top : Nat) : Bool :=
  let p := leAt b 1 1
  decide (1 ≤ p) && decide (p ≤ top) && (prmDepth b == 8 || (prmDepth b == 10 && p == 2))

/-- Table 13-1 for decoding. -/
def decSupported (b : List Byte) : Bool :=
  profileOk b 3 && decide (leAt b 2 1 ≤ 186) && decide (prmW b ≤ 8192) && decide (prmH b ≤ 4320)
    && sizeInLevel (leAt b 2 1) (prmW b) (prmH b)

/-- Table 13-1 for encoding. -/
def encSupported (b : List Byte) : Bool :=
  decide (leAt b 0xF 1 ≤ 4) && profileOk b 2 && decide (leAt b 2 1 ≤ 156) && decide (prmW b ≤ 4096) && decide (prmH b ≤ 2176)
    && sizeInLevel (leAt b 2 1) (prmW b) (prmH b)

/-- MIN_BITS of a context's pictures. -/
def minBits (b : List Byte) : Nat :=
  let c := if bit (leAt b 3 1) 1 then 64 else 32
  2048 + 16 * (ceilDiv (prmW b) c * ceilDiv (prmH b) c)

/-- R277. -/
def rateOk (b : List Byte) : Bool :=
  let r := prmRate b
  let ts := prmScale b
  decide (minBits b * ts ≤ r * prmNum b)
    && decide (minBits b * 90000 ≤ r * prmDelay b) && decide (r * prmDelay b ≤ prmCpb b * 90000)
    && (prmRc b != 1 || decide (r * prmNum b + 64 * ts ≤ prmCpb b * ts))

/-- Units of a fullness: 1 / (90000 · TIME_SCALE) bit. -/
def cpbUnit (b : List Byte) : Nat := 90000 * prmScale b

/-- CONFIG of either direction: the block is read and checked, and the context set up. -/
def vceConfig (d : Dev) (n : Nat) (c : EngCmd) (rest : List EngCmd) (dir : CtxDir) : Dev :=
  let k := leAt c.bytes 2 1
  vceRead d n c rest (leAt c.bytes 6 2) (leAt c.bytes 0x18 8) 128 (fun d b =>
    let v := vce d n
    let enc := dir == .enc
    if !(if enc then encFormOk b else decFormOk b) then vceStop d n c rest 1
    else if !(if enc then encSupported b else decSupported b) then vceStop d n c rest 2
    else
      let bufs := dropCtx v.bufs k
      if enc && prmRc b != 0 && !rateOk b then vceEnd d n c rest v.bufs (vceStatus 6 0) (mdel v.ctxs k) bufs
      else
        let x : VCtx := { dir := dir, params := b, outq := [], full := prmRate b * prmDelay b * prmScale b, pics := 0, sps := [], pps := []
                          hist := Config.codecHist 0 c.bytes b }
        vceEnd d n c rest v.bufs (vceStatus 0 0) (mset v.ctxs k x) bufs)

/-- CONFIG_DEC. -/
def execConfigDec (n : Fin 16) (s : State) : Out3 :=
  lift s (fun d => vceRun d n.val 1 (fun d c rest => vceConfig d n.val c rest .dec))

/-- CONFIG_ENC. -/
def execConfigEnc (n : Fin 16) (s : State) : Out3 :=
  lift s (fun d => vceRun d n.val 2 (fun d c rest => vceConfig d n.val c rest .enc))

/-! ### Parameter sets in a byte stream (R267) -/

/-- NAL units of an Annex B byte stream; `cur` collects the unit under way, last byte first, none before the first start code. -/
def nalUnits : List Byte → Option (List Byte) → List (List Byte)
  | a :: b :: c :: r, cur =>
    if a = 0 && b == 0 && c == 1 then
      match cur with
      | some u => u.reverse :: nalUnits r (some [])
      | none => nalUnits r (some [])
    else nalUnits (b :: c :: r) (cur.map (fun u => a :: u))
  | a :: r, cur => nalUnits r (cur.map (fun u => a :: u))
  | [], cur => match cur with
    | some u => [u.reverse]
    | none => []

/-- A NAL unit without its emulation-prevention bytes. -/
def rbsp : List Byte → List Byte
  | a :: b :: c :: r => if a = 0 && b == 0 && c == 3 then a :: b :: rbsp r else a :: rbsp (b :: c :: r)
  | l => l

/-- Bits of bytes, most significant first. -/
def msbBits (bs : List Byte) : List Bool := (bs.map (fun b => (List.range 8).map (fun i => b.toNat.testBit (7 - i)))).flatten

/-- A number of `n` bits, and the bits after it. -/
def readU (n : Nat) (l : List Bool) : Nat × List Bool := ((l.take n).foldl (fun a b => 2 * a + flag b) 0, l.drop n)

/-- An Exp-Golomb number, and the bits after it. -/
def readUe (l : List Bool) : Nat × List Bool :=
  let z := (l.takeWhile (fun b => !b)).length
  let r := readU z (l.drop (z + 1))
  (2 ^ z - 1 + r.1, r.2)

/-- What a sequence parameter set says of Table 13-1. -/
structure Sps where
  id : Nat
  profile : Nat
  level : Nat
  chroma : Nat
  w : Nat
  h : Nat
  lumaDepth : Nat
  chromaDepth : Nat
  deriving DecidableEq, Repr

/-- Bits of the sub-layers of a profile_tier_level: their flags, then what the flags name. -/
def subLayerBits (k : Nat) (l : List Bool) : List Bool :=
  if k = 0 then l
  else
    let n := ((List.range k).map (fun i => (if l.getD (2 * i) false then 88 else 0) + (if l.getD (2 * i + 1) false then 8 else 0))).sum
    l.drop (16 + n)

/-- A sequence parameter set, its two header bytes taken off. PRESUMED (notes/assumptions/18.md): the syntax of H.265 clause 7.3.2.2. -/
def spsOf (u : List Byte) : Sps :=
  let l := (msbBits (rbsp u)).drop 4
  let sub := readU 3 l
  let l := sub.2.drop 1
  let profile := (readU 5 (l.drop 3)).1
  let level := (readU 8 (l.drop 88)).1
  let id := readUe (subLayerBits sub.1 (l.drop 96))
  let ch := readUe id.2
  let w := readUe (if ch.1 = 3 then ch.2.drop 1 else ch.2)
  let h := readUe w.2
  let win := readU 1 h.2
  let l := if win.1 = 1 then (readUe (readUe (readUe (readUe win.2).2).2).2).2 else win.2
  let dl := readUe l
  ⟨id.1, profile, level, ch.1, w.1, h.1, dl.1 + 8, (readUe dl.2).1 + 8⟩

/-- Type of a NAL unit. -/
def nalType (u : List Byte) : Nat := fld (byteAt u 0).toNat 1 6

/-- Whether a sequence parameter set asks for nothing outside Table 13-1 and the context's limits. -/
def spsOk (b : List Byte) (s : Sps) : Bool :=
  decide (1 ≤ s.profile) && decide (s.profile ≤ 3) && decide (s.level ≤ 186) && s.chroma == 1 && s.lumaDepth == s.chromaDepth
    && (s.lumaDepth == 8 || (s.lumaDepth == 10 && s.profile == 2)) && decide (s.lumaDepth ≤ prmDepth b)
    && sizeInLevel s.level s.w s.h && decide (s.w ≤ prmW b) && decide (s.h ≤ prmH b)

/-- A context with the parameter sets of an access unit. -/
def takeSets (x : VCtx) (us : List (List Byte)) : VCtx :=
  us.foldl (fun x u =>
    if nalType u = 33 then
      let s := spsOf (u.drop 2)
      { x with sps := mset x.sps s.id (s.w, s.h, s.lumaDepth) }
    else if nalType u = 34 then
      let p := readUe (msbBits (rbsp (u.drop 2)))
      { x with pps := mset x.pps p.1 (readUe p.2).1 }
    else x) x

/-- The first slice of an access unit. -/
def firstSlice (us : List (List Byte)) : Option (List Byte) := us.find? (fun u => decide (nalType u < 32))

/-- Whether a slice is of an IRAP picture. -/
def sliceIrap (u : List Byte) : Bool := decide (16 ≤ nalType u) && decide (nalType u ≤ 23)

/-- Size of the picture that a slice begins, by the sets it names; none where one of them is missing. -/
def pictureSize (x : VCtx) (u : List Byte) : Option (Nat × Nat × Nat) :=
  let l := (msbBits (rbsp (u.drop 2))).drop (if sliceIrap u then 2 else 1)
  (mget? x.pps (readUe l).1).bind (mget? x.sps)

/-! ### Pictures and marks (R273, R274) -/

/-- Place of a pool buffer by its 16-byte entry of the pool table: object, offset, pitch. -/
def poolPlace (e : List Byte) : Nat × Nat × Nat := (leAt e 0 2, leAt e 4 8, leAt e 12 4)

/-- Bytes of a picture row. -/
def rowBytes (b : List Byte) (w : Nat) : Nat := if prmDepth b = 10 then 2 * w else w

/-- Bytes that a picture of `w` by `h` spans in a buffer of a pitch: luma, then chroma of half the rows. -/
def picSpan (b : List Byte) (w h pitch : Nat) : Nat := pitch * (h + h / 2 - 1) + rowBytes b w

/-- Whether a buffer holds the context's picture size. -/
def bufFits (d : Dev) (b : List Byte) (e : Nat × Nat × Nat) : Bool :=
  decide (rowBytes b (prmW b) ≤ e.2.2)
    && (match objOf d e.1 with
        | some (h, o) => decide ((e.1 - h) * 2 ^ 32 + e.2.1 + picSpan b (prmW b) (prmH b) e.2.2 ≤ o.npages * pageSize)
        | none => true)

/-- The lowest free buffer of the pool for a command: NO_BUFFER without one, its table entry read, MALFORMED when it is too small, the job
ended when it may not be written (R201), its pages waited for. -/
def vceBuffer (d : Dev) (n : Nat) (c : EngCmd) (rest : List EngCmd) (x : VCtx) (f : Dev → Nat → (Nat × Nat × Nat) → Dev) : Dev :=
  match takeBuf d n (vce d n) with
  | none => vceStop d n c rest 4
  | some i =>
    let t := fld (regGet d (vceBase n + 8)) 0 16
    let ws := engWaits d 2 t (16 * i) 16
    if !ws.isEmpty then vceWaits d n ws
    else
      match engRead d 2 t (16 * i) 16 with
      | .held => d
      | .bad => vceReadError d n c rest 4 t
      | .range h => vceReadError d n c rest 4 h
      | .poison h => vceReadError d n c rest 3 h
      | .ok b =>
        let e := poolPlace b
        if !bufFits d x.params e then vceStop d n c rest 1
        else
          match engStoreLines d 2 e.1 e.2.1 [] with
          | .bad => vceReadError d n c rest 4 e.1
          | .range h => vceReadError d n c rest 4 h
          | .ok _ =>
            let ws := engWaits d 2 e.1 e.2.1 (picSpan x.params (prmW x.params) (prmH x.params) e.2.2)
            if !ws.isEmpty then vceWaits d n ws
            else if engHeld d 2 e.1 e.2.1 (picSpan x.params (prmW x.params) (prmH x.params) e.2.2) then d
            else f d i e

/-- A picture's rows written to a buffer, of free samples. -/
def writePic (d : Dev) (b : List Byte) (e : Nat × Nat × Nat) (w h : Nat) (free : Nat → Nat) : Dev :=
  (List.range (h + h / 2)).foldl (fun d y =>
    let r := (List.range (rowBytes b w)).map (fun i => BitVec.ofNat 8 (free (2 ^ 32 + y * 2 ^ 16 + i)))
    (engWrite d 2 e.1 (e.2.1 + y * e.2.2) r).getD d) d

/-- Marks of a context's other pictures after a picture: what H.265 or the encoder's structure makes of them is free, but a picture that
waits for output stays. DESIGN CHOICE (notes/assumptions/18.md). -/
def remark (bs : FMap VBuf) (ctx cur : Nat) (outq : List Nat) (free : Nat → Nat) : FMap VBuf :=
  bs.foldl (fun r p =>
    if p.2.ctx = ctx && p.2.mark != .unused && p.1 != cur then
      let f := free (1024 + p.1) % 4
      let m : BufMark := if f = 0 && !outq.contains p.1 then .unused else if f = 1 then .longTerm else .shortTerm
      setVbuf r p.1 { p.2 with mark := m }
    else r) bs

/-- The picture of lowest order count that waits for output. -/
def nextOut (bs : FMap VBuf) (q : List Nat) : Option Nat :=
  q.foldl (fun b i => match b with
    | none => some i
    | some j => if signed 32 (vbuf bs i).poc < signed 32 (vbuf bs j).poc then some i else b) none

/-- A picture handed to the consumer: its hold bit is set; when it is no reference (free) its mark ends. -/
def handOut (bs : FMap VBuf) (i : Nat) (free : Nat → Nat) : FMap VBuf :=
  let b := vbuf bs i
  setVbuf bs i { b with hold := true, mark := if free 8 % 2 = 0 then .unused else b.mark }

/-- Free values of a command: a function of its context, its block, what it has read and the vectors chosen (R17). -/
def codecValues (x : VCtx) (c : EngCmd) (bs : List Byte) (mvs : List Int) : Nat → Nat := Config.codecFree x.hist c.bytes bs mvs

/-- DECODE once its stream is read: the picture into buffer `i` and at most one output. A picture whose parameter sets are missing has a free
size within the context's. No more than 16 pictures wait. DESIGN CHOICE (notes/assumptions/18.md). -/
def decodePic (d : Dev) (n : Nat) (c : EngCmd) (rest : List EngCmd) (x : VCtx) (bits : List Byte) (i : Nat) (e : Nat × Nat × Nat) : Dev :=
  let v := vce d n
  let k := leAt c.bytes 2 1
  let us := nalUnits bits none
  let x := takeSets x us
  let free := codecValues x c bits []
  let slice := firstSlice us
  let size := slice.bind (pictureSize x)
  let w := match size with
    | some z => z.1
    | none => free 0 % (prmW x.params + 1)
  let h := match size with
    | some z => z.2.1
    | none => free 1 % (prmH x.params + 1)
  let poc := free 2 % 2 ^ 32
  let bs := size.isNone || free 3 % 2 == 1
  let shown := free 4 % 2 == 1
  let outq := if shown then x.outq ++ [i] else x.outq
  let bufs := setVbuf (remark v.bufs k i x.outq free) i ⟨.shortTerm, false, k, poc⟩
  let cur := setVbuf v.bufs i ⟨.current, false, k, poc⟩
  let d := writePic d x.params e w h free
  let d := if bs then setVce d n { vce d n with bsErr := satAdd 16 (vce d n).bsErr 1 } else d
  let o := if free 5 % 2 = 0 && decide (outq.length ≤ 16) then none else nextOut bufs outq
  let irap := (slice.map sliceIrap).getD false
  let word (buf p waiting : Nat) : VceWord :=
    ⟨0, buf, free 6 % (bits.length + 1), p, 1, free 7 % 52, put (flag irap) 2 1 + put (flag bs) 3 1, waiting⟩
  let x := { x with pics := x.pics + 1, hist := Config.codecHist x.hist c.bytes bits }
  match o with
  | none => vceEnd d n c rest cur (word 0xFFFF 0 outq.length) (mset v.ctxs k { x with outq := outq }) bufs
  | some j =>
    let outq := outq.filter (· != j)
    vceEnd d n c rest cur (word j (vbuf bufs j).poc outq.length) (mset v.ctxs k { x with outq := outq }) (handOut bufs j free)

/-- A context configured for a direction. -/
def ctxOf (v : Vce) (k : Nat) (dir : CtxDir) : Option VCtx :=
  match mget? v.ctxs k with
  | some x => if x.dir = dir then some x else none
  | none => none

/-- DECODE: UNSUPPORTED when a sequence parameter set of the access unit asks for more than Table 13-1. -/
def vceDecode (d : Dev) (n : Nat) (c : EngCmd) (rest : List EngCmd) : Dev :=
  match ctxOf (vce d n) (leAt c.bytes 2 1) .dec with
  | none => vceStop d n c rest 3
  | some x =>
    vceRead d n c rest (leAt c.bytes 4 2) (leAt c.bytes 8 8) (leAt c.bytes 0x10 4) (fun d bits =>
      if (nalUnits bits none).any (fun u => nalType u == 33 && !spsOk x.params (spsOf (u.drop 2))) then vceStop d n c rest 2
      else vceBuffer d n c rest x (fun d i e => decodePic d n c rest x bits i e))

/-- DECODE. -/
def execDecode (n : Fin 16) (s : State) : Out3 := lift s (fun d => vceRun d n.val 3 (fun d c rest => vceDecode d n.val c rest))

/-- DRAIN: the next picture waiting for output, if any. -/
def vceDrain (d : Dev) (n : Nat) (c : EngCmd) (rest : List EngCmd) : Dev :=
  let v := vce d n
  let k := leAt c.bytes 2 1
  match ctxOf v k .dec with
  | none => vceStop d n c rest 3
  | some x =>
    match nextOut v.bufs x.outq with
    | none => vceEnd d n c rest v.bufs (vceStatus 0 0) v.ctxs v.bufs
    | some j =>
      let outq := x.outq.filter (· != j)
      vceEnd d n c rest v.bufs ⟨0, j, 0, (vbuf v.bufs j).poc, 0, 0, 0, outq.length⟩
        (mset v.ctxs k { x with outq := outq, hist := Config.codecHist x.hist c.bytes [] })
        (handOut v.bufs j (codecValues x c [] []))

/-- VCE_DRAIN. -/
def execVceDrain (n : Fin 16) (s : State) : Out3 := lift s (fun d => vceRun d n.val 4 (fun d c rest => vceDrain d n.val c rest))

/-! ### Encoding (R278, R279) -/

/-- What the attempts of a picture come to: bits, attempts, QP, and whether it is the minimal picture. -/
structure Coded where
  bits : Nat
  attempts : Nat
  qp : Nat
  minimal : Bool
  deriving DecidableEq, Repr

/-- The attempts of R278. The bits of each, and the first QP, are free; the minimal picture has at most MIN_BITS. DESIGN CHOICE
(notes/assumptions/18.md). -/
def attempts (x : VCtx) (free : Nat → Nat) : Coded :=
  let b := x.params
  let n (k : Nat) : Nat := free (16 + k) % 2 ^ 40
  let exceeded (k : Nat) : Bool := decide (x.full < ((8 * n k * cpbUnit b : Nat) : Int))
  let qp := free 9 % 64 % (leAt b 0xB 1 + 1)
  if prmRc b = 0 then ⟨8 * n 0, 1, leAt b 0xA 1, false⟩
  else if !exceeded 0 then ⟨8 * n 0, 1, qp, false⟩
  else if !exceeded 1 then ⟨8 * n 1, 2, Nat.min 51 (qp + 6), false⟩
  else if !exceeded 2 then ⟨8 * n 2, 3, Nat.min 51 (qp + 12), false⟩
  else ⟨8 * (n 3 % (minBits b / 8 + 1)), 4, 51, true⟩

/-! ### Motion search (R276) -/

/-- Size of a context's CTU. -/
def ctuSize (b : List Byte) : Nat := if bit (leAt b 3 1) 1 then 64 else 32

/-- Whether a sample lies in a window. -/
def MWin.covers (m : MWin) (x y : Int) : Bool :=
  decide ((m.x0 : Int) - 256 ≤ x) && decide (x ≤ (m.x0 + m.ctu + 255 : Nat))
    && decide ((m.y0 : Int) - 128 ≤ y) && decide (y ≤ (m.y0 + m.ctu + 127 : Nat))

/-- Samples of a window that is loaded whole. -/
def MWin.whole (m : MWin) : Nat := (m.ctu + 512) * (m.ctu + 256)

/-- The window at the next CTU of a picture `w` wide, and the samples it loads: a strip within a row, all of it at the start of one. -/
def MWin.next (m : MWin) (w : Nat) : MWin × Nat :=
  if m.x0 + m.ctu < w then ({ m with x0 := m.x0 + m.ctu }, m.ctu * (m.ctu + 256))
  else ({ m with x0 := 0, y0 := m.y0 + m.ctu }, m.whole)

/-- Whether a vector in quarter samples keeps the prediction of a block, with the filter's reach of 4 samples, inside the window. -/
def MWin.admits (m : MWin) (bx bY bw bh : Nat) (mx my : Int) : Bool :=
  let x := (bx : Int) + mx / 4
  let y := (bY : Int) + my / 4
  m.covers (x - 4) (y - 4) && m.covers (x + bw + 4) (y + bh + 4)

/-- Windows of a picture's references, CTU after CTU. -/
def windowWalk (w : Nat) : Nat → MWin → List MWin
  | 0, _ => []
  | k + 1, m => m :: windowWalk w k (m.next w).1

/-- The vectors of a picture, one for each CTU and reference: free, but none that needs a sample outside the window; (0, 0) in its place. -/
def motionVectors (b : List Byte) (refs : List Nat) (free : Nat → Nat) : List Int :=
  let z := ctuSize b
  let k := ceilDiv (prmW b) z * ceilDiv (prmH b) z
  (refs.map (fun r => ((List.range k).zip (windowWalk (prmW b) k ⟨r, 0, 0, z⟩)).map (fun p =>
    let mx := signed 16 (free (2 ^ 33 + 2 * (r * k + p.1)))
    let my := signed 16 (free (2 ^ 33 + 2 * (r * k + p.1) + 1))
    if p.2.admits p.2.x0 p.2.y0 z z mx my then [mx, my] else [0, 0]))).flatten.flatten

/-- The windows as the last CTU of a picture leaves them. -/
def lastWindows (b : List Byte) (refs : List Nat) : List MWin :=
  let z := ctuSize b
  refs.filterMap (fun r => (windowWalk (prmW b) (ceilDiv (prmW b) z * ceilDiv (prmH b) z) ⟨r, 0, 0, z⟩).getLast?)

/-- References in use: buffers of the context that are marked, at most NREF of them. DESIGN CHOICE (notes/assumptions/18.md). -/
def references (v : Vce) (k : Nat) (x : VCtx) : List Nat :=
  ((v.bufs.filter (fun p => p.2.ctx == k && (p.2.mark == .shortTerm || p.2.mark == .longTerm))).map (fun p => p.1)).take (leAt x.params 0xF 1)

/-- Filler bytes under CBR (R279): up to the smallest whole number of bytes that keeps the CPB from overflowing, or one unit of 7
where that is less. -/
def fillerBytes (x : VCtx) (bits : Nat) : Nat :=
  let b := x.params
  if prmRc b != 1 then 0
  else
    let u : Int := ((8 * cpbUnit b : Nat) : Int)
    let gap : Int := x.full + ((prmRate b * prmNum b * 90000 : Nat) : Int) - ((prmCpb b * cpbUnit b : Nat) : Int)
      - ((bits * cpbUnit b : Nat) : Int)
    if gap ≤ 0 then 0 else Nat.max 7 ((gap + u - 1) / u).toNat

/-- Filler-data NAL units that fill `n` bytes: units of at most 65,536 bytes, none below 7. -/
def fillerUnits : Nat → Nat → List Byte
  | 0, _ => []
  | k + 1, n =>
    if n = 0 then []
    else
      let m := if n ≤ 65536 then n else if n < 65536 + 7 then 65529 else 65536
      [0, 0, 0, 1, 0x4C, 0x01] ++ List.replicate (m - 7) 0xFF#8 ++ [0x80] ++ fillerUnits k (n - m)

/-- CPB fullness at the next removal: VBR stops at a full buffer. -/
def nextFull (x : VCtx) (bits : Nat) : Int :=
  let b := x.params
  let f : Int := x.full - ((bits * cpbUnit b : Nat) : Int) + ((prmRate b * prmNum b * 90000 : Nat) : Int)
  let cap : Int := ((prmCpb b * cpbUnit b : Nat) : Int)
  if prmRc b = 0 then x.full else if cap < f then cap else f

/-- ENCODE into buffer `i`: the coded bytes are free, the filler is not. -/
def encodePic (d : Dev) (n : Nat) (c : EngCmd) (rest : List EngCmd) (x : VCtx) (src : List Byte) (i : Nat) (e : Nat × Nat × Nat) : Dev :=
  let v := vce d n
  let k := leAt c.bytes 2 1
  let h := leAt c.bytes 4 2
  let fl := leAt c.bytes 3 1
  let period := leAt x.params 0xC 2
  let irap := bit fl 0 || x.pics == 0 || (period != 0 && x.pics % period == 0)
  let refs := if irap then [] else references v k x
  let mvs := motionVectors x.params refs (codecValues x c src [])
  let free := codecValues x c src mvs
  let a := attempts x free
  let fb := fillerBytes x a.bits
  let total := a.bits / 8 + fb
  if leAt c.bytes 0x10 4 < total then vceStop d n c rest 5
  else
    let ws := engWaits d c.scope h (leAt c.bytes 8 8) total
    if !ws.isEmpty then vceWaits d n ws
    else if engHeld d c.scope h (leAt c.bytes 8 8) total then d
    else
      let bs := (List.range (a.bits / 8)).map (fun i => BitVec.ofNat 8 (free (2 ^ 34 + i)))
      match engStoreLines d c.scope h (leAt c.bytes 8 8) (bs ++ fillerUnits (fb / 65536 + 2) fb) with
      | .bad => vceReadError d n c rest 4 h
      | .range h => vceReadError d n c rest 4 h
      | .ok d =>
        let d := writePic d x.params e (prmW x.params) (prmH x.params) free
        let poc := free 2 % 2 ^ 32
        let mark : BufMark := if bit fl 1 then .longTerm else .shortTerm
        let bufs := setVbuf (remark v.bufs k i [] free) i ⟨mark, false, k, poc⟩
        let x' := { x with full := nextFull x (8 * total), pics := x.pics + 1, hist := Config.codecHist x.hist c.bytes src }
        let w : VceWord := ⟨0, i, total, poc, a.attempts, a.qp,
          put (flag a.minimal) 0 1 + put (flag (fb != 0)) 1 1 + put (flag irap) 2 1, 0⟩
        let d := setVce d n { v with allSkip := satAdd 16 v.allSkip (flag a.minimal), filler := satAdd 16 v.filler (flag (fb != 0))
                                     retries := satAdd 16 v.retries (Nat.min 2 (a.attempts - 1)), wins := lastWindows x.params refs }
        vceEnd d n c rest (setVbuf v.bufs i ⟨.current, false, k, poc⟩) w (mset v.ctxs k x') bufs

/-- ENCODE. -/
def vceEncode (d : Dev) (n : Nat) (c : EngCmd) (rest : List EngCmd) : Dev :=
  match ctxOf (vce d n) (leAt c.bytes 2 1) .enc with
  | none => vceStop d n c rest 3
  | some x =>
    vceRead d n c rest (leAt c.bytes 6 2) (leAt c.bytes 0x18 8) (picSpan x.params (prmW x.params) (prmH x.params) (leAt c.bytes 0x20 4))
      (fun d src => vceBuffer d n c rest x (fun d i e => encodePic d n c rest x src i e))

/-- ENCODE. -/
def execEncode (n : Fin 16) (s : State) : Out3 := lift s (fun d => vceRun d n.val 5 (fun d c rest => vceEncode d n.val c rest))

/-! ### RELEASE, CLOSE, completion, fault, reset -/

/-- RELEASE (R275). -/
def vceRelease (d : Dev) (n : Nat) (c : EngCmd) (rest : List EngCmd) : Dev :=
  let v := vce d n
  let i := leAt c.bytes 0x14 4
  let b := vbuf v.bufs i
  if b.hold then
    vceEnd d n c rest v.bufs (vceStatus 0 (ctxWaiting v (leAt c.bytes 2 1))) v.ctxs (setVbuf v.bufs i { b with hold := false })
  else record (vceStop d n c rest 7) { fspec 0 0x0D 0x02 with unit := n, detail := i }

/-- VCE_RELEASE. -/
def execVceRelease (n : Fin 16) (s : State) : Out3 :=
  lift s (fun d => vceRun d n.val 6 (fun d c rest => vceRelease d n.val c rest))

/-- VCE_CLOSE. -/
def execVceClose (n : Fin 16) (s : State) : Out3 :=
  lift s (fun d => vceRun d n.val 7 (fun d c rest =>
    let v := vce d n.val
    let k := leAt c.bytes 2 1
    vceEnd d n.val c rest v.bufs (vceStatus 0 0) (mdel v.ctxs k) (dropCtx v.bufs k)))

/-- An engine stops (R281): its command hands on nothing, CURRENT marks end, and contexts are lost. -/
def vceHalt (d : Dev) (n : Nat) : Dev :=
  let v := vce d n
  let bufs := v.bufs.foldl (fun m p => if p.2.mark = .current then setVbuf m p.1 { p.2 with mark := .unused } else m) v.bufs
  setVce d n { v with faulted := true, cur := none, word := none, after := none, ctxs := [], bufs := bufs }

/-- An engine stops, and the job of its command ends FAILED_FAULT. -/
def vceFail (d : Dev) (n code : Nat) : Dev :=
  let jobs := (vce d n).cur.toList.map (fun c => c.slot)
  let d := vceHalt d n
  endJobs d (scopesOf d jobs) 3 (faultCode 3 0x0D code)

/-- C5 of a codec pool (R28). -/
def law5Vce (d : Dev) (n : Nat) : Option FSpec :=
  let v := vce d n
  let got := vceFree d n v + vceProducer v + vceConsumer v
  if got = vcePool d n then none else some { fspec 3 0x0D 0x08 with unit := n, detail := lawDetail 5 (vcePool d n) got }

/-- C5 audited at the boundary of a picture: a violation stops the engine and ends the job whose command ended. -/
def vceAudit (d : Dev) (n slot : Nat) : Dev :=
  match law5Vce d n with
  | none => d
  | some f => vceHalt (violation d (some f) (scopesOf d [slot])) n

/-- A malformed front command ends at once. -/
def vceMalformed (v : Vce) : Option (EngCmd × List EngCmd) :=
  match v.cur, v.queue with
  | none, c :: rest =>
    let op := leAt c.bytes 0 1
    if !v.faulted && (leAt c.bytes 1 1 != 1 || op == 0 || decide (7 < op)) then some (c, rest) else none
  | _, _ => none

/-- VCE_COMPLETION: what the command leaves takes effect, its word goes out, C5 is audited. -/
def vceComplete (d : Dev) (n : Nat) : Dev :=
  let v := vce d n
  match v.cur, v.word, v.after with
  | some c, some w, some (ctxs, bufs) =>
    vceAudit (engineWord (setVce d n { v with cur := none, word := none, after := none, ctxs := ctxs, bufs := bufs }) c w) n c.slot
  | _, _, _ =>
    match vceMalformed v with
    | some (c, rest) =>
      let st := if fld (regGet d (vceBase n + 4)) 0 16 = 0 then 3 else 1
      let k := leAt c.bytes 2 1
      vceAudit (engineWord (vceRefill (setVce d n { v with queue := rest, lastCtx := k }) n) c (vceWord (vceStatus st (ctxWaiting v k)))) n c.slot
    | none => d

/-- VCE_COMPLETION. -/
def execVceCompletion (n : Fin 16) (s : State) : Out3 := lift s (fun d => vceComplete d n.val)

/-- VCE_FAULT: uncorrectable error, or parity error. -/
def execVceFault (n : Fin 16) (parity : Bool) (s : State) : Out3 :=
  lift s (fun d =>
    let code := if parity then 0x05 else 0x04
    if (vce d n.val).faulted then d
    else
      let c := (vce d n.val).cur
      let sl := (c.map (fun c => c.slot)).getD 0xFFFF
      let sc := (c.map (fun c => scopeCode (scope d c.scope).kind)).getD 0
      vceFail (record d { fspec 3 0x0D code with unit := n.val, slot := sl, scope := sc }) n.val code)

/-- A write of VCEn_RESET with GO = 1. -/
def vceReset (d : Dev) (n : Nat) : Dev :=
  let v := vce d n
  if v.cur.isSome && !v.faulted then d else vceRefill (setVce d n { v with queue := [], pages := [], ctxs := [], faulted := false }) n

/-- VCE_RESET. -/
def execVceReset (src : Iface) (n : Fin 16) (s : State) : Out3 :=
  lift s (fun d => ownerOnly d src (fun d => vceReset d n.val))

end Sys2Proof.Machine
end

