-- ==== Sys2Proof/Machine/Emul.lean ====
section
/-! DEFINITION. The emulation ports (chapter 14): configuration (R285 to R287), commands from jobs (R288 to R291), commits and
their targets (R292 to R294), verification (R295, R296), the frame decision (R297 to R299), embedded data and statistics (R300,
R301), emulated registers and exposure (R302 to R305), the token as a port adopts it (R306, R307), EMP_OK and SAFE_STATE_N
(R308, R309). -/

namespace Sys2Proof.Machine

def emp (d : Dev) (n : Nat) : Emp := mget d.ports.emp n Emp.reset
def setEmp (d : Dev) (n : Nat) (e : Emp) : Dev := { d with ports := { d.ports with emp := mset d.ports.emp n e } }
def empBase (n : Nat) : Nat := 0x50000 + n * 0x800
def empReg (d : Dev) (n o : Nat) : Nat := regGet d (empBase n + o)

/-! ### Data types (Table 14-1, R283) -/

/-- Bit depth of a component, 0 for a data type that is not supported (R282). -/
def dtDepth (dt : Nat) : Nat :=
  match dt with
  | 0x2A => 8 | 0x2B => 10 | 0x2C => 12 | 0x2D => 14 | 0x2E => 16 | 0x1E => 8 | 0x24 => 8
  | _ => if 0x30 ≤ dt && dt ≤ 0x37 then 8 else 0

/-- Components of a pixel. -/
def dtComps (dt : Nat) : Nat := if dt = 0x1E then 2 else if dt = 0x24 then 3 else 1

def dtRaw (dt : Nat) : Bool := 0x2A ≤ dt && dt ≤ 0x2E

/-- Bytes of a stored component: RAW10 to RAW16 take a 16-bit word. -/
def dtBytes (dt : Nat) : Nat := if 0x2B ≤ dt && dt ≤ 0x2E then 2 else 1

/-- Pixels of a packing group. -/
def dtGroup (dt : Nat) : Nat := match dtDepth dt with
  | 10 => 4
  | 12 => 2
  | 14 => 4
  | _ => 1

/-- Bytes of an image line on the link; the last group of a line is whole. -/
def lineBytes (dt w : Nat) : Nat := ceilDiv w (dtGroup dt) * (dtGroup dt * dtComps dt * dtDepth dt / 8)

/-- Bytes of a stored row. -/
def storedRow (dt w : Nat) : Nat := w * dtComps dt * dtBytes dt

/-- A list in runs of `g`, the last filled with `z`. -/
def runsOf {α : Type} (g : Nat) (z : α) (l : List α) : List (List α) :=
  (List.range (ceilDiv l.length g)).map (fun i =>
    let t := (l.drop (g * i)).take g
    t ++ List.replicate (g - t.length) z)

/-- A group of components in CSI-2 byte order: the upper 8 bits of each, then the bits below, packed from the first. DESIGN CHOICE
(notes/assumptions/19.md). -/
def packGroup (b : Nat) (g : List Nat) : List Byte :=
  g.map (fun c => BitVec.ofNat 8 (c / 2 ^ (b - 8))) ++ leBytes (g.length * (b - 8) / 8) (packCodes (b - 8) g)

/-- A line of components as CSI-2 sends it (R296 step 4). -/
def packLine (dt : Nat) (cs : List Nat) : List Byte :=
  match dtDepth dt with
  | 8 => cs.map (fun c => BitVec.ofNat 8 c)
  | 16 => (cs.map (fun c => if Config.raw16MsbFirst then (leBytes 2 c).reverse else leBytes 2 c)).flatten
  | b => ((runsOf (dtGroup dt) 0 cs).map (packGroup b)).flatten

/-- Components of a line received (R283). -/
def unpackLine (dt : Nat) (bs : List Byte) : List Nat :=
  match dtDepth dt with
  | 8 => bs.map (fun b => b.toNat)
  | 16 => (List.range (bs.length / 2)).map (fun i =>
      if Config.raw16MsbFirst then beNat (slice bs (2 * i) 2) else leAt bs (2 * i) 2)
  | b =>
    let g := dtGroup dt
    let z := g * b / 8
    ((List.range (bs.length / z)).map (fun i =>
      (List.range g).map (fun j =>
        leAt bs (z * i + j) 1 * 2 ^ (b - 8) + elemAt (slice bs (z * i + g) (z - g)) (b - 8) j))).flatten

/-- Components of a stored row. -/
def rowComps (dt : Nat) (bs : List Byte) (n : Nat) : List Nat := (List.range n).map (fun i => leAt bs (i * dtBytes dt) (dtBytes dt))

/-! ### Configuration (R285 to R287) -/

/-- The configuration of an emulation port; `lanes` is the number of lanes, 0 for the reserved code. -/
structure EmpCfg where
  late : Bool
  sync : Bool
  expDelay : Nat
  limit : Nat
  w : Nat
  h : Nat
  l2 : Nat
  l3 : Nat
  guard : Nat
  vblank : Nat
  period : Nat
  lanes : Nat
  rate : Nat
  dt : Nat
  black : Nat
  deriving DecidableEq, Repr

/-- Lanes of a LANES field. -/
def laneCount (v : Nat) : Nat := match v with
  | 0 => 1
  | 1 => 2
  | 2 => 4
  | _ => 0

def empCfg (d : Dev) (n : Nat) : EmpCfg :=
  let c := empReg d n 0
  let g := empReg d n 8
  let v := empReg d n 0xC
  let p := empReg d n 0x14
  let x := empReg d n 0x18
  { late := bit c 30, sync := bit c 29, expDelay := fld c 27 2, limit := Nat.max 1 (fld c 16 8), w := fld g 16 14
    h := fld g 0 13, l2 := fld v 29 3, l3 := fld v 26 3, guard := fld v 16 8, vblank := fld v 0 16
    period := fld (empReg d n 0x10) 0 20, lanes := laneCount (fld p 30 2), rate := fld p 0 13, dt := fld x 24 6
    black := fld x 0 16 }

/-- Active lines A (R285). -/
def activeLines (c : EmpCfg) : Nat := c.l2 + c.h + c.l3

/-- Bytes of every line of the port. -/
def cfgLine (c : EmpCfg) : Nat := lineBytes c.dt c.w

/-- Buffers of a side's pool. -/
def empPool (d : Dev) (n side : Nat) : Nat := Nat.min 32 (fld (empReg d n (0x28 + 4 * side)) 16 6)

/-- An entry of a pool table (R284, R273): object, offset, pitch; none where it cannot be read. -/
def tableEntry (d : Dev) (handle i : Nat) : Option (Nat × Nat × Nat × Nat) :=
  match engRead d 2 handle (16 * i) 16 with
  | .ok e => some (leAt e 0 2, leAt e 4 8, leAt e 12 4, leAt e 2 2)
  | _ => none

/-- An entry that a picture of `h` rows of `row` bytes fits. -/
def entryOk (d : Dev) (row h : Nat) (x : Nat × Nat × Nat × Nat) : Bool :=
  x.2.1 % 64 == 0 && x.2.2.1 % 64 == 0 && x.2.2.2 == 0 && decide (row ≤ x.2.2.1)
    && (match objOf d x.1 with
        | some (b, o) => decide ((x.1 - b) * 2 ^ 32 + x.2.1 + x.2.2.1 * (h - 1) + row ≤ o.npages * pageSize)
        | none => false)

/-- Every entry of a pool is well formed. -/
def poolOk (d : Dev) (handle size row h : Nat) : Bool :=
  (List.range size).all (fun i => match tableEntry d handle i with
    | some x => entryOk d row h x
    | none => false)

def empPoolOk (d : Dev) (n side : Nat) (c : EmpCfg) : Bool :=
  decide (fld (empReg d n (0x28 + 4 * side)) 16 6 ≤ 32)
    && poolOk d (fld (empReg d n (0x28 + 4 * side)) 0 16) (empPool d n side) (storedRow c.dt c.w) c.h

/-- Code of the first check of R287 that fails, 0 with none. -/
def empCheck (d : Dev) (n : Nat) (c : EmpCfg) : Nat :=
  let lb := cfgLine c
  if c.w = 0 || 8192 < c.w || c.h = 0 || 4096 < c.h || c.lanes = 0 || c.rate < 80 || 4500 < c.rate || dtDepth c.dt = 0 then 1
  else if c.period * (c.lanes * c.rate) < lb * 8 * 1000 + 500 * (c.lanes * c.rate) then 2
  else if c.l3 ≠ 0 && c.l3 * lb < 1280 then 3
  else if c.vblank < Nat.max 4 (c.guard + 2) then 4
  else if !empPoolOk d n 0 c || (paired d && !empPoolOk d n 1 c) then 5
  else if c.expDelay = 0 then 6
  else if c.l2 * lb < 64 then 7
  else 0

/-! ### Exposure (R303, R305) -/

/-- Entries of the register table that are in use. -/
def rtEntries (d : Dev) (n : Nat) : Nat := Nat.min 1024 (fld (empReg d n 0x80) 16 11)

def rtEntry (e : Emp) (i : Nat) : RtEntry := mget e.rt i ⟨0, 0, 0, 0, false⟩

/-- The entry used for an address: the lowest-indexed one (R303). -/
def rtFind (d : Dev) (n : Nat) (e : Emp) (a : Nat) : Option Nat :=
  (List.range (rtEntries d n)).find? (fun i => (rtEntry e i).addr == a)

/-- Entries of a role, in index order. -/
def rtRole (d : Dev) (n : Nat) (e : Emp) (role : Nat) : List RtEntry :=
  ((List.range (rtEntries d n)).map (rtEntry e)).filter (fun x => x.role == role)

/-- A factor: the bytes of its entries; 1.0 with no entry (R305). DESIGN CHOICE (notes/assumptions/19.md). -/
def factorOf (xs : List RtEntry) : Word :=
  let byte (k : Nat) : Nat := ((xs.find? (fun x => x.byte == k)).map (fun x => x.value)).getD 0
  if xs.any (fun x => x.byte ≤ 2) then i32 (byte 0 + byte 1 * 2 ^ 8 + byte 2 * 2 ^ 16 : Nat) else one32

/-- E of the values that the table holds now. -/
def exposureNow (d : Dev) (n : Nat) (e : Emp) : Word :=
  let part (r : Nat) : Word := fmul (factorOf (rtRole d n e (r + 1))) (BitVec.ofNat 32 (empReg d n (0x1C + 4 * r)))
  fmul (fmul (part 0) (part 1)) (part 2)

/-- Whether a hold entry reads nonzero. -/
def rtHeld (d : Dev) (n : Nat) (e : Emp) : Bool := (rtRole d n e 4).any (fun x => x.value != 0)

/-- Whether the port may send frames: with a stream entry, while it reads 1. -/
def streams (d : Dev) (n : Nat) (e : Emp) : Bool :=
  match rtRole d n e 5 with
  | [] => true
  | x :: _ => bit x.value 0

/-- What the ratio k makes of a frame (R305): K, whether it trims, EXPOSURE_TRIM, EXPOSURE_MISMATCH. -/
structure Trim where
  k : Word
  on : Bool
  trim : Bool
  mis : Bool
  deriving DecidableEq, Repr

def w025 : Word := 0x3E800000#32
def w4 : Word := 0x40800000#32

/-- A ratio clamped to 0.25 to 4. -/
def clampRatio (k : Word) : Word :=
  if numCmp (dec32 k) (dec32 w025) < 0 then w025 else if 0 < numCmp (dec32 k) (dec32 w4) then w4 else k

/-- The same for any word: that of a NaN starts from a free value. DESIGN CHOICE (notes/assumptions/19.md). -/
def clampK (k : Word) : Word :=
  if isNan32 k then (if isNan32 (Config.nanRatio k) then w025 else clampRatio (Config.nanRatio k)) else clampRatio k

def finitePos (w : Word) : Bool :=
  match dec32 w with
  | .fin neg m _ => !neg && m != 0
  | _ => false

def trimOf (dt : Nat) (eA eR : Word) : Trim :=
  let k := fdiv eA eR
  if k = one32 then ⟨one32, false, false, false⟩
  else if !dtRaw dt || !finitePos eR then ⟨one32, false, false, true⟩
  else if !isNan32 k && clampK k == k then ⟨k, true, true, false⟩
  else ⟨clampK k, true, false, true⟩

/-! ### Composition (R296) -/

/-- A quotient rounded to nearest even. -/
def rneDiv (n m : Nat) : Nat :=
  let r := roundMag .int .rne n m
  r.1 * 2 ^ r.2.toNat

/-- Step 1: base and overlay mixed by alpha. DESIGN CHOICE (notes/assumptions/19.md). -/
def mixComp (p0 p1 a : Nat) : Nat := rneDiv (p0 * (255 - a) + p1 * a) 255

/-- Step 2: trim about the black level. -/
def trimComp (k : Word) (black c : Nat) : Int :=
  match dec32 k with
  | .fin neg m dn =>
    let v : Int := (c : Int) - (black : Int)
    let r : Int := (rneDiv (v.natAbs * m) dn : Nat)
    (if decide (v < 0) != neg then -r else r) + (black : Int)
  | _ => c

/-- Step 3: clamp to `b` bits, and whether it changed the component. -/
def clampComp (b : Nat) (v : Int) : Nat × Bool :=
  if v < 0 then (0, true) else if ((2 ^ b : Nat) : Int) ≤ v then (2 ^ b - 1, true) else (v.toNat, false)

/-- A row of a buffer as it is sent, read whether or not it is poisoned: bytes of no object are free. -/
def sendRow (d : Dev) (x : Nat × Nat × Nat × Nat) (off n : Nat) : List Byte :=
  match objOf d x.1 with
  | some (b, _) => t1Read d b ((x.1 - b) * 2 ^ 32 + x.2.1 + off) n
  | none => (List.range n).map (fun i => BitVec.ofNat 8 (Config.freeNat (d.free + off + i)))

/-- Components of row `y` of a frame, each with whether it was clamped. -/
def frameRow (d : Dev) (c : EmpCfg) (e0 : Nat × Nat × Nat × Nat) (e1 : Option (Nat × Nat × Nat × Nat)) (t : Trim) (y : Nat) :
    List (Nat × Bool) :=
  let m := c.w * dtComps c.dt
  let row (x : Nat × Nat × Nat × Nat) : List Nat := rowComps c.dt (sendRow d x (y * x.2.2.1) (storedRow c.dt c.w)) m
  let base := row e0
  let mixed := match e1 with
    | none => base
    | some x =>
      let ovl := row x
      let al := sendRow d x (x.2.2.1 * c.h + y * roundUp c.w 64) c.w
      (List.range m).map (fun i => mixComp (base.getD i 0) (ovl.getD i 0) (byteAt al (i / dtComps c.dt)).toNat)
  mixed.map (fun v => clampComp (dtDepth c.dt) (if t.on then trimComp t.k c.black v else v))

/-- The components of a whole frame. -/
def frameComps (d : Dev) (c : EmpCfg) (e0 : Nat × Nat × Nat × Nat) (e1 : Option (Nat × Nat × Nat × Nat)) (t : Trim) :
    List (List (Nat × Bool)) :=
  (List.range c.h).map (frameRow d c e0 e1 t)

/-- The image lines as packed. -/
def packFrame (dt : Nat) (cs : List (List (Nat × Bool))) : List (List Byte) := cs.map (fun r => packLine dt (r.map (fun p => p.1)))

/-- Components of a safe frame (R309). -/
def safeComps (c : EmpCfg) : List (List (Nat × Bool)) :=
  List.replicate c.h (List.replicate (c.w * dtComps c.dt) (2 ^ (dtDepth c.dt - 1), false))

/-! ### Commits and targets (R291 to R294) -/

/-- The next frame to start. -/
def nextFrame (e : Emp) : Nat := match e.frame with
  | some f => f + 1
  | none => 0

/-- Effective target (R293). -/
def effTarget (e : Emp) (c : Commit) : Nat := Nat.max c.target (nextFrame e)

/-- Whether a commit has arrived: it is pending. -/
def arrived (c : Commit) : Bool := c.arriveAt.isNone

/-- Supersession among the pending commits (R293). -/
def settle (e : Emp) : Emp :=
  let later (e : Emp) (c x : Commit) : Bool :=
    arrived x && x.side == c.side && x.layer == c.layer && decide (c.arrSeq < x.arrSeq) && effTarget e x == effTarget e c
  (e.commits.filter arrived).foldl (fun e c =>
    if e.commits.contains c && e.commits.any (later e c) then dropOne e c 3 else e) e

/-- Target of a commit that arrives now (Table 14-4). -/
def targetNow (d : Dev) (c : EmpCfg) (e : Emp) : Nat :=
  match e.frame, e.phase with
  | some f, .blank =>
    let line := (d.clk.localNs - e.fsLocal) / Nat.max 1 c.period
    if c.late && !c.sync && line < activeLines c + c.vblank - c.guard then f + 1 else f + 2
  | some f, _ => f + 1
  | none, _ => 0

/-- A commit of the queue arrives (R291 to R294). -/
def arriveCommit (d : Dev) (n : Nat) (e : Emp) (c : Commit) : Emp :=
  let c' := { c with arriveAt := none, target := targetNow d (empCfg d n) e, arrSeq := e.evSeq, level := 0 }
  let put (x : Commit) : Commit := if x.side = c.side && x.buf == c.buf then c' else x
  settle { e with commits := e.commits.map put, evSeq := e.evSeq + 1, csState := 1, csSide := c.side, csLayer := c.layer
                  csReg := c.slot.isNone, csBuf := c.buf, csFrame := 0 }

/-! ### Pins -/

/-- The level driven on EMP_OK[n] (R33, R308). -/
def setOk (d : Dev) (n : Nat) (lvl : Bool) : Dev :=
  let e := emp d n
  if e.ok = lvl then d else emit (setEmp d n { e with ok := lvl }) (.pin "EMP_OK" n lvl)

/-- EMP_OK[n] low for every port (R307 to R309). -/
def allOkLow (d : Dev) : Dev := (List.range 16).foldl (fun d n => setOk d n false) d

/-! ### Enable and disable (R287) -/

/-- Setting EN from 0 to 1. -/
def empEnable (d : Dev) (n : Nat) : Dev :=
  let e := emp d n
  if e.enabled then d
  else
    let c := empCfg d n
    match empCheck d n c with
    | 0 =>
      let x := exposureNow d n e
      let ts := (List.range c.expDelay).map (fun i => (⟨i, i + 1, x, e.evSeq + i⟩ : Ticket))
      let d := regPut d (empBase n) (empReg d n 0 % 2 ^ 31 + 2 ^ 31)
      setEmp d n { e with
        enabled := true, cfgErr := 0, frame := none, fsLocal := d.clk.localNs + 100000, edge := none, repeats := 0
        latched := x, tickets := ts, ticketNo := c.expDelay, evSeq := e.evSeq + c.expDelay, crcBad := false, source := none
        phase := if e.phase = .off then .waiting else e.phase }
    | k => setEmp d n { e with cfgErr := k }

/-- EMP_ENABLE. -/
def execEmpEnable (src : Iface) (n : Fin 16) (s : State) : Out3 := lift s (fun d => ownerOnly d src (fun d => empEnable d n.val))

/-- Buffers of a sent frame become free. -/
def freeSent (e : Emp) (s : Sent) : Emp := (s.l0 :: (s.l1.toList ++ s.more)).foldl freeCommit e

def dropSource (e : Emp) : Emp :=
  match e.source with
  | some s => { freeSent e s with source := none }
  | none => e

/-- Clearing EN. DESIGN CHOICE (notes/assumptions/19.md). -/
def empDisable (d : Dev) (n : Nat) : Dev :=
  let e := emp d n
  if !e.enabled then d
  else
    let d := regPut d (empBase n) (empReg d n 0 % 2 ^ 31)
    let e := dropCommits { e with enabled := false, edge := none } (fun _ => true)
    let onRep := (e.onAir.map (fun s => s.rep)).getD false
    let e := if onRep && e.phase == .active then e else dropSource e
    setOk (setEmp d n { e with phase := if e.phase = .active then .active else .off }) n false

/-- EMP_DISABLE. -/
def execEmpDisable (src : Iface) (n : Fin 16) (s : State) : Out3 := lift s (fun d => ownerOnly d src (fun d => empDisable d n.val))

/-! ### Commands from jobs (R288 to R290) -/

def cmdSide (c : EngCmd) : Nat := flag (c.scope == 1)

/-- Commits that a side has queued. -/
def sideQueued (e : Emp) (side : Nat) : Nat := countIf e.commits (fun c => c.side == side)

/-- A command that waits for room among its side's commits (R288, R291). -/
def cmdWaits (e : Emp) (c : EngCmd) : Bool := e.enabled && leAt c.bytes 0 1 == 2 && decide (16 ≤ sideQueued e (cmdSide c))

/-- The next command to be accepted, if its OP is this one. -/
def empFront (e : Emp) (op : Nat) : Option EngCmd :=
  match e.cmds.find? (fun c => !cmdWaits e c) with
  | some c => if leAt c.bytes 0 1 = op then some c else none
  | none => none

/-- Reserved fields and ranges of Table 14-3. -/
def empCmdOk (b : List Byte) : Bool :=
  let op := leAt b 0 1
  leAt b 3 1 < 4 && leAt b 6 2 == 0 && leAt b 0x24 28 == 0
    && (if op = 1 then decide (1 ≤ leAt b 2 1) && decide (leAt b 2 1 ≤ 4) else if op = 2 then decide (leAt b 2 1 ≤ 1) else true)

def sideNamed (e : Emp) (side : Nat) : Bool := side == e.primary || (e.secValid && side == 1 - e.primary)

/-- Whether the stamp and side of a command are refused (R290). -/
def badEpoch (e : Emp) (c : EngCmd) : Bool :=
  !sideNamed e (cmdSide c) || decide (e.epoch.toNat < c.stamp.toNat) || (e.dispute && decide (c.stamp.toNat < e.epoch.toNat))

/-- A completion word (R288). -/
def empWord (status b2 : Nat) (tail : List Byte) : List Byte := leBytes 2 status ++ leBytes 2 b2 ++ tail ++ List.replicate (12 - tail.length) 0

/-- The next command is accepted: `f` gives the port and the word. -/
def empRun (d : Dev) (n op : Nat) (f : Emp → EngCmd → Emp × List Byte) : Dev :=
  let e := emp d n
  match empFront e op with
  | none => d
  | some c =>
    let e' := { e with cmds := e.cmds.erase c }
    let bad (k : Nat) : Dev := engineWord (setEmp d n e') c (empWord k 0 [])
    if !empCmdOk c.bytes then bad 1
    else if !e.enabled then bad 4
    else if badEpoch e c then bad 5
    else
      let r := f e' c
      engineWord (setEmp d n r.1) c r.2

/-- ACQUIRE: the lowest free buffers. -/
def execAcquire (n : Fin 16) (s : State) : Out3 :=
  lift s (fun d => empRun d n.val 1 (fun e c =>
    let side := cmdSide c
    let free := ((List.range (empPool d n.val side)).filter (fun i => ebuf e side i == .free)).take (leAt c.bytes 2 1)
    if free.isEmpty then (e, empWord 2 0 [])
    else (free.foldl (fun e i => setEbuf e side i (.prod c.slot)) e,
      empWord 0 free.length ((List.range 4).map (fun k => leBytes 2 (free.getD k 0xFFFF))).flatten)))

/-- COMMIT. -/
def execCommit (n : Fin 16) (s : State) : Out3 :=
  lift s (fun d => empRun d n.val 2 (fun e c =>
    let b := c.bytes
    let side := cmdSide c
    let buf := leAt b 4 2
    let tag := wordAt b 0x10
    if empPool d n.val side ≤ buf || ebuf e side buf != .prod c.slot then (e, empWord 3 0 [])
    else if leAt b 2 1 = 1 && !e.commits.any (fun x => x.layer == 0 && x.side == side && x.ovl && x.frameTag == tag && arrived x) then
      (e, empWord 6 0 [])
    else
      let at_ := leAt b 8 8
      let wait := bit (leAt b 3 1) 1 && decide (d.clk.devtime.toNat < at_)
      let x : Commit :=
        { side := side, layer := leAt b 2 1, buf := buf, ovl := leAt b 2 1 == 0 && bit (leAt b 3 1) 0, frameTag := tag
          jobTag := wordAt b 0x14, genId := wordAt b 0x18, eR := wordAt b 0x20, slot := some c.slot
          arriveAt := some at_, target := 0, level := 0, vfor := 0, arrSeq := 0, crc0 := 0, crc1 := 0 }
      let e := setEbuf { e with commits := e.commits ++ [x] } side buf .cons
      (if wait then e else arriveCommit d n.val e x, empWord 0 0 [])))

/-- RETURN of a buffer that the job holds as producer. -/
def execEmpReturn (n : Fin 16) (s : State) : Out3 :=
  lift s (fun d => empRun d n.val 3 (fun e c =>
    let buf := leAt c.bytes 4 2
    if ebuf e (cmdSide c) buf = .prod c.slot then (setEbuf e (cmdSide c) buf .free, empWord 0 0 []) else (e, empWord 3 0 [])))

/-- TICKET of a frame, or of the latest issued. -/
def execTicket (n : Fin 16) (s : State) : Out3 :=
  lift s (fun d => empRun d n.val 4 (fun e c =>
    let want := leAt c.bytes 0x1C 4
    let last := ((e.tickets.getLast?).map (fun t => t.frame)).getD 0
    let f := if want = 0xFFFFFFFF then last else want
    match e.tickets.find? (fun t => t.frame == f) with
    | some t => (e, empWord 0 0 (leBytes 4 t.num ++ leBytes 4 f ++ leBytes 4 t.e.toNat))
    | none =>
      if last < f then (e, empWord 0 1 (leBytes 4 0 ++ leBytes 4 f ++ leBytes 4 (exposureNow d n.val e).toNat))
      else (e, empWord 7 0 [])))

/-- The queued commit with the earliest ARRIVE_AT, the first queued among equals, and that time. -/
def nextArrival (e : Emp) : Option (Nat × Commit) :=
  e.commits.foldl (fun b c =>
    match b, c.arriveAt with
    | some x, some t => if t < x.1 then some (t, c) else b
    | none, some t => some (t, c)
    | b, none => b) none

/-- COMMIT_ARRIVE, at its ARRIVE_AT. -/
def execCommitArrive (n : Fin 16) (s : State) : Out3 :=
  lift s (fun d =>
    let e := emp d n.val
    match nextArrival e with
    | some (t, c) => let d := untilDevtime d t; setEmp d n.val (arriveCommit d n.val e c)
    | none => d)

/-- A write of EMPn_COMMIT with GO = 1 (R291). -/
def empCommitWrite (d : Dev) (n buf : Nat) : Dev :=
  let e := emp d n
  if !e.enabled || paired d || empPool d n 0 ≤ buf || ebuf e 0 buf != .free || 16 ≤ sideQueued e 0 then
    record d { fspec 0 0x0F 0x02 with unit := n, detail := empBase n + 0x40 }
  else
    let x : Commit :=
      { side := 0, layer := 0, buf := buf, ovl := false, frameTag := 0, jobTag := 0, genId := 0, eR := 0, slot := none
        arriveAt := some 0, target := 0, level := 0, vfor := 0, arrSeq := 0, crc0 := 0, crc1 := 0 }
    setEmp d n (arriveCommit d n (setEbuf { e with commits := e.commits ++ [x] } 0 buf .cons) x)

/-- EMP_COMMIT_WRITE. -/
def execEmpCommitWrite (src : Iface) (n : Fin 16) (buf : Fin 32) (s : State) : Out3 :=
  lift s (fun d => ownerOnly d src (fun d => empCommitWrite d n.val buf.val))

/-! ### Verification (R295) -/

/-- The pending overlay of a base commit. -/
def overlayOf (e : Emp) (c : Commit) : Option Commit :=
  if c.ovl then e.commits.find? (fun x => x.layer == 1 && x.side == c.side && x.frameTag == c.frameTag && arrived x) else none

/-- The pool-table entry of a commit's buffer. -/
def commitEntry (d : Dev) (n : Nat) (c : Commit) : Option (Nat × Nat × Nat × Nat) :=
  tableEntry d (fld (empReg d n (0x28 + 4 * c.side)) 0 16) c.buf

def ticketFor (e : Emp) (f : Nat) : Option Ticket := e.tickets.find? (fun t => t.frame == f)

/-- E_R of a commit in a frame of applied exposure `eA` (R291). -/
def commitER (c : Commit) (eA : Word) : Word := if c.slot.isNone then eA else c.eR

/-- The pass that a base commit needs next, with its place in the order of eligibility. -/
def passFor (e : Emp) (c : Commit) : Option (Nat × VPass) :=
  let f := effTarget e c
  match ticketFor e f with
  | none => none
  | some t =>
    let k := Nat.max c.arrSeq t.seq
    if c.vfor != f || c.level == 0 then some (k, ⟨c.side, f, c.buf, none⟩)
    else if c.level = 1 then (overlayOf e c).map (fun x => (Nat.max k x.arrSeq, ⟨c.side, f, c.buf, some x.buf⟩))
    else none

/-- The eligible pass that comes first. -/
def firstPass (e : Emp) : Option (Nat × VPass) :=
  ((e.commits.filter (fun c => c.layer == 0 && arrived c)).filterMap (passFor e)).foldl (fun a p =>
    match a with
    | none => some p
    | some q => if p.1 < q.1 then some p else some q) none

/-- VERIFY_PASS_START. -/
def execVerifyPassStart (n : Fin 16) (s : State) : Out3 :=
  lift s (fun d =>
    let e := emp d n.val
    if e.enabled && e.pass.isNone then setEmp d n.val { e with pass := (firstPass e).map (fun p => p.2) } else d)

/-- Pages that a pass must wait for, and whether a read of it is uncorrectable. -/
def passReads (d : Dev) (c : EmpCfg) (x : Nat × Nat × Nat × Nat) (alpha : Bool) : List Nat × Bool :=
  let len := x.2.2.1 * (c.h - 1) + storedRow c.dt c.w
  let len := if alpha then x.2.2.1 * c.h + roundUp c.w 64 * (c.h - 1) + c.w else len
  (engWaits d 2 x.1 x.2.1 len, match engRead d 2 x.1 x.2.1 len with
    | .ok _ => false
    | _ => true)

/-- VERIFY_PASS_DONE: the candidate's level and CRC, or its loss to an uncorrectable read. -/
def passDone (d : Dev) (n : Nat) (bad : Bool) : Dev :=
  let e := emp d n
  match e.pass with
  | none => d
  | some p =>
    let find (b layer : Nat) : Option Commit := e.commits.find? (fun c => c.side == p.side && c.buf == b && c.layer == layer)
    let e' := { e with pass := none }
    match find p.buf0 0, ticketFor e p.frame with
    | some c, some t =>
      let cf := empCfg d n
      let ovl := p.buf1.bind (fun b => find b 1)
      match commitEntry d n c, ovl.bind (commitEntry d n) with
      | some x0, x1 =>
        let r0 := passReads d cf x0 false
        let r1 := (x1.map (fun x => passReads d cf x true)).getD ([], false)
        if !r0.1.isEmpty || !r1.1.isEmpty then requestPages d (r0.1 ++ r1.1)
        else if bad || r0.2 || r1.2 || (ovl.isSome && x1.isNone) then
          record (setEmp d n (dropOne e' c 4)) { fspec 2 0x0F 0x04 with unit := n, detail := c.buf }
        else
          let tr := trimOf cf.dt t.e (commitER c t.e)
          let crc := crc32 (packFrame cf.dt (frameComps d cf x0 x1 tr)).flatten
          let up (x : Commit) : Commit :=
            if x.side = c.side && x.buf == c.buf then
              if p.buf1.isSome then { x with level := 2, crc1 := crc } else { x with level := 1, vfor := p.frame, crc0 := crc }
            else x
          setEmp d n { e' with commits := e.commits.map up }
      | none, _ => record (setEmp d n (dropOne e' c 4)) { fspec 2 0x0F 0x04 with unit := n, detail := c.buf }
    | _, _ => setEmp d n e'

def execVerifyPassDone (n : Fin 16) (bad : Bool) (s : State) : Out3 := lift s (fun d => passDone d n.val bad)

/-! ### Embedded data and statistics (R300, R301) -/

/-- What the L2 and L3 blocks say of a frame. -/
structure FrameInfo where
  flags : Nat
  tags : List Byte
  ticket : Ticket
  eff : Word
  k : Word
  srcFrame : Nat
  crc : Word
  deriving DecidableEq, Repr

/-- The 64 bytes of Table 14-6. -/
def l2Block (d : Dev) (n f : Nat) (e : Emp) (i : FrameInfo) : List Byte :=
  let b := leBytes 2 1 ++ leBytes 1 n ++ leBytes 1 i.flags ++ leBytes 4 f ++ leBytes 8 d.clk.devtime.toNat ++ i.tags
    ++ leBytes 4 i.ticket.num ++ leBytes 4 i.ticket.e.toNat ++ leBytes 4 i.eff.toNat ++ leBytes 4 i.k.toNat
    ++ leBytes 4 i.srcFrame ++ leBytes 4 e.epoch.toNat ++ leBytes 4 i.crc.toNat ++ leBytes 2 e.event ++ leBytes 2 0
  b ++ leBytes 4 (crc32 b).toNat

/-- Channel of Table 14-7's means that component `i` of row `y` belongs to; none for the user-defined types. -/
def channelOf (n dt y i : Nat) : Option Nat :=
  if dtRaw dt then
    let ch := bayerChannel (Config.bayerOf n % 4) y i
    some (if ch = 0 then 0 else if ch = 2 then 3 else
      -- a G pixel of a row that holds R is Gr
      (if bayerChannel (Config.bayerOf n % 4) y (i + 1) = 0 then 1 else 2))
  else if dt = 0x1E then some (match i % 4 with
    | 0 => 1
    | 2 => 2
    | _ => 0)
  else if dt = 0x24 then some (2 - i % 3)
  else none

/-- Whether component `i` of row `y` is one that q is taken from. -/
def isQ (n dt y i : Nat) : Bool :=
  if 0x2B ≤ dt && dt ≤ 0x2E then bayerChannel (Config.bayerOf n % 4) y i == 1
  else if dt = 0x1E then i % 2 == 1
  else if dt = 0x24 then i % 3 == 1
  else true

/-- The 1,280 bytes of Table 14-7, from the components as sent; what an empty channel or zone holds is free. DESIGN CHOICE
(notes/assumptions/19.md). -/
def l3Block (d : Dev) (n f : Nat) (c : EmpCfg) (t : Ticket) (cs : List (List (Nat × Bool))) : List Byte × Dev :=
  let all : List (Nat × Nat × Nat × Bool) :=
    ((List.range cs.length).map (fun y => (List.range (cs.getD y []).length).map (fun i =>
      (y, i, (cs.getD y []).getD i (0, false))))).flatten
  let clipped := countIf all (fun p => p.2.2.2)
  let mean (ch : Nat) (z : Byte → Nat) : List Byte :=
    let xs := all.filter (fun p => channelOf n c.dt p.1 p.2.1 == some ch)
    if ch = 3 && !dtRaw c.dt && channelOf n c.dt 0 0 != none then leBytes 4 0
    else if xs.isEmpty then leBytes 4 (z 0)
    else leBytes 4 (rnd32 (.fin false (xs.map (fun p => p.2.2.1)).sum xs.length)).toNat
  let qs := (all.filter (fun p => isQ n c.dt p.1 p.2.1)).map (fun p =>
    (8 * p.1 / Nat.max 1 c.h * 8 + 8 * (p.2.1 / dtComps c.dt) / Nat.max 1 c.w, p.2.2.1 / 2 ^ (dtDepth c.dt - 8)))
  let zone (k : Nat) : List Byte :=
    let xs := qs.filter (fun p => p.1 == k)
    leBytes 2 (if xs.isEmpty then Config.freeNat (d.free + 4 + k) else rneDiv (256 * (xs.map (fun p => p.2)).sum) xs.length)
  let hist := ((List.range 256).map (fun v => leBytes 4 (countIf qs (fun p => p.2 == v)))).flatten
  (leBytes 4 t.num ++ leBytes 4 f ++ leBytes 4 clipped ++ leBytes 4 0
    ++ ((List.range 4).map (fun ch => mean ch (fun _ => Config.freeNat (d.free + ch)))).flatten ++ List.replicate 32 0 ++ hist
    ++ ((List.range 64).map zone).flatten ++ List.replicate 64 0,
   { d with free := d.free + 68 })

/-- Bytes as `k` lines of `z` bytes, filled with zeros. -/
def asLines (k z : Nat) (bs : List Byte) : List (List Byte) := (List.range k).map (fun i => slice bs (z * i) z)

/-! ### The frame decision (R297, R298, R308) -/

/-- Level of a side's candidate with effective target `f`: none under a dispute. -/
def levelOf (e : Emp) (side f : Nat) : Nat × Option Commit :=
  match e.commits.find? (fun c => c.layer == 0 && c.side == side && arrived c && effTarget e c == f) with
  | some c => (if e.dispute || c.vfor != f then 0 else if c.level = 2 && (overlayOf e c).isNone then 1 else c.level, some c)
  | none => (0, none)

/-- A commit and its overlays leave the queue for a frame. -/
def takeCommit (e : Emp) (f : Nat) (c : Commit) : Emp × List Commit :=
  let mine (x : Commit) : Bool := x.side == c.side && x.layer == 1 && c.ovl && x.frameTag == c.frameTag
  let ls := e.commits.filter mine
  let e := (c :: ls).foldl (fun e x => noteCommit e x 2 f) e
  ({ e with commits := e.commits.filter (fun x => !mine x && !(x.side == c.side && x.buf == c.buf)) }, ls)

/-- What a frame sends: the frame's content, the flags chosen with it, and whether a pair difference chose it. -/
structure Choice where
  sent : Option Sent
  flags : Nat
  pairDiff : Bool
  deriving DecidableEq, Repr

/-- send(x, v) of R297. -/
def sendSide (e : Emp) (cf : EmpCfg) (f : Nat) (eA : Word) (c : Commit) (v : Nat) : Emp × Sent × Nat :=
  let ovl := overlayOf e c
  let r := takeCommit e f c
  let tr := trimOf cf.dt eA (commitER c eA)
  let used := if v = 2 then ovl else none
  let s : Sent :=
    { side := c.side, l0 := c, l1 := used, more := r.2.filter (fun x => some x != used), k := tr.k
      eff := fmul (commitER c eA) tr.k, crc := if v = 2 then c.crc1 else c.crc0, src := f, trim := tr.trim, rep := false }
  (r.1, s, put (flag (v == 1 && c.ovl)) 1 1 + put (flag tr.trim) 2 1 + put (flag tr.mis) 3 1)

/-- The decision; the SAFE_FRAME bit is 5, DEGRADED 4, REPEAT 0. -/
def decideFrame (d : Dev) (n f : Nat) (e : Emp) (eA : Word) : Emp × Choice :=
  let cf := empCfg d n
  let safe (e : Emp) : Emp × Choice := (dropSource { e with repeats := 0 }, ⟨none, 2 ^ 5, false⟩)
  let p := levelOf e e.primary f
  let s := if e.secValid then levelOf e (1 - e.primary) f else (0, none)
  let deg := if e.secValid then 2 ^ 4 else 0
  let one (c : Commit) (v fl : Nat) (pd : Bool) : Emp × Choice :=
    let r := sendSide e cf f eA c v
    ({ r.1 with repeats := 0 }, ⟨some r.2.1, r.2.2 + fl, pd⟩)
  if e.forced || e.alone || d.ports.safeIn || d.boot.st == .halt then safe e
  else
    match p.1, p.2, s.1, s.2 with
    | 0, _, 0, _ =>
      match e.source with
      | some x =>
        if e.repeats < cf.limit then
          ({ e with repeats := satAdd 8 e.repeats 1 },
            ⟨some { x with rep := true }, 1 + put (flag x.trim) 2 1 + put (flag (x.eff != eA)) 3 1, false⟩)
        else safe e
      | none => safe e
    | lp, some a, 0, _ => one a lp deg false
    | 0, _, ls, some b => one b ls deg false
    | lp, some a, ls, some b =>
      let v := Nat.min lp ls
      let crc (c : Commit) : Word := if v = 2 then c.crc1 else c.crc0
      let same := crc a == crc b
      let r := if same then one a v 0 false else one b v (2 ^ 4) true
      let o := if same then b else a
      -- the other side's candidate is used up by the comparison
      let t := takeCommit r.1 f o
      ((o :: t.2).foldl freeCommit t.1, r.2)
    | _, _, _, _ => safe e

/-- Running counts of a frame's flags. -/
def countFlags (e : Emp) (fl : Nat) : Emp :=
  { e with
    cRepeat := satAdd 16 e.cRepeat (flag (bit fl 0)), cOmitted := satAdd 16 e.cOmitted (flag (bit fl 1))
    cTrim := satAdd 16 e.cTrim (flag (bit fl 2)), cMismatch := satAdd 16 e.cMismatch (flag (bit fl 3))
    cSafe := satAdd 16 e.cSafe (flag (bit fl 5)) }

/-- Jobs that hold a buffer of a port, or whose commit or command waits there. -/
def empJobs (e : Emp) : List Nat :=
  (e.bufs0 ++ e.bufs1).filterMap (fun p => match p.2 with
    | .prod s => some s
    | _ => none) ++ e.commits.filterMap (fun c => c.slot) ++ e.cmds.map (fun c => c.slot)

/-- C5 of a pool of a side (R28, R284). -/
def law5Emp (d : Dev) (n side : Nat) : Option FSpec :=
  let e := emp d n
  let bs := if side = 0 then e.bufs0 else e.bufs1
  let got := countIf (List.range (empPool d n side)) (fun i => (mget? bs i).isNone) + bs.length
  if got = empPool d n side then none else some { fspec 3 0x0F 0x08 with unit := n, detail := lawDetail 5 (empPool d n side) got }

/-- C5 audited at a frame boundary: a violation stops the port and ends the jobs that use it. -/
def empAudit (d : Dev) (n side : Nat) : Dev :=
  match law5Emp d n side with
  | none => d
  | some f => empDisable (violation d (some f) (scopesOf d (empJobs (emp d n)))) n

/-- The payload of a frame as read at its Frame Start. -/
def sentComps (d : Dev) (n : Nat) (cf : EmpCfg) (s : Option Sent) : List (List (Nat × Bool)) :=
  match s with
  | none => safeComps cf
  | some s =>
    match commitEntry d n s.l0 with
    | none => safeComps cf
    | some x0 => frameComps d cf x0 (s.l1.bind (commitEntry d n)) ⟨s.k, s.k != one32 && dtRaw cf.dt, false, false⟩

/-- Whether a Frame Start is due: the port is on, its previous frame is over, its edge has come, its stream entry allows it. -/
def frameDue (d : Dev) (n : Nat) : Bool :=
  let e := emp d n
  e.enabled && (e.phase == .waiting || e.phase == .blank) && (!(empCfg d n).sync || e.edge.isSome) && streams d n e

/-- A Frame Start (R285, R297, R304, R305, R308). -/
def frameStart (d : Dev) (n : Nat) : Dev :=
  let e := emp d n
  let cf := empCfg d n
  let f := nextFrame e
  let x := if rtHeld d n e then e.latched else exposureNow d n e
  let t : Ticket := ⟨f + cf.expDelay, (e.ticketNo + 1) % 2 ^ 32, x, e.evSeq⟩
  let ts := e.tickets ++ [t]
  let e := { e with
    latched := x, tickets := ts.drop (ts.length - 16), ticketNo := t.num, evSeq := e.evSeq + 1
    pass := e.pass.filter (fun p => f < p.frame) }
  let tk := (ticketFor e f).getD ⟨f, 0, x, 0⟩
  let r := decideFrame d n f e tk.e
  let e := r.1
  let ch := r.2
  let safe := ch.sent.isNone
  let fenced := d.flt.fencedW || d.flt.fencedE
  let fl := if fenced && !safe && !bit ch.flags 4 then ch.flags + 2 ^ 4 else ch.flags
  let cs := sentComps d n cf ch.sent
  let img := packFrame cf.dt cs
  let crc := crc32 img.flatten
  let want := (ch.sent.map (fun s => s.crc)).getD crc
  let tags := match ch.sent with
    | some s => leBytes 4 s.l0.jobTag.toNat ++ leBytes 4 s.l0.genId.toNat ++ leBytes 4 s.l0.frameTag.toNat
    | none => leBytes 12 0
  let info : FrameInfo :=
    { flags := fl, tags := tags, ticket := tk, eff := (ch.sent.map (fun s => s.eff)).getD 0, k := (ch.sent.map (fun s => s.k)).getD 0
      srcFrame := (ch.sent.map (fun s => s.src)).getD f, crc := want }
  let z := cfgLine cf
  let l3 := l3Block d n f cf tk cs
  let lines := asLines cf.l2 z (l2Block d n f e info) ++ img ++ asLines cf.l3 z l3.1
  let good := !bit fl 0 && !bit fl 1 && !bit fl 3 && !bit fl 5 && !ch.pairDiff && !e.crcBad
  let miss := crc != want
  let e := settle { countFlags e fl with
    phase := .active, frame := some f, fsLocal := d.clk.localNs, edge := none, onAir := ch.sent, safeAir := safe, lines := lines
    crcBad := miss, cCrcFail := satAdd 8 e.cCrcFail (flag miss), cPairDiff := satAdd 8 e.cPairDiff (flag ch.pairDiff) }
  let d := setEmp (if cf.l3 = 0 then d else l3.2) n e
  let d := if ch.pairDiff then record d { fspec 3 0x0F 0x14 with unit := n, detail := f } else d
  let d := empAudit (empAudit d n 0) n 1
  setOk d n (good && (emp d n).enabled)

/-- Local time at which the frame on air, or the last one, has sent `k` lines. -/
def linesEnd (d : Dev) (n k : Nat) : Nat := (emp d n).fsLocal + k * (empCfg d n).period

/-- Local time from which a Frame Start may come, or an FSYNC_IN edge be accepted (R286). -/
def startFrom (d : Dev) (n : Nat) : Nat :=
  let cf := empCfg d n
  if (emp d n).phase = .blank then linesEnd d n (activeLines cf + cf.vblank) else (emp d n).fsLocal

/-- Local time of the next Frame Start: with SYNC_EXT one LINE_PERIOD after the edge (R286). -/
def startAt (d : Dev) (n : Nat) : Nat :=
  match (empCfg d n).sync, (emp d n).edge with
  | true, some t => t + (empCfg d n).period
  | _, _ => startFrom d n

/-- FRAME_START, at its time. -/
def execFrameStart (n : Fin 16) (s : State) : Out3 :=
  lift s (fun d => if frameDue d n.val then frameStart (untilLocal d (startAt d n.val)) n.val else d)

/-! ### The end of a frame (R285, R297, R299) -/

/-- After its Frame End a fresh frame becomes the repeat source; a port that was disabled goes off. -/
def airEnds (e : Emp) : Emp :=
  let e' := { e with onAir := none, safeAir := e.safeAir, lines := [] }
  if !e.enabled || e.frame.isNone then
    let e' := match e.onAir with
      | some s => if s.rep then e' else freeSent e' s
      | none => e'
    { dropSource e' with phase := if e.enabled then .waiting else .off }
  else
    match e.onAir with
    | some s => if s.rep then { e' with phase := .blank } else { dropSource e' with source := some s, phase := .blank }
    | none => { e' with phase := .blank }

/-- Lines as long packets with their data types: L2 and L3 are embedded data (Table 14-1, R285). -/
def linePackets (c : EmpCfg) (lines : List (List Byte)) : List (Nat × List Byte) :=
  (List.range lines.length).map (fun i => (if c.l2 ≤ i && i < c.l2 + c.h then c.dt else 0x12, lines.getD i []))

/-- The lines of the frame on air leave the port, on its virtual channel. -/
def frameEnd (d : Dev) (n : Nat) (lines : List (List Byte)) : Dev :=
  let e := emp d n
  let c := empCfg d n
  emit (setEmp d n (airEnds e)) (.frame n (e.frame.getD 0 % 65535 + 1) (fld (empReg d n 0) 25 2) (linePackets c lines))

/-- FRAME_END. -/
def execFrameEnd (n : Fin 16) (s : State) : Out3 :=
  lift s (fun d =>
    let e := emp d n.val
    if e.phase = .active then frameEnd (untilLocal d (linesEnd d n.val (activeLines (empCfg d n.val)))) n.val e.lines else d)

/-- EMP_READ_ERROR in line `line` of the frame on air: the frame ends early (R26). -/
def execEmpReadError (n : Fin 16) (line : Fin 4105) (s : State) : Out3 :=
  lift s (fun d =>
    let e := emp d n.val
    match e.phase, e.onAir with
    | .active, some x =>
      let d := setOk (setEmp d n.val { e with cEarlyEnd := satAdd 8 e.cEarlyEnd 1 }) n.val false
      record (frameEnd d n.val (e.lines.take (line.val + 1))) { fspec 2 0x0F 0x04 with unit := n.val, detail := x.l0.buf }
    | _, _ => d)

/-- FSYNC_IN_EDGE (R286), `after` nanoseconds from now. -/
def execFsyncInEdge (n : Fin 16) (after : BitVec 32) (s : State) : Out3 :=
  lift s (fun d =>
    let d := elapse d after.toNat
    let e := emp d n.val
    let cf := empCfg d n.val
    if !e.enabled || !cf.sync || e.edge.isSome then d
    else
      let ready := (e.phase == .waiting || e.phase == .blank) && decide (startFrom d n.val ≤ d.clk.localNs)
      if ready then setEmp d n.val { e with edge := some d.clk.localNs }
      else if e.frame.isSome then setEmp d n.val { e with cFsyncIgn := satAdd 8 e.cFsyncIgn 1 }
      else d)

/-! ### Emulated registers (R302 to R304) -/

/-- One byte of a write transfer. -/
def targetByte (d : Dev) (n : Nat) (e : Emp) (a : Nat) (b : Byte) : Emp :=
  match rtFind d n e a with
  | some i =>
    let x := rtEntry e i
    if x.wr then { e with rt := mset e.rt i { x with value := b.toNat } } else { e with cUnmapped := satAdd 16 e.cUnmapped 1 }
  | none => { e with cUnmapped := satAdd 16 e.cUnmapped 1 }

/-- Bytes from an address on; it wraps at 0xFFFF. -/
def targetBytes (d : Dev) (n : Nat) (e : Emp) (a : Nat) : List Byte → Emp
  | [] => e
  | b :: bs => targetBytes d n (targetByte d n e a b) ((a + 1) % 2 ^ 16) bs

/-- TARGET_WRITE: the transfer ends. -/
def execTargetWrite (n : Fin 16) (addr : BitVec 16) (data : List Byte) (s : State) : Out3 :=
  lift s (fun d => setEmp d n.val (targetBytes d n.val (emp d n.val) addr.toNat data))

/-- TARGET_READ of `len` bytes. -/
def execTargetRead (n : Fin 16) (addr : BitVec 16) (len : Nat) (s : State) : Out3 :=
  lift s (fun d =>
    let e := emp d n.val
    let rd (i : Nat) : Byte := match rtFind d n.val e ((addr.toNat + i) % 2 ^ 16) with
      | some k => BitVec.ofNat 8 (rtEntry e k).value
      | none => 0
    emit d (.target n.val ((List.range len).map rd)))

/-- What a CCC does to the dynamic address. -/
def cccAddr (op : Ccc) (old : Option Nat) : Option Nat :=
  match op with
  | .setdasa a => some a.toNat
  | .entdaa a => if old.isSome then old else some a.toNat
  | .rstdaa => none
  | .other => old

/-- TARGET_CCC (R302): on an I3C target only. -/
def execTargetCcc (n : Fin 16) (op : Ccc) (s : State) : Out3 :=
  lift s (fun d =>
    let e := emp d n.val
    if bit (empReg d n.val 0x80) 31 then setEmp d n.val { e with dyn := cccAddr op e.dyn } else d)

/-- An entry as EMPn_RT_DATA lays it out. -/
def rtWord (x : RtEntry) : Nat :=
  put x.addr 16 16 + put x.value 8 8 + put x.role 5 3 + put x.byte 3 2 + put (flag x.wr) 2 1

def rtOfWord (w : Nat) : RtEntry := ⟨fld w 16 16, fld w 8 8, fld w 5 3, fld w 3 2, bit w 2⟩

/-- OP 1 of EMPn_RT_ACC. -/
def rtRead (d : Dev) (n idx : Nat) : Dev :=
  regPut (regPut d (empBase n + 0x84) (2 ^ 30 + idx)) (empBase n + 0x88) (rtWord (rtEntry (emp d n) idx))

/-- OP 2 of EMPn_RT_ACC. -/
def rtWrite (d : Dev) (n idx : Nat) : Dev :=
  let e := emp d n
  let d := regPut d (empBase n + 0x84) (2 * 2 ^ 30 + idx)
  setEmp d n { e with rt := mset e.rt idx (rtOfWord (empReg d n 0x88)) }

/-- RT_ACC_READ. -/
def execRtAccRead (src : Iface) (n : Fin 16) (idx : Fin 1024) (s : State) : Out3 :=
  lift s (fun d => ownerOnly d src (fun d => rtRead d n.val idx.val))

/-- RT_ACC_WRITE. -/
def execRtAccWrite (src : Iface) (n : Fin 16) (idx : Fin 1024) (s : State) : Out3 :=
  lift s (fun d => ownerOnly d src (fun d => rtWrite d n.val idx.val))

/-! ### Token, dispute, SAFE_STATE_N (R306 to R309, R348) -/

/-- A port takes the token that the SCD sends. -/
def adoptToken (d : Dev) (n : Nat) : Dev :=
  let e := emp d n
  let e := { e with epoch := d.flt.epoch, primary := d.flt.primary, secValid := d.flt.secValid, alone := false
                    dispute := d.flt.dispute, forced := e.forced && d.flt.dispute }
  setEmp d n (dropCommits e (fun c => !sideNamed e c.side))

/-- TOKEN_ADOPT. -/
def execTokenAdopt (n : Fin 16) (s : State) : Out3 := lift s (fun d => adoptToken d n.val)

/-- DISPUTE_TIMEOUT: ports whose dispute is open 50 microseconds. -/
def execDisputeTimeout (s : State) : Out3 :=
  lift s (fun d => (List.range 16).foldl (fun d n =>
    let e := emp d n
    if e.dispute then setOk (setEmp d n { e with forced := true }) n false else d) (if d.flt.dispute then afterTimer d .dispute 50000 else d))

/-- SAFE_STATE_ASSERT: it prevails over a dispute, a recovery and any commit (R27, R313). -/
def execSafeStateAssert (s : State) : Out3 :=
  lift s (fun d => allOkLow { d with ports := { d.ports with safeIn := true } })

/-- SAFE_STATE_RELEASE. -/
def execSafeStateRelease (s : State) : Out3 := lift s (fun d => { d with ports := { d.ports with safeIn := false } })

end Sys2Proof.Machine
end

