-- ==== Sys2Proof/Machine/Capture.lean ====
section
/-! DEFINITION. The capture ports (R310 to R312): received frames, the completion queue and its commands, FSYNC_OUTn. -/

namespace Sys2Proof.Machine

def cap (d : Dev) (n : Nat) : Cap := mget d.ports.cap n Cap.reset
def setCap (d : Dev) (n : Nat) (c : Cap) : Dev := { d with ports := { d.ports with cap := mset d.ports.cap n c } }
def capBase (n : Nat) : Nat := 0x58000 + n * 0x800
def capReg (d : Dev) (n o : Nat) : Nat := regGet d (capBase n + o)

def capDt (d : Dev) (n : Nat) : Nat := fld (capReg d n 0) 19 6
def capW (d : Dev) (n : Nat) : Nat := fld (capReg d n 4) 16 14
def capH (d : Dev) (n : Nat) : Nat := fld (capReg d n 4) 0 13

/-- Buffers of the pool. -/
def capPool (d : Dev) (n : Nat) : Nat := Nat.min 32 (fld (capReg d n 8) 16 6)

/-! ### What holds a buffer (Table 14-2) -/

def takenBy (t : CTake) : Bool := match t with
  | .taken _ _ => true
  | _ => false

/-- Being filled, or complete and not taken by every side in service. -/
def capProducer (d : Dev) (b : CBufSt) : Bool :=
  match b with
  | .filling => true
  | .complete _ _ _ _ t0 t1 => (sideServes d 0 && t0 == .waiting) || (sideServes d 1 && t1 == .waiting)

/-- Counts of free, producer-held and consumer-held buffers. -/
def capCounts (d : Dev) (n : Nat) : Nat × Nat × Nat :=
  let c := cap d n
  (countIf (List.range (capPool d n)) (fun i => (mget? c.bufs i).isNone), countIf c.bufs (fun p => capProducer d p.2),
    countIf c.bufs (fun p => !capProducer d p.2))

/-- A completion word of R311. -/
def capWord (status : Nat) : List Byte := leBytes 16 status

/-- Clearing EN: every buffer is freed after the current frame; TAKEs that wait end PORT_OFF. DEDUCED (notes/assumptions/42.md). -/
def capDisable (d : Dev) (n : Nat) : Dev :=
  let c := cap d n
  let d := regPut d (capBase n) (capReg d n 0 % 2 ^ 31)
  let off := { c with enabled := false, takes := [] }
  let d := setCap d n (if c.cur.isSome then off else { off with bufs := [], queue := [] })
  c.takes.foldl (fun d x => engineWord d x (capWord 4)) d

/-- Jobs that hold a buffer of a port or wait for one. -/
def capJobs (c : Cap) : List Nat :=
  let of (t : CTake) : List Nat := match t with
    | .taken s _ => [s]
    | _ => []
  (c.bufs.map (fun p => match p.2 with
    | .complete _ _ _ _ t0 t1 => of t0 ++ of t1
    | .filling => [])).flatten ++ (c.cmds ++ c.takes).map (fun x => x.slot)

/-- C5 of a capture pool (R28). -/
def law5Cap (d : Dev) (n : Nat) : Option FSpec :=
  let k := capCounts d n
  let got := k.1 + k.2.1 + k.2.2
  if got = capPool d n then none else some { fspec 3 0x10 0x08 with unit := n, detail := lawDetail 5 (capPool d n) got }

/-- C5 audited at a frame boundary: a violation stops the port and ends the jobs that use it. -/
def capAudit (d : Dev) (n : Nat) : Dev :=
  match law5Cap d n with
  | none => d
  | some f => capDisable (violation d (some f) (scopesOf d (capJobs (cap d n)))) n

/-! ### Frames received (R310, R311) -/

/-- Row `j` of a pool buffer, stored. -/
def capStore (d : Dev) (n buf j : Nat) (cs : List Nat) : Dev :=
  match tableEntry d (fld (capReg d n 8) 0 16) buf with
  | none => d
  | some x => (engWrite d 2 x.1 (x.2.1 + j * x.2.2.1) (cs.map (leBytes (dtBytes (capDt d n)))).flatten).getD d

/-- Row `j` of a pool buffer as it stands. -/
def capLoad (d : Dev) (n buf j : Nat) : List Nat :=
  let m := capW d n * dtComps (capDt d n)
  match tableEntry d (fld (capReg d n 8) 0 16) buf with
  | none => []
  | some x => rowComps (capDt d n) (sendRow d x (j * x.2.2.1) (storedRow (capDt d n) (capW d n))) m

/-- Padding of a short line: its last pixel, or zeros (FILL). -/
def padLine (fill : Bool) (comps m : Nat) (cs : List Nat) : List Nat :=
  let tail := cs.drop (cs.length - comps)
  cs ++ (List.range (m - cs.length)).map (fun i => if fill then 0 else tail.getD (i % comps) 0)

/-- Missing line `j` of a frame that is closed: the last line received before it, or zeros. DEDUCED (notes/assumptions/42.md). -/
def fillLine (d : Dev) (n buf : Nat) (got : List Nat) (j : Nat) : List Nat :=
  let zeros := List.replicate (capW d n * dtComps (capDt d n)) 0
  if bit (capReg d n 0) 30 then zeros
  else match (got.filter (fun i => i < j)).getLast? with
    | some i => capLoad d n buf i
    | none => zeros

/-- Whether a complete buffer carries SHORT or LONG. -/
def capMarked (b : CBufSt) : Bool :=
  match b with
  | .complete s l _ _ _ _ => s || l
  | .filling => false

/-- The current frame is closed (R310, R311), and recorded when it carries a mark (R20); `cut` when no Frame End closed it. DEDUCED (notes/assumptions/42.md). -/
def capClose (d : Dev) (n : Nat) (cut : Bool) : Dev :=
  let c := cap d n
  match c.cur with
  | none => d
  | some f =>
    let d := match f.buf with
      | none => setCap d n { c with cur := none }
      | some b =>
        let miss := (List.range (capH d n)).filter (fun j => !f.got.contains j)
        let d := miss.foldl (fun d j => capStore d n b j (fillLine d n b f.got j)) d
        let short := f.short || cut || !miss.isEmpty
        setCap d n { c with
          cur := none, bufs := mset c.bufs b (.complete short f.long f.frame f.time .waiting .waiting), queue := c.queue ++ [b]
          cShort := satAdd 8 c.cShort (flag short), cLong := satAdd 8 c.cLong (flag f.long) }
    let d := if f.buf.isSome && ((mget? (cap d n).bufs (f.buf.getD 0)).map capMarked).getD false then
        record d { fspec 0 0x10 0x16 with unit := n, detail := f.frame } else d
    let d := if c.enabled then d else setCap d n { cap d n with bufs := [], queue := [] }
    capAudit d n

/-- A Frame Start closes a frame that is open (R310); at an enabled port it takes the lowest free buffer, or the frame is dropped (R311). -/
def capStart (d : Dev) (n num : Nat) : Dev :=
  let d := capClose d n true
  let c := cap d n
  if !c.enabled then d else
  match (List.range (capPool d n)).find? (fun i => (mget? c.bufs i).isNone) with
  | some b =>
    setCap d n { c with cur := some ⟨some b, num, d.clk.devtime, 0, [], false, false, d.clk.localNs⟩, bufs := mset c.bufs b .filling }
  | none =>
    record (setCap d n { c with cur := some ⟨none, num, d.clk.devtime, 0, [], false, false, d.clk.localNs⟩, cDropped := satAdd 8 c.cDropped 1 })
      { fspec 0 0x10 0x16 with unit := n, detail := num }

/-- A packet that is no part of a frame is counted. -/
def capOther (d : Dev) (n : Nat) : Dev :=
  let c := cap d n
  if c.enabled || c.cur.isSome then setCap d n { c with cOther := satAdd 8 c.cOther 1 } else d

/-- The next image line (R310). -/
def capLine (d : Dev) (n : Nat) (data : List Byte) (bad : Bool) : Dev :=
  let c := cap d n
  match c.cur with
  | none => capOther d n
  | some f =>
    let dt := capDt d n
    let m := capW d n * dtComps dt
    let j := f.next
    let f := { f with next := j + 1, last := d.clk.localNs }
    if dtDepth dt = 0 then capOther d n
    else if capH d n ≤ j then setCap d n { c with cur := some { f with long := true } }
    else if bad then setCap d n { c with cur := some f }
    else
      let cs := unpackLine dt data
      let want := lineBytes dt (capW d n)
      let long := decide (want < data.length)
      let short := decide (data.length < want)
      let row := padLine (bit (capReg d n 0) 30) (dtComps dt) m (cs.take m)
      let f := { f with got := f.got ++ [j], long := f.long || long, short := f.short || short }
      let d := match f.buf with
        | some b => capStore d n b j row
        | none => d
      setCap d n { c with cur := some f }

/-- CAP_ENABLE. -/
def capEnable (d : Dev) (n : Nat) : Dev :=
  regPut (setCap d n { cap d n with enabled := true }) (capBase n) (capReg d n 0 % 2 ^ 31 + 2 ^ 31)

def execCapEnable (src : Iface) (n : Fin 8) (s : State) : Out3 := lift s (fun d => ownerOnly d src (fun d => capEnable d n.val))

/-- CAP_DISABLE. -/
def execCapDisable (src : Iface) (n : Fin 8) (s : State) : Out3 := lift s (fun d => ownerOnly d src (fun d => capDisable d n.val))

/-- CAP_FRAME_START with the CSI-2 frame number. -/
def execCapFrameStart (n : Fin 8) (num : BitVec 16) (s : State) : Out3 :=
  lift s (fun d => capStart d n.val num.toNat)

/-- CAP_LINE; `bad` on a CRC-16 error or a header that could not be corrected. -/
def execCapLine (n : Fin 8) (p : LinePacket) (bad : Bool) (s : State) : Out3 :=
  lift s (fun d =>
    if p.vc.val = fld (capReg d n.val 0) 27 2 && p.dt.val == capDt d n.val then capLine d n.val p.data bad else capOther d n.val)

/-- CAP_FRAME_END. -/
def execCapFrameEnd (n : Fin 8) (s : State) : Out3 :=
  lift s (fun d => if (cap d n.val).cur.isSome then capClose d n.val false else capOther d n.val)

/-- CAP_FRAME_TIMEOUT: FRAME_TO microseconds after the frame's last packet (R310). -/
def execCapFrameTimeout (n : Fin 8) (s : State) : Out3 :=
  lift s (fun d =>
    match (cap d n.val).cur with
    | some f => capClose (untilLocal d (f.last + 1000 * Nat.max 1 (fld (capReg d n.val 0x14) 16 16))) n.val true
    | none => d)

/-- CAP_OTHER_PACKET. -/
def execCapOtherPacket (n : Fin 8) (s : State) : Out3 := lift s (fun d => capOther d n.val)

/-! ### Commands (R311) -/

/-- The next command if its OP is this one: a malformed block, or a port that is off, ends it at once. -/
def capRun (d : Dev) (n op : Nat) (f : Cap → EngCmd → Cap × Option (List Byte)) : Dev :=
  let c := cap d n
  match c.cmds with
  | [] => d
  | x :: rest =>
    if leAt x.bytes 0 1 != op then d
    else
      let c := { c with cmds := rest }
      if 2 ≤ leAt x.bytes 2 1 || leAt x.bytes 3 1 != 0 || leAt x.bytes 6 58 != 0 then engineWord (setCap d n c) x (capWord 1)
      else if !c.enabled then engineWord (setCap d n c) x (capWord 4)
      else
        let r := f c x
        let d := setCap d n (capSettle d r.1)
        match r.2 with
        | some w => engineWord d x w
        | none => d

/-- TAKE: waits for its side's oldest buffer. -/
def execTake (n : Fin 8) (s : State) : Out3 :=
  lift s (fun d => capRun d n.val 1 (fun c x => ({ c with takes := c.takes ++ [x] }, none)))

/-- What a side has done with a buffer. -/
def sideTake (b : CBufSt) (side : Nat) : CTake :=
  match b with
  | .complete _ _ _ _ t0 t1 => if side = 0 then t0 else t1
  | .filling => .returned

def setTake (b : CBufSt) (side : Nat) (t : CTake) : CBufSt :=
  match b with
  | .complete a l f tm t0 t1 => if side = 0 then .complete a l f tm t t1 else .complete a l f tm t0 t
  | .filling => .filling

/-- The oldest buffer that a side has not taken. -/
def oldestFor (c : Cap) (side : Nat) : Option Nat :=
  c.queue.find? (fun i => sideTake (mget c.bufs i .filling) side == .waiting)

/-- TAKE_COMPLETE: the first TAKE whose buffer is available. -/
def takeComplete (d : Dev) (n : Nat) : Dev :=
  let c := cap d n
  match c.takes.find? (fun x => (oldestFor c (cmdSide x)).isSome) with
  | none => d
  | some x =>
    let side := cmdSide x
    match oldestFor c side with
    | none => d
    | some i =>
      let b := mget c.bufs i .filling
      let w := match b with
        | .complete s l f t _ _ =>
          leBytes 2 0 ++ leBytes 2 i ++ leBytes 2 (flag s + 2 * flag l) ++ leBytes 2 f ++ leBytes 8 t.toNat
        | .filling => capWord 0
      let b := setTake b side (.taken x.slot (bit (leAt x.bytes 2 1) 0))
      engineWord (setCap d n (capSettle d { c with takes := c.takes.erase x, bufs := mset c.bufs i b })) x w

def execTakeComplete (n : Fin 8) (s : State) : Out3 := lift s (fun d => takeComplete d n.val)

/-- CAP_RETURN. -/
def execCapReturn (n : Fin 8) (s : State) : Out3 :=
  lift s (fun d => capRun d n.val 2 (fun c x =>
    let i := leAt x.bytes 4 2
    let b := mget c.bufs i .filling
    if takenBy (sideTake b (cmdSide x)) then
      ({ c with bufs := mset c.bufs i (setTake b (cmdSide x) .returned) }, some (capWord 0))
    else (c, some (capWord 6))))

/-! ### FSYNC_OUTn (R312) -/

/-- PERIOD, PHASE and WIDTH in nanoseconds. -/
def fsoTimes (d : Dev) (n : Nat) : Nat × Nat × Nat :=
  (capReg d n 0x18, capReg d n 0x1C, 1000 * Nat.max 1 (fld (capReg d n 0x14) 0 16))

/-- FSYNC_OUT_RISE at the next instant of the period. -/
def execFsyncOutRise (n : Fin 8) (s : State) : Out3 :=
  lift s (fun d =>
    let c := cap d n.val
    let t := fsoTimes d n.val
    if bit (capReg d n.val 0) 29 && !c.fso && decide (2 * t.2.2 ≤ t.1) then
      let d := elapse d (((t.2.1 : Int) - (d.clk.devtime.toNat : Int)) % (t.1 : Int)).toNat
      emit (setCap d n.val { c with fso := true, fsoFall := d.clk.localNs + t.2.2 }) (.pin "FSYNC_OUT" n.val true)
    else d)

/-- FSYNC_OUT_FALL at the end of the pulse. -/
def execFsyncOutFall (n : Fin 8) (s : State) : Out3 :=
  lift s (fun d =>
    let c := cap d n.val
    if c.fso then emit (setCap (untilLocal d c.fsoFall) n.val { c with fso := false }) (.pin "FSYNC_OUT" n.val false) else d)

end Sys2Proof.Machine
end

