-- ==== Sys2Proof/Machine/Reedway.lean ====
section
/-! DEFINITION. Reedway (chapter 15, with the meetings of events of R340): port states and training (R315 to R317), packets that arrive (R318 to R320, R335), credits
and their audits (R325, R326, R336), collectives from other devices (R330), time (R331, R332), rings (R333 to R338), the
adaptive choice of BE routes (R339) and the route table (R321). -/

namespace Sys2Proof.Machine

def rwBase (n : Nat) : Nat := 0x60000 + n * 0x1000
def rwCtrl (d : Dev) (n : Nat) : Nat := regGet d (rwBase n)

/-! ### Ports that go down (R317, R334, R338) -/

/-- What RECLAIM carries for a port that went down (R336). -/
def reclaimOf (x : RwPort) : Reclaim :=
  ⟨(x.rxSeq + 4095) % 4096, (List.range 5).map (fun i => (pool x i).received), (List.range 5).map (fun i => (pool x i).freed)⟩

/-- A packet of a port that went down, sent round the ring. -/
def rewrap (d : Dev) (n o : Nat) (p : RPkt) (replay : Bool) (lseq : Nat) : Dev :=
  if p.p.wrap || !portUp d o then bounce d p 2 else wrapOnto d n o p replay lseq

/-- The packets of a port that is no longer UP: round the ring, replays ahead of what waits there, or returned and routed anew
(R334). -/
def portDown (d : Dev) (n : Nat) : Dev :=
  let x := rwPort d n
  match ringMate d n with
  | some o =>
    let y := rwPort d o
    let d := setRw d n { x with wrapping := true, joinWait := false, retry := [], txq := [], held := [], mine := some (reclaimOf x) }
    let d := setRw d o { y with txq := [] }
    let d := x.retry.foldl (fun d r => rewrap d n o r.2 true r.1) d
    let d := updRw d o (fun z => { z with txq := z.txq ++ y.txq })
    let d := (x.txq ++ x.held).foldl (fun d p => rewrap d n o p false x.txSeq) d
    -- RECLAIM on every VC, behind the replays
    (List.range 4).foldl (fun d _ => emit d (.link o (.reclaim (reclaimOf x)))) (flushPorts d)
  | none =>
    let d := setRw d n { x with joinWait := false, retry := [], txq := [], held := [] }
    let d := x.retry.foldl (fun d r => bounce d r.2 3) d
    flushPorts ((x.txq ++ x.held).foldl (fun d p => sendPkt d p (p.p.src.toNat == rwgId d)) d)

/-- A port leaves service with a cause: a class 3 record, and its packets go elsewhere (R317). -/
def failTo (d : Dev) (n cause : Nat) (st : PortSt) : Dev :=
  let x := rwPort d n
  let was := x.st
  let d := setRw d n { x with st := st, cause := cause, width := 0, fails := satAdd 8 x.fails 1 }
  let d := record d { fspec 3 0x11 0x0A with unit := n, detail := cause }
  if was = .up then portDown d n else d

def failPort (d : Dev) (n cause : Nat) : Dev := failTo d n cause .failed

/-- A port is isolated (R338). DEDUCED (notes/assumptions/41.md). -/
def isolatePort (d : Dev) (n : Nat) : Dev :=
  let x := rwPort d n
  if x.st = .isolated then d
  else if x.st = .up then failTo d n 7 .isolated
  else setRw d n { x with st := .isolated, cause := 7, width := 0 }

/-- Training starts: the link begins anew. -/
def trainPort (d : Dev) (n : Nat) : Dev :=
  let x := rwPort d n
  emit (setRw d n { x with st := .training, width := 0, identOk := false, txSeq := 0, rxSeq := 0, naks := 0, retry := [], t1 := none })
    (.link n .ident)

/-- A write of RWn_CTRL: EN, ISOLATE and REJOIN act (R315, R316, R337, R338). DEDUCED (notes/assumptions/41.md). -/
def rwCtrlWrite (d : Dev) (n w : Nat) : Dev :=
  let old := rwCtrl d n
  let d := regPut d (rwBase n) (keepBits w 0xEF03FFFF)
  let x := rwPort d n
  if bit w 24 || (x.alone && bit w 31) then isolatePort d n
  else if !bit w 31 then
    if bit old 31 || x.st == .isolated then
      let d := setRw d n { x with st := .disabled, width := 0, barred := false, alone := false }
      if x.st = .up then portDown d n else d
    else d
  else if !bit old 31 then trainPort (setRw d n { x with wrapping := false, joinWait := false }) n
  else
    let d := if x.st = .isolated then setRw d n { x with st := if x.barred then .refused else .failed } else d
    if bit w 28 then
      if (rwPort d n).st = .failed then trainPort d n else discarded d 0x11 (rwBase n)
    else d

/-- PORT_ENABLE. -/
def execPortEnable (src : Iface) (n : Fin 8) (s : State) : Out3 :=
  lift s (fun d => ownerOnly d src (fun d => rwCtrlWrite d n.val (rwCtrl d n.val % 2 ^ 31 + 2 ^ 31)))

/-- REJOIN. -/
def execRejoin (src : Iface) (n : Fin 8) (s : State) : Out3 :=
  lift s (fun d => ownerOnly d src (fun d =>
    rwCtrlWrite d n.val (if bit (rwCtrl d n.val) 28 then rwCtrl d n.val else rwCtrl d n.val + 2 ^ 28)))

/-- PORT_ISOLATE by the SCD. -/
def execPortIsolate (n : Fin 8) (s : State) : Out3 := lift s (fun d => isolatePort d n.val)

/-! ### The physical layer (R314) -/

/-- Electrical options of a port by MODE; 2 and 3 are reserved. -/
inductive Electrical where
  | chipToModule | backplane
  deriving DecidableEq, Repr

def electricalOf (d : Dev) (n : Nat) : Option Electrical :=
  match fld (rwCtrl d n) 25 2 with
  | 0 => some .chipToModule
  | 1 => some .backplane
  | _ => none

/-- The PCS that a port runs at its width. -/
inductive Pcs where
  | r800 | r400 | r200
  deriving DecidableEq, Repr

/-- PCS of a WIDTH code of RWn_STATUS, and its payload in Gb/s per direction. -/
def pcsOf (width : Nat) : Option (Pcs × Nat) :=
  match width with
  | 1 => some (.r200, 200)
  | 2 => some (.r400, 400)
  | 3 => some (.r800, 800)
  | _ => none

/-! ### Training (R315, R316) -/

/-- Flits granted to a pool (Table 15-5). -/
def grantOf (d : Dev) (n i : Nat) : Nat :=
  match i with
  | 0 => 512
  | 1 => 1024
  | 2 => 1024
  | 3 => 64
  | _ => if (ringMate d n).isSome then 256 else 0

/-- Training ends with the lanes that trained and the first link delay. -/
def trainingDone (d : Dev) (n lanes lat : Nat) : Dev :=
  let x := rwPort d n
  if x.st != .training || !x.identOk then d
  else
    let w := if lanes = 4 then 3 else if lanes = 2 || lanes == 3 then 2 else lanes
    if lanes = 0 then failPort d n 6
    else if lanes != 4 && !bit (rwCtrl d n) 29 then failPort d n 8
    else
      let ps := (List.range 5).map (fun i => (i, (⟨grantOf d n i, grantOf d n i, 0, 0, 0, 0⟩ : Pool)))
      let d := setRw d n { x with st := .up, width := w, lat := sat 16 lat, pools := ps, joinWait := x.wrapping, mine := none }
      if x.wrapping then
        match ringMate d n with
        | some o => (List.range 4).foldl (fun d _ => emit d (.link o .join)) (flushPorts d)
        | none => d
      else flushPorts d

/-- TRAINING_DONE. -/
def execTrainingDone (n : Fin 8) (lanes : Fin 5) (lat : Nat) (s : State) : Out3 :=
  lift s (fun d => trainingDone d n.val lanes.val lat)

/-- TRAINING_TIMEOUT. -/
def execTrainingTimeout (n : Fin 8) (s : State) : Out3 :=
  lift s (fun d => if (rwPort d n.val).st = .training then failPort d n.val 6 else d)

/-- IDENT: the peer is recorded, and refused where R316 says; `same` when its format version is this device's. -/
def execIdent (n : Fin 8) (same : Bool) (id : BitVec 18) (port : Fin 8) (s : State) : Out3 :=
  lift s (fun d =>
    let x := rwPort d n.val
    let exp := fld (rwCtrl d n.val) 0 18
    let bad := !same || id.toNat == rwgId d || (exp != 0x3FFFF && exp != id.toNat)
    if x.st != .training then d
    else setRw d n.val { x with peerId := id.toNat, peerPort := port.val, identOk := !bad, barred := bad, st := if bad then .refused else .training })

/-! ### The link (R317) -/

/-- Packets that an acknowledgement of link sequence `a` covers leave the retry buffer. -/
def ackRetry (x : RwPort) (a : Nat) : RwPort :=
  let done (r : Nat × RPkt) : Bool := decide ((a + 4096 - (r.1 + flits r.2.p - 1) % 4096) % 4096 < 2048)
  { x with retry := x.retry.filter (fun r => !done r), naks := if x.retry.any done then 0 else x.naks }

/-- The peer asks for a replay: everything not acknowledged goes again, and the 16th replay of a flit fails the port. -/
def replayAll (d : Dev) (n : Nat) : Dev :=
  let x := rwPort d n
  if x.retry.isEmpty then d
  else
    let d := setRw d n { x with naks := x.naks + 1, replays := satAdd 16 x.replays 1 }
    if 16 ≤ x.naks + 1 then failPort d n 3
    else x.retry.foldl (fun d r => emit d (.packet n r.2.p)) d

/-- FLIT_RECEIVE of a flit that is not part of a packet named by a command of its own. -/
def execFlitReceive (n : Fin 8) (seq : BitVec 12) (good : Bool) (ack : Option (BitVec 12)) (nak : Bool) (s : State) : Out3 :=
  lift s (fun d =>
    let x := rwPort d n.val
    if x.st != .up then d
    else if !good then emit (setRw d n.val { x with discards := satAdd 8 x.discards 1 }) (.link n.val .replay)
    else if seq.toNat != x.rxSeq then emit d (.link n.val .replay)
    else
      let x := { x with rxSeq := (x.rxSeq + 1) % 4096 }
      let x := match ack with
        | some a => ackRetry x a.toNat
        | none => x
      let d := setRw d n.val x
      flushPorts (if nak then replayAll d n.val else d))

/-- LINK_LOSS. -/
def execLinkLoss (n : Fin 8) (s : State) : Out3 := lift s (fun d => if portUp d n.val then failPort d n.val 1 else d)

/-- FLIT_TIMEOUT. -/
def execFlitTimeout (n : Fin 8) (s : State) : Out3 := lift s (fun d => if portUp d n.val then failPort d n.val 2 else d)

/-- PORT_RETRAIN: a failed port with AUTO set; one that wraps comes back by REJOIN alone (R337). -/
def execPortRetrain (n : Fin 8) (s : State) : Out3 :=
  lift s (fun d =>
    let x := rwPort d n.val
    if x.st == .failed && !x.wrapping && bit (rwCtrl d n.val) 30 && bit (rwCtrl d n.val) 31 then trainPort d n.val else d)

/-! ### Packets that arrive (R318 to R320, R335) -/

/-- Whether the type and version of a packet are defined (Table 15-3). -/
def pktKnown (p : Pkt) : Bool := p.ver == 1 && decide (1 ≤ p.ty.toNat) && decide (p.ty.toNat ≤ 6)

/-- The link-local types, which rows of their own bring: as a packet one takes credits and has no other effect. -/
def pktLocal (p : Pkt) : Bool := p.ver == 1 && decide (0x10 ≤ p.ty.toNat) && decide (p.ty.toNat ≤ 0x13)

/-- Read data for the transfer that asked for it. -/
def takeRsp (d : Dev) (p : Pkt) : Dev :=
  match d.rw.reqs.find? (fun r => r.tag == p.tag.toNat) with
  | none => d
  | some r =>
    match r.kind with
    | .write => d
    | .read id _ n =>
      let d := { d with rw := { d.rw with reqs := d.rw.reqs.filter (fun y => y.tag != r.tag) } }
      let fill (t : Xfer) : Xfer :=
        if t.id != id then t
        else
          let bs := t.data ++ p.payload.take n
          let left := t.owed - n
          match t.blk with
          | some w => { t with data := if left = 0 then blkGather w bs else bs, owed := left }
          | none => { t with data := bs, owed := left }
      updScope d r.scope (fun x => { x with xfers := x.xfers.map fill })

/-- An acknowledged write. -/
def takeAck (d : Dev) (p : Pkt) : Dev :=
  { d with rw := { d.rw with reqs := d.rw.reqs.filter (fun y => !(y.tag == p.tag.toNat && y.kind == .write)) } }

/-- A COLL packet: combined, kept for an instance not issued yet, or returned when 4 MiB are kept (R330). -/
def takeColl (d : Dev) (p : RPkt) : Dev :=
  if d.boot.st != .service then bounce d p 6
  else
    match colTake d p.p with
    | some d => d
    | none =>
      let d := expireEarly d
      if 2 ^ 22 < (d.rw.early.map (fun q => q.p.payload.length)).sum + p.p.payload.length then bounce d p 6
      else { d with rw := { d.rw with early := d.rw.early ++ [p] } }

/-- A packet for this device: its trailer is checked before it acts (R318). -/
def deliverHere (d : Dev) (p : RPkt) : Dev :=
  if pktTrailer p.p != p.p.trailer then bounce d p 7
  else if p.p.ret then returnHome d p.p
  else
    match p.p.ty.toNat with
    | 1 => serveReq d p
    | 2 => serveReq d p
    | 3 => takeRsp d p.p
    | 4 => takeAck d p.p
    | 5 => takeColl d p
    | _ => d

/-- A packet that is not wrapped. -/
def routeHere (d : Dev) (p : RPkt) : Dev :=
  if p.p.dst.toNat = rwgId d then deliverHere d p else sendPkt d p false

/-- A wrapped packet (R335), which came in on port `n`. DEDUCED (notes/assumptions/41.md). -/
def routeWrapped (d : Dev) (n : Nat) (p : RPkt) : Dev :=
  match ringMate d n with
  | none => bounce d p 2
  | some o =>
    if p.p.wrapTo.toNat != rwgId d then
      if portUp d o then enqueue d o p else bounce d p 2
    else
      let x := rwPort d o
      let q : RPkt := { p with p := { p.p with wrap := false, replay := false } }
      if p.p.replay then
        if (x.rxSeq + 4095 - p.p.lseq.toNat) % 4096 < 2048 then d
        else routeHere (setRw d o { x with rxSeq := (p.p.lseq.toNat + flits p.p) % 4096 }) q
      else routeHere d q

/-- A packet arrives on a port: it takes its credits, which return as it leaves the buffer (R325), and is processed. -/
def pktArrive (d : Dev) (n : Nat) (p : Pkt) : Dev :=
  if !portUp d n then d
  else
    let k := flits p
    let i := poolOf p
    let d := updRw d n (fun x =>
      let c := pool x i
      { x with rxSeq := (x.rxSeq + k) % 4096
               pools := mset x.pools i { c with received := (c.received + k) % 2 ^ 32, freed := (c.freed + k) % 2 ^ 32 } })
    let d := emit d (.link n (.credit i k))
    if pktLocal p then d
    else if !pktKnown p then { d with rw := { d.rw with badPkt := satAdd 8 d.rw.badPkt 1 } }
    else
      let r : RPkt := ⟨p, d.clk.localNs, p.budget.toNat⟩
      flushPorts (if p.wrap then routeWrapped d n r else routeHere d r)

/-- PKT_WR. -/
def execPktWr (n : Fin 8) (p : Pkt) (s : State) : Out3 := lift s (fun d => pktArrive d n.val { p with ty := 1 })

/-- PKT_RD_REQ. -/
def execPktRdReq (n : Fin 8) (p : Pkt) (s : State) : Out3 := lift s (fun d => pktArrive d n.val { p with ty := 2, payload := [] })

/-- PKT_RD_RSP. -/
def execPktRdRsp (n : Fin 8) (p : Pkt) (s : State) : Out3 := lift s (fun d => pktArrive d n.val { p with ty := 3 })

/-- PKT_WR_ACK. -/
def execPktWrAck (n : Fin 8) (p : Pkt) (s : State) : Out3 := lift s (fun d => pktArrive d n.val { p with ty := 4, payload := [] })

/-- PKT_COLL. -/
def execPktColl (n : Fin 8) (p : Pkt) (s : State) : Out3 := lift s (fun d => pktArrive d n.val { p with ty := 5 })

/-- PKT_MGT: the MCTP message it carries reaches the SCD, and acts as the management commands say (R415). -/
def execPktMgt (n : Fin 8) (p : Pkt) (s : State) : Out3 := lift s (fun d => pktArrive d n.val { p with ty := 6 })

/-- PKT_RETURNED. -/
def execPktReturned (n : Fin 8) (p : Pkt) (s : State) : Out3 :=
  lift s (fun d => pktArrive d n.val { p with ret := true, payload := [] })

/-- PKT_WRAPPED. -/
def execPktWrapped (n : Fin 8) (p : Pkt) (s : State) : Out3 := lift s (fun d => pktArrive d n.val { p with wrap := true })

/-- PKT_RESERVED. -/
def execPktReserved (n : Fin 8) (p : Pkt) (s : State) : Out3 :=
  lift s (fun d => if pktKnown p then d else pktArrive d n.val p)

/-! ### Credits (R325, R326, R336) -/

/-- C1 at the sender. -/
def poolSound (c : Pool) : Bool := (c.avail + c.sent) % 2 ^ 32 == (c.granted + c.returned) % 2 ^ 32

/-- A credit audit fails (R326). -/
def creditFail (d : Dev) (n : Nat) : Dev :=
  failPort (updRw d n (fun x => { x with mismatch := satAdd 8 x.mismatch 1 })) n 4

/-- CREDIT_RETURN of `k` flits by the peer: more than were out breaks C1. -/
def execCreditReturn (n : Fin 8) (i : Fin 5) (k : Nat) (s : State) : Out3 :=
  lift s (fun d =>
    let x := rwPort d n.val
    let c := pool x i.val
    if x.st != .up then d
    else if c.granted < c.avail + k then creditFail d n.val
    else
      flushPorts (setRw d n.val { x with
        pools := mset x.pools i.val { c with avail := c.avail + k, returned := (c.returned + k) % 2 ^ 32 } }))

/-- AUDIT_SEND, with the sender's own check. -/
def execAuditSend (n : Fin 8) (s : State) : Out3 :=
  lift s (fun d =>
    let x := rwPort d n.val
    if x.st != .up then d
    else if !(List.range 5).all (fun i => poolSound (pool x i)) then creditFail d n.val
    else emit d (.link n.val (.audit ((List.range 5).map (fun i => (pool x i).sent)))))

/-- AUDIT: the marker of the peer, with SENT of each pool. -/
def execAudit (n : Fin 8) (sents : List Nat) (s : State) : Out3 :=
  lift s (fun d =>
    let x := rwPort d n.val
    let ok (i : Nat) : Bool :=
      let c := pool x i
      c.received == sents.getD i 0 && decide ((c.received + 2 ^ 32 - c.freed) % 2 ^ 32 ≤ c.granted)
    if x.st != .up then d
    else if (List.range 5).all ok then setRw d n.val { x with audits := satAdd 16 x.audits 1 }
    else creditFail d n.val)

/-- A difference of two 32-bit counters. -/
def cdiff (a b : Nat) : Nat := (a + 2 ^ 32 - b) % 2 ^ 32

/-- RECLAIM of the peer for a port that went down: the pools begin anew, and C1 is audited over the counts exchanged (R29, R336). -/
def execReclaim (n : Fin 8) (r : Reclaim) (s : State) : Out3 :=
  lift s (fun d =>
    let x := rwPort d n.val
    if x.mine.isNone then d
    else
      let agree (i : Nat) : Bool :=
        let c := pool x i
        let got := r.received.getD i 0
        let free := r.freed.getD i 0
        poolSound c && decide (cdiff c.sent got ≤ c.granted) && decide (cdiff got free ≤ c.granted)
          && decide (cdiff free c.returned ≤ c.granted)
      let ok := (List.range 5).all agree
      let renew (c : Pool) : Pool := { c with avail := c.granted, returned := c.sent, freed := c.received }
      let d := setRw d n.val { x with
        mine := none, reclaims := satAdd 8 x.reclaims 1, pools := mmap x.pools (fun _ c => renew c)
        audits := satAdd 16 x.audits (flag ok), mismatch := satAdd 8 x.mismatch (flag (!ok)) }
      if ok then d else record d { fspec 3 0x11 0x08 with unit := n.val, detail := lawDetail 1 0 0 })

/-! ### Rejoining (R337) -/

/-- JOIN: the peer reports that every marker has arrived. -/
def execJoin (n : Fin 8) (s : State) : Out3 :=
  lift s (fun d =>
    let x := rwPort d n.val
    if x.joinWait && x.st == .up then
      flushPorts (setRw d n.val { x with joinWait := false, wrapping := false, txq := x.txq ++ x.held, held := [] })
    else d)

/-! ### Time (R331, R332, R257) -/

/-- The scheduler's plan times after a step of DEVTIME. -/
def shiftPlan (d : Dev) (o : Int) : Dev :=
  let mv (t : Nat) : Nat := ((t : Int) + o).toNat
  { d with sched := { d.sched with slots := mmap d.sched.slots (fun _ j => { j with start := mv j.start, fin := mv j.fin }) } }

/-- DEVTIME is aligned by an offset: a step above 1,000 ns, else a slew. -/
def alignTime (d : Dev) (o : Int) : Dev :=
  if 1000 < o.natAbs then
    let t := BitVec.ofInt 64 ((d.clk.devtime.toNat : Int) + o)
    shiftPlan { d with clk := { d.clk with devtime := t, slew := 0 } } o
  else { d with clk := { d.clk with slew := o } }

/-- LOCKED after 8 exchanges within 16 ns, cleared by one beyond 64 ns: the count and the flag after an offset. -/
def lockStep (cnt : Nat) (locked : Bool) (o : Int) : Nat × Bool :=
  if o.natAbs ≤ 16 then (Nat.min 8 (cnt + 1), locked || decide (8 ≤ cnt + 1))
  else (0, locked && decide (o.natAbs ≤ 64))

/-- RWG_TIME. -/
def rwgTime (d : Dev) : Nat := regGet d 0x68020

/-- The port that DEVTIME follows (R331). -/
def timePort (d : Dev) : Option Nat :=
  let w := rwgTime d
  if !bit w 3 then none
  else if portUp d (fld w 0 3) then some (fld w 0 3)
  else if bit w 7 && portUp d (fld w 4 3) then some (fld w 4 3)
  else none

/-- TIME_EXCHANGE. -/
def execTimeExchange (n : Fin 8) (s : State) : Out3 :=
  lift s (fun d =>
    if portUp d n.val && bit (rwCtrl d n.val) 27 then
      emit (updRw d n.val (fun x => { x with t1 := some d.clk.devtime.toNat })) (.link n.val (.time d.clk.devtime.toNat))
    else d)

/-- TIME: the reply, with the peer's arrival and departure times. -/
def execTime (n : Fin 8) (t2 t3 : Word64) (s : State) : Out3 :=
  lift s (fun d =>
    let x := rwPort d n.val
    match x.t1 with
    | none => d
    | some t1 =>
      if x.st != .up then d
      else
        let t4 := d.clk.devtime.toNat
        let rt : Int := ((t4 : Int) - (t1 : Int)) - ((t3.toNat : Int) - (t2.toNat : Int))
        let o : Int := (((t2.toNat : Int) - (t1 : Int)) - ((t4 : Int) - (t3.toNat : Int))) / 2
        let d := setRw d n.val { x with t1 := none, lat := sat 16 ((rt + 1) / 2).toNat }
        let d := { d with rw := { d.rw with ofs := o } }
        if bit (rwgTime d) 31 || timePort d != some n.val then d
        else
          let l := lockStep d.rw.lockCnt d.rw.locked o
          alignTime { d with rw := { d.rw with lockCnt := l.1, locked := l.2, holdover := false } } o)

/-- HOLDOVER. -/
def execHoldover (s : State) : Out3 :=
  lift s (fun d =>
    if bit (rwgTime d) 3 && (timePort d).isNone then { d with rw := { d.rw with holdover := true, locked := false, lockCnt := 0 } } else d)

/-! ### Collectives and routes (R330, R339, R321) -/

/-- COLL_TIMEOUT of outstanding instance `k`. -/
def execCollTimeout (k : Nat) (s : State) : Out3 :=
  lift s (fun d => match d.rw.cols[k]? with
    | some c => failCol d c
    | none => d)

/-- The estimate after a sample, rounded toward zero. -/
def estAfter (est sample : Nat) : Nat := sat 20 ((est : Int) + ((sample : Int) - (est : Int)).tdiv 8).toNat

/-- A port's sample: its link and the wait of its oldest BE packet. DEDUCED (notes/assumptions/41.md). -/
def estSample (d : Dev) (x : RwPort) : Nat :=
  x.lat + (match headOf x 1 with
    | some p => d.clk.localNs - p.born
    | none => 0)

/-- EST_SAMPLE, of every port. -/
def execEstSample (s : State) : Out3 :=
  lift s (fun d =>
    settleRoutes ((List.range 8).foldl (fun d n => updRw d n (fun x => { x with est := estAfter x.est (estSample d x) })) (settleRoutes d)))

/-- ROUTE_READ. -/
def routeRead (d : Dev) (i : Nat) : Dev :=
  let d := regPut d 0x68004 (2 ^ 30 + i)
  match mget? d.rw.routes i with
  | none => regPut (regPut d 0x68008 0) 0x6800C 0
  | some r =>
    regPut (regPut d 0x68008 (put 1 31 1 + put (flag r.altEn) 30 1 + put r.port 27 3 + put r.alt 24 3 + put r.pfx 0 18))
      0x6800C (put r.plen 27 5 + put r.extraAlt 12 12 + put r.extraPri 0 12)

def execRouteRead (src : Iface) (i : Fin 4096) (s : State) : Out3 := lift s (fun d => ownerOnly d src (fun d => routeRead d i.val))

/-- ROUTE_WRITE. -/
def routeWrite (d : Dev) (i : Nat) : Dev :=
  let d := regPut d 0x68004 (2 * 2 ^ 30 + i)
  let a := regGet d 0x68008
  let b := regGet d 0x6800C
  let r : Route := ⟨bit a 30, fld a 27 3, fld a 24 3, fld a 0 18, fld b 27 5, fld b 12 12, fld b 0 12, false⟩
  { d with rw := { d.rw with routes := if bit a 31 then mset d.rw.routes i r else mdel d.rw.routes i } }

def execRouteWrite (src : Iface) (i : Fin 4096) (s : State) : Out3 := lift s (fun d => ownerOnly d src (fun d => routeWrite d i.val))

/-! ### Loss of the token (R348) -/

/-- TOKEN_LOSS at an EMP, which sends safe frames, or at a Reedway port, which isolates itself. -/
def execTokenLoss (emp : Bool) (n : Fin 16) (s : State) : Out3 :=
  lift s (fun d =>
    if emp then setOk (setEmp d n.val { Sys2Proof.Machine.emp d n.val with alone := true }) n.val false
    else if n.val < 8 then updRw (isolatePort d n.val) n.val (fun x => { x with alone := true })
    else d)

end Sys2Proof.Machine
end

