-- ==== Sys2Proof/Machine/Links.lean ====
section
/-! DEFINITION. The host links (chapter 19): failure and failover of queue pairs (R409, R410), planned moves (R411), links that
come up (R407), configuration requests (R407) and CXL snoops (R403). -/

namespace Sys2Proof.Machine

/-! ### Links and pairs (R409) -/

/-- HLK_HOME, bit q for pair q. -/
def homeMask (d : Dev) : Nat := regGet d 0x70008 + regGet d 0x7000C * 2 ^ 32

/-- A link given its state: up, rate, width, CXL. -/
def setLink (d : Dev) (l : Nat) (up : Bool) (rate width : Nat) (cxl : Bool) : Dev :=
  if l = 0 then { d with hlk := { d.hlk with up0 := up, rate0 := rate, width0 := width, cxl0 := cxl } }
  else { d with hlk := { d.hlk with up1 := up, rate1 := rate, width1 := width, cxl1 := cxl } }

/-- Pairs that a link serves. -/
def pairsOn (d : Dev) (l : Nat) : List Nat := (List.range 64).filter (fun q => servingLink d q == l)

/-- Pairs that go over to the other link. -/
def flipPairs (d : Dev) (qs : List Nat) : Dev :=
  { d with hlk := { d.hlk with serve := qs.foldl (fun m q => m ^^^ 2 ^ q) d.hlk.serve } }

/-- Every CQ once, in order of first appearance. -/
def postedCqs (ps : List Posted) : List Nat := (ps.filterMap (fun p => p.cq)).eraseDups

/-- What was posted on a link in the last 100 microseconds is posted again on the other, and each CQ concerned raises its vector
once (R410 step 2). -/
def rewritePosted (d : Dev) (l : Nat) : Dev :=
  let mine := d.hlk.posted.filter (fun p => p.link == l && decide (d.clk.localNs ≤ p.at_ + 100000))
  let d := { d with hlk := { d.hlk with posted := d.hlk.posted.filter (fun p => p.link != l) } }
  let d := mine.foldl (fun d p => hostPost d (1 - l) p.cq p.addr p.data) d
  (postedCqs mine).foldl (fun d c => if bit (qCtrl d c) 21 then raiseOn d (1 - l) (fld (qCtrl d c) 10 11) else d) d

/-- Pairs leave a link for the other one as a failover (R410). -/
def failover (d : Dev) (l cause : Nat) (qs : List Nat) : Dev :=
  let d := rewritePosted (flipPairs d qs) l
  let d := { d with hlk := { d.hlk with foCount := satAdd 16 d.hlk.foCount 1, foFrom := l, foCause := cause } }
  record d { fspec 3 0x12 0x0A with unit := l, detail := cause }

/-- With no link up every T2 move fails: fills, and transfers from FAR objects (R410, Table 10-5). DEDUCED (notes/assumptions/40.md). -/
def t2Lost (d : Dev) : Dev :=
  let fills := (d.tmg.objs.map (fun ho => (ho.2.pages.filter (fun p => p.2.st == .filling)).map (fun p => (ho.1, p.1)))).flatten
  let d := fills.foldl (fun d f => fillFails d f.1 f.2 2) d
  [0, 1].foldl (fun d si =>
    match (scope d si).xfers.find? (fun t => t.owed != 0 && genLive (scope d si) t.gen && (match obj? d t.handle with
        | some o => o.cls == .far
        | none => false)) with
    | some t => endTier d si 2 t.handle
    | none => d) d

/-- A link fails (R410). A planned move under way from it becomes part of the failover (R420). DEDUCED (notes/assumptions/40.md). -/
def linkFail (d : Dev) (l cause : Nat) : Dev :=
  if !linkUp d l then d
  else
    let d := setLink d l false 0 0 false
    let left := match d.hlk.move with
      | some m => some (⟨m.src, m.pairs.filter (fun q => servingLink d q != l)⟩ : Move)
      | none => none
    let d := { d with hlk := { d.hlk with move := left.filter (fun m => !m.pairs.isEmpty), ptmOut := none } }
    if bit (regGet d 0x70000) 31 && linkUp d (1 - l) then failover d l cause (pairsOn d l)
    else if linkUp d (1 - l) then d
    else t2Lost d

/-- HOST_LINK_FAIL: DL_Down, or an internal error of the controller. -/
def execHostLinkFail (l : Fin 2) (internal : Bool) (s : State) : Out3 :=
  lift s (fun d => linkFail d l.val (if internal then 3 else 1))

/-- RECOVERY_TIMEOUT: 4 microseconds in Recovery. -/
def execRecoveryTimeout (l : Fin 2) (s : State) : Out3 := lift s (fun d => linkFail d l.val 2)

/-! ### A link that comes up (R407) -/

/-- Whether BAR0 is available: from SELFTEST or RECOVERY on. -/
def bar0Open (d : Dev) : Bool :=
  match d.boot.st with
  | .reset => false
  | .load => false
  | .selftest => true
  | .service => true
  | .sleep => true
  | .recovery => true
  | .halt => true

/-- PERSTx_N of a link, as filtered. -/
def perstLow (d : Dev) (l : Nat) : Bool := if l = 0 then d.pins.perst0 else d.pins.perst1

/-- HOST_LINK_UP: trained to a rate (1 to 6) and a width of 1, 2, 4 or 8 lanes, after step 6 of Table 17-2. -/
def execHostLinkUp (l : Fin 2) (rate : Fin 7) (width : Fin 9) (cxl : Bool) (s : State) : Out3 :=
  lift s (fun d =>
    if linkUp d l.val || perstLow d l.val || !d.clk.locked || rate.val == 0 || !([1, 2, 4, 8].contains width.val) then d
    else
      let d := setLink d l.val true rate.val width.val cxl
      if bar0Open d then emit d (.ready l.val) else d)

/-- BAR0 has become available: each link that is up says so. -/
def announceReady (d : Dev) : Dev :=
  [0, 1].foldl (fun d l => if linkUp d l then emit d (.ready l) else d) d

/-- CONFIGURATION_REQUEST: retry status until BAR0 is available. -/
def execConfigurationRequest (l : Fin 2) (s : State) : Out3 :=
  lift s (fun d => if linkUp d l.val then emit d (.cfg l.val (!bar0Open d)) else d)

/-! ### Snoops (R403) -/

/-- Whether a line of host memory is part of a T2 move under way. -/
def lineInFlight (d : Dev) (a : Nat) : Bool :=
  let hit (lo n : Nat) : Bool := decide (lo < a + 64) && decide (a < lo + n)
  d.tmg.objs.any (fun ho => ho.2.cls == .backed &&
    ho.2.pages.any (fun p => (p.2.st == .filling || p.2.st == .writeback) && hit (t2Addr ho.2 (p.1 * pageSize)) pageSize))
    || [d.sc0, d.sc1].any (fun x => x.xfers.any (fun t => t.owed != 0 && (match obj? d t.handle with
        | some o => o.cls == .far && hit (t2Addr o t.off) t.len
        | none => false)))

/-- CXL_SNOOP of a line: a miss, but for a line in flight. -/
def execCxlSnoop (l : Fin 2) (addr : Word64) (s : State) : Out3 :=
  lift s (fun d =>
    let on := linkUp d l.val && (if l.val = 0 then d.hlk.cxl0 else d.hlk.cxl1)
    if on then emit d (.snoop l.val (!lineInFlight d (addr.toNat / 64 * 64))) else d)

/-! ### Planned moves (R411) -/

/-- Pairs join a planned move away from the link that serves each. DEDUCED (notes/assumptions/40.md). -/
def startMove (d : Dev) (src : Nat) (qs : List Nat) : Dev :=
  if qs.isEmpty then d
  else
    let old := match d.hlk.move with
      | some m => m.pairs
      | none => []
    { d with hlk := { d.hlk with move := some ⟨src, old ++ qs.filter (fun q => !old.contains q)⟩ } }

/-- Pairs that are not served by their home link. -/
def awayPairs (d : Dev) : List Nat := (List.range 64).filter (fun q => bit d.hlk.serve q != bit (homeMask d) q)

/-- A write of HLK_MOVE. -/
def hlkMove (d : Dev) (op l : Nat) : Dev :=
  match op with
  | 1 => startMove d l (pairsOn d l)
  | 2 =>
    let qs := awayPairs d
    startMove d ((qs.head?.map (servingLink d)).getD 0) qs
  | _ => d

/-- MOVE_PAIRS. -/
def execMovePairs (src : Iface) (l : Fin 2) (s : State) : Out3 := lift s (fun d => ownerOnly d src (fun d => hlkMove d 1 l.val))

/-- MOVE_HOME. -/
def execMoveHome (src : Iface) (s : State) : Out3 := lift s (fun d => ownerOnly d src (fun d => hlkMove d 2 0))

/-- AUTO_BACK: 10 ms after a link came up again, the pairs whose home it is move back. -/
def execAutoBack (l : Fin 2) (s : State) : Out3 :=
  lift s (fun d =>
    if !bit (regGet d 0x70000) 30 || !linkUp d l.val then d
    else startMove d (1 - l.val) ((awayPairs d).filter (fun q => servingLink d q == 1 - l.val)))

/-- The wait of a planned move is over: a zero-length read on the old link orders its posted writes, and the pairs resume on the other link;
`expired`, which a read that fails is too, makes it a failover (R411). -/
def moveEnds (d : Dev) (expired : Bool) : Dev :=
  match d.hlk.move with
  | none => d
  | some m =>
    let d := { d with hlk := { d.hlk with move := none } }
    if expired then
      let on0 := m.pairs.filter (fun q => servingLink d q == 0)
      let on1 := m.pairs.filter (fun q => servingLink d q == 1)
      let d := if on0.isEmpty then d else failover d 0 6 on0
      if on1.isEmpty then d else failover d 1 6 on1
    else
      let old := [0, 1].filter (fun l => m.pairs.any (fun q => servingLink d q == l))
      let d := old.foldl (fun d l => emit d (.orderRead l)) d
      { flipPairs d m.pairs with hlk := { (flipPairs d m.pairs).hlk with foCause := 6, foFrom := m.src } }

/-- MOVE_WAIT_END. -/
def execMoveWaitEnd (expired : Bool) (s : State) : Out3 := lift s (fun d => moveEnds d expired)

end Sys2Proof.Machine
end

