-- ==== Sys2Proof/Machine/Contain.lean ====
section
/-! DEFINITION. Containment (chapter 16): fencing of a half (R346), the authority token and disputes (R348 to R350, R431),
controller pairs (R351), retirement and return of dies, modules and halves (R352), the crash log (R353), and the owner's FLT
commands. -/

namespace Sys2Proof.Machine

/-! ### Dies, halves, modules (Tables 1-1 and 1-2, R11) -/

/-- Dies as FLT_FENCE.INDEX numbers them. -/
def dieValid (i : Nat) : Bool := decide (i < 20) || (decide (32 ≤ i) && decide (i < 36))

/-- Half of a die: 0 west, 1 east. -/
def dieHalf (i : Nat) : Nat := if i < 10 then 0 else if i < 20 then 1 else if i < 34 then 0 else 1

/-- Half of a tile. -/
def tileHalf (g : Nat) : Nat := if g < 400 then 0 else 1

/-- Modules of the compute dies of a half. -/
def halfModules (h : Nat) : List Nat := (List.range 40).map (fun i => 40 * h + i)

/-- Modules of I/O die `n`: those of its half's compute dies that end at it, those to its neighbours, and that to the SCD. -/
def iodModules (n : Nat) : List Nat :=
  let cd := (halfModules (dieHalf (32 + n))).filter (fun m => m % 4 / 2 == n % 2)
  cd ++ (List.range 4).map (fun m => 80 + 4 * n + m) ++ (List.range 4).map (fun m => 80 + 4 * ((n + 3) % 4) + m) ++ [96 + n]

/-- The half that holds a module; none for those that cross between halves. -/
def moduleHalf (m : Nat) : Option Nat :=
  if m < 40 then some 0 else if m < 80 then some 1 else if m < 84 then some 0 else if m < 88 then none
  else if m < 92 then some 1 else if m < 96 then none else some (dieHalf (32 + (m - 96)))

def fenced (d : Dev) (h : Nat) : Bool := if h = 0 then d.flt.fencedW else d.flt.fencedE

def setFenced (d : Dev) (h : Nat) (v : Bool) : Dev :=
  { d with flt := if h = 0 then { d.flt with fencedW := v } else { d.flt with fencedE := v } }

def closeModules (d : Dev) (ms : List Nat) : Dev :=
  { d with flt := { d.flt with closedModules := d.flt.closedModules ++ ms.filter (fun m => !d.flt.closedModules.contains m) } }

/-! ### Fencing (R346, R349) -/

/-- The scope of a fenced half, or the device's, drops what it holds (R65) without an end of its own. -/
def dropScope (d : Dev) (si : Nat) : Dev :=
  let x := scope d si
  if !x.jobValid then d
  else
    releaseStacks (setScope { d with tiles := mmap d.tiles (fun g t => if inScope x.kind g then tileJobEnd t else t) } si (scopeJobEnd x)) x.kind

/-- The running job when a half is fenced: a device job ends FAILED_FAULT; a paired job goes on in the other half, or ends as that half ended,
and with neither ends FAILED_FAULT as this half (R263, R346). -/
def fenceJob (d : Dev) (h cls code : Nat) : Dev :=
  match d.sched.running with
  | none => d
  | some k =>
    match mget? d.sched.slots k with
    | none => d
    | some j =>
      if j.half then
        let d := setJob d k { j with fencedDuring := true }
        let on (i : Nat) : Bool := (scope d i).jobValid && (scope d i).slot == k
        let spoken := on (1 - h) || (if h = 0 then j.eastEnd else j.westEnd).isSome
        if !on h then finishCheck d k else if spoken then finishCheck (dropScope d h) k else endFault d h cls code
      else endFault d 0 cls code

/-- The token when a half leaves (R349). -/
def fenceToken (d : Dev) (h : Nat) : Dev :=
  if d.flt.secValid then tokenChange d (if d.flt.primary = h then 1 - h else d.flt.primary) false else d

/-- A self-test of the half that runs or waits is abandoned (R354). -/
def abandonTest (d : Dev) (h : Nat) : Dev :=
  if d.flt.selftest = some h || d.flt.deferred == some h then
    { d with flt := { d.flt with selftest := none, deferred := none, unfenceBusy := false, unfenceResult := 3 } }
  else d

/-- A half is fenced: what it holds is dropped, its modules close, the token leaves it, and its jobs end or go on. `cls` and
`code` are those of the fault. -/
def fenceHalf (d : Dev) (h cls code : Nat) : Dev :=
  let d := abandonTest d h
  if fenced d h then d
  else
    let d := closeModules (setFenced d h true) (halfModules h)
    let d := fenceJob (fenceToken d h) h cls code
    let d := { d with ports := { d.ports with cap := mmap d.ports.cap (fun _ c => capSettle d c) } }
    record d { fspec 0 0x0A 0x11 with unit := h, detail := h }

/-- FENCE_NO_ANSWER: the compute dies of a fenced half whose supervisor does not answer lose power. -/
def execFenceNoAnswer (h : Fin 2) (s : State) : Out3 :=
  lift s (fun d =>
    if !fenced d h.val then d
    else
      let off := (List.range 10).map (fun i => 10 * h.val + i)
      { d with flt := { d.flt with poweredOff := d.flt.poweredOff ++ off.filter (fun i => !d.flt.poweredOff.contains i) }
               tiles := (List.range 400).foldl (fun m i => mset m (400 * h.val + i) { Tile.reset with powered := false }) d.tiles })

/-! ### A die that is lost (R346, R347, R352) -/

def emps (a n : Nat) : List Nat := (List.range n).map (· + a)

/-- A whole stack is lost: its 16 channels are retired in ascending order (R226). -/
def loseStack (d : Dev) (k : Nat) : Dev :=
  (List.range 16).foldl (fun d c => wantRetire d (16 * k + c)) (setStack d k { stack d k with present := false })

/-- The engines of an I/O die stop for good: nothing of theirs is handed on, and the jobs whose commands they hold end FAILED_FAULT. -/
def engineLost (d : Dev) (k cls code : Nat) : Dev :=
  let v := vce d k
  let p := pxe d k
  let held := (v.cur.toList ++ v.queue ++ p.cur.toList ++ p.queue).map (fun c => c.slot)
  let d := vceHalt d k
  let d := setPxe (setVce d k { vce d k with queue := [] }) k { p with queue := [], cur := none, word := none }
  endJobs d (scopesOf d held) cls code

/-- An I/O die out of use: its stacks, the ports and engines on it, its host link, its modules. `cls` and `code` are those of the fault. -/
def iodGone (d : Dev) (n cls code : Nat) : Dev :=
  let d := (emps (4 * n) 4).foldl (fun d k => engineLost d k cls code) d
  let d := closeModules d (iodModules n)
  let d := (emps (3 * n) 3).foldl (fun d k => setStack d k { stack d k with present := false }) d
  let d := [2 * n, 2 * n + 1].foldl isolatePort d
  let es := if n = 1 then emps 0 8 else if n = 2 then emps 8 8 else []
  let cs := if n = 1 then emps 0 4 else if n = 2 then emps 4 4 else []
  let d := es.foldl (fun d k => let d := empDisable d k; setOk (setEmp d k { emp d k with phase := .off }) k false) d
  let d := cs.foldl capDisable d
  if n = 0 then linkFail d 0 5 else if n = 3 then linkFail d 1 5 else d

/-- An I/O die that is lost takes its stacks with it. -/
def loseIod (d : Dev) (n cls code : Nat) : Dev := iodGone ((emps (3 * n) 3).foldl loseStack d) n cls code

/-- A die-to-die module is retired (R347, R352). DEDUCED (notes/assumptions/34.md). -/
def retireModule (d : Dev) (m : Nat) : Dev :=
  let d := closeModules d [m]
  if d.flt.retiredModules.contains m then d
  else jWrite { d with flt := { d.flt with retiredModules := d.flt.retiredModules ++ [m] } } (.retire 2 m)

/-- A fault strikes a die: its half is fenced, the die recorded as retired. -/
def strikeDie (d : Dev) (i cls code : Nat) : Dev :=
  let d := fenceHalf d (dieHalf i) cls code
  let d := if 32 ≤ i then loseIod d (i - 32) cls code else d
  if d.flt.retiredDies.contains i then d
  else jWrite { d with flt := { d.flt with retiredDies := d.flt.retiredDies ++ [i] } } (.retire 1 i)

/-! ### HALT (Table 16-5, R353) -/

/-- The crash log is sealed. -/
def sealLog (d : Dev) : Dev :=
  { d with bk := { d.bk with clog := { d.bk.clog with hdrCount := d.bk.count, hdrCause := d.bk.cause } } }

/-- Class 5: every EMP_OK low, every Reedway port isolated, jobs and queues stop, the crash log is sealed. -/
def haltDevice (d : Dev) : Dev :=
  let d := enterState { d with flt := { d.flt with halt := true } } .halt
  let d := (List.range 8).foldl isolatePort (allOkLow d)
  let d := dropScope (dropScope d 0) 1
  sealLog { d with sched := { d.sched with running := none } }

/-- A class 5 fault that the SCD finds itself. -/
def halting (d : Dev) (f : FSpec) : Dev := haltDevice (record d f)

/-! ### Controller pairs (R351) -/

/-- A pair is at fault. A fault of the pair that is left is a fault of the SCD. -/
def pairFault (d : Dev) (b : Bool) (code : Nat) : Dev :=
  if !d.flt.redundant then
    if b = d.flt.activeB then halting d { fspec 5 0x00 code with unit := flag b } else d
  else
    record { d with flt := { d.flt with redundant := false, activeB := !b } } { fspec 3 0x00 code with unit := flag b, detail := flag b }

/-- PAIR_FAILOVER: a lockstep mismatch (0), or the rail (1) or the clock (2) of the pair's island. -/
def execPairFailover (b : Bool) (why : Fin 3) (s : State) : Out3 :=
  lift s (fun d => pairFault d b (match why.val with
    | 0 => 0x06
    | 1 => 0x0C
    | _ => 0x0B))

/-! ### Token, heartbeats, disputes (R348, R350, R431) -/

/-- Role of a half in the token: 1 primary, 2 secondary, 0 neither. -/
def roleOf (d : Dev) (h : Nat) : Nat := if d.flt.primary = h then 1 else if d.flt.secValid then 2 else 0

def setSup (d : Dev) (h : Nat) : Dev := { d with flt := { d.flt with supEpoch := mset d.flt.supEpoch h d.flt.epoch } }

/-- A token reaches a Reedway port: one that isolated itself for want of it is FAILED again, as one whose ISOLATE is cleared (R348). -/
def tokenAtPort (d : Dev) (n : Nat) : Dev :=
  let x := rwPort d n
  if !x.alone then d
  else setRw d n { x with alone := false, st := if x.st == .isolated && !bit (rwCtrl d n) 24 then .failed else x.st }

/-- TOKEN_BROADCAST: the supervisors of the halves in service and the Reedway ports take the token; the EMPs take theirs in TOKEN_ADOPT. -/
def execTokenBroadcast (s : State) : Out3 :=
  lift s (fun d => (List.range 8).foldl tokenAtPort ([0, 1].foldl (fun d h => if fenced d h then d else setSup d h) d))

/-- A dispute opens: a record of class 3, a token with the next epoch, and every EMP takes no candidate. -/
def openDispute (d : Dev) (h : Nat) : Dev :=
  let d := record d { fspec 3 0x15 0x13 with unit := h, detail := d.flt.epoch.toNat }
  let d := tokenChange { d with flt := { d.flt with dispute := true, acks := [] } } d.flt.primary d.flt.secValid
  (List.range 16).foldl (fun d n => setEmp d n { emp d n with dispute := true }) (startTimer d .dispute)

/-- HEARTBEAT: the epoch and the role (0 none, 1 primary, 2 secondary) that a supervisor holds. -/
def execHeartbeat (h : Fin 2) (epoch : Word) (role : Fin 3) (s : State) : Out3 :=
  lift s (fun d =>
    if fenced d h.val || d.flt.dispute || (epoch == d.flt.epoch && role.val == roleOf d h.val) then d else openDispute d h.val)

/-- HEARTBEAT_LOSS: three missed in succession. -/
def execHeartbeatLoss (h : Fin 2) (s : State) : Out3 :=
  lift s (fun d =>
    if fenced d h.val then d
    else
      let d := record d { fspec 4 0x15 0x09 with unit := h.val, scope := h.val + 1, detail := (mget d.flt.supEpoch h.val 0).toNat }
      fenceHalf d h.val 4 (faultCode 4 0x15 0x09))

/-- A dispute closes. -/
def closeDispute (d : Dev) : Dev :=
  record { d with flt := { d.flt with dispute := false, acks := [] } } { fspec 0 0x0A 0x13 with detail := d.flt.epoch.toNat }

/-- DISPUTE_ACK. -/
def execDisputeAck (h : Fin 2) (s : State) : Out3 :=
  lift s (fun d =>
    if !d.flt.dispute || fenced d h.val || d.flt.acks.contains h.val then d
    else
      let d := setSup { d with flt := { d.flt with acks := d.flt.acks ++ [h.val] } } h.val
      if [0, 1].all (fun k => fenced d k || d.flt.acks.contains k) then closeDispute d else d)

/-- DISPUTE_WINDOW_END: the side that has not acknowledged is fenced; without any, both are and the fault is class 5. -/
def execDisputeWindowEnd (s : State) : Out3 :=
  lift s (fun d =>
    if !d.flt.dispute then d
    else
      let d := afterTimer d .dispute 20000
      let code := faultCode 3 0x15 0x13
      match d.flt.acks with
      | a :: _ =>
        let d := fenceHalf d (1 - a) 3 code
        closeDispute (if d.flt.primary = a && !d.flt.secValid then d else tokenChange d a false)
      | [] =>
        let d := fenceHalf (fenceHalf d 0 5 (faultCode 5 0x15 0x13)) 1 5 (faultCode 5 0x15 0x13)
        halting d { fspec 5 0x15 0x13 with unit := 0xFFFF, detail := d.flt.epoch.toNat })

/-! ### The owner's commands (R352, R353, R344) -/

/-- Whether KIND and INDEX of FLT_FENCE name something. -/
def fenceTarget (kind idx : Nat) : Bool :=
  match kind with
  | 0 => decide (idx < 2)
  | 1 => dieValid idx
  | 2 => decide (idx < 100)
  | _ => false

/-- UNFENCE of a half: its self-test starts, or waits for a running paired job. DEDUCED (notes/assumptions/34.md). -/
def unfence (d : Dev) (h : Nat) : Dev :=
  if !fenced d h || d.flt.unfenceBusy then discarded d 0x0A 0x10014
  else
    let pairedJob : Bool := match d.sched.running with
      | some k => ((mget? d.sched.slots k).map (fun j => j.half)).getD false
      | none => false
    let f := { d.flt with unfenceBusy := true, unfenceResult := 0 }
    if pairedJob then { d with flt := { f with deferred := some h } } else startTimer { d with flt := { f with selftest := some h } } .selftest

/-- What a write of FLT_FENCE with an OP does. -/
def fenceCommand (d : Dev) (op kind idx : Nat) : Dev :=
  let d := regPut d 0x10014 (put op 30 2 + put kind 28 2 + put idx 0 8)
  if op = 0 then d
  else if !fenceTarget kind idx then discarded d 0x0A 0x10014
  else
    let code := faultCode 0 0x0A 0x11
    match op, kind with
    | 1, 0 => fenceHalf d idx 0 code
    | 1, 1 => strikeDie d idx 0 code
    | 1, _ => retireModule d idx
    | 2, 0 => unfence d idx
    | 2, _ => discarded d 0x0A 0x10014
    | _, 0 => discarded d 0x0A 0x10014
    | _, k => jWrite d (.restore k idx)

/-- FLT_FENCE with OP FENCE. -/
def execFltFence (src : Iface) (kind : Fin 4) (idx : Byte) (s : State) : Out3 :=
  lift s (fun d => ownerOnly d src (fun d => fenceCommand d 1 kind.val idx.toNat))

/-- UNFENCE. -/
def execUnfence (src : Iface) (kind : Fin 4) (idx : Byte) (s : State) : Out3 :=
  lift s (fun d => ownerOnly d src (fun d => fenceCommand d 2 kind.val idx.toNat))

/-- RESTORE. -/
def execFltRestore (src : Iface) (kind : Fin 4) (idx : Byte) (s : State) : Out3 :=
  lift s (fun d => ownerOnly d src (fun d => fenceCommand d 3 kind.val idx.toNat))

/-- A half returns to service (R352): its modules open but for retired ones, its dies have power, and in paired mode it is the token's
secondary. DEDUCED (notes/assumptions/34.md). -/
def returnHalf (d : Dev) (h : Nat) : Dev :=
  let shut (m : Nat) : Bool := !(halfModules h).contains m || d.flt.retiredModules.contains m
  let d := setFenced d h false
  let d := { d with flt := { d.flt with closedModules := d.flt.closedModules.filter shut
                                        poweredOff := d.flt.poweredOff.filter (fun i => dieHalf i != h) }
                    tiles := d.tiles.filter (fun p => tileHalf p.1 != h) }
  let d := if paired d then (if fenced d (1 - h) then tokenChange d h false else tokenChange d (1 - h) true) else d
  record d { fspec 0 0x0A 0x11 with unit := h, detail := h }

/-- UNFENCE_SELFTEST_DONE, 2.0 ms after its start. -/
def execUnfenceSelftestDone (pass : Bool) (s : State) : Out3 :=
  lift s (fun d =>
    match d.flt.selftest with
    | none => d
    | some h =>
      let d := afterTimer d .selftest 2000000
      let d := { d with flt := { d.flt with selftest := none, unfenceBusy := false, unfenceResult := if pass then 1 else 2 } }
      if pass then returnHalf d h else d)

/-- FLT_CTRL.CLOG_CLR: slots 1 to 127 zero, the next index 1, the count 0. -/
def clogClear (d : Dev) : Dev := { d with bk := { d.bk with clog := { d.bk.clog with recs := [], next := 1, written := 0 } } }

/-- CRASH_LOG_CLEAR. -/
def execCrashLogClear (src : Iface) (s : State) : Out3 := lift s (fun d => ownerOnly d src clogClear)

/-- FLT_STATUS.PEND written with 1: FAULT_N is released unless a class 5 fault holds it. DEDUCED (notes/assumptions/34.md). -/
def pendClear (d : Dev) : Dev := if d.flt.halt then d else { d with flt := { d.flt with pend := false, maxClass := 0 } }

/-- PEND_CLEAR. -/
def execPendClear (src : Iface) (s : State) : Out3 := lift s (fun d => ownerOnly d src pendClear)

/-! ### Class 3 at a die-to-die module (R28, R347) -/

/-- D2D_AUDIT of a module's credits: a violation of C2. The command brings the module's two counts. DESIGN CHOICE
(notes/assumptions/53.md). -/
def execD2dAudit (m : Fin 100) (expected observed : Nat) (jobs : List (Fin 2)) (s : State) : Out3 :=
  lift s (fun d =>
    if expected = observed then d
    else
      let d := record d { fspec 3 0x13 0x08 with unit := m.val, detail := lawDetail 2 expected observed }
      retireModule (endJobs d (jobs.map (fun j => j.val)) 3 (faultCode 3 0x13 0x08)) m.val)

end Sys2Proof.Machine
end

