-- ==== Sys2Proof/Machine/Kindling.lean ====
section
/-! DEFINITION. Kindling (R371, R372, Tables 17-8 and 17-9): the container in an NVM slot as bytes, its verification, and what
its sections hold. -/

namespace Sys2Proof.Machine

/-! ### The container -/

/-- Largest image: 28 MiB. -/
def kindMax : Nat := 28 * 2 ^ 20

def kindLen (b : List Byte) : Nat := leAt b 8 4
def kindCount (b : List Byte) : Nat := leAt b 7 1

/-- The directory, laid out as in R70. -/
def kindSects (b : List Byte) : List Sect :=
  (List.range (kindCount b)).map (fun i =>
    let e := slice b (0x40 + 16 * i) 16
    ⟨leAt e 0 2, leAt e 2 2, leAt e 4 4, 64 * leAt e 8 4, leAt e 12 4⟩)

/-- Bytes of the section of a type, empty where there is none. -/
def kindSect (b : List Byte) (ty : Nat) : List Byte :=
  match (kindSects b).find? (fun s => s.ty == ty) with
  | some s => slice b s.off s.len
  | none => []

def kindHas (b : List Byte) (ty : Nat) : Bool := (kindSects b).any (fun s => s.ty == ty)

/-- Whether the bytes begin a Kindling of at most 28 MiB. -/
def kindHeader (b : List Byte) : Bool :=
  leAt b 0 4 == 0x4C444E4B && leAt b 4 1 == 1 && decide (2 ≤ kindCount b) && decide (kindCount b ≤ 16)
    && kindLen b % 64 == 0 && decide (kindLen b ≤ kindMax)

/-- The directory: defined types, each once, in the image, apart from each other, SIGNATURE last. -/
def kindLayout (b : List Byte) : Bool :=
  let ss := kindSects b
  let n := kindCount b
  ss.all (fun s => [1, 2, 3, 4, 5, 6, 8].contains s.ty && decide (0x40 + 16 * n ≤ s.off) && decide (s.off + s.len ≤ kindLen b))
    && (List.range n).all (fun i => (List.range n).all (fun j => match ss[i]?, ss[j]? with
        | some x, some y => i == j || (x.ty != y.ty && !overlap x.off x.len y.off y.len)
        | _, _ => true))
    && (match ss.find? (fun s => s.ty == 8) with
        | some s => ss.all (fun t => decide (t.off ≤ s.off)) && (ss.getLast?.map (fun t => t.ty)) == some 8
        | none => false)

/-- Every CRC. -/
def kindCrc (b : List Byte) : Bool :=
  let hd := slice b 0 (0x40 + 16 * kindCount b)
  (crc32 (hd.take 0xC ++ [0, 0, 0, 0] ++ hd.drop 0x10)).toNat == leAt b 0xC 4
    && (kindSects b).all (fun s => (crc32 (slice b s.off s.len)).toNat == s.crc)

/-! ### What the sections hold -/

/-- REG_INIT: offsets and values. -/
def regInits (b : List Byte) : List (Nat × Nat) :=
  let t := kindSect b 1
  (List.range (t.length / 8)).map (fun i => (leAt t (8 * i) 4, leAt t (8 * i + 4) 4))

/-- EMP_TABLES: port and entry words; the header holds the port in its first two bytes and the entries in its last two (DESIGN CHOICE,
notes/assumptions/20.md). -/
def empTables : Nat → List Byte → List (Nat × List Nat)
  | 0, _ => []
  | k + 1, t =>
    if t.length < 4 then []
    else
      let n := leAt t 2 2
      (leAt t 0 2, (List.range n).map (fun i => leAt t (4 + 4 * i) 4)) :: empTables k (t.drop (4 + 4 * n))

def kindEmp (b : List Byte) : List (Nat × List Nat) := let t := kindSect b 2; empTables t.length t

/-- KEYS: key slot and the 96 bytes of X and Y. -/
def kindKeys (b : List Byte) : List (Nat × List Byte) :=
  let t := kindSect b 3
  (List.range (t.length / 128)).map (fun i => (leAt t (128 * i) 1, slice t (128 * i + 32) 96))

/-- A RESIDENT record: handle, stacks, image. -/
structure ResRec where
  handle : Nat
  stk : Nat
  img : List Byte
  deriving DecidableEq, Repr

/-- RESIDENT: its header holds HANDLE in bytes 1:0, STACKS in bytes 3:2 and the length in bytes 15:8 (DESIGN CHOICE,
notes/assumptions/20.md). -/
def residents : Nat → List Byte → List ResRec
  | 0, _ => []
  | k + 1, t =>
    if t.length < 16 then []
    else
      let n := leAt t 8 8
      ⟨leAt t 0 2, leAt t 2 2, slice t 16 (Nat.min n t.length)⟩ :: residents k (t.drop (16 + roundUp n 64))

def kindResidents (b : List Byte) : List ResRec := let t := kindSect b 4; residents t.length t

/-- BOOT_OWNER: master (1 H, 2 F, 3 M) and term. -/
def kindOwner (b : List Byte) : Option (Nat × Word) :=
  if kindHas b 5 then let t := kindSect b 5; some (leAt t 0 1, BitVec.ofNat 32 (leAt t 4 4)) else none

/-- SUBMIT: queue and descriptor. -/
def kindSubmits (b : List Byte) : List (Nat × List Byte) :=
  let t := kindSect b 6
  (List.range (t.length / 72)).map (fun i => (leAt t (72 * i) 1, slice t (72 * i + 8) 64))

/-- Reserved fields, and the fields with a list of defined values. -/
def kindReserved (b : List Byte) : Bool :=
  let keys := kindSect b 3
  let own := kindSect b 5
  let sub := kindSect b 6
  let sg := kindSect b 8
  leNat (slice b 0x20 32) == 0 && (kindSects b).all (fun s => s.rsvd == 0)
    && (List.range (keys.length / 128)).all (fun i => decide (leAt keys (128 * i) 1 ≤ 3) && leNat (slice keys (128 * i + 1) 31) == 0)
    && keys.length % 128 == 0 && decide (keys.length ≤ 512)
    && (!kindHas b 5 || (leAt own 1 3 == 0 && decide (1 ≤ leAt own 0 1) && decide (leAt own 0 1 ≤ 3)))
    && sub.length % 72 == 0
    && (List.range (sub.length / 72)).all (fun i => decide (leAt sub (72 * i) 1 ≤ 63) && leAt sub (72 * i + 1) 7 == 0)
    && (kindEmp b).all (fun p => decide (p.1 < 16) && p.2.all (fun w => fld w 0 2 == 0))
    && (kindSect b 1).length % 8 == 0 && leNat (slice sg 2 14) == 0

/-- Whether REG_INIT may write an offset (R372). -/
def initBlock (o : Nat) : Bool :=
  let inside (lo n : Nat) : Bool := decide (lo ≤ o) && decide (o < lo + n)
  inside 0x3000 0x2000 || inside 0x6000 0x1000 || inside 0x8000 0x4000 || inside 0x20000 0x1000 || inside 0x30000 0xC000
    || inside 0x40000 0x10000 || inside 0x50000 0xC000 || inside 0x60000 0x9000

/-- A class that would raise the option's (Table 18-2: P1 is the highest). -/
def classAbove (set opt : Nat) : Bool := set != 0 && decide (set < opt)

/-- REG_INIT writes only where it may, and asks for no power class above the option's. -/
def kindInitOk (b : List Byte) (opt : Nat) : Bool :=
  (regInits b).all (fun r => initBlock r.1 && !(r.1 == 0x4008 && classAbove (fld r.2 0 2) opt))

/-- The signature, by a root key of the fuses that is not revoked. DESIGN CHOICE (notes/assumptions/11.md). -/
def kindSigned (b : List Byte) : Bool :=
  match (kindSects b).find? (fun s => s.ty == 8) with
  | none => false
  | some s =>
    let sg := slice b s.off 112
    s.len == 112 && s.off + 128 == kindLen b && leNat (slice b (s.off + 112) 16) == 0 && decide (leAt sg 0 1 ≤ 3)
      && leAt sg 1 1 == 1
      && (match Config.fuseKey (leAt sg 0 1) with
          | some k => Config.ecdsaOk (b.take s.off) sg k
          | none => false)

/-- Verification of a slot's bytes (R371): 0 for a pass, else the result code of BOOT_UPD_STATUS: 2 BAD_IMAGE, 3 SIGNATURE,
4 ARCH. -/
def kindCode (b : List Byte) (opt : Nat) : Nat :=
  if !kindHeader b || b.length < kindLen b then 2
  else if !(decide (leAt b 5 1 ≤ 2) && decide (2 ≤ leAt b 6 1)) then 4
  else if !kindLayout b || !kindCrc b || !kindReserved b || !kindInitOk b opt then 2
  else if !kindSigned b then 3
  else 0

/-! ### The NVM as the loader sees it (R361, R362) -/

/-- A region of Table 17-5. -/
inductive NvmRegion where
  | trim | opt (k : Nat) | journal (mirror : Nat) | reserved | slot (s : Nat)
  deriving DecidableEq, Repr

/-- Region of an NVM address; none past the layout, which the device does not use. -/
def nvmRegion (a : Nat) : Option NvmRegion :=
  if a < 0x10000 then some .trim
  else if a < 0x20000 then some (.opt 0)
  else if a < 0x30000 then some (.opt 1)
  else if a < 0x50000 then some (.journal 0)
  else if a < 0x70000 then some (.journal 1)
  else if a < 0x400000 then some .reserved
  else if a < 0x2000000 then some (.slot 0)
  else if a < 0x3C00000 then some (.slot 1)
  else none

/-- How the loader reads the NVM: 8D-8D-8D or 1S-1S-1S, and the clock in kHz (R362). -/
structure NvmMode where
  octal : Bool
  khz : Nat
  deriving DecidableEq, Repr

/-- The mode before and after the root PLL locks. Whether the board's NVM advertises 8D-8D-8D is a free value. DESIGN CHOICE
(notes/assumptions/59.md). -/
def nvmMode (d : Dev) : NvmMode :=
  if !d.clk.locked then ⟨false, 12500⟩ else if Config.nvmOctal then ⟨true, 200000⟩ else ⟨false, 25000⟩

/-! ### Slots -/

def slotBytes (d : Dev) (s : Nat) : List Byte := if s = 0 then d.nvm.slotA else d.nvm.slotB

def setSlotBytes (d : Dev) (s : Nat) (b : List Byte) : Dev :=
  { d with nvm := if s = 0 then { d.nvm with slotA := b } else { d.nvm with slotB := b } }

/-- LENGTH of BOOT_SLOTs: 0 when unreadable. -/
def slotLength (b : List Byte) : Nat := if kindHeader b then kindLen b else 0

def slotVerified (d : Dev) (s : Nat) : Bool := if s = 0 then d.boot.verifiedA else d.boot.verifiedB

/-- What is known of a slot: VERIFIED and LENGTH; REDUNDANT is 1 only while both verify (R382). -/
def noteSlot (d : Dev) (s : Nat) (v : Bool) : Dev :=
  let n := slotLength (slotBytes d s)
  let b := if s = 0 then { d.boot with verifiedA := v, lengthA := n } else { d.boot with verifiedB := v, lengthB := n }
  { d with boot := { b with redundant := b.verifiedA && b.verifiedB } }

/-- Whether a slot's erase mark is set. -/
def eraseMark (d : Dev) (s : Nat) : Bool := if s = 0 then (jNow d).markA else (jNow d).markB

/-- A slot is verified now. -/
def verifySlot (d : Dev) (s : Nat) : Bool := kindCode (slotBytes d s) d.boot.powerClassOpt == 0

end Sys2Proof.Machine
end

