-- ==== Sys2Proof/Machine/Reset.lean ====
section
/-! DEFINITION. Reset (R355 to R360, R428, R429): the sources and what a device reset does, the backup domain, partial resets,
PERSTx_N (R412), and the report of a fault with its containment (R343, R345), whose worst case is a reset. -/

namespace Sys2Proof.Machine

/-! ### What the TAP executes (R418, R429) -/

/-- Instructions that drive pins. -/
def tapDrives (i : TapIr) : Bool := !([TapIr.bypass, .idcode, .samplePreload].contains i)

/-- The instruction in effect: one that drives pins acts as BYPASS unless RST_N is low and JTAG_EN is high. -/
def tapActs (p : Pins) : TapIr := if tapDrives p.tap.loaded && !(p.rstLow && p.jtagEn) then .bypass else p.tap.loaded

/-- The pins under the instruction in effect. -/
def tapPins (d : Dev) : Dev :=
  match tapActs d.pins with
  | .highz => emit d .highz
  | .bypass => d
  | .idcode => d
  | .samplePreload => d
  | i => emit d (.drive i d.pins.tap.boundary)

/-- The pins change: what the TAP drives starts or ends. -/
def setPins (d : Dev) (p : Pins) : Dev :=
  let was := tapDrives (tapActs d.pins)
  let is := tapDrives (tapActs p)
  let d := { d with pins := p }
  if was && !is then emit d .highz else if !was && is then tapPins d else d

/-! ### Device reset (R355, R356) -/

/-- What a device reset leaves (R247, R356): the backup domain, the NVM, the pins as they stand, the local time; all else at its reset
value. -/
def resetDev (d : Dev) : Dev :=
  let r := Dev.reset
  { r with bk := d.bk, nvm := d.nvm, pins := d.pins, out := d.out, free := d.free
           clk := { r.clk with localNs := d.clk.localNs }
           ports := { r.ports with safeIn := d.ports.safeIn }
           pwr := { r.pwr with brake := d.pwr.brake } }

/-- A device-reset source. While another source holds the device in RESET, it only joins those that must deassert. DEDUCED
(notes/assumptions/35.md). -/
def deviceReset (d : Dev) (cause : Nat) : Dev :=
  if d.boot.st = .reset && !d.boot.sources.isEmpty then
    { d with boot := { d.boot with sources := if d.boot.sources.contains cause then d.boot.sources else d.boot.sources ++ [cause] } }
  else
    let d := resetDev (allOkLow d)
    { d with bk := { d.bk with count := d.bk.count + 1, cause := cause }
             boot := { d.boot with st := .reset, sources := [cause] } }

/-- A reset that a fault causes: the fault's record first, then the sealed log (R353). DESIGN CHOICE (notes/assumptions/27.md). -/
def faultReset (d : Dev) (f : FSpec) (cause : Nat) : Dev := deviceReset (sealLog (record d f)) cause

/-- RST_N_ASSERT, filtered. -/
def execRstNAssert (s : State) : Out3 :=
  lift s (fun d => let d := deviceReset d 0x02; setPins d { d.pins with rstLow := true })

/-- WATCHDOG_EXPIRE: no kick for 20 ms. -/
def execWatchdogExpire (s : State) : Out3 :=
  lift s (fun d => if d.boot.st = .reset then d else faultReset d (fspec 5 0x00 0x09) 0x04)

/-- A write of RST_DEVICE. -/
def rstDevice (d : Dev) (key : Nat) : Dev := if key = 0xD5 then deviceReset d 0x05 else discarded d 0x02 0x200C

/-- RST_DEVICE. -/
def execRstDevice (src : Iface) (key : Byte) (s : State) : Out3 :=
  lift s (fun d => ownerOnly d src (fun d => rstDevice d key.toNat))

/-- LOADER_FAILURE, in a load (R370). -/
def execLoaderFailure (s : State) : Out3 :=
  lift s (fun d => if d.boot.st = .load then deviceReset d 0x08 else d)

/-! ### PERSTx_N (R356, R412) -/

/-- What PERSTx_N does to its link. -/
def linkReset (d : Dev) (l : Nat) : Dev :=
  let d := linkFail d l 4
  if l = 0 then { d with hlk := { d.hlk with msix0 := [], pba0 := [] } } else { d with hlk := { d.hlk with msix1 := [], pba1 := [] } }

/-- PERST_ASSERT. -/
def execPerstAssert (l : Fin 2) (s : State) : Out3 :=
  lift s (fun d =>
    let d := { d with pins := if l.val = 0 then { d.pins with perst0 := true } else { d.pins with perst1 := true } }
    if d.boot.perstMode = 1 && d.pins.perst0 && d.pins.perst1 then deviceReset d 0x03 else linkReset d l.val)

/-- PERST_DEASSERT: the link may train; a device reset that both pins held loses that source. -/
def execPerstDeassert (l : Fin 2) (s : State) : Out3 :=
  lift s (fun d =>
    { d with pins := if l.val = 0 then { d.pins with perst0 := false } else { d.pins with perst1 := false }
             boot := { d.boot with sources := d.boot.sources.map (fun c => if c = 3 then 0 else c) } })

/-! ### The backup domain (R360) -/

/-- VBKUP_LOSS. -/
def execVbkupLoss (s : State) : Out3 := lift s (fun d => { d with bk := { Backup.reset with powered := false } })

/-- VBKUP_POWER_ON: every item zero, BKUP_LOST set. -/
def execVbkupPowerOn (s : State) : Out3 :=
  lift s (fun d => if d.bk.powered then d else { d with bk := { Backup.reset with flags := 2 ^ 27 } })

/-! ### Partial resets (R359) -/

/-- Registers of a block at their reset values. -/
def clearRegs (d : Dev) (lo n : Nat) : Dev := { d with regs := d.regs.filter (fun p => p.1 < lo || lo + n ≤ p.1) }

/-- EMPn at reset: EMP_OK low, buffers free; commands of jobs stay to be answered. -/
def resetEmp (d : Dev) (n : Nat) : Dev :=
  let d := setOk d n false
  let e := emp d n
  clearRegs (setEmp d n { Emp.reset with cmds := e.cmds, epoch := e.epoch, primary := e.primary, secValid := e.secValid
                                         alone := e.alone, dispute := e.dispute }) (empBase n) 0x800

/-- CAPn at reset: TAKEs that wait end PORT_OFF. -/
def resetCap (d : Dev) (n : Nat) : Dev :=
  let d := capDisable d n
  clearRegs (setCap d n { Cap.reset with cmds := (cap d n).cmds }) (capBase n) 0x800

/-- RWn at reset: it goes as an isolated port (R338), and is then DISABLED. -/
def resetRw (d : Dev) (n : Nat) : Dev :=
  let d := isolatePort d n
  let x := rwPort d n
  clearRegs (setRw d n { RwPort.reset with wrapping := x.wrapping, mine := x.mine }) (rwBase n) 0x1000

/-- An I/O die that is reset: the ports and engines on it, and its host link. DEDUCED (notes/assumptions/35.md). -/
def resetIod (d : Dev) (n : Nat) : Dev :=
  let es := if n = 1 then emps 0 8 else if n = 2 then emps 8 8 else []
  let cs := if n = 1 then emps 0 4 else if n = 2 then emps 4 4 else []
  let vs := emps (4 * n) 4
  let d := cs.foldl resetCap (es.foldl resetEmp d)
  let d := [2 * n, 2 * n + 1].foldl resetRw d
  let d := vs.foldl (fun d k => clearRegs (setPxe (setVce d k Vce.reset) k Pxe.reset) (vceBase k) 0x1000) d
  if n = 0 then linkReset d 0 else if n = 3 then linkReset d 1 else d

/-- Tiles of a half, or of one die, at reset. -/
def resetTiles (d : Dev) (p : Nat → Bool) : Dev := { d with tiles := d.tiles.filter (fun t => !p t.1) }

/-- Whether KIND and INDEX name a target of Table 17-3. -/
def partTarget (kind idx : Nat) : Bool :=
  match kind with
  | 0 => decide (idx < 2)
  | 1 => dieValid idx
  | 2 => decide (idx < 24) || (decide (32 ≤ idx) && decide (idx < 40))
  | _ => decide (idx < 100) || idx == 128 || idx == 129

/-- What a partial reset does to its target. -/
def partReset (d : Dev) (kind idx : Nat) : Dev :=
  let code := faultCode 0 0x0A 0x11
  match kind with
  | 0 => resetTiles (fenceHalf d idx 0 code) (fun g => tileHalf g == idx)
  | 1 =>
    let d := fenceHalf d (dieHalf idx) 0 code
    if idx < 20 then resetTiles d (fun g => g / 40 == idx) else resetIod d (idx - 32)
  | 2 => if idx < 16 then resetEmp d idx else if idx < 24 then resetCap d (idx - 16) else resetRw d (idx - 32)
  | _ => if idx < 100 then closeModules d [idx] else linkReset d (idx - 128)

/-- A write of RST_PARTIAL. DEDUCED (notes/assumptions/35.md). -/
def rstPartial (d : Dev) (go : Bool) (kind idx : Nat) : Dev :=
  if go && (d.boot.partBusy || !partTarget kind idx) then discarded d 0x02 0x2010
  else
    let d := regPut d 0x2010 (put (flag go) 31 1 + put kind 28 2 + put idx 0 8)
    if !go then d
    else { partReset d kind idx with
      boot := { (partReset d kind idx).boot with partBusy := true, partKind := kind, partIndex := idx, partResult := 0 } }

/-- RST_PARTIAL with GO; one while a partial reset is BUSY is discarded (R385). -/
def execRstPartial (src : Iface) (kind : Fin 4) (idx : Byte) (s : State) : Out3 :=
  lift s (fun d => ownerOnly d src (fun d => rstPartial d true kind.val idx.toNat))

/-- A partial reset has ended; `ok` when the self-test or the training it needs has passed. -/
def partDone (d : Dev) (ok : Bool) : Dev :=
  if !d.boot.partBusy then d
  else
    let k := d.boot.partKind
    let i := d.boot.partIndex
    let d := { d with boot := { d.boot with partBusy := false, partResult := if ok || k == 2 then 1 else 2 } }
    match k with
    | 0 => if ok && fenced d i then returnHalf d i else d
    | 1 => if ok && fenced d (dieHalf i) then returnHalf d (dieHalf i) else d
    | 2 => d
    | _ =>
      if 100 ≤ i then d
      else if ok then { d with flt := { d.flt with closedModules := d.flt.closedModules.filter (· != i) } }
      else retireModule (record d { fspec 3 0x13 0x0A with unit := i, detail := i }) i

/-- PARTIAL_RESET_DONE. -/
def execPartialResetDone (ok : Bool) (s : State) : Out3 := lift s (fun d => partDone d ok)

/-! ### A fault is reported (R343, R345, R347) -/

/-- The unit that a class 3 fault takes out of service (Table 16-5 row 3). An uncorrectable or parity error of a channel counts on it (R226). -/
def stopUnit (d : Dev) (block unit code : Nat) : Dev :=
  match block with
  | 0x01 => if code = 0x13 then { d with own := { d.own with st := .dispute, owner := none, standing := false, electing := false, leaseEnd := 0 } } else d
  | 0x0C =>
    if unit < 192 then (if code = 4 || code = 5 then uncorrected d (unit / 16) (unit % 16) else wantRetire d unit) else d
  | 0x0D => if unit < 16 then vceFail d unit code else d
  | 0x0E =>
    if unit < 16 then
      let p := pxe d unit
      match p.cur with
      | some _ => setPxe d unit { p with cur := none, word := none }
      | none => d
    else d
  | 0x0F => if unit < 16 then empDisable d unit else d
  | 0x10 => if unit < 8 then capDisable d unit else d
  | 0x11 => if unit < 8 then isolatePort d unit else d
  | 0x12 => if unit < 2 then linkFail d unit 3 else d
  | 0x13 => if unit < 100 then retireModule d unit else d
  | _ => d

/-- The half that a class 4 fault strikes where nothing finer is named. -/
def reportHalf (block unit : Nat) (jobs : List Nat) (k : ScopeKind) : Nat :=
  if block = 0x14 then tileHalf unit
  else if block = 0x15 then unit % 2
  else match k, jobs with
    | .east, _ => 1
    | _, 1 :: _ => 1
    | _, _ => 0

/-- Containment by class (Table 16-5); a corrected error of an HBM channel counts on it (R226). DEDUCED (notes/assumptions/47.md). -/
def containFault (d : Dev) (r : Report) : Dev :=
  let jobs := r.jobs.map (fun j => j.val)
  let code := faultCode r.cls.val r.block.toNat r.code.toNat
  let u := r.unit.toNat
  let hb := r.block.val == 0x0C && decide (u < 192)
  match r.cls.val with
  | 0 => d
  | 1 => if hb && r.code.val == 3 then countCe d (u / 16) (u % 16) else d
  | 2 =>
    let d := if hb && (r.code.val == 4 || r.code.val == 5) then uncorrected d (u / 16) (u % 16) else d
    endJobs d jobs 2 code
  | 3 =>
    let d := endJobs d jobs 3 code
    match r.what with
    | .pair b => { d with flt := if d.flt.redundant then { d.flt with redundant := false, activeB := !b } else d.flt }
    | .module m => retireModule d m.val
    | _ => stopUnit d r.block.toNat r.unit.toNat r.code.toNat
  | 4 =>
    match r.what with
    | .die i => if dieValid i then strikeDie d i 4 code else d
    | .half h => fenceHalf d h.val 4 code
    | _ =>
      let k := match jobs with
        | j :: _ => (scope d j).kind
        | [] => .device
      if r.block.val = 0x14 && decide (r.unit.toNat < 800) then strikeDie d (r.unit.toNat / 40) 4 code
      else fenceHalf d (reportHalf r.block.toNat r.unit.toNat jobs k) 4 code
  | _ =>
    match r.what with
    | .critical => deviceReset (haltDevice d) 0x07
    | _ => haltDevice d

/-- A report is recorded and contained. -/
def faultReport (d : Dev) (r : Report) : Dev :=
  if d.boot.st = .reset then d
  else
    let j := r.jobs.head?
    let sc := (j.map (fun j => scopeCode (scope d j.val).kind)).getD 0
    let sl := (j.map (fun j => if (scope d j.val).jobValid then (scope d j.val).slot else 0xFFFF)).getD 0xFFFF
    let f : FSpec := { cls := r.cls.val, block := r.block.val, code := r.code.val, unit := r.unit.toNat, scope := sc, slot := sl
                       detail := r.detail.toNat }
    containFault (recordAt d f (if r.cls.val ≤ 1 then 0 else r.us.toNat) r.late (decide (2 ≤ r.cls.val))) r

/-- Whether a report goes before another of the same SCLK cycle: by class, highest first, then by source block, lowest first (R343). -/
def reportFirst (a b : Report) : Bool := b.cls < a.cls || (a.cls == b.cls && a.block < b.block)

/-- A report put among ordered ones, behind its equals. -/
def putReport (r : Report) : List Report → List Report
  | [] => [r]
  | x :: xs => if reportFirst r x then r :: x :: xs else x :: putReport r xs

/-- The order in which reports of one SCLK cycle are recorded (R343, R354). -/
def reportOrder (rs : List Report) : List Report := rs.foldl (fun l r => putReport r l) []

/-- FAULT_REPORT of the reports that arrive in one SCLK cycle: each is contained by its own class. -/
def execFaultReport (rs : List Report) (s : State) : Out3 := lift s (fun d => (reportOrder rs).foldl faultReport d)

end Sys2Proof.Machine
end

