-- ==== Sys2Proof/Machine/Own.lean ====
section
/-! DEFINITION. Ownership (R374 to R380): claims, elections, leases, dispute. -/

namespace Sys2Proof.Machine

/-- A lease of 10 s, in nanoseconds. -/
def leaseNs : Nat := 10000000000

/-- A value that a master has in a list kept per master. -/
def ofMaster {α : Type} (l : List (Master × α)) (q : Master) : Option α := (l.find? (fun p => p.1 == q)).map (fun p => p.2)

/-- The same list with a master's value set. -/
def setMaster {α : Type} (l : List (Master × α)) (q : Master) (v : α) : List (Master × α) :=
  l.filter (fun p => p.1 != q) ++ [(q, v)]

/-- OWN_RESULT of a master. -/
def ownResult (d : Dev) (q : Master) (r : Nat) : Dev := { d with own := { d.own with result := setMaster d.own.result q r } }

/-- OWN_CLAIM_TERM of a master. -/
def claimTermOf (d : Dev) (q : Master) : Word := (ofMaster d.own.claimTerm q).getD 0

/-- Whether a claim of this term is valid (R375). -/
def claimValid (d : Dev) (t : Word) : Bool :=
  if d.own.st = .dispute then decide (d.own.pairA < t) && decide (d.own.pairB < t) else decide (d.own.term < t)

/-- A new term, held by both pairs. -/
def setTerm (o : Own) (t : Word) : Own := { o with term := t, pairA := t, pairB := t }

/-- A master becomes owner with a term and a lease of 10 s. -/
def makeOwner (d : Dev) (q : Master) (t : Word) : Dev :=
  { d with own := { setTerm d.own t with st := .owned, owner := some q, standing := false, electing := false
                                         leaseEnd := d.clk.localNs + leaseNs, pend := [] } }

/-- An election window of 1 ms opens, unless one is open (R376). -/
def openWindow (d : Dev) : Dev :=
  if d.own.electing then d else startTimer { d with own := { d.own with electing := true } } .election

/-- A lease ends (R377): with claims pending an election window opens and nobody is owner meanwhile. -/
def leaseEnds (d : Dev) : Dev :=
  let o := { d.own with owner := none, standing := false, leaseEnd := 0 }
  if o.pend.isEmpty then { d with own := { o with st := .noOwner } } else openWindow { d with own := o }

/-- A claim is held pending; `open_` when it opens or joins an election window. -/
def holdClaim (d : Dev) (q : Master) (t : Word) (open_ : Bool) : Dev :=
  let d := { d with own := { d.own with pend := setMaster d.own.pend q t } }
  ownResult (if open_ then openWindow d else d) q 2

/-- A valid claim. DEDUCED (notes/assumptions/37.md). -/
def validClaim (d : Dev) (q : Master) (t : Word) : Dev :=
  match d.own.st with
  | .noOwner => holdClaim d q t true
  | .dispute => holdClaim d q t true
  | .owned =>
    if d.own.electing then holdClaim d q t true
    else if d.own.standing then holdClaim { d with own := { d.own with standing := false, owner := none, leaseEnd := 0 } } q t true
    else if d.own.owner = some q then
      ownResult { d with own := { setTerm d.own t with leaseEnd := d.clk.localNs + leaseNs } } q 0
    else holdClaim d q t false

/-- The copies of the pairs differ (R380). -/
def ownDispute (d : Dev) : Dev :=
  record { d with own := { d.own with st := .dispute, owner := none, standing := false, electing := false, leaseEnd := 0 } }
    { fspec 3 0x01 0x13 with detail := d.own.term.toNat }

/-- CLAIM. `reach` names the pairs that it reaches: 0 both, 1 pair A only, 2 pair B only. While pair B stands by, a valid claim that
reaches one pair only leaves the copies different. DEDUCED (notes/assumptions/37.md). -/
def claim (d : Dev) (q : Master) (reach : Nat) : Dev :=
  let t := claimTermOf d q
  if !claimValid d t then ownResult d q 1
  else if reach = 0 || !d.flt.redundant || d.own.st == .dispute then validClaim d q t
  else
    let renews := d.own.st == .owned && d.own.owner == some q && !d.own.standing
    let o := if !renews then d.own else if reach = 1 then { d.own with pairA := t } else { d.own with pairB := t }
    ownResult (ownDispute { d with own := { o with pend := setMaster o.pend q t } }) q 2

/-- RENEW, RELEASE and HANDOVER are for the owner alone, and do nothing in DISPUTE. -/
def ownerCommand (d : Dev) (q : Master) (f : Dev → Dev) : Dev :=
  if d.own.st = .dispute then ownResult d q 4
  else if d.own.st = .owned && d.own.owner == some q then ownResult (f d) q 0
  else ownResult d q 3

/-- RENEW: also what turns a standing lease into an ordinary one (R378). -/
def renew (d : Dev) : Dev := { d with own := { d.own with standing := false, leaseEnd := d.clk.localNs + leaseNs } }

/-- The master that TO names. -/
def masterNo (n : Nat) : Option Master :=
  match n with
  | 1 => some .h
  | 2 => some .f
  | 3 => some .m
  | _ => none

/-- HANDOVER. -/
def handover (d : Dev) (dest : Nat) : Dev :=
  match masterNo dest with
  | none => leaseEnds d
  | some q =>
    match ofMaster d.own.pend q with
    | some t => makeOwner d q t
    | none => leaseEnds d

/-- A write of OWN_CMD by a master. -/
def ownCmd (d : Dev) (q : Master) (op dest reach : Nat) : Dev :=
  if d.boot.st = .reset then d
  else
    match op with
    | 0 => d
    | 1 => claim d q reach
    | 2 => ownerCommand d q renew
    | 3 => ownerCommand d q leaseEnds
    | 4 => ownerCommand d q (fun d => handover d dest)
    | _ => ownResult d q 5

/-- CLAIM. -/
def execClaim (src : Iface) (reach : Fin 3) (s : State) : Out3 := lift s (fun d => ownCmd d (masterOf src) 1 0 reach.val)

/-- RENEW. -/
def execRenew (src : Iface) (s : State) : Out3 := lift s (fun d => ownCmd d (masterOf src) 2 0 0)

/-- OWN_RELEASE. -/
def execOwnRelease (src : Iface) (s : State) : Out3 := lift s (fun d => ownCmd d (masterOf src) 3 0 0)

/-- HANDOVER. -/
def execHandover (src : Iface) (dest : Fin 4) (s : State) : Out3 := lift s (fun d => ownCmd d (masterOf src) 4 dest.val 0)

/-- OWN_CMD with OP 5 to 7. -/
def execOwnCmdBadOp (src : Iface) (k : Fin 3) (s : State) : Out3 := lift s (fun d => ownCmd d (masterOf src) (5 + k.val) 0 0)

/-- The pending claim that wins: the highest term, then H, F, M. -/
def winner (o : Own) : Option (Master × Word) :=
  let best (a : Option (Master × Word)) (q : Master) : Option (Master × Word) :=
    match a, ofMaster o.pend q with
    | none, some t => some (q, t)
    | some x, some t => if x.2 < t then some (q, t) else some x
    | a, none => a
  best (best (best none .h) .f) .m

/-- ELECTION_CLOSE, at the end of the window. -/
def execElectionClose (s : State) : Out3 :=
  lift s (fun d =>
    if !d.own.electing then d
    else
      let d := afterTimer d .election 1000000
      match winner d.own with
      | some w => makeOwner d w.1 w.2
      | none => { d with own := { d.own with electing := false, st := .noOwner } })

/-- LEASE_EXPIRE of an ordinary lease, at its end. -/
def execLeaseExpire (s : State) : Out3 :=
  lift s (fun d => if d.own.st = .owned && d.own.owner.isSome && !d.own.standing then leaseEnds (untilLocal d d.own.leaseEnd) else d)

end Sys2Proof.Machine
end

