-- ==== Sys2Proof/Machine/Update.lean ====
section
/-! DEFINITION. Update of Kindling and options (R365, R381 to R384). -/

namespace Sys2Proof.Machine

/-- The slot that DOWNLOAD, VERIFY and ACTIVATE mean: with none pending, the one that the device did not boot from; else the one that is
not active. DEDUCED (notes/assumptions/38.md). -/
def inactiveSlot (d : Dev) : Nat :=
  if (jNow d).pending = none && d.boot.chosen then 1 - d.boot.slot else 1 - (jNow d).active

def updResult (d : Dev) (r : Nat) : Dev := { d with boot := { d.boot with updResult := r } }

/-- Whether the bytes from the start of an object to `n` are in T1. -/
def objHere (d : Dev) (handle n : Nat) : Option (Nat × List Nat) :=
  match objOf d handle with
  | none => none
  | some (h, o) =>
    if o.cls = .far || o.cls == .peer || h != handle then none else some (h, missing h o 0 (Nat.min n (o.npages * pageSize)))

/-- What stops a DOWNLOAD before it begins (Table 17-11); 0 for nothing. DEDUCED (notes/assumptions/38.md). -/
def downloadBlocked (d : Dev) (handle : Nat) : Nat :=
  if (d.boot.st != .service && d.boot.st != .recovery) || (jNow d).pending.isSome then 1
  else
    match objOf d handle with
    | none => 6
    | some (h, o) =>
      if o.cls = .far || o.cls == .peer || h != handle then 2
      else if !(missing h o 0 64).isEmpty then 0
      else if !kindHeader (t1Read d h 0 64) || decide (o.npages * pageSize < kindLen (t1Read d h 0 64)) then 2 else 0

/-- DOWNLOAD begins: ERASE is journalled, the inactive slot is erased and no longer VERIFIED. -/
def downloadStart (d : Dev) : Dev :=
  let s := inactiveSlot d
  noteSlot (setSlotBytes (jWrite d (.erase s)) s []) s false

/-- The option copy that the loader did not select is erased (R365). -/
def optErase (d : Dev) : Dev :=
  { d with nvm := if d.boot.optSel = 0 then { d.nvm with opt1 := OptBlock.erased } else { d.nvm with opt0 := OptBlock.erased } }

/-- A command that is accepted: its result where it is known at once. -/
def updStart (d : Dev) (op handle : Nat) : Dev :=
  match op with
  | 1 =>
    match downloadBlocked d handle with
    | 0 =>
      match objHere d handle 64 with
      | some (_, []) => downloadStart d
      | some (_, ms) => requestPages d ms
      | none => updResult d 2
    | r => updResult d r
  | 3 => if slotVerified d (inactiveSlot d) then d else updResult d 1
  | 4 => if d.boot.st = .service && (jNow d).pending == some d.boot.slot then d else updResult d 1
  | 5 =>
    match objHere d handle 64 with
    | some (_, ms) => requestPages (optErase d) ms
    | none => updResult d 6
  | _ => d

/-- A write of BOOT_UPD_CTRL (R381). -/
def updCommand (d : Dev) (op handle : Nat) : Dev :=
  if d.boot.updBusy then { d with boot := { d.boot with updDropped := true } }
  else if op = 0 then regPut d 0x5004 handle
  else if 6 ≤ op then discarded d 0x05 0x5004
  else
    let d := regPut d 0x5004 (put op 29 3 + put handle 0 16)
    updStart { d with boot := { d.boot with updBusy := true, updOp := op, updHandle := handle, updResult := 0, updProgress := 0 } } op handle

/-- DOWNLOAD. -/
def execDownload (src : Iface) (h : BitVec 16) (s : State) : Out3 :=
  lift s (fun d => ownerOnly d src (fun d => updCommand d 1 h.toNat))

/-- VERIFY. -/
def execUpdateVerify (src : Iface) (s : State) : Out3 := lift s (fun d => ownerOnly d src (fun d => updCommand d 2 0))

/-- ACTIVATE. -/
def execActivate (src : Iface) (s : State) : Out3 := lift s (fun d => ownerOnly d src (fun d => updCommand d 3 0))

/-- CONFIRM. -/
def execConfirm (src : Iface) (s : State) : Out3 := lift s (fun d => ownerOnly d src (fun d => updCommand d 4 0))

/-- OPT_WRITE. -/
def execOptWrite (src : Iface) (h : BitVec 16) (s : State) : Out3 :=
  lift s (fun d => ownerOnly d src (fun d => updCommand d 5 h.toNat))

/-- The option block that OPT_WRITE makes of an object's first 64 bytes; valid when every field holds a defined value (R364). DEDUCED
(notes/assumptions/38.md). -/
def optOf (b : List Byte) (gen : Nat) : OptBlock :=
  let pc := leAt b 5 1
  let pm := leAt b 6 1
  ⟨decide (1 ≤ pc) && decide (pc ≤ 3) && decide (pm ≤ 1) && leAt b 7 1 == 0 && leNat (slice b 0xC 48) == 0, pc, pm, gen % 2 ^ 32,
   slice b 0xC 48⟩

/-- A command ends with a result. -/
def updEnd (d : Dev) (r : Nat) : Dev := { d with boot := { d.boot with updBusy := false, updResult := r } }

/-- DOWNLOAD ends: the slot is programmed with the object's image. -/
def downloadEnd (d : Dev) (fail : Bool) : Dev :=
  match objOf d d.boot.updHandle with
  | none => updEnd d 6
  | some (h, o) =>
    let s := inactiveSlot d
    let n := kindLen (t1Read d h 0 64)
    let erased := (slotBytes d s).isEmpty && eraseMark d s
    let ms := missing h o 0 (Nat.max n 64)
    if !ms.isEmpty then requestPages d ms
    else if !kindHeader (t1Read d h 0 64) || o.npages * pageSize < n then updEnd d 2
    else
      let d := if erased then d else downloadStart d
      let d := { d with boot := { d.boot with updProgress := sat 16 (ceilDiv n 65536) } }
      if fail || spanBad o 0 n then updEnd d 5 else updEnd (noteSlot (setSlotBytes d s (t1Read d h 0 n)) s false) 0

/-- UPDATE_DONE; `fail` when the NVM fails. -/
def updDone (d : Dev) (fail : Bool) : Dev :=
  if !d.boot.updBusy then d
  else if d.boot.updResult != 0 then updEnd d d.boot.updResult
  else
    match d.boot.updOp with
    | 1 => downloadEnd d fail
    | 2 =>
      let s := inactiveSlot d
      let c := kindCode (slotBytes d s) d.boot.powerClassOpt
      let d := { d with boot := { d.boot with updProgress := sat 16 (ceilDiv (slotLength (slotBytes d s)) 65536) } }
      if fail then updEnd d 5
      else if c = 0 then updEnd (noteSlot (jWrite d (.verified s)) s true) 0
      else updEnd (noteSlot d s false) c
    | 3 => if fail then updEnd d 5 else updEnd (jWrite d (.activate (inactiveSlot d))) 0
    | 4 => if fail then updEnd d 5 else updEnd (jWrite d (.confirm d.boot.slot)) 0
    | _ =>
      match objHere d d.boot.updHandle 64 with
      | none => updEnd d 6
      | some (h, ms) =>
        if !ms.isEmpty then requestPages d ms
        else if fail then updEnd d 5
        else
          let o := optOf (t1Read d h 0 64) (Nat.max (if d.nvm.opt0.valid then d.nvm.opt0.gen else 0)
            (if d.nvm.opt1.valid then d.nvm.opt1.gen else 0) + 1)
          updEnd { d with nvm := if d.boot.optSel = 0 then { d.nvm with opt1 := o } else { d.nvm with opt0 := o } } 0

/-- UPDATE_DONE. -/
def execUpdateDone (fail : Bool) (s : State) : Out3 := lift s (fun d => updDone d fail)

/-! ### Power that fails during an update (R367, R384) -/

/-- A record whose JM0 copy alone is written: it counts (R367). -/
def jWriteFirst (d : Dev) (r : JRec) : Dev :=
  let n := { d.nvm with jm0 := jMirrorWrite d.nvm.jm0 ⟨jSeq d.nvm, r, true⟩ (jApply (jNow d) r) }
  { d with nvm := n, bk := { d.bk with jptr := jAddr n } }

/-- What a VERIFY, ACTIVATE or CONFIRM under way leaves when power fails after the JM0 copy of its record (Table 17-12). -/
def updCut (d : Dev) : Dev :=
  if !d.boot.updBusy || d.boot.updResult != 0 then d
  else
    match d.boot.updOp with
    | 2 =>
      let s := inactiveSlot d
      if kindCode (slotBytes d s) d.boot.powerClassOpt = 0 then jWriteFirst d (.verified s) else d
    | 3 => jWriteFirst d (.activate (inactiveSlot d))
    | 4 => jWriteFirst d (.confirm d.boot.slot)
    | _ => d

/-- Power fails during an update: whether between the two copies of its journal record is free. DESIGN CHOICE
(notes/assumptions/38.md). -/
def powerCut (d : Dev) : Dev :=
  if d.boot.updBusy && d.boot.updResult == 0 then
    let r := drawFree d 1
    if r.1 = 1 then updCut r.2 else r.2
  else d

/-- POWER_ON_RESET. -/
def execPowerOnReset (s : State) : Out3 := lift s (fun d => deviceReset (powerCut d) 0x01)

end Sys2Proof.Machine
end

