-- ==== Sys2Proof/Machine/Power.lean ====
section
/-! DEFINITION. Clocks, power, thermal and sleep (chapter 18), with the PMBus master that the governor reads through (R417). -/

namespace Sys2Proof.Machine

/-! ### Rails and telemetry (R391, R397, R417) -/

/-- MGT_PMB_RAILr. -/
def railReg (d : Dev) (r : Nat) : Nat := regGet d (0x6040 + 4 * r)

/-- Valid slots that name a rail. -/
def slotsOf (d : Dev) (rail : Nat) : List Nat :=
  (List.range 48).filter (fun r => bit (railReg d r) 31 && fld (railReg d r) 0 6 == rail)

/-- RAIL_MISSING: one of the 33 rails of Table 18-4 is named by no valid slot. -/
def railMissing (d : Dev) : Bool := (List.range 33).any (fun k => (slotsOf d k).isEmpty)

/-- Telemetry of a rail in mW: its slots' readings summed. -/
def telemetry (d : Dev) (rail : Nat) : Nat := ((slotsOf d rail).map (fun r => mget d.mgt.power r 0)).sum

/-- Calibration factor of a rail, in 1/65536. DESIGN CHOICE (notes/assumptions/7.md). -/
def factorNow (d : Dev) (rail : Nat) : Nat := mget d.pwr.factor rail 65536

/-- Device power in mW: estimates of the rails that feed a die (0 to 25) times their factors, and the others at their
telemetry. -/
def devicePower (d : Dev) (est : List Nat) : Nat :=
  ((List.range 26).map (fun k => est.getD k 0 * factorNow d k / 65536)).sum
    + ((List.range 7).map (fun k => telemetry d (26 + k))).sum

/-! ### Classes and limits (R392) -/

/-- Class in force: the lower of the option's and PWR_CLASS.SET. -/
def classNow (d : Dev) : Nat := Nat.max d.boot.powerClassOpt (fld (regGet d 0x4008) 0 2)

/-- Its limit in mW (Table 18-2). -/
def classLimit (k : Nat) : Nat := if k = 1 then 3600000 else if k = 2 then 3000000 else 2400000

/-- A write of PWR_CLASS.SET. -/
def pwrClassWrite (d : Dev) (w : Nat) : Dev :=
  if classAbove (fld w 0 2) d.boot.powerClassOpt then discarded d 0x04 0x4008 else regPut d 0x4008 (fld w 0 2)

/-! ### Temperatures (R390, R393) -/

def govCtrl (d : Dev) : Nat := regGet d 0x4004

/-- TJ_HIGH and TJ_LOW as they act. -/
def tjHigh (d : Dev) : Nat := Nat.min 105 (fld (govCtrl d) 16 8)
def tjLow (d : Dev) : Nat := let l := fld (govCtrl d) 8 8; if l < tjHigh d then l else tjHigh d - 5

/-- UP_DWELL in microseconds. -/
def upDwell (d : Dev) : Nat := let v := fld (govCtrl d) 26 6; 5000 * (if v = 0 then 1 else v)

/-- The fastest step that FASTEST allows; its reserved value acts as ÷4. DEDUCED (notes/assumptions/39.md). -/
def fastestStep (d : Dev) : Nat := let v := fld (govCtrl d) 24 2; if v = 0 then 2 else if v = 1 then 1 else 0

/-- The hottest of sensors 0 to 59: its index and reading. -/
def hottest (d : Dev) : Nat × Nat :=
  (d.pwr.temps.filter (fun p => p.1 < 60)).foldl (fun b p => if b.2 < p.2 then p else b) (0, 0)

def tjNow (d : Dev) : Nat := (hottest d).2

/-- The hottest stack. -/
def hbmMax (d : Dev) : Nat := d.hbm.stk.foldl (fun b p => Nat.max b p.2.temp) 0

/-! ### The governor (R391 to R395) -/

/-- The step that is in force or decided. -/
def stepNow (d : Dev) : Nat := d.pwr.want.getD d.clk.step

/-- A step decided; the dwell starts anew. -/
def decideStep (d : Dev) (k : Nat) : Dev := { d with pwr := { d.pwr with want := if k = d.clk.step then none else some k, dwell := none } }

/-- Mean of the samples of the last millisecond. -/
def meanPower (l : List Nat) : Nat := if l.isEmpty then 0 else l.sum / l.length

/-- Whether ÷6 is forced at once: Tj at 110 °C, a stack above 105 °C, the brake, or a power that is not known. -/
def forced6 (d : Dev) : Bool :=
  decide (110 ≤ tjNow d) || decide (105 < hbmMax d) || d.pwr.brake || d.pwr.brakeHold != 0 || railMissing d

/-- Whether this sample lets the dwell count (R394). DEDUCED (notes/assumptions/39.md). -/
def upOk (d : Dev) (p : Nat) : Bool :=
  let k := stepNow d
  k != 0 && decide (fastestStep d < k) && !railMissing d && decide (100 * p * (4 + k) ≤ 97 * classLimit (classNow d) * (3 + k))
    && decide (tjNow d ≤ tjLow d) && decide (hbmMax d ≤ 100)

/-- GOVERNOR_TICK with the estimates of rails 0 to 25 in mW. DEDUCED (notes/assumptions/39.md). -/
def governorTick (d : Dev) (est : List Nat) : Dev :=
  let p := devicePower d est
  let ss := (p :: d.pwr.samples).take 10
  let d := { d with pwr := { d.pwr with
    samples := ss, peak := Nat.max d.pwr.peak p, brakeHold := d.pwr.brakeHold - 100
    estimate := (List.range 26).map (fun k => (k, est.getD k 0)) } }
  let c := classLimit (classNow d)
  let k := stepNow d
  let hot := decide (tjHigh d ≤ tjNow d)
  let exceeded := decide (110 * c < 100 * p) || decide (c < meanPower ss)
  let slow := forced6 d || exceeded || hot
  if k < 2 && (slow || k < fastestStep d) then
    decideStep { d with pwr := { d.pwr with tjLim := hot, powerLim := exceeded } } (if forced6 d then 2 else k + 1)
  else if upOk d p then
    let t := match d.pwr.dwell with
      | some t => t + 100
      | none => 0
    -- the dwell may complete while something holds the step, as PWR_BRAKE_N does (Table 18-6)
    if upDwell d ≤ t && !slow then decideStep d (k - 1) else { d with pwr := { d.pwr with dwell := some t } }
  else { d with pwr := { d.pwr with dwell := none } }

/-- GOVERNOR_TICK. -/
def execGovernorTick (est : List Nat) (s : State) : Out3 := lift s (fun d => if d.clk.locked then governorTick d est else d)

/-- An estimate in CCLK cycles at a new divider, rounded up (R215). -/
def rescaleEst (v old new : Nat) : Nat := sat 20 (ceilDiv (v * (4 + old)) (4 + new))

/-- STEP_CHANGE: the decided step takes effect between two beats (R39, R256, R387). -/
def stepChange (d : Dev) : Dev :=
  match d.pwr.want with
  | none => d
  | some k =>
    let o := d.clk.step
    { d with clk := { d.clk with step := k, steps := satAdd 32 d.clk.steps 1 }
             pwr := { d.pwr with want := none }
             tmg := { d.tmg with est0 := rescaleEst d.tmg.est0 o k, est1 := rescaleEst d.tmg.est1 o k, est2 := rescaleEst d.tmg.est2 o k }
             sched := { d.sched with planDirty := true } }

/-- STEP_CHANGE. -/
def execStepChange (s : State) : Out3 := lift s stepChange

/-- BRAKE_ASSERT, filtered (R428). -/
def execBrakeAssert (s : State) : Out3 :=
  lift s (fun d =>
    let d := { d with pwr := { d.pwr with brake := true, brakeHold := 0 } }
    if d.clk.locked && stepNow d != 2 then decideStep d 2 else d)

/-- BRAKE_RELEASE: ÷6 holds for UP_DWELL. -/
def execBrakeRelease (s : State) : Out3 :=
  lift s (fun d => if d.pwr.brake then { d with pwr := { d.pwr with brake := false, brakeHold := upDwell d } } else d)

/-! ### Sensors and trip (R390, R396) -/

/-- Trip sensors of a die: 0 to 19 compute, 20 to 23 I/O. -/
def tripPair (i : Nat) : Nat × Nat := if i < 20 then (2 * i, 2 * i + 1) else (40 + 4 * (i - 20), 41 + 4 * (i - 20))

/-- Whether sensor `k` feeds the trip comparators. -/
def isTrip (k : Nat) : Bool := decide (k < 40) || (decide (k < 56) && decide ((k - 40) % 4 < 2))

/-- Dies whose trip sensors differ by more than 10 °C. -/
def differing (t : FMap Nat) : List Nat :=
  (List.range 24).filter (fun i => match mget? t (tripPair i).1, mget? t (tripPair i).2 with
    | some a, some b => decide (a + 10 < b) || decide (b + 10 < a)
    | _, _ => false)

/-- SENSOR_SCAN: the readings of the 64 sensors, none for one that could not be read. -/
def sensorScan (d : Dev) (temps : List (Option Byte)) : Dev :=
  let m : FMap Nat := (List.range 64).filterMap (fun k => (temps.getD k none).map (fun b => (k, b.toNat)))
  let hot := m.find? (fun p => isTrip p.1 && decide (115 ≤ p.2))
  if d.boot.st = .reset then (if hot.isSome then deviceReset d 0x06 else d)
  else
    let df := differing m
    let fresh := df.filter (fun i => !d.pwr.differ.contains i)
    let d := { d with pwr := { d.pwr with temps := m, differ := df } }
    let d := fresh.foldl (fun d i => record d { fspec 3 0x04 0x0D with
      unit := i, detail := (tripPair i).1 + mget m (tripPair i).1 0 * 2 ^ 16 }) d
    match hot with
    | some p => faultReset d { fspec 5 0x04 0x0D with unit := p.1, detail := p.1 + p.2 * 2 ^ 16 } 0x06
    | none => d

/-- SENSOR_SCAN. -/
def execSensorScan (temps : List (Option Byte)) (s : State) : Out3 := lift s (fun d => sensorScan d temps)

/-- TRIP_RELEASE: every trip sensor below 95 °C for 1 s. -/
def execTripRelease (s : State) : Out3 :=
  lift s (fun d => { d with boot := { d.boot with sources := d.boot.sources.map (fun c => if c = 6 then 0 else c) } })

/-! ### Rails and the reference clock (R347, R389, R398) -/

/-- Recommended range of a rail in mV (Table 20-6); none for the HBM rails, whose range JESD238 gives. -/
def railRange (rail : Nat) : Option (Nat × Nat) :=
  if rail < 20 || rail = 26 then some (720, 780)
  else if rail < 26 then some (770, 830)
  else match rail with
    | 27 => some (870, 930)
    | 28 => some (1140, 1260)
    | 29 => some (1710, 1890)
    | _ => none

/-- Whether a rail's monitor trips at a voltage: 15 mV outside its range (R426). DEDUCED (notes/assumptions/51.md). -/
def railTrips (rail mv : Nat) : Bool :=
  match railRange rail with
  | some r => decide (mv + 15 ≤ r.1) || decide (r.2 + 15 ≤ mv)
  | none => true

/-- RAIL_FAULT of a rail (numbered as MGT_PMB_RAILr.RAIL) at a voltage in mV, where its monitor trips: the die it feeds, the controller pair it feeds, or,
for a rail that feeds many, power-on reset. -/
def railFault (d : Dev) (rail mv : Nat) : Dev :=
  let f (cls unit : Nat) : FSpec := { fspec cls 0x04 0x0C with unit := unit, detail := rail + mv * 2 ^ 16 }
  if d.boot.st = .reset || !railTrips rail mv then d
  else if rail < 20 then strikeDie (record d (f 4 rail)) rail 4 (faultCode 4 0x04 0x0C)
  else if rail < 24 then strikeDie (record d (f 4 (rail + 12))) (rail + 12) 4 (faultCode 4 0x04 0x0C)
  else if rail < 26 then pairFault d (rail == 25) 0x0C
  else deviceReset d 0x01

/-- RAIL_FAULT. -/
def execRailFault (rail : Fin 33) (mv : Nat) (s : State) : Out3 := lift s (fun d => railFault d rail.val mv)

/-- REFCLK_LOSS: of REFCLK itself, or of lock alone. -/
def execRefclkLoss (refclk : Bool) (s : State) : Out3 :=
  lift s (fun d =>
    let on := d.clk.locked
    let d := { d with clk := { d.clk with locked := false, refclk := d.clk.refclk && !refclk } }
    if on then halting d (fspec 5 0x03 0x0B) else d)

/-! ### SLEEP (R399 to R401) -/

/-- Whether ENTER is accepted. -/
def maySleep (d : Dev) : Bool :=
  d.boot.st == .service && !d.pwr.entering && d.sched.slots.isEmpty && !d.ports.emp.any (fun p => p.2.enabled)
    && !d.ports.cap.any (fun p => p.2.enabled) && !d.tmg.busy && !d.boot.updBusy
    && !d.vce.any (fun p => p.2.cur.isSome || (!p.2.faulted && !p.2.queue.isEmpty))

/-- A write of PWR_SLEEP. -/
def sleepWrite (d : Dev) (w : Nat) : Dev :=
  let d := regPut d 0x4014 (put (fld w 29 1) 29 1)
  match fld w 30 2 with
  | 1 =>
    if maySleep d then { d with pwr := { d.pwr with sleepBusy := false, entering := true, wakeAsked := false } }
    else { d with pwr := { d.pwr with sleepBusy := true } }
  | 2 => wakeEvent d
  | _ => d

/-- SLEEP_ENTER: ENTER with DB_WAKE as it stands. -/
def execSleepEnter (src : Iface) (s : State) : Out3 :=
  lift s (fun d => ownerOnly d src (fun d => sleepWrite d (2 ^ 30 + put (fld (regGet d 0x4014) 29 1) 29 1)))

/-- SLEEP_ENTRY_DONE: T0 and the tiles' registers are lost, the Reedway ports isolated. -/
def sleepEntered (d : Dev) : Dev :=
  if !d.pwr.entering || d.boot.st != .service then d
  else
    let d := (List.range 8).foldl isolatePort { d with tiles := [] }
    let d := if d.pwr.wakeAsked then startTimer d .wake else d
    enterState { d with pwr := { d.pwr with entering := false, waking := d.pwr.wakeAsked, wakeAsked := false } } .sleep

/-- SLEEP_ENTRY_DONE. -/
def execSleepEntryDone (s : State) : Out3 := lift s sleepEntered

/-- WAKE by the owner. -/
def execWake (src : Iface) (s : State) : Out3 :=
  lift s (fun d => ownerOnly d src (fun d => sleepWrite d (2 ^ 31 + put (fld (regGet d 0x4014) 29 1) 29 1)))

/-- WAKE_DONE, 2.0 ms after the wake event: SERVICE, and Reedway ports with EN = 1 retrain; ISOLATE still holds a port (R338). -/
def wakeDone (d : Dev) : Dev :=
  if d.boot.st != .sleep || !d.pwr.waking then d
  else
    let d := afterTimer d .wake 2000000
    let d := enterState { d with pwr := { d.pwr with waking := false } } .service
    (List.range 8).foldl (fun d n => if bit (rwCtrl d n) 31 && !bit (rwCtrl d n) 24 then trainPort d n else d) d

/-- WAKE_DONE. -/
def execWakeDone (s : State) : Out3 := lift s wakeDone

/-! ### The PMBus master (R417) -/

/-- PAGE sent to a paged slot. -/
def sendPage (d : Dev) (r : Nat) : Dev :=
  let w := railReg d r
  if bit w 23 then emit d (.pmbus (fld w 24 7) 0 [BitVec.ofNat 8 (fld w 16 7)]) else d

/-- What a slot's poll says of its rail: one that fails or reports a fault is a class 1 record, and its factor is held. -/
def pollSlot (d : Dev) (r : Nat) (p : Option Poll) (power : Bool) : Dev :=
  let rail := fld (railReg d r) 0 6
  let good := match p with
    | some p => p.ok && !p.fault
    | none => false
  let d := match p with
    | some p => if p.ok && power then { d with mgt := { d.mgt with power := mset d.mgt.power r p.pout } } else d
    | none => d
  if good then d
  else
    record { d with mgt := { d.mgt with failed := if d.mgt.failed.contains rail then d.mgt.failed else d.mgt.failed ++ [rail] } }
      { fspec 1 0x06 0x0C with unit := r, detail := rail }

/-- The factor moves halfway toward telemetry ÷ estimate, within 0.80 and 1.25 (R391). DEDUCED (notes/assumptions/39.md). -/
def moveFactor (d : Dev) (rail : Nat) : Dev :=
  let est := mget d.pwr.estimate rail 0
  if est = 0 || d.mgt.failed.contains rail || (slotsOf d rail).isEmpty then d
  else
    let was := factorNow d rail
    let v := (was + telemetry d rail * 65536 / est) / 2
    let f := if v < 52429 then 52429 else if 81920 < v then 81920 else v
    let d := { d with pwr := { d.pwr with factor := mset d.pwr.factor rail f } }
    if (f = 52429 || f = 81920) && was != f then record d { fspec 1 0x04 0x0C with unit := rail, detail := rail } else d

/-- Every valid slot is read. -/
def pollAll (d : Dev) (res : List Poll) (power : Bool) : Dev :=
  let d := { d with mgt := { d.mgt with failed := [] } }
  ((List.range 48).filter (fun r => bit (railReg d r) 31)).foldl (fun d r =>
    pollSlot (sendPage d r) r (res.find? (fun p => p.slot.val == r)) power) d

/-- PMBUS_POLL: a slot without an answer in the list did not acknowledge. -/
def execPmbusPoll (res : List Poll) (s : State) : Out3 :=
  lift s (fun d =>
    if !bit (regGet d 0x6008) 31 || !d.clk.locked then d
    else (List.range 26).foldl moveFactor (pollAll d res true))

/-- PMB_ALERT: STATUS_WORD of every slot. -/
def execPmbAlert (res : List Poll) (s : State) : Out3 := lift s (fun d => if d.clk.locked then pollAll d res false else d)

/-- A write of MGT_PMB_XFER. DEDUCED (notes/assumptions/39.md). -/
def pmbXfer (d : Dev) (w : Nat) : Dev :=
  if !bit w 31 then d
  else if d.mgt.xfer.isSome || 48 ≤ fld w 16 6 then discarded d 0x06 0x600C
  else
    { d with mgt := { d.mgt with xfer := some ⟨bit w 30, bit w 29, fld w 16 6, fld w 8 8, fld (regGet d 0x6014) 0 16⟩ } }

/-- PMB_XFER with GO. -/
def execPmbXfer (src : Iface) (w : BitVec 31) (s : State) : Out3 :=
  lift s (fun d => ownerOnly d src (fun d => pmbXfer d (2 ^ 31 + w.toNat)))

/-- PMB_XFER_DONE: the answer of the regulator. -/
def pmbDone (d : Dev) (nack pec : Bool) (data : Nat) : Dev :=
  match d.mgt.xfer with
  | none => d
  | some x =>
    let d := sendPage d x.slot
    let n := if x.word then 2 else 1
    let d := if x.read then d else emit d (.pmbus (fld (railReg d x.slot) 24 7) x.cmd (leBytes n x.data))
    { d with mgt := { d.mgt with
        xfer := none, nack := nack, pecErr := x.read && pec
        data := if x.read && !nack && !pec then data % 2 ^ (8 * n) else d.mgt.data } }

/-- PMB_XFER_DONE. -/
def execPmbXferDone (nack pec : Bool) (data : BitVec 16) (s : State) : Out3 := lift s (fun d => pmbDone d nack pec data.toNat)

end Sys2Proof.Machine
end

