-- ==== Sys2Proof/Machine/Regs.lean ====
section
/-! DEFINITION. The control space (R2 to R9, Table 0-6): what each register shows, what a read does (R6, R8), and what a write
does (R7), block by block. A register that some command writes calls the operation of that command. -/

namespace Sys2Proof.Machine

/-! ### What registers show

Each view takes the offset within its block; none is an offset that the block does not define. -/

def ownerCode (o : Option Master) : Nat :=
  match o with
  | none => 0
  | some .h => 1
  | some .f => 2
  | some .m => 3

/-- LEASE_MS (R378). -/
def leaseMs (d : Dev) : Nat :=
  if d.own.standing then 0x3FFF
  else if d.own.owner.isNone || d.own.leaseEnd ≤ d.clk.localNs then 0
  else ceilDiv (d.own.leaseEnd - d.clk.localNs) 1000000

/-- OWN; masters see their own copies of CLAIM_TERM and RESULT. -/
def ownView (d : Dev) (q : Master) (o : Nat) : Option Nat :=
  let pendOf (k : Master) : Nat := flag (ofMaster d.own.pend k).isSome
  let st := match d.own.st with
    | .noOwner => 0
    | .owned => 1
    | .dispute => 2
  match o with
  | 0x00 =>
    some (put st 30 2 + put (ownerCode d.own.owner) 28 2 + put (flag d.own.standing) 27 1 + put (flag d.own.electing) 26 1
      + put (pendOf .m) 25 1 + put (pendOf .f) 24 1 + put (pendOf .h) 23 1 + put (leaseMs d) 0 14)
  | 0x04 => some d.own.term.toNat
  | 0x08 => some (claimTermOf d q).toNat
  | 0x0C => some 0
  | 0x10 => some d.own.pairA.toNat
  | 0x14 => some d.own.pairB.toNat
  | 0x18 => some ((ofMaster d.own.result q).getD 0)
  | _ => none

def rstView (d : Dev) (o : Nat) : Option Nat :=
  match o with
  | 0x00 => some (put d.boot.torn 8 2 + put d.boot.cause 0 8)
  | 0x04 => some d.bk.count.toNat
  | 0x08 => some d.bk.flags
  | 0x0C => some 0
  | 0x10 => some (regGet d 0x2010)
  | 0x14 => some (put (flag d.boot.partBusy) 31 1 + put d.boot.partResult 29 2 + put d.boot.partIndex 0 8)
  | 0x18 => some d.bk.jptr
  | _ => none

def clkView (d : Dev) (o : Nat) : Option Nat :=
  match o with
  | 0x0 => some (put (flag d.clk.locked) 31 1 + put (flag d.clk.refclk) 30 1 + put d.clk.step 28 2)
  | 0x4 => some (sat 32 d.clk.steps)
  | 0x8 => some (d.clk.devtime.toNat % 2 ^ 32)
  | 0xC => some (d.clk.devtime.toNat / 2 ^ 32)
  | _ => none

def pwrView (d : Dev) (o : Nat) : Option Nat :=
  match o with
  | 0x00 =>
    some (put (flag d.pwr.powerLim) 31 1 + put (flag d.pwr.tjLim) 30 1 + put (flag (decide (105 < hbmMax d))) 29 1
      + put (flag d.pwr.brake) 28 1 + put (flag (decide (110 ≤ tjNow d))) 27 1 + put (flag (railMissing d)) 26 1
      + sat 24 (d.pwr.dwell.getD 0))
  | 0x04 => some (regGet d 0x4004)
  | 0x08 => some (put (if d.boot.shadowValid then classNow d else 0) 4 2 + put d.boot.powerClassOpt 2 2 + put (regGet d 0x4008) 0 2)
  | 0x0C => some (put (sat 16 (d.pwr.peak / 1000)) 16 16 + sat 16 (meanPower d.pwr.samples / 1000))
  | 0x10 => some (put (hbmMax d) 16 8 + put (hottest d).1 8 8 + put (tjNow d) 0 8)
  | 0x14 => some (put (fld (regGet d 0x4014) 29 1) 29 1 + put (flag d.pwr.sleepBusy) 28 1)
  | _ =>
    if 0x100 ≤ o && o < 0x200 then
      let k := (o - 0x100) / 4
      match mget? d.pwr.temps k with
      | some t => some (put 1 31 1 + put (flag (isTrip k)) 30 1 + put t 0 8)
      | none => some (put (flag (isTrip k)) 30 1)
    else none

/-- STATE of BOOT_STATE. -/
def stateCode (s : DevState) : Nat :=
  match s with
  | .reset => 0
  | .load => 1
  | .selftest => 2
  | .service => 3
  | .sleep => 4
  | .recovery => 5
  | .halt => 6

def bootView (d : Dev) (o : Nat) : Option Nat :=
  let j := jNow d
  match o with
  | 0x00 =>
    some (put (stateCode d.boot.st) 29 3 + put d.boot.slot 28 1 + put (flag j.pending.isSome) 27 1 + put (j.pending.getD 0) 26 1
      + put j.tries 24 2 + put (flag d.boot.redundant) 23 1 + put d.boot.recReason 20 3)
  | 0x04 => some (regGet d 0x5004)
  | 0x08 =>
    some (put (flag d.boot.updBusy) 31 1 + put (flag d.boot.updDropped) 30 1 + put d.boot.updOp 27 3 + put d.boot.updResult 16 8
      + put d.boot.updProgress 0 16)
  | 0x10 => some (put (flag d.boot.verifiedA) 31 1 + put (flag (eraseMark d 0)) 30 1 + put d.boot.lengthA 0 30)
  | 0x14 => some (put (flag d.boot.verifiedB) 31 1 + put (flag (eraseMark d 1)) 30 1 + put d.boot.lengthB 0 30)
  | _ => none

def mgtView (d : Dev) (o : Nat) : Option Nat :=
  match o with
  | 0x00 => some (regGet d 0x6000)
  | 0x04 => some (put (flag d.mgt.daValid) 31 1 + put d.mgt.dynAddr 24 7 + put d.mgt.badMsg 0 16)
  | 0x08 => some (regGet d 0x6008)
  | 0x0C => some 0
  | 0x10 => some (put (flag d.mgt.xfer.isSome) 31 1 + put (flag d.mgt.nack) 30 1 + put (flag d.mgt.pecErr) 29 1 + put d.mgt.data 0 16)
  | 0x14 => some (regGet d 0x6014)
  | _ => if 0x40 ≤ o && o < 0x100 then some (regGet d (0x6000 + o)) else none

/-! ### SCH: scheduler, CHT, image validation, queues -/

def phaseCode (p : Phase) : Nat :=
  match p with
  | .idle => 0
  | .run => 2
  | .slip => 3
  | .specStall => 4
  | .squash => 5
  | .replay => 6
  | .ending => 7

/-- Counter `i` of Table 3-7. -/
def chtCounter (x : Scope) (i : Nat) : Nat :=
  match i with
  | 0 => x.beat
  | 1 => x.jobCycles
  | 2 => x.slipCycles
  | 3 => x.specCycles
  | 4 => x.replayCycles
  | _ => x.skipped

/-- Half of a 48-bit quantity: its low word, or the 16 bits above. -/
def half48 (v : Nat) (hi : Bool) : Nat := if hi then v / 2 ^ 32 % 2 ^ 16 else v % 2 ^ 32

/-- Half of a 64-bit quantity. -/
def half64 (v : Nat) (hi : Bool) : Nat := if hi then v / 2 ^ 32 % 2 ^ 32 else v % 2 ^ 32

/-- The register set of a scope, from 0x200 + s·0x40. -/
def chtView (x : Scope) (o : Nat) : Option Nat :=
  match o with
  | 0x0 =>
    let open_ := match x.spec with
      | some sp => if sp.idle then 0 else put 1 27 1 + put (flag (sp.assumeSkip && !sp.tail)) 26 1
      | none => 0
    some (put (flag x.jobValid) 31 1 + put (phaseCode x.phase) 28 3 + open_ + put ((x.rrun.map (fun r => r.num)).getD 0) 24 2
      + put (scopeCode x.kind) 22 2 + put x.slot 0 13)
  | 0x4 => some (put x.lastCause 28 4 + put x.lastTile 16 10 + put x.lastLb 10 6)
  | 0x8 => some (sat 32 x.slipEvents)
  | 0xC => some (put (sat 16 x.exceeded) 16 16 + sat 16 x.replays)
  | _ => if 0x10 ≤ o && o < 0x40 then some (half48 (chtCounter x ((o - 0x10) / 8)) (o % 8 == 4)) else none

/-- What register set 1 shows: the east half in paired mode, 0 otherwise. -/
def eastSet (d : Dev) : Scope := if paired d || d.sc1.jobValid then d.sc1 else Scope.reset

/-- DEVTIME at which the LC plan ends; 0 while it is empty. -/
def planEnd (d : Dev) : Nat := ((planJobs d).getLast?.map (fun p => p.2.fin)).getD 0

/-- The client that an interface has selected (SCH_CLT_SEL). -/
def selOf (d : Dev) (src : Iface) : Nat := ((d.sched.sel.find? (fun p => p.1 == src)).map (fun p => p.2)).getD 0

/-- SCH_CLT_DETk. -/
def cltDetail (c : Client) (k : Nat) : Nat :=
  match k with
  | 0 => c.failed.toNat
  | 1 => c.aborted.toNat
  | 2 => c.delayed.toNat
  | _ => (mget c.refusals (k - 2) 0).toNat

def schStatus (d : Dev) : Nat :=
  let be := match d.sched.running with
    | some k => flag (((mget? d.sched.slots k).map (fun j => j.desc.be)).getD false)
    | none => 0
  put (flag d.sched.running.isSome) 31 1 + put be 30 1 + put (flag d.sched.lcOverrun) 29 1 + put (flag d.flt.fencedE) 28 1
    + put (flag d.flt.fencedW) 27 1 + put d.sched.slots.length 0 14

/-- Queue registers, from 0x400 + q·0x20; bits 31:16 of a _HI word are reserved while its ring lies in T1. -/
def queueView (d : Dev) (q o : Nat) : Option Nat :=
  match o with
  | 0x1C => some (put (queue d q).sqHead 16 16 + put (queue d q).cqTail 0 16)
  | 0x04 => some (regGet d (qBase q + 4) % (if bit (qCtrl d q) 30 then 2 ^ 16 else 2 ^ 32))
  | 0x0C => some (regGet d (qBase q + 0xC) % (if bit (qCtrl d q) 29 then 2 ^ 16 else 2 ^ 32))
  | _ => if o < 0x1C then some (regGet d (qBase q + o)) else none

def schView (d : Dev) (src : Iface) (o : Nat) : Option Nat :=
  match o with
  | 0x000 => some (regGet d 0x8000)
  | 0x004 => some (schStatus d)
  | 0x008 => some 0
  | 0x010 => some (half64 (planEnd d) false)
  | 0x014 => some (half64 (planEnd d) true)
  | 0x020 => some (selOf d src)
  | 0x280 => some 0
  | 0x284 => some 0
  | 0x2C0 => some (regGet d 0x82C0)
  | 0x2C4 =>
    some (put (flag d.imgs.busy) 31 1 + put (flag d.imgs.dropped) 30 1 + put d.imgs.code 16 8 + put d.imgs.handle 0 16)
  | 0x2C8 => some (put d.imgs.valid.length 0 11)
  | _ =>
    if 0x24 ≤ o && o < 0x48 then some (cltDetail (client d (selOf d src)) ((o - 0x24) / 4))
    else if 0x200 ≤ o && o < 0x240 then chtView d.sc0 (o % 0x40)
    else if 0x240 ≤ o && o < 0x280 then chtView (eastSet d) (o % 0x40)
    else if 0x400 ≤ o && o < 0xC00 then queueView d ((o - 0x400) / 0x20) (o % 0x20)
    else if 0x1000 ≤ o && o < 0x1200 then some 0
    else none

/-! ### FLT -/

/-- A record as its 32 bytes (Table 16-4). -/
def recBytes (r : FaultRec) : List Byte :=
  leBytes 2 (faultCode r.cls r.block r.code) ++ leBytes 1 (flag r.pairB + 2 * flag r.contained + 4 * flag r.late) ++ leBytes 1 1
    ++ leBytes 4 r.seq ++ leBytes 8 r.devtime.toNat ++ leBytes 2 r.unit ++ leBytes 1 (r.scope % 4) ++ leBytes 1 r.action
    ++ leBytes 2 r.slot ++ leBytes 2 (sat 16 r.containUs) ++ leBytes 8 r.detail

/-- Slot `i` of the crash log (R353). -/
def clogSlot (c : CrashLog) (i : Nat) : List Byte :=
  if i = 0 then leBytes 4 c.hdrCount.toNat ++ leBytes 4 c.hdrCause ++ leBytes 4 c.next ++ leBytes 4 c.written ++ List.replicate 16 0
  else match mget? c.recs i with
    | some r => recBytes r
    | none => List.replicate 32 0

/-- `n` bytes of the crash log from an offset; 0 past its end. -/
def clogRead (c : CrashLog) (off n : Nat) : List Byte :=
  (List.range n).map (fun i => if off + i < 4096 then byteAt (clogSlot c ((off + i) / 32)) ((off + i) % 32) else 0)

/-- Bits of a list of places. -/
def maskOf (l : List Nat) : Nat := (l.eraseDups.map (fun i => 2 ^ i)).sum

def fltView (d : Dev) (o : Nat) : Option Nat :=
  match o with
  | 0x00 =>
    some (put (flag d.flt.pend) 31 1 + put (flag d.flt.redundant) 30 1 + put (flag d.flt.activeB) 29 1 + put (flag d.flt.halt) 28 1
      + put d.flt.maxClass 24 4 + put d.flt.lost 0 16)
  | 0x04 => some (regGet d 0x10004)
  | 0x08 => some d.flt.seq
  | 0x0C => some (put (flag d.flt.dispute) 31 1 + put (flag d.flt.secValid) 30 1 + put d.flt.primary 29 1)
  | 0x10 => some d.flt.epoch.toNat
  | 0x14 => some (regGet d 0x10014)
  | 0x18 =>
    some (maskOf (d.flt.retiredDies.filter (fun i => i < 20))
      + put (maskOf ((d.flt.retiredDies.filter (fun i => 32 ≤ i)).map (fun i => i - 32))) 28 4)
  | 0x1C =>
    some (put (flag d.flt.unfenceBusy) 31 1 + put d.flt.unfenceResult 29 2 + put d.flt.retiredModules.length 0 8)
  | _ =>
    if 0x2000 ≤ o && o < 0x4000 then
      match mget? d.flt.ring ((o - 0x2000) / 32) with
      | some r => some (leAt (recBytes r) (o % 32) 4)
      | none => some 0
    else if 0x8000 ≤ o && o < 0x9000 then some (leNat (clogRead d.bk.clog (o - 0x8000) 4))
    else none

/-! ### TMG, HBn, engines, ports -/

def tmgView (d : Dev) (o : Nat) : Option Nat :=
  let t := d.tmg
  match o with
  | 0x14 => some (put (flag t.busy) 31 1 + put (flag t.dropped) 30 1 + put t.result 16 8 + put t.statHandle 0 16)
  | 0x20 => some t.poolSize
  | 0x24 => some t.poolFree
  | 0x28 => some t.poolMapped
  | 0x2C => some t.poolTransit
  | 0x34 => some (sat 20 t.est0)
  | 0x38 => some (sat 20 t.est1)
  | 0x3C => some (sat 20 t.est2)
  | 0x48 => some (put t.failCause 28 4 + put t.failScope 26 2 + put t.failHandle 0 16)
  | 0x4C => some (sat 32 t.late)
  | _ => if [0x00, 0x04, 0x08, 0x0C, 0x10, 0x30, 0x40, 0x44].contains o then some (regGet d (0x20000 + o)) else none

def hbView (d : Dev) (n o : Nat) : Option Nat :=
  let s := stack d n
  match o with
  | 0x00 =>
    some (put (flag s.present) 31 1 + put (flag s.overClass) 30 1 + put (flag s.windowed) 29 1 + put s.band 27 2
      + (if s.present then 16 - s.retired.length else 0))
  | 0x04 => some (put s.peak 8 8 + put s.temp 0 8)
  | 0x08 => some (put (sat 16 s.forced) 16 16 + put (debtAt d.clk.localNs s) 0 4)
  | 0x18 => some (maskOf s.retired)
  | 0x1C => some (put s.ueLastCh 16 4 + sat 16 s.ueCount)
  | 0x20 => some (half64 s.accepted false)
  | 0x24 => some (half64 s.accepted true)
  | 0x28 => some (half64 s.applied false)
  | 0x2C => some (half64 s.applied true)
  | 0x30 => some (sat 16 s.adds.length)
  | _ =>
    if o = 0xC || o = 0x10 || o = 0x14 then some (regGet d (hbBase n + o))
    else if 0x40 ≤ o && o < 0x80 then
      some (put (sat 16 (mget s.odecc ((o - 0x40) / 4) 0)) 16 16 + sat 16 (mget s.ce ((o - 0x40) / 4) 0))
    else none

def vceView (d : Dev) (n o : Nat) : Option Nat :=
  let v := vce d n
  match o with
  | 0x00 => some (put (flag v.cur.isSome) 31 1 + put (flag v.faulted) 30 1 + put v.queue.length 8 6 + put v.lastCtx 0 8)
  | 0x04 => some (regGet d (vceBase n + 4))
  | 0x08 => some (regGet d (vceBase n + 8))
  | 0x0C => some (put (vceProducer v) 11 11 + put (vceFree d n v) 0 11)
  | 0x10 => some (put (vceConsumer v) 0 11)
  | 0x14 => some (put (sat 16 v.bsErr) 16 16 + sat 16 v.allSkip)
  | 0x18 => some (put (sat 16 v.filler) 16 16 + sat 16 v.retries)
  | 0x1C => some 0
  | _ => none

/-- POOL_CNT of a side of an EMP. -/
def empPoolCnt (d : Dev) (n side : Nat) : Nat :=
  let e := emp d n
  let bs := if side = 0 then e.bufs0 else e.bufs1
  let cons := countIf bs (fun p => p.2 == .cons)
  put cons 12 6 + put (bs.length - cons) 6 6 + put (countIf (List.range (empPool d n side)) (fun i => (mget? bs i).isNone)) 0 6

/-- STATE of EMPn_STATUS: off, safe frames, running. -/
def empState (e : Emp) : Nat := if e.phase = .off then 0 else if e.safeAir then 1 else 2

def empView (d : Dev) (n o : Nat) : Option Nat :=
  let e := emp d n
  match o with
  | 0x04 =>
    some (put (empState e) 30 2 + put (flag e.ok) 29 1 + put (flag d.ports.safeIn) 28 1 + put (flag e.dispute) 27 1
      + put e.cfgErr 24 3 + put (sat 8 e.repeats) 16 8)
  | 0x40 => some 0
  | 0x44 =>
    some (put e.csState 29 3 + put e.csSide 28 1 + put e.csLayer 27 1 + put (flag e.csReg) 26 1 + put e.csBuf 0 5)
  | 0x48 =>
    some (match (if e.csState = 1 then e.commits.find? (fun c => c.side == e.csSide && c.layer == e.csLayer && c.buf == e.csBuf) else none) with
      | some c => effTarget e c
      | none => e.csFrame)
  | 0x4C => some (e.frame.getD 0)
  | 0x50 => some (empPoolCnt d n 0)
  | 0x54 => some (empPoolCnt d n 1)
  | 0x58 => some (put e.cRepeat 16 16 + put e.cSafe 0 16)
  | 0x5C => some (put e.cOmitted 16 16 + put e.cMismatch 0 16)
  | 0x60 => some (put e.cTrim 16 16 + put e.cSuperseded 0 16)
  | 0x64 => some (put e.cDiscarded 16 16 + put e.cPairDiff 8 8 + put e.cCrcFail 0 8)
  | 0x68 => some (put e.cUnmapped 16 16 + put e.cFsyncIgn 8 8 + put e.cEarlyEnd 0 8)
  | _ => if o ≤ 0x2C || o = 0x80 || o = 0x84 || o = 0x88 then some (regGet d (empBase n + o)) else none

def capView (d : Dev) (n o : Nat) : Option Nat :=
  let c := cap d n
  match o with
  | 0x0C => let k := capCounts d n; some (put k.2.2 12 6 + put k.2.1 6 6 + put k.1 0 6)
  | 0x10 => some (put c.cShort 24 8 + put c.cLong 16 8 + put c.cDropped 8 8 + put c.cOther 0 8)
  | _ => if o < 0x20 then some (regGet d (capBase n + o)) else none

def portCode (s : PortSt) : Nat :=
  match s with
  | .disabled => 0
  | .training => 1
  | .up => 2
  | .failed => 3
  | .isolated => 4
  | .refused => 5

def rwView (d : Dev) (n o : Nat) : Option Nat :=
  let x := rwPort d n
  match o with
  | 0x00 => some (regGet d (rwBase n))
  | 0x04 =>
    some (put (portCode x.st) 29 3 + put x.width 27 2 + put (flag x.wrapping) 26 1 + put (flag x.joinWait) 25 1 + put x.cause 21 4
      + put x.peerPort 18 3 + put x.peerId 0 18)
  | 0x08 => some (sat 16 x.lat)
  | 0x0C => some (sat 20 x.est)
  | 0x24 => some (put x.audits 16 16 + put x.mismatch 8 8 + put x.reclaims 0 8)
  | 0x28 => some (put x.replays 16 16 + put x.discards 8 8 + put x.fails 0 8)
  | _ =>
    if 0x10 ≤ o && o < 0x24 then
      let p := pool x ((o - 0x10) / 4)
      some (put (sat 16 p.granted) 16 16 + sat 16 p.avail)
    else none

def rwgView (d : Dev) (o : Nat) : Option Nat :=
  match o with
  | 0x20 => some (rwgTime d + put (flag d.rw.locked) 30 1 + put (flag d.rw.holdover) 29 1)
  | 0x24 => some (ofSigned 32 d.rw.ofs)
  | 0x30 => some (put d.rw.returned 16 16 + put d.rw.retDrop 8 8 + put d.rw.badPkt 0 8)
  | _ => if o < 0x30 then some (regGet d (0x68000 + o)) else none

/-- The link whose MSI-X table an interface reaches (R408). -/
def msixLink (src : Iface) : Nat := if src = .hl1 then 1 else 0

def msixOf (d : Dev) (l : Nat) : FMap Word := if l = 0 then d.hlk.msix0 else d.hlk.msix1
def pbaOf (d : Dev) (l : Nat) : List Nat := if l = 0 then d.hlk.pba0 else d.hlk.pba1

def hlkView (d : Dev) (src : Iface) (o : Nat) : Option Nat :=
  let h := d.hlk
  match o with
  | 0x04 =>
    some (put (flag h.up0) 31 1 + put h.rate0 28 3 + put h.width0 24 4 + put (flag h.cxl0) 23 1 + put (flag h.up1) 15 1
      + put h.rate1 12 3 + put h.width1 8 4 + put (flag h.cxl1) 7 1 + put (flag h.timeLocked) 1 1)
  | 0x10 => some (half64 h.serve false)
  | 0x14 => some (half64 h.serve true)
  | 0x18 => some (put h.foCause 28 4 + put h.foFrom 27 1 + put h.foCount 0 16)
  | 0x1C => some 0
  | 0x2C => some (ofSigned 32 h.offset)
  | _ =>
    if o ≤ 0x30 then some (regGet d (0x70000 + o))
    else if 0x7F00 ≤ o && o < 0x8000 then
      let i := (o - 0x7F00) / 4
      some (maskOf (((pbaOf d (msixLink src)).filter (fun v => v / 32 == i)).map (fun v => v % 32)))
    else if 0x8000 ≤ o then
      let w := (o - 0x8000) / 4
      some (mget (msixOf d (msixLink src)) w (if w % 4 = 3 then 1 else 0)).toNat
    else none

def cltView (d : Dev) (c o : Nat) : Nat :=
  let x := client d c
  match o with
  | 0x0 => x.submitted.toNat
  | 0x4 => x.served.toNat
  | 0x8 => x.refused.toNat
  | _ => regGet d (0xE0000 + 16 * c + 0xC) + put x.inflight 0 14

/-- A table slot of TIL_SFU_SLOTS. -/
def slotView (t : TileCore) (k : Nat) : Nat :=
  match mget? t.sfu k with
  | some s => put (flag s.loaded) 7 1 + put (flag s.builtin) 6 1 + put (if s.builtin then s.set else 0) 0 3
  | none => 0

/-- A tile's window. -/
def tilView (t : Tile) (o : Nat) : Option Nat :=
  let f := t.mflt
  let part (g : MFault → Nat) : Nat := (f.map g).getD 0
  match o with
  | 0x10 =>
    some (part (fun f => put 1 31 1 + put (flag f.spec) 30 1 + put f.slot 27 3 + put f.resource 22 5 + put f.detail 16 6)
      + sat 16 t.later)
  | 0x14 => some (half48 (part (fun f => f.pos)) false)
  | 0x18 => some (half48 (part (fun f => f.pos)) true)
  | 0x1C => some (half48 (part (fun f => f.beat)) false)
  | 0x20 => some (half48 (part (fun f => f.beat)) true)
  | 0x24 => some (put (part (fun f => f.addr)) 0 21)
  | 0x28 => some (put (sat 16 t.stale) 16 16 + sat 16 t.sqCount)
  | 0x2C => some (put (sat 16 t.core.d2Bad) 16 16 + sat 16 t.core.e8m0Nan)
  | 0x30 => some (slotView t.core 0 + slotView t.core 1 * 2 ^ 8 + slotView t.core 2 * 2 ^ 16 + slotView t.core 3 * 2 ^ 24)
  | 0x34 => some (sat 16 t.core.badMeta)
  | 0x38 => some (sat 32 t.core.gated)
  | 0x3C => some (sat 32 t.core.cmptDrop)
  | _ =>
    if 0x40 ≤ o && o < 0x80 then
      let c := mget t.core.cur ((o - 0x40) / 4) (0, 0)
      some (put (sat 16 c.2) 16 16 + put c.1 0 16)
    else none

/-! ### The map (Table 0-6) -/

/-- Block `n` of `k` blocks of a size from a base, with the offset in it. -/
def inst (base size k off : Nat) : Option (Nat × Nat) :=
  if base ≤ off && off < base + size * k then some ((off - base) / size, (off - base) % size) else none

/-- What an interface reads at a BAR0 offset; none where it is unassigned. -/
def regView (d : Dev) (src : Iface) (off : Nat) : Option Nat :=
  if off < 0x8000 then
    let o := off % 0x1000
    match off / 0x1000 with
    | 0 => if o = 0 then some Config.devId.toNat else if o = 4 then some Config.devVersion.toNat else none
    | 1 => ownView d (masterOf src) o
    | 2 => rstView d o
    | 3 => clkView d o
    | 4 => pwrView d o
    | 5 => bootView d o
    | 6 => mgtView d o
    | _ => none
  else if off < 0xC000 then schView d src (off - 0x8000)
  else if off < 0x10000 then none
  else if off < 0x20000 then fltView d (off - 0x10000)
  else if off < 0x21000 then tmgView d (off - 0x20000)
  else
    match inst 0x30000 0x1000 12 off with
    | some (n, o) => hbView d n o
    | none =>
    match inst 0x40000 0x1000 16 off with
    | some (n, o) => vceView d n o
    | none =>
    match inst 0x50000 0x800 16 off with
    | some (n, o) => empView d n o
    | none =>
    match inst 0x58000 0x800 8 off with
    | some (n, o) => capView d n o
    | none =>
    match inst 0x60000 0x1000 8 off with
    | some (n, o) => rwView d n o
    | none =>
    match inst 0x68000 0x1000 1 off with
    | some (_, o) => rwgView d o
    | none =>
    match inst 0x70000 0x10000 1 off with
    | some (_, o) => hlkView d src o
    | none =>
    match inst 0xE0000 16 4096 off with
    | some (c, o) => some (cltView d c o)
    | none =>
    match inst 0x100000 0x10000 20 off with
    | some (i, o) => if o < 0x400 * 40 then tilView (tile d (40 * i + o / 0x400)) (o % 0x400) else none
    | none => none

/-! ### Reads (R2, R3, R6, R8, R9) -/

/-- The _LO words of register pairs. DEDUCED (notes/assumptions/29.md). -/
def isLo (off : Nat) : Bool :=
  if off < 0x8000 then off == 0x3008
  else if off < 0xC000 then
    off == 0x8010 || (0x8210 ≤ off && off < 0x8280 && decide (0x10 ≤ (off - 0x8200) % 0x40) && off % 8 == 0)
      || (0x8400 ≤ off && off < 0x8C00 && decide (off % 0x20 < 0x10) && off % 8 == 0)
  else
    off == 0x2000C || off == 0x70008 || off == 0x70010 || off == 0x70024
      || (0x30000 ≤ off && off < 0x3C000 && (off % 0x1000 == 0x20 || off % 0x1000 == 0x28))
      || (0x100000 ≤ off && off < 0x240000 && decide (off % 0x10000 < 0x400 * 40) && (off % 0x400 == 0x14 || off % 0x400 == 0x1C))

def captured (d : Dev) (q : Master) (lo : Nat) : Option Word :=
  (d.capt.find? (fun c => c.1 == q && c.2.1 == lo)).map (fun c => c.2.2)

/-- A master's capture register of a pair. -/
def capture (d : Dev) (q : Master) (lo : Nat) (v : Word) : Dev :=
  { d with capt := d.capt.filter (fun c => !(c.1 == q && c.2.1 == lo)) ++ [(q, lo, v)] }

/-- What a read clears (RC fields). -/
def readClear (d : Dev) (off : Nat) : Dev :=
  if off = 0x3004 then { d with clk := { d.clk with steps := 0 } }
  else if off = 0x400C then { d with pwr := { d.pwr with peak := 0 } }
  else if off = 0x2004C then { d with tmg := { d.tmg with late := 0 } }
  else if off = 0x68030 then { d with rw := { d.rw with returned := 0, retDrop := 0, badPkt := 0 } }
  else
    match inst 0x40000 0x1000 16 off with
    | some (n, 0x14) => setVce d n { vce d n with bsErr := 0, allSkip := 0 }
    | some (n, 0x18) => setVce d n { vce d n with filler := 0, retries := 0 }
    | some _ => d
    | none =>
    match inst 0x50000 0x800 16 off with
    | some (n, 0x58) => setEmp d n { emp d n with cRepeat := 0, cSafe := 0 }
    | some (n, 0x5C) => setEmp d n { emp d n with cOmitted := 0, cMismatch := 0 }
    | some (n, 0x60) => setEmp d n { emp d n with cTrim := 0, cSuperseded := 0 }
    | some (n, 0x64) => setEmp d n { emp d n with cDiscarded := 0, cPairDiff := 0, cCrcFail := 0 }
    | some (n, 0x68) => setEmp d n { emp d n with cUnmapped := 0, cFsyncIgn := 0, cEarlyEnd := 0 }
    | some _ => d
    | none =>
    match inst 0x58000 0x800 8 off with
    | some (n, 0x10) => setCap d n { cap d n with cShort := 0, cLong := 0, cDropped := 0, cOther := 0 }
    | some _ => d
    | none =>
    match inst 0x60000 0x1000 8 off with
    | some (n, 0x28) => updRw d n (fun x => { x with replays := 0, discards := 0, fails := 0 })
    | some _ => d
    | none => d

/-- Class 0 record of R3. -/
def badAccess (d : Dev) (off : Nat) : Dev := record d { fspec 0 0x16 0x01 with detail := off }

/-- A word that an interface reads, and the block after the read. -/
def regRead (d : Dev) (src : Iface) (off : Nat) : Word × Dev :=
  let q := masterOf src
  if off % 4 != 0 then (0, badAccess d off)
  else
    match regView d src off with
    | none => (0, d)
    | some v =>
      if isLo off then (BitVec.ofNat 32 v, capture d q off (BitVec.ofNat 32 ((regView d src (off + 4)).getD 0)))
      else if 4 ≤ off && isLo (off - 4) then ((captured d q (off - 4)).getD (BitVec.ofNat 32 v), d)
      else (BitVec.ofNat 32 v, readClear d off)

/-! ### Writes (R4, R7, R9, R379) -/

/-- The bits of a word that a mask keeps (R4). -/
def keep (w mask : Nat) : Nat := keepBits w mask

/-- Bits that a control register holds, for registers whose write does nothing else: offsets below the instance blocks. -/
def maskLow (off : Nat) : Option Nat :=
  match off with
  | 0x04004 => some 0xFFFFFF00
  | 0x06000 => some 0xC0000F7F
  | 0x06008 => some 0xE0000000
  | 0x06014 => some 0x0000FFFF
  | 0x20004 => some 0x01FFFFFF
  | 0x20008 => some 0xF0000FFF
  | 0x2000C => some 0xFFFFFFFF
  | 0x20010 => some 0xFFFFFFFF
  | 0x20030 => some 0x8C000FFF
  | 0x20040 => some 0xFFFF0000
  | 0x20044 => some 0x000FFFFF
  | _ => if 0x6040 ≤ off && off < 0x6100 then some 0xFFFF003F else none

/-- The same for the EMP's configuration registers past EMPn_CTRL. -/
def empMask (o : Nat) : Option Nat :=
  match o with
  | 0x08 => some 0x3FFF1FFF
  | 0x0C => some 0xFCFFFFFF
  | 0x10 => some 0x000FFFFF
  | 0x14 => some 0xE0001FFF
  | 0x18 => some 0x3F00FFFF
  | 0x1C => some 0xFFFFFFFF
  | 0x20 => some 0xFFFFFFFF
  | 0x24 => some 0xFFFFFFFF
  | 0x28 => some 0x003FFFFF
  | 0x2C => some 0x003FFFFF
  | 0x80 => some 0x87FF007F
  | _ => none

def capMask (o : Nat) : Option Nat :=
  match o with
  | 0x04 => some 0x3FFF1FFF
  | 0x08 => some 0x003FFFFF
  | 0x14 => some 0xFFFFFFFF
  | 0x18 => some 0xFFFFFFFF
  | 0x1C => some 0xFFFFFFFF
  | _ => none

/-- A write of EMPn_CTRL: EN acts; the other fields are configuration, locked while EN = 1 (R287). -/
def empCtrlWrite (d : Dev) (n w : Nat) : Dev :=
  let new := keep w 0x7EFF0000
  if (emp d n).enabled then
    let d := if new = empReg d n 0 % 2 ^ 31 then d else record d { fspec 0 0x0F 0x02 with unit := n, detail := empBase n }
    if bit w 31 then d else empDisable d n
  else
    let d := regPut d (empBase n) new
    if bit w 31 then empEnable d n else d

def empWrite (d : Dev) (n o w : Nat) : Dev :=
  match o with
  | 0x00 => empCtrlWrite d n w
  | 0x40 => if bit w 31 then empCommitWrite d n (fld w 0 5) else d
  | 0x84 =>
    match fld w 30 2 with
    | 1 => rtRead d n (fld w 0 10)
    | 2 => rtWrite d n (fld w 0 10)
    | _ => regPut d (empBase n + 0x84) (keep w 0xC00003FF)
  | 0x88 => regPut d (empBase n + 0x88) (keep w 0xFFFFFFFC)
  | _ =>
    match empMask o with
    | none => d
    | some m =>
      if (emp d n).enabled then record d { fspec 0 0x0F 0x02 with unit := n, detail := empBase n + o }
      else regPut d (empBase n + o) (keep w m)

/-- A write of CAPn_CTRL. -/
def capCtrlWrite (d : Dev) (n w : Nat) : Dev :=
  let on := bit (capReg d n 0) 31
  let d := regPut d (capBase n) (keep w 0x7FF81FFF + put (flag on) 31 1)
  if bit w 31 then (if on then d else capEnable d n) else if on then capDisable d n else d

def capWrite (d : Dev) (n o w : Nat) : Dev :=
  if o = 0 then capCtrlWrite d n w
  else match capMask o with
    | some m => regPut d (capBase n + o) (keep w m)
    | none => d

/-- CTX_BASE and POOL_CTRL of a codec engine hold while a buffer is not free or a command is queued (Table 13-6). -/
def vceWrite (d : Dev) (n o w : Nat) : Dev :=
  let v := vce d n
  let held := vceFree d n v != vcePool d n || !v.queue.isEmpty || v.cur.isSome
  let cfg (m : Nat) : Dev :=
    if held then record d { fspec 0 0x0D 0x02 with unit := n, detail := vceBase n + o } else regPut d (vceBase n + o) (keep w m)
  match o with
  | 0x04 => cfg 0x0000FFFF
  | 0x08 => cfg 0x07FFFFFF
  | 0x1C => if bit w 31 then vceReset d n else d
  | _ => d

/-- The ports of RWG_RINGr as a word gives them; none while the ring is not defined. -/
def ringPorts (w : Nat) : List Nat := if bit w 31 then [fld w 3 3, fld w 0 3] else []

/-- Whether a ring definition keeps each port in at most one ring (R333). -/
def ringOk (d : Dev) (r w : Nat) : Bool :=
  let others := ([0, 1, 2, 3].filter (fun i => i != r)).flatMap (fun i => ringPorts (regGet d (0x68010 + 4 * i)))
  !bit w 31 || (fld w 3 3 != fld w 0 3 && (ringPorts w).all (fun p => !others.contains p))

def rwgWrite (d : Dev) (o w : Nat) : Dev :=
  match o with
  | 0x00 => if (List.range 8).all (fun n => (rwPort d n).st == .disabled) then regPut d 0x68000 (keep w 0x0003FFFF) else d
  | 0x04 =>
    match fld w 30 2 with
    | 1 => routeRead d (fld w 0 12)
    | 2 => routeWrite d (fld w 0 12)
    | _ => regPut d 0x68004 (keep w 0xC0000FFF)
  | 0x08 => regPut d 0x68008 (keep w 0xFF03FFFF)
  | 0x0C => regPut d 0x6800C (keep w 0xF8FFFFFF)
  | 0x20 => regPut d 0x68020 (keep w 0x800000FF)
  | 0x28 => regPut d 0x68028 (keep w 0x8000FFFF)
  | 0x2C =>
    -- the entries are loaded anew, and SEQ of every group and tile starts at 0 (R327). DEDUCED (notes/assumptions/41.md)
    if d.rw.cols.isEmpty then regPut { d with rw := { d.rw with seqs := [] } } 0x6802C w else discarded d 0x11 0x6802C
  | _ =>
    if o = 0x10 || o = 0x14 || o = 0x18 || o = 0x1C then
      if ringOk d ((o - 0x10) / 4) w then regPut d (0x68000 + o) (keep w 0x8000003F) else d
    else d

/-- HLK_HOME: bits of enabled queues stay, with a class 0 record; the serving link of a pair follows its home where they agreed. -/
def homeWrite (d : Dev) (base w : Nat) : Dev :=
  let off := 0x70008 + base / 8
  let old := regGet d off
  let changed := (List.range 32).filter (fun i => bit old i != bit w i)
  let free := changed.filter (fun i => !qEn d (base + i))
  let d := if free.length = changed.length then d else discarded d 0x12 off
  let follow := free.filter (fun i => bit d.hlk.serve (base + i) == bit old i)
  flipPairs (regPut d off (free.foldl (fun m i => m ^^^ 2 ^ i) old)) (follow.map (fun i => base + i))

/-- A vector that becomes unmasked with a request pending is sent. -/
def unmask (d : Dev) (l v : Nat) : Dev :=
  if (pbaOf d l).contains v && linkUp d l then
    let d := { d with hlk := if l = 0 then { d.hlk with pba0 := d.hlk.pba0.filter (· != v) } else { d.hlk with pba1 := d.hlk.pba1.filter (· != v) } }
    emit d (.msix l v)
  else d

/-- A word of an MSI-X table. DEDUCED (notes/assumptions/29.md). -/
def msixWrite (d : Dev) (l i w : Nat) : Dev :=
  let x := BitVec.ofNat 32 (if i % 4 = 3 then w % 2 else w)
  let d := { d with hlk := if l = 0 then { d.hlk with msix0 := mset d.hlk.msix0 i x } else { d.hlk with msix1 := mset d.hlk.msix1 i x } }
  if i % 4 = 3 && w % 2 = 0 then unmask d l (i / 4) else d

def hlkWrite (d : Dev) (src : Iface) (o w : Nat) : Dev :=
  match o with
  | 0x00 => regPut d 0x70000 (keep w 0xF000FFFF)
  | 0x08 => homeWrite d 0 w
  | 0x0C => homeWrite d 32 w
  | 0x1C => hlkMove d (fld w 30 2) (fld w 0 1)
  | 0x20 => regPut d 0x70020 (keep w 0x8000FFFF)
  | 0x24 => regPut d 0x70024 (keep w 0xFFFF0000)
  | 0x28 => regPut d 0x70028 w
  | 0x30 => regPut d 0x70030 (keep w 0x800007FF)
  | _ => if 0x8000 ≤ o then msixWrite d (msixLink src) ((o - 0x8000) / 4) w else d

/-- A write of CHT_IMG_CTRL. -/
def imgCtrlWrite (d : Dev) (w : Nat) : Dev :=
  match fld w 30 2 with
  | 0 => regPut d 0x82C0 (keep w 0x0000FFFF)
  | 1 => validateStart d (fld w 0 16)
  | 2 => invalidate d (fld w 0 16)
  | _ => imgReserved d (fld w 0 16)

def schWrite (d : Dev) (o w : Nat) : Dev :=
  match o with
  | 0x000 => schCtrlWrite d w
  | 0x008 => if bit w 31 then abortJob d (fld w 0 13) .aborted else d
  | 0x280 => gpredSet d 0 (fld w 0 8) (bit w 8) 0
  | 0x284 => gpredSet d 1 (fld w 0 8) (bit w 8) 0
  | 0x2C0 => imgCtrlWrite d w
  | 0x2C4 => if bit w 30 then { d with imgs := { d.imgs with dropped := false } } else d
  | _ =>
    if 0x400 ≤ o && o < 0xC00 then
      let q := (o - 0x400) / 0x20
      match o % 0x20 with
      | 0x10 => qCtrlWrite d q w
      | 0x18 => regPut d (0x8000 + o) (keep w 0xFFF)
      | 0x1C => d
      | p =>
        if qEn d q then d
        else regPut d (0x8000 + o) (if p = 0 || p = 8 then keep w 0xFFFFFFC0
          else if bit (qCtrl d q) (if p = 4 then 30 else 29) then keep w 0xFFFF else w)
    else d

def hbWrite (d : Dev) (n o w : Nat) : Dev :=
  match o with
  | 0x0C => regPut d (hbBase n + 0x0C) (keep w 0xF)
  | 0x10 => regPut d (hbBase n + 0x10) (keep w 0xFFFF)
  | 0x14 => hbCommand d n (fld w 30 2) (fld w 0 4)
  | _ => d

/-- A write by the owner to an assigned register. -/
def ownWrite (d : Dev) (src : Iface) (off w : Nat) : Dev :=
  match off with
  | 0x02008 => { d with bk := { d.bk with flags := keep d.bk.flags (2 ^ 32 - 1 - keep w 0xFC000000) } }
  | 0x0200C => rstDevice d (fld w 24 8)
  | 0x02010 => rstPartial d (bit w 31) (fld w 28 2) (fld w 0 8)
  | 0x04008 => pwrClassWrite d w
  | 0x04014 => sleepWrite d w
  | 0x05004 => updCommand d (fld w 29 3) (fld w 0 16)
  | 0x05008 => if bit w 30 then { d with boot := { d.boot with updDropped := false } } else d
  | 0x0600C => pmbXfer d w
  | 0x10000 => if bit w 31 then pendClear d else d
  | 0x10004 => regPut (if bit w 31 then clogClear d else d) 0x10004 (keep w 7)
  | 0x10014 => fenceCommand d (fld w 30 2) (fld w 28 2) (fld w 0 8)
  | 0x20000 => tmgCommand d (fld w 28 4) (fld w 0 16)
  | 0x20014 => if bit w 30 then { d with tmg := { d.tmg with dropped := false } } else d
  | _ =>
    match maskLow off with
    | some m => regPut d off (keep w m)
    | none =>
    if 0x8000 ≤ off && off < 0xC000 then schWrite d (off - 0x8000) w
    else
    match inst 0x30000 0x1000 12 off with
    | some (n, o) => hbWrite d n o w
    | none =>
    match inst 0x40000 0x1000 16 off with
    | some (n, o) => vceWrite d n o w
    | none =>
    match inst 0x50000 0x800 16 off with
    | some (n, o) => empWrite d n o w
    | none =>
    match inst 0x58000 0x800 8 off with
    | some (n, o) => capWrite d n o w
    | none =>
    match inst 0x60000 0x1000 8 off with
    | some (n, 0) => rwCtrlWrite d n w
    | some _ => d
    | none =>
    match inst 0x68000 0x1000 1 off with
    | some (_, o) => rwgWrite d o w
    | none =>
    match inst 0x70000 0x10000 1 off with
    | some (_, o) => hlkWrite d src o w
    | none =>
    match inst 0xE0000 16 4096 off with
    | some (c, 0xC) => regPut d (0xE000C + 16 * c) (keep w 0x3FFF0000)
    | _ => d

/-- Writes that R379 accepts from every master. -/
def openWrite (off w : Nat) : Bool :=
  (0x9000 ≤ off && off < 0x9200) || off == 0x8020 || off == 0x1008 || (off == 0x100C && fld w 29 3 == 1)

/-- Whether R7 discards a write to an assigned register. -/
def r7Discards (d : Dev) (src : Iface) (off w : Nat) : Bool := !openWrite off w && !isOwner d src

/-- A word that an interface writes. RENEW, RELEASE and HANDOVER report their refusal themselves. -/
def regWrite (d : Dev) (src : Iface) (off w : Nat) : Dev :=
  let q := masterOf src
  if off % 4 != 0 then badAccess d off
  else if (regView d src off).isNone then discarded d 0x16 off
  else if 0x9000 ≤ off && off < 0x9200 then
    if off % 8 = 0 then sqDoorbell d ((off - 0x9000) / 8) (w % 65536) else cqDoorbell d ((off - 0x9000) / 8) (w % 65536)
  else if off = 0x8020 then
    { d with sched := { d.sched with sel := d.sched.sel.filter (fun p => p.1 != src) ++ [(src, w % 4096)] } }
  else if off = 0x1008 then { d with own := { d.own with claimTerm := setMaster d.own.claimTerm q (BitVec.ofNat 32 w) } }
  else if off = 0x100C then ownCmd d q (fld w 29 3) (fld w 0 2) 0
  else if isOwner d src then ownWrite d src off w
  else d

/-! ### Commands -/

/-- Whether an interface can carry an access now: a link that is up with BAR0 open, or management outside RESET. The loader is inside.
DEDUCED (notes/assumptions/29.md). -/
def reaches (d : Dev) (src : Iface) : Bool :=
  match src with
  | .hl0 => d.hlk.up0 && bar0Open d
  | .hl1 => d.hlk.up1 && bar0Open d
  | .mgt => d.boot.st != .reset
  | .rwy => d.boot.st != .reset
  | .loader => false

/-- A read whose word goes back to its interface. -/
def readOut (d : Dev) (src : Iface) (off : Nat) : Dev :=
  if reaches d src then
    let r := regRead d src off
    emit r.2 (.rdata src off r.1)
  else d

/-- REGISTER_WRITE. -/
def execRegisterWrite (src : Iface) (off : BitVec 24) (w : Word) (s : State) : Out3 :=
  lift s (fun d => if reaches d src then regWrite d src off.toNat w.toNat else d)

/-- ACCESS_WRONG_SIZE: `n` bytes at an offset, other than an aligned word. -/
def execAccessWrongSize (src : Iface) (off : BitVec 24) (n : Fin 65) (wr : Bool) (s : State) : Out3 :=
  lift s (fun d =>
    if !reaches d src || (n.val == 4 && off.toNat % 4 == 0) then d
    else
      let d := badAccess d off.toNat
      if wr then d else emit d (.rdata src off.toNat 0))

/-- UNASSIGNED_ACCESS. -/
def execUnassignedAccess (src : Iface) (off : BitVec 24) (wr : Bool) (s : State) : Out3 :=
  lift s (fun d =>
    if !reaches d src || (regView d src off.toNat).isSome then d
    else if wr then regWrite d src off.toNat 0
    else readOut d src off.toNat)

/-- PAIR_LO_READ. -/
def execPairLoRead (src : Iface) (off : BitVec 24) (s : State) : Out3 := lift s (fun d => readOut d src off.toNat)

/-- READ_CLEAR. -/
def execReadClear (src : Iface) (off : BitVec 24) (s : State) : Out3 := lift s (fun d => readOut d src off.toNat)

end Sys2Proof.Machine
end

