-- ==== Sys2Proof/Machine/Boot.lean ====
section
/-! DEFINITION. Release from reset, loading, Kindling and self-test (R358, R363, R364, R368, R369, R372, R373, R378, R429). -/

namespace Sys2Proof.Machine

/-! ### Step 1: release into LOAD (R358, R363, R364, R368) -/

/-- A bit of RST_FLAGS set. -/
def setBkFlag (d : Dev) (b : Nat) : Dev := { d with bk := { d.bk with flags := d.bk.flags ||| 2 ^ b } }

/-- The torn-load count. -/
def setTorn (d : Dev) (n : Nat) : Dev := { d with bk := { d.bk with torn := n } }

/-- RECOVERY with a reason. DEDUCED (notes/assumptions/36.md). -/
def recover (d : Dev) (reason : Nat) : Dev :=
  announceReady (enterState { d with boot := { d.boot with recReason := reason } } .recovery)

/-- The options in force. -/
def setOptions (d : Dev) (cls perst sel : Nat) : Dev :=
  { d with boot := { d.boot with powerClassOpt := cls, perstMode := perst, optSel := sel, shadowValid := true } }

/-- The option copy that the loader uses: the valid one with the higher GEN, copy 0 on a tie. DEDUCED (notes/assumptions/36.md). -/
def optCopy (n : Nvm) : Option Nat :=
  if n.opt0.valid && n.opt1.valid then some (flag (decide (n.opt0.gen < n.opt1.gen)))
  else if n.opt0.valid then some 0
  else if n.opt1.valid then some 1
  else none

/-- The loader's work up to the PLL lock. -/
def loadStart (d : Dev) : Dev :=
  if 3 ≤ d.bk.torn then recover (setOptions (setBkFlag (setTorn d 0) 31) 3 0 0) 1
  else
    let d := setTorn d (d.bk.torn + 1)
    let d := if d.nvm.trimValid then d else setBkFlag d 29
    let both := d.nvm.opt0.valid && d.nvm.opt1.valid
    match optCopy d.nvm with
    | none => recover (setTorn (setOptions d 3 0 0) 0) 4
    | some k =>
      let o := if k = 0 then d.nvm.opt0 else d.nvm.opt1
      setOptions (if both then d else setBkFlag d 26) o.powerClass o.perstMode k

/-- RESET_RELEASE: 64 reset-clock cycles after the last source deasserts. The sources that a pin or a temperature holds (0x03,
0x06) have gone by then; RST_N has deasserted. A nonzero TEST stops the release. -/
def resetRelease (d : Dev) (test : Nat) : Dev :=
  if d.boot.st != .reset || d.boot.testHeld || d.boot.sources.contains 3 || d.boot.sources.contains 6 then d
  else
    let d := setPins d { d.pins with rstLow := false }
    if test != 0 then emit { d with boot := { d.boot with sources := [], testHeld := true } } (.consoleTest test)
    else
      loadStart (enterState { d with boot := { d.boot with sources := [], cause := d.bk.cause, torn := d.bk.torn } } .load)

/-- RESET_RELEASE. -/
def execResetRelease (test : Fin 16) (s : State) : Out3 := lift s (fun d => resetRelease d test.val)

/-! ### Steps 3 to 6: the PLL locks (R358, R369, R227, R352, R13) -/

/-- One retirement of the journal takes effect: a channel leaves the pool; the half of a die or module stays fenced. -/
def restoreRetired (d : Dev) (r : Nat × Nat) : Dev :=
  match r.1 with
  | 0 =>
    let k := r.2 / 16
    let st := stack d k
    if st.retired.contains (r.2 % 16) then d
    else
      let d := setStack d k { st with retired := st.retired ++ [r.2 % 16] }
      { d with tmg := { d.tmg with poolSize := d.tmg.poolSize - 36864, poolFree := d.tmg.poolFree - 36864 } }
  | 1 =>
    let h := dieHalf r.2
    closeModules { setFenced d h true with flt := { (setFenced d h true).flt with retiredDies := d.flt.retiredDies ++ [r.2] } } (halfModules h)
  | _ =>
    let ms := if d.flt.retiredModules.contains r.2 then d.flt.retiredModules else d.flt.retiredModules ++ [r.2]
    let d := closeModules { d with flt := { d.flt with retiredModules := ms } } [r.2]
    match moduleHalf r.2 with
    | some h => closeModules (setFenced d h true) (halfModules h)
    | none => d

/-- The slot to boot (R369): the pending one while it has tries left and verifies, the active one, the other one. -/
def chooseSlot (d : Dev) : Option Nat × Dev :=
  let fallback (d : Dev) : Option Nat × Dev :=
    let a := (jNow d).active
    if verifySlot d a then (some a, d)
    else if verifySlot d (1 - a) && !eraseMark d (1 - a) then (some (1 - a), setBkFlag d 28)
    else (none, d)
  match (jNow d).pending with
  | some p =>
    if 3 ≤ (jNow d).tries || !verifySlot d p then fallback (setBkFlag (jWrite d (.rollback p)) 30)
    else (some p, jWrite d (.bootTry p))
  | none => fallback d

/-- A module that cannot be brought within its slot latency (R13) is retired. DESIGN CHOICE (notes/assumptions/52.md): the record
is of class 3 with code 0x0A, the module as its UNIT and DETAIL. -/
def moduleFails (d : Dev) (m : Nat) : Dev := retireModule (record d { fspec 3 0x13 0x0A with unit := m, detail := m }) m

/-- PLL_LOCK: the clocks run, the modules train, the journal is replayed and its mirrors made equal, and in LOAD the slot is
chosen; `bad` lists the modules that do not train. DEDUCED (notes/assumptions/36.md). -/
def pllLock (d : Dev) (bad : List Nat) : Dev :=
  if d.clk.locked || !d.boot.shadowValid || (d.boot.st != .load && d.boot.st != .recovery) then d
  else
    let d := { d with clk := { d.clk with locked := true, refclk := true }, bk := { d.bk with jptr := jAddr d.nvm } }
    let d := bad.foldl moduleFails d
    let d := (jNow d).retired.foldl restoreRetired { d with nvm := jSync d.nvm }
    if d.boot.st = .recovery then
      (List.range 12).foldl (fun d k => setStack d k { stack d k with present := true }) d
    else
      match chooseSlot d with
      | (none, d) => recover (setTorn d 0) 2
      | (some s, d) => noteSlot { d with boot := { d.boot with slot := s, chosen := true } } s true

/-- PLL_LOCK. -/
def execPllLock (bad : List (Fin 100)) (s : State) : Out3 := lift s (fun d => pllLock d (bad.map (fun m => m.val)))

/-! ### Kindling applied (R372) -/

/-- A RESIDENT record: the object, its bytes, and the code of its validation; none when it cannot be created. -/
def applyResident (d : Dev) (r : ResRec) : Option Dev :=
  let np := ceilDiv r.img.length pageSize
  if r.handle = 0 || np = 0 || runTaken d r.handle np || d.tmg.poolFree < np then none
  else
    let o : Obj :=
      { npages := np, cls := .resident, rdonly := false, pin := false, stk := r.stk % 4096, base := 0, devid := 0, rhandle := 0
        chans := chansOf d (r.stk % 4096), lastCh := none, pages := [] }
    let d := t1Put (poolMove (setObj d r.handle o) (-(np : Int)) np 0) r.handle 0 r.img
    let b := imageBytes d r.handle o
    let d := validateEnd { d with imgs := { d.imgs with handle := r.handle } } r.handle
      (if imgResident b then checkImage b (np * pageSize) d.boot.keys else 0x0E)
    if d.imgs.code = 0 then some d else none

def applyResidents (d : Dev) : List ResRec → Option Dev
  | [] => some d
  | r :: rs =>
    match applyResident d r with
    | some d => applyResidents d rs
    | none => none

/-- The sections in order of application; none when a resident image fails. -/
def applyKindling (d : Dev) (b : List Byte) : Option Dev :=
  let d := (regInits b).foldl (fun d r => regWrite d .loader r.1 r.2) d
  let d := (kindEmp b).foldl (fun d p =>
    setEmp d p.1 { emp d p.1 with rt := ((List.range p.2.length).zip p.2).foldl (fun m x => mset m x.1 (rtOfWord x.2)) (emp d p.1).rt }) d
  let d := { d with boot := { d.boot with keys := (kindKeys b).foldl (fun m k => mset m k.1 k.2) [] } }
  applyResidents d (kindResidents b)

/-- KINDLING_APPLY: the chosen slot is applied and the device enters SELFTEST. A resident image that fails leaves no part of it
applied and enters RECOVERY. -/
def kindlingApply (d : Dev) : Dev :=
  if d.boot.st != .load || !d.boot.chosen then d
  else
    match applyKindling d (slotBytes d d.boot.slot) with
    | some d => announceReady (enterState (setTorn d 0) .selftest)
    | none => recover (setTorn ((List.range 12).foldl (fun d k => setStack d k { stack d k with present := true }) d) 0) 3

/-- KINDLING_APPLY. -/
def execKindlingApply (s : State) : Out3 := lift s kindlingApply

/-! ### Self-test and SERVICE (R373, R378, R382) -/

/-- A die that fails its self-test: its half is fenced, with a class 4 record. -/
def dieFails (d : Dev) (i : Nat) : Dev :=
  strikeDie (record d { fspec 4 0x05 0x10 with unit := i, detail := i }) i 4 (faultCode 4 0x05 0x10)

/-- The other slot is verified, and its erase mark cleared by a pass (R367, R382). -/
def verifyOther (d : Dev) : Dev :=
  let o := 1 - d.boot.slot
  let v := verifySlot d o
  noteSlot (if v && eraseMark d o then jWrite d (.verified o) else d) o v

/-- The owner that Kindling names, under a standing lease. -/
def bootOwner (d : Dev) (b : List Byte) : Dev :=
  match kindOwner b with
  | none => d
  | some (m, t) =>
    match masterNo m with
    | some q => let d := makeOwner d q t; { d with own := { d.own with standing := true, leaseEnd := 0 } }
    | none => d

/-- A descriptor placed in its SQ, and the doorbell rung. -/
def submitOne (d : Dev) (x : Nat × List Byte) : Dev :=
  let q := x.1
  let tail := (queue d q).sqTail
  let d :=
    if bit (qCtrl d q) 30 then
      let r := ringObj d q 0
      let off := r.2 + 64 * tail
      match objOf d r.1 with
      | some (h, o) => if o.npages * pageSize < off + 64 || !(missing h o off 64).isEmpty then d else t1Write d h off x.2
      | none => d
    else hostPost d (servingLink d q) none (ringAddr d q 0 + 64 * tail) x.2
  sqDoorbell d q ((tail + 1) % sqSize d q)

/-- SELFTEST_DONE: what failed (the SCD, dies, stacks that did not train, channels), then SERVICE. -/
def selftestDone (d : Dev) (scdOk : Bool) (dies : List Nat) (untrained : Nat) (chans : List Nat) : Dev :=
  if d.boot.st != .selftest then d
  else if !scdOk then halting d (fspec 5 0x05 0x10)
  else
    let b := slotBytes d d.boot.slot
    let d := (List.range 12).foldl (fun d k => if bit untrained k then loseStack d k else setStack d k { stack d k with present := true }) d
    let d := ((d.flt.retiredDies.filter (fun i => 32 ≤ i)).map (fun i => i - 32)).foldl (fun d n => iodGone d n 0 0) d
    let d := (dies.filter dieValid).foldl dieFails d
    let d := chans.foldl wantRetire d
    let d := (List.range (d.hbm.retireQ.length)).foldl (fun d _ => channelRetire (retireStep d []) []) d
    let d := verifyOther { d with nvm := { d.nvm with trimValid := true } }
    let d := enterState (bootOwner d b) .service
    (kindSubmits b).foldl submitOne d

/-- SELFTEST_DONE. -/
def execSelftestDone (scdOk : Bool) (dies : List (Fin 36)) (untrained : BitVec 12) (chans : List (Fin 192)) (s : State) : Out3 :=
  lift s (fun d => selftestDone d scdOk (dies.map (fun i => i.val)) untrained.toNat (chans.map (fun c => c.val)))

end Sys2Proof.Machine
end

