-- ==== Sys2Proof/Machine/HostIf.lean ====
section
/-! DEFINITION. What the host and the management controller do besides control registers: the BAR2 window (R404, R405), PTM (R413), and
the messages of the management bus and of Reedway MGT (R414 to R416). -/

namespace Sys2Proof.Machine

/-! ### BAR2 (R405) -/

/-- An access through the window: what is not there completes with Unsupported Request, what lacks pages waits for them. -/
def window (d : Dev) (l off n : Nat) (wait : Nat → Nat → Waiter) (f : Dev → Nat → Nat → Dev) : Dev :=
  if !linkUp d l || !bar0Open d then d
  else
    match winSpan d off n with
    | none => emit d (.bar2 l false false [])
    | some (h, o, a) =>
      let ms := missing h o a n
      if ms.isEmpty && !roundsHold d o [(a, n)] then f d h a else waitFor d ms (wait h a)

/-- BAR2_READ of `n` bytes. -/
def execBar2Read (l : Fin 2) (off : BitVec 38) (n : Fin 4097) (s : State) : Out3 :=
  lift s (fun d => window d l.val off.toNat n.val (fun h a => .winRd l.val h a n.val) (fun d h a => winRead d l.val h a n.val))

/-- BAR2_WRITE. -/
def execBar2Write (l : Fin 2) (off : BitVec 38) (data : List Byte) (s : State) : Out3 :=
  lift s (fun d => window d l.val off.toNat data.length (fun h a => .win l.val h a data) (fun d h a => winWrite d l.val h a data))

/-! ### PTM (R413) -/

/-- The link that carries PTM: PTM_LINK, or the other one while that is down. -/
def ptmLink (d : Dev) : Option Nat :=
  let l := fld (regGet d 0x70000) 28 1
  if linkUp d l then some l else if linkUp d (1 - l) then some (1 - l) else none

/-- PTM_REQUEST: the departure is kept until the response. -/
def execPtmRequest (s : State) : Out3 :=
  lift s (fun d =>
    match ptmLink d with
    | some l => emit { d with hlk := { d.hlk with ptmOut := some d.clk.devtime.toNat } } (.ptm l)
    | none => d)

/-- The offset that the four times give, rounded toward minus infinity. -/
def timeOffset (t1 t2 t3 t4 : Nat) : Int := (((t2 : Int) - (t1 : Int)) - ((t4 : Int) - (t3 : Int))) / 2

/-- A response with the host's times. DEVTIME follows when TIME_EN is set and it does not follow Reedway. -/
def ptmResponse (d : Dev) (t2 t3 : Nat) : Dev :=
  match d.hlk.ptmOut with
  | none => d
  | some t1 =>
    let o := timeOffset t1 t2 t3 d.clk.devtime.toNat
    let l := lockStep d.hlk.lockCnt d.hlk.timeLocked o
    let d := { d with hlk := { d.hlk with ptmOut := none, offset := o, lockCnt := l.1, timeLocked := l.2 } }
    if bit (regGet d 0x70000) 29 && !bit (rwgTime d) 3 then alignTime d o else d

/-- PTM_RESPONSE. -/
def execPtmResponse (t2 t3 : Word64) (s : State) : Out3 := lift s (fun d => ptmResponse d t2.toNat t3.toNat)

/-! ### Register-access messages (R415, R416) -/

/-- Interfaces that carry messages. -/
def carriesMsg (src : Iface) : Bool := src == .mgt || src == .rwy

/-- A message acts while the device is out of RESET. -/
def onMsg (d : Dev) (src : Iface) (f : Dev → Dev) : Dev := if carriesMsg src && d.boot.st != .reset then f d else d

/-- A response leaves; on an I3C management bus it is announced by an in-band interrupt (R414). -/
def respond (d : Dev) (src : Iface) (o : Out) : Dev :=
  let d := emit d o
  if src = .mgt && bit (regGet d 0x6000) 31 && d.mgt.daValid then emit d .ibi else d

/-- Words read in ascending order. -/
def readWords (d : Dev) (src : Iface) (off : Nat) : Nat → List Word × Dev
  | 0 => ([], d)
  | k + 1 =>
    let r := regRead d src off
    let rest := readWords r.2 src (off + 4) k
    (r.1 :: rest.1, rest.2)

/-- Words written in ascending order: whether R7 discarded one. -/
def writeWords (d : Dev) (src : Iface) (off : Nat) : List Word → Bool × Dev
  | [] => (false, d)
  | w :: ws =>
    let bad := (regView d src off).isSome && off % 4 == 0 && r7Discards d src off w.toNat
    let rest := writeWords (regWrite d src off w.toNat) src (off + 4) ws
    (bad || rest.1, rest.2)

/-- COUNT is 1 to 16; a request with any other is answered BAD_OP. DEDUCED (notes/assumptions/43.md). -/
def countOk (n : Nat) : Bool := decide (1 ≤ n) && decide (n ≤ 16)

/-- MGT_READ. -/
def execMgtRead (src : Iface) (off : Word) (n : Fin 17) (s : State) : Out3 :=
  lift s (fun d => onMsg d src (fun d =>
    if countOk n.val then
      let r := readWords d src off.toNat n.val
      respond r.2 src (.mgt src 0x81 0 r.1)
    else respond d src (.mgt src 0x81 1 [])))

/-- MGT_WRITE. -/
def execMgtWrite (src : Iface) (off : Word) (words : List Word) (s : State) : Out3 :=
  lift s (fun d => onMsg d src (fun d =>
    if countOk words.length then
      let r := writeWords d src off.toNat words
      respond r.2 src (.mgt src 0x82 (if r.1 then 2 else 0) [])
    else respond d src (.mgt src 0x82 1 [])))

/-- READ_LOG of words from a byte offset in the crash log. -/
def execReadLog (src : Iface) (off : Word) (n : Fin 17) (s : State) : Out3 :=
  lift s (fun d => onMsg d src (fun d =>
    if countOk n.val then
      respond d src (.mgt src 0x83 0
        ((List.range n.val).map (fun i => BitVec.ofNat 32 (leNat (clogRead d.bk.clog (off.toNat + 4 * i) 4)))))
    else respond d src (.mgt src 0x83 1 [])))

/-- Blocks whose reads never time out: DEV, FLT, RST and PWR. -/
def neverLate (off : Nat) : Bool := [0, 2, 4].contains (off / 0x1000) || off / 0x10000 == 1

/-- MGT_TIMEOUT: the words that completed within 1 ms stand, and the response says TIMEOUT. `wr` gives the words written, else
`n` words were read. -/
def execMgtTimeout (src : Iface) (wr : Bool) (off : Word) (n : Fin 16) (words : List Word) (s : State) : Out3 :=
  lift s (fun d => onMsg d src (fun d =>
    if wr then respond (writeWords d src off.toNat (words.take 15)).2 src (.mgt src 0x82 3 [])
    else if neverLate off.toNat then d
    else respond (readWords d src off.toNat n.val).2 src (.mgt src 0x81 3 [])))

/-- MCTP_BAD_MSG: another type is discarded and counted; a register-access message with an undefined OP is answered BAD_OP. -/
def execMctpBadMsg (src : Iface) (op : Option Byte) (s : State) : Out3 :=
  lift s (fun d => onMsg d src (fun d =>
    match op with
    | none => { d with mgt := { d.mgt with badMsg := satAdd 16 d.mgt.badMsg 1 } }
    | some k => if 1 ≤ k.toNat && k.toNat ≤ 3 then d else respond d src (.mgt src (128 ||| k.toNat) 1 [])))

/-! ### MCTP control messages (R415) -/

/-- PRESUMED (notes/assumptions/43.md). -/
def eidOf (d : Dev) (src : Iface) : Nat := ((d.mgt.eid.find? (fun p => p.1 == src)).map (fun p => p.2)).getD 0

/-- Completion codes: 0 success, 2 invalid data, 5 unsupported command. PRESUMED (notes/assumptions/43.md). -/
def mctpControl (d : Dev) (src : Iface) (m : MctpCtl) : Dev :=
  match m with
  | .setEid e =>
    if e = 0 || e = 255 then respond d src (.mctp src 1 2 [])
    else
      let d := { d with mgt := { d.mgt with eid := d.mgt.eid.filter (fun p => p.1 != src) ++ [(src, e.toNat)] } }
      respond d src (.mctp src 1 0 [0, e, 0])
  | .getEid => respond d src (.mctp src 2 0 [BitVec.ofNat 8 (eidOf d src), 0, 0])
  | .getVersion =>
    let r := drawBytes d 4
    respond r.2 src (.mctp src 4 0 (1 :: r.1))
  | .getTypes => respond d src (.mctp src 5 0 [1, 0x7E])
  | .getVendor sel =>
    if sel = 0 then
      let r := drawBytes d 4
      respond r.2 src (.mctp src 6 0 (0xFF :: 0 :: r.1))
    else respond d src (.mctp src 6 2 [])
  | .other c => respond d src (.mctp src c.toNat 5 [])

/-- MCTP_CONTROL. -/
def execMctpControl (src : Iface) (m : MctpCtl) (s : State) : Out3 := lift s (fun d => onMsg d src (fun d => mctpControl d src m))

/-! ### The I3C target (R414) -/

/-- MGT_DYNAMIC_ADDRESS: a CCC, in I3C mode. SETDASA is addressed to SADDR. -/
def execMgtDynamicAddress (op : Ccc) (s : State) : Out3 :=
  lift s (fun d =>
    if !bit (regGet d 0x6000) 31 || d.boot.st == .reset then d
    else
      match cccAddr op (if d.mgt.daValid then some d.mgt.dynAddr else none) with
      | some a => { d with mgt := { d.mgt with daValid := true, dynAddr := a } }
      | none => { d with mgt := { d.mgt with daValid := false, dynAddr := 0 } })

end Sys2Proof.Machine
end

