-- ==== Sys2Proof/Machine/Jtag.lean ====
section
/-! DEFINITION. The TAP (R418, R429, R430): one scan of the data register per instruction, and the pins that govern it. -/

namespace Sys2Proof.Machine

/-- An instruction loaded, and the pins it drives or lets go. PRESUMED (notes/assumptions/21.md). -/
def tapLoad (d : Dev) (i : TapIr) : Dev :=
  let was := tapDrives (tapActs d.pins)
  let d := { d with pins := { d.pins with tap := { d.pins.tap with loaded := i } } }
  if was && !tapDrives (tapActs d.pins) then emit d .highz else d

/-- A scan of a data register that captured `cap`: the bits that leave TDO while `tdi` enters. -/
def scanOut (cap tdi : List Bool) : List Bool := (cap ++ tdi).take tdi.length

/-- What the register holds after the scan. -/
def scanLeft (cap tdi : List Bool) : List Bool := (cap ++ tdi).drop tdi.length

/-- A scan of the one-bit BYPASS register, which captures 0. PRESUMED (notes/assumptions/21.md). -/
def scanBypass (d : Dev) (tdi : List Bool) : Dev := emit d (.tdo (scanOut [false] tdi))

/-- The 32 bits of the IDCODE, least significant first. -/
def idcodeBits : List Bool := (List.range 32).map (fun i => bit Config.idcodeWord i)

/-- A scan of the boundary register, which captures the pins; its update stage takes what was shifted in. -/
def scanBoundary (d : Dev) (sampled tdi : List Bool) : Dev :=
  let d := emit d (.tdo (scanOut sampled tdi))
  { d with pins := { d.pins with tap := { d.pins.tap with boundary := scanLeft sampled tdi } } }

/-- An instruction whose register is the boundary register, and which drives pins when it may; otherwise it executes as BYPASS. -/
def tapExtest (d : Dev) (i : TapIr) (sampled tdi : List Bool) : Dev :=
  let d := tapLoad d i
  if tapActs d.pins = i then tapPins (scanBoundary d sampled tdi) else scanBypass d tdi

/-- An instruction that drives pins with the BYPASS register selected. -/
def tapHold (d : Dev) (i : TapIr) (tdi : List Bool) : Dev := scanBypass (tapPins (tapLoad d i)) tdi

/-- BYPASS. -/
def execBypass (tdi : List Bool) (s : State) : Out3 := lift s (fun d => scanBypass (tapLoad d .bypass) tdi)

/-- IDCODE. -/
def execIdcode (tdi : List Bool) (s : State) : Out3 :=
  lift s (fun d => emit (tapLoad d .idcode) (.tdo (scanOut idcodeBits tdi)))

/-- SAMPLE/PRELOAD. -/
def execSamplePreload (sampled tdi : List Bool) (s : State) : Out3 :=
  lift s (fun d => scanBoundary (tapLoad d .samplePreload) sampled tdi)

/-- EXTEST. -/
def execExtest (sampled tdi : List Bool) (s : State) : Out3 := lift s (fun d => tapExtest d .extest sampled tdi)

/-- EXTEST_PULSE. -/
def execExtestPulse (sampled tdi : List Bool) (s : State) : Out3 := lift s (fun d => tapExtest d .extestPulse sampled tdi)

/-- EXTEST_TRAIN. -/
def execExtestTrain (sampled tdi : List Bool) (s : State) : Out3 := lift s (fun d => tapExtest d .extestTrain sampled tdi)

/-- CLAMP. -/
def execClamp (tdi : List Bool) (s : State) : Out3 := lift s (fun d => tapHold d .clamp tdi)

/-- HIGHZ. -/
def execHighz (tdi : List Bool) (s : State) : Out3 := lift s (fun d => tapHold d .highz tdi)

/-- JTAG_EN_CHANGE. -/
def execJtagEnChange (level : Bool) (s : State) : Out3 := lift s (fun d => setPins d { d.pins with jtagEn := level })

/-- TRST_N_ASSERT: the TAP is reset, which loads IDCODE, and lets the pins go. PRESUMED (notes/assumptions/21.md). -/
def execTrstNAssert (s : State) : Out3 := lift s (fun d => tapLoad d .idcode)

end Sys2Proof.Machine
end

