-- ==== Sys2Proof/Machine/Dispatch.lean ====
section
/-! DEFINITION. What each command does: one arm per constructor, each a direct call of its meaning. -/

namespace Sys2Proof.Machine

/-- The effect of a command on everything but the queue of waiting commands. -/
def exec (i : Instr) (s : State) : Host.Outcome State Fault Refusal :=
  match i with
  | .registerWrite src off w => Sys2Proof.Machine.execRegisterWrite src off w s
  | .accessWrongSize src off n wr => Sys2Proof.Machine.execAccessWrongSize src off n wr s
  | .unassignedAccess src off wr => Sys2Proof.Machine.execUnassignedAccess src off wr s
  | .pairLoRead src off => Sys2Proof.Machine.execPairLoRead src off s
  | .readClear src off => Sys2Proof.Machine.execReadClear src off s
  | .dispatch => Sys2Proof.Machine.execDispatch s
  | .beat sc => Sys2Proof.Machine.execBeat sc s
  | .freezeOrder sc => Sys2Proof.Machine.execFreezeOrder sc s
  | .slipRestart sc => Sys2Proof.Machine.execSlipRestart sc s
  | .readyObserved g lb y => Sys2Proof.Machine.execReadyObserved g lb y s
  | .landingArrival sc id n data poison => Sys2Proof.Machine.execLandingArrival sc id n data poison s
  | .gpredDelivery sc idx => Sys2Proof.Machine.execGpredDelivery sc idx s
  | .gpredSet src sc idx val wait => Sys2Proof.Machine.execGpredSet src sc idx val wait s
  | .specResolve sc => Sys2Proof.Machine.execSpecResolve sc s
  | .squashResume sc => Sys2Proof.Machine.execSquashResume sc s
  | .stallResume sc => Sys2Proof.Machine.execStallResume sc s
  | .replayDecision sc => Sys2Proof.Machine.execReplayDecision sc s
  | .shadowDrain g line => Sys2Proof.Machine.execShadowDrain g line s
  | .sourceReadDone g id => Sys2Proof.Machine.execSourceReadDone g id s
  | .auditPoint sc => Sys2Proof.Machine.execAuditPoint sc s
  | .jobOverrun sc => Sys2Proof.Machine.execJobOverrun sc s
  | .scopeStop sc => Sys2Proof.Machine.execScopeStop sc s
  | .regionBegin sc => Sys2Proof.Machine.execRegionBegin sc s
  | .regionEnd sc => Sys2Proof.Machine.execRegionEnd sc s
  | .refresh sc => Sys2Proof.Machine.execRefresh sc s
  | .stamp sc => Sys2Proof.Machine.execStamp sc s
  | .event sc => Sys2Proof.Machine.execEvent sc s
  | .jobEnd sc => Sys2Proof.Machine.execJobEnd sc s
  | .completionToken sc g drain => Sys2Proof.Machine.execCompletionToken sc g drain s
  | .tokenCollect sc => Sys2Proof.Machine.execTokenCollect sc s
  | .tokenTimeout sc => Sys2Proof.Machine.execTokenTimeout sc s
  | .completionRecord k => Sys2Proof.Machine.execCompletionRecord k s
  | .laneRest g => Sys2Proof.Machine.execLaneRest g s
  | .laneLoop g => Sys2Proof.Machine.execLaneLoop g s
  | .laneEnd g => Sys2Proof.Machine.execLaneEnd g s
  | .nop g => Sys2Proof.Machine.execNop g s
  | .check g n la lb lc ld => Sys2Proof.Machine.execCheck g n la lb lc ld s
  | .arm g lb src sa sb => Sys2Proof.Machine.execArm g lb src sa sb s
  | .psend g p idx => Sys2Proof.Machine.execPsend g p idx s
  | .pset g pd cond sa sb => Sys2Proof.Machine.execPset g pd cond sa sb s
  | .plog g pd pa pb fn => Sys2Proof.Machine.execPlog g pd pa pb fn s
  | .salu g fn sd sa sb => Sys2Proof.Machine.execSalu g fn sd sa sb s
  | .sli g sd hi imm => Sys2Proof.Machine.execSli g sd hi imm s
  | .amov g ad fn sa imm => Sys2Proof.Machine.execAmov g ad fn sa imm s
  | .csrw g csr sa => Sys2Proof.Machine.execCsrw g csr sa s
  | .ldw g gd fmtw sp aa off sc rel => Sys2Proof.Machine.execLdw g gd fmtw sp aa off sc rel s
  | .mac g gd fmta acc accum ref aa off rel => Sys2Proof.Machine.execMac g gd fmta acc accum ref aa off rel s
  | .drn g gd acc fmto sat tag aa off => Sys2Proof.Machine.execDrn g gd acc fmto sat tag aa off s
  | .zac g gd acc => Sys2Proof.Machine.execZac g gd acc s
  | .vpuAdd g gd r => Sys2Proof.Machine.execVpuAdd g gd r s
  | .vpuSub g gd r => Sys2Proof.Machine.execVpuSub g gd r s
  | .vpuMul g gd r => Sys2Proof.Machine.execVpuMul g gd r s
  | .fma g gd r => Sys2Proof.Machine.execFma g gd r s
  | .fms g gd r => Sys2Proof.Machine.execFms g gd r s
  | .vpuMin g gd r => Sys2Proof.Machine.execVpuMin g gd r s
  | .vpuMax g gd r => Sys2Proof.Machine.execVpuMax g gd r s
  | .abs g gd r => Sys2Proof.Machine.execAbs g gd r s
  | .neg g gd r => Sys2Proof.Machine.execNeg g gd r s
  | .cmp g gd r => Sys2Proof.Machine.execCmp g gd r s
  | .vpuIntAdd g gd r => Sys2Proof.Machine.execVpuIntAdd g gd r s
  | .vpuIntSub g gd r => Sys2Proof.Machine.execVpuIntSub g gd r s
  | .vpuIntMul g gd r => Sys2Proof.Machine.execVpuIntMul g gd r s
  | .vpuAnd g gd r => Sys2Proof.Machine.execVpuAnd g gd r s
  | .vpuOr g gd r => Sys2Proof.Machine.execVpuOr g gd r s
  | .vpuXor g gd r => Sys2Proof.Machine.execVpuXor g gd r s
  | .vpuShl g gd r => Sys2Proof.Machine.execVpuShl g gd r s
  | .vpuShr g gd r => Sys2Proof.Machine.execVpuShr g gd r s
  | .vpuSra g gd r => Sys2Proof.Machine.execVpuSra g gd r s
  | .vpuIntMin g gd r => Sys2Proof.Machine.execVpuIntMin g gd r s
  | .vpuIntMax g gd r => Sys2Proof.Machine.execVpuIntMax g gd r s
  | .cvi g gd r => Sys2Proof.Machine.execCvi g gd r s
  | .cvo g gd r => Sys2Proof.Machine.execCvo g gd r s
  | .mov g gd r => Sys2Proof.Machine.execMov g gd r s
  | .bcast g gd r => Sys2Proof.Machine.execBcast g gd r s
  | .sel g gd r => Sys2Proof.Machine.execSel g gd r s
  | .perm g gd r => Sys2Proof.Machine.execPerm g gd r s
  | .slide g gd r => Sys2Proof.Machine.execSlide g gd r s
  | .rsum g gd r => Sys2Proof.Machine.execRsum g gd r s
  | .rmax g gd r => Sys2Proof.Machine.execRmax g gd r s
  | .rmin g gd r => Sys2Proof.Machine.execRmin g gd r s
  | .wel g gd r => Sys2Proof.Machine.execWel g gd r s
  | .wmrg g gd r => Sys2Proof.Machine.execWmrg g gd r s
  | .smxu g gd r => Sys2Proof.Machine.execSmxu g gd r s
  | .skmrg g gd r => Sys2Proof.Machine.execSkmrg g gd r s
  | .vld g gd m => Sys2Proof.Machine.execVld g gd m s
  | .vst g gd m => Sys2Proof.Machine.execVst g gd m s
  | .evalTs g gd ts vd va q => Sys2Proof.Machine.execEvalTs g gd ts vd va q s
  | .tld g gd ts aa off => Sys2Proof.Machine.execTld g gd ts aa off s
  | .tsel g gd ts set => Sys2Proof.Machine.execTsel g gd ts set s
  | .rd g gd aa ab lb sn blk => Sys2Proof.Machine.execRd g gd aa ab lb sn blk s
  | .wr g gd aa ab sn blk => Sys2Proof.Machine.execWr g gd aa ab sn blk s
  | .cpy g gd aa ab sn rel lb => Sys2Proof.Machine.execCpy g gd aa ab sn rel lb s
  | .atm g gd aa ab vi afmt => Sys2Proof.Machine.execAtm g gd aa ab vi afmt s
  | .nrw g gd aa ab vi dir lb => Sys2Proof.Machine.execNrw g gd aa ab vi dir lb s
  | .gth g gd aa ab vi sn => Sys2Proof.Machine.execGth g gd aa ab vi sn s
  | .cmpt g gd aa ab vi sn => Sys2Proof.Machine.execCmpt g gd aa ab vi sn s
  | .eng g gd aa kind index lb => Sys2Proof.Machine.execEng g gd aa kind index lb s
  | .snd g gd dst via aa lb sn => Sys2Proof.Machine.execSnd g gd dst via aa lb sn s
  | .rws g gd aa ab sn sd vc sb => Sys2Proof.Machine.execRws g gd aa ab sn sd vc sb s
  | .col g gd aa sn kind fmt group lb => Sys2Proof.Machine.execCol g gd aa sn kind fmt group lb s
  | .red g gd aa sn fmt lb root => Sys2Proof.Machine.execRed g gd aa sn fmt lb root s
  | .validate src h => Sys2Proof.Machine.execValidate src h s
  | .validationDone failed => Sys2Proof.Machine.execValidationDone failed s
  | .invalidate src h => Sys2Proof.Machine.execInvalidate src h s
  | .imgCtrlReserved src h => Sys2Proof.Machine.execImgCtrlReserved src h s
  | .colourConversion n => Sys2Proof.Machine.execColourConversion n s
  | .remosaic n pat depth => Sys2Proof.Machine.execRemosaic n pat depth s
  | .patchify n p t => Sys2Proof.Machine.execPatchify n p t s
  | .unpatchify n p t oh ow => Sys2Proof.Machine.execUnpatchify n p t oh ow s
  | .vaeConvolution n kh kw conv oh ow => Sys2Proof.Machine.execVaeConvolution n kh kw conv oh ow s
  | .pxePooling n avg k stride oh ow => Sys2Proof.Machine.execPxePooling n avg k stride oh ow s
  | .cropAndResize n bh boff boxes oh ow => Sys2Proof.Machine.execCropAndResize n bh boff boxes oh ow s
  | .pxeCompletion n => Sys2Proof.Machine.execPxeCompletion n s
  | .pageFillDone h p data => Sys2Proof.Machine.execPageFillDone h p data s
  | .writebackDone h p => Sys2Proof.Machine.execWritebackDone h p s
  | .writebackFail h p => Sys2Proof.Machine.execWritebackFail h p s
  | .prefetchIssue sc idx => Sys2Proof.Machine.execPrefetchIssue sc idx s
  | .prefetchComplete sc idx n => Sys2Proof.Machine.execPrefetchComplete sc idx n s
  | .t2Timeout sc => Sys2Proof.Machine.execT2Timeout sc s
  | .tierFail w poison => Sys2Proof.Machine.execTierFail w poison s
  | .create src h => Sys2Proof.Machine.execCreate src h s
  | .destroy src h => Sys2Proof.Machine.execDestroy src h s
  | .flush src h => Sys2Proof.Machine.execFlush src h s
  | .evict src h => Sys2Proof.Machine.execEvict src h s
  | .discard src h => Sys2Proof.Machine.execDiscard src h s
  | .fetch src h => Sys2Proof.Machine.execFetch src h s
  | .tmgCmdReserved src k h => Sys2Proof.Machine.execTmgCmdReserved src k h s
  | .tmgCmdDone => Sys2Proof.Machine.execTmgCmdDone s
  | .hbmTempRead n t => Sys2Proof.Machine.execHbmTempRead n t s
  | .refreshAccrual n => Sys2Proof.Machine.execRefreshAccrual n s
  | .refreshRunEnd n => Sys2Proof.Machine.execRefreshRunEnd n s
  | .scrubRead n c res => Sys2Proof.Machine.execScrubRead n c res s
  | .cePeriodEnd n => Sys2Proof.Machine.execCePeriodEnd n s
  | .channelRetire bad => Sys2Proof.Machine.execChannelRetire bad s
  | .hbRetire src n c => Sys2Proof.Machine.execHbRetire src n c s
  | .hbRestore src n c => Sys2Proof.Machine.execHbRestore src n c s
  | .atmApply n k bad => Sys2Proof.Machine.execAtmApply n k bad s
  | .watermark g => Sys2Proof.Machine.execWatermark g s
  | .atmAudit n => Sys2Proof.Machine.execAtmAudit n s
  | .sqDoorbell src q idx => Sys2Proof.Machine.execSqDoorbell src q idx s
  | .cqDoorbell src q idx => Sys2Proof.Machine.execCqDoorbell src q idx s
  | .queueEnable src q w => Sys2Proof.Machine.execQueueEnable src q w s
  | .descriptorAccept q data => Sys2Proof.Machine.execDescriptorAccept q data s
  | .schAbort src slot => Sys2Proof.Machine.execSchAbort src slot s
  | .pairedSet src value => Sys2Proof.Machine.execPairedSet src value s
  | .configDec n => Sys2Proof.Machine.execConfigDec n s
  | .configEnc n => Sys2Proof.Machine.execConfigEnc n s
  | .decode n => Sys2Proof.Machine.execDecode n s
  | .vceDrain n => Sys2Proof.Machine.execVceDrain n s
  | .encode n => Sys2Proof.Machine.execEncode n s
  | .vceRelease n => Sys2Proof.Machine.execVceRelease n s
  | .vceClose n => Sys2Proof.Machine.execVceClose n s
  | .vceCompletion n => Sys2Proof.Machine.execVceCompletion n s
  | .vceFault n parity => Sys2Proof.Machine.execVceFault n parity s
  | .vceReset src n => Sys2Proof.Machine.execVceReset src n s
  | .empEnable src n => Sys2Proof.Machine.execEmpEnable src n s
  | .empDisable src n => Sys2Proof.Machine.execEmpDisable src n s
  | .frameStart n => Sys2Proof.Machine.execFrameStart n s
  | .frameEnd n => Sys2Proof.Machine.execFrameEnd n s
  | .empReadError n line => Sys2Proof.Machine.execEmpReadError n line s
  | .fsyncInEdge n after => Sys2Proof.Machine.execFsyncInEdge n after s
  | .acquire n => Sys2Proof.Machine.execAcquire n s
  | .commit n => Sys2Proof.Machine.execCommit n s
  | .empReturn n => Sys2Proof.Machine.execEmpReturn n s
  | .ticket n => Sys2Proof.Machine.execTicket n s
  | .commitArrive n => Sys2Proof.Machine.execCommitArrive n s
  | .empCommitWrite src n buf => Sys2Proof.Machine.execEmpCommitWrite src n buf s
  | .verifyPassStart n => Sys2Proof.Machine.execVerifyPassStart n s
  | .verifyPassDone n bad => Sys2Proof.Machine.execVerifyPassDone n bad s
  | .targetWrite n addr data => Sys2Proof.Machine.execTargetWrite n addr data s
  | .targetRead n addr len => Sys2Proof.Machine.execTargetRead n addr len s
  | .targetCcc n op => Sys2Proof.Machine.execTargetCcc n op s
  | .rtAccRead src n idx => Sys2Proof.Machine.execRtAccRead src n idx s
  | .rtAccWrite src n idx => Sys2Proof.Machine.execRtAccWrite src n idx s
  | .tokenAdopt n => Sys2Proof.Machine.execTokenAdopt n s
  | .disputeTimeout => Sys2Proof.Machine.execDisputeTimeout s
  | .safeStateAssert => Sys2Proof.Machine.execSafeStateAssert s
  | .safeStateRelease => Sys2Proof.Machine.execSafeStateRelease s
  | .tokenLoss emp n => Sys2Proof.Machine.execTokenLoss emp n s
  | .capEnable src n => Sys2Proof.Machine.execCapEnable src n s
  | .capDisable src n => Sys2Proof.Machine.execCapDisable src n s
  | .capFrameStart n num => Sys2Proof.Machine.execCapFrameStart n num s
  | .capLine n p bad => Sys2Proof.Machine.execCapLine n p bad s
  | .capFrameEnd n => Sys2Proof.Machine.execCapFrameEnd n s
  | .capFrameTimeout n => Sys2Proof.Machine.execCapFrameTimeout n s
  | .capOtherPacket n => Sys2Proof.Machine.execCapOtherPacket n s
  | .take n => Sys2Proof.Machine.execTake n s
  | .takeComplete n => Sys2Proof.Machine.execTakeComplete n s
  | .capReturn n => Sys2Proof.Machine.execCapReturn n s
  | .fsyncOutRise n => Sys2Proof.Machine.execFsyncOutRise n s
  | .fsyncOutFall n => Sys2Proof.Machine.execFsyncOutFall n s
  | .portEnable src n => Sys2Proof.Machine.execPortEnable src n s
  | .trainingDone n lanes lat => Sys2Proof.Machine.execTrainingDone n lanes lat s
  | .trainingTimeout n => Sys2Proof.Machine.execTrainingTimeout n s
  | .ident n same id port => Sys2Proof.Machine.execIdent n same id port s
  | .flitReceive n seq good ack nak => Sys2Proof.Machine.execFlitReceive n seq good ack nak s
  | .linkLoss n => Sys2Proof.Machine.execLinkLoss n s
  | .flitTimeout n => Sys2Proof.Machine.execFlitTimeout n s
  | .portRetrain n => Sys2Proof.Machine.execPortRetrain n s
  | .pktWr n p => Sys2Proof.Machine.execPktWr n p s
  | .pktRdReq n p => Sys2Proof.Machine.execPktRdReq n p s
  | .pktRdRsp n p => Sys2Proof.Machine.execPktRdRsp n p s
  | .pktWrAck n p => Sys2Proof.Machine.execPktWrAck n p s
  | .pktColl n p => Sys2Proof.Machine.execPktColl n p s
  | .pktMgt n p => Sys2Proof.Machine.execPktMgt n p s
  | .pktReturned n p => Sys2Proof.Machine.execPktReturned n p s
  | .pktWrapped n p => Sys2Proof.Machine.execPktWrapped n p s
  | .pktReserved n p => Sys2Proof.Machine.execPktReserved n p s
  | .creditReturn n idx k => Sys2Proof.Machine.execCreditReturn n idx k s
  | .auditSend n => Sys2Proof.Machine.execAuditSend n s
  | .audit n sents => Sys2Proof.Machine.execAudit n sents s
  | .reclaim n r => Sys2Proof.Machine.execReclaim n r s
  | .timeExchange n => Sys2Proof.Machine.execTimeExchange n s
  | .time n t2 t3 => Sys2Proof.Machine.execTime n t2 t3 s
  | .holdover => Sys2Proof.Machine.execHoldover s
  | .rejoin src n => Sys2Proof.Machine.execRejoin src n s
  | .join n => Sys2Proof.Machine.execJoin n s
  | .portIsolate n => Sys2Proof.Machine.execPortIsolate n s
  | .collTimeout k => Sys2Proof.Machine.execCollTimeout k s
  | .estSample => Sys2Proof.Machine.execEstSample s
  | .routeRead src idx => Sys2Proof.Machine.execRouteRead src idx s
  | .routeWrite src idx => Sys2Proof.Machine.execRouteWrite src idx s
  | .faultReport rs => Sys2Proof.Machine.execFaultReport rs s
  | .fenceNoAnswer h => Sys2Proof.Machine.execFenceNoAnswer h s
  | .pendClear src => Sys2Proof.Machine.execPendClear src s
  | .tokenBroadcast => Sys2Proof.Machine.execTokenBroadcast s
  | .heartbeat h epoch role => Sys2Proof.Machine.execHeartbeat h epoch role s
  | .heartbeatLoss h => Sys2Proof.Machine.execHeartbeatLoss h s
  | .disputeAck h => Sys2Proof.Machine.execDisputeAck h s
  | .disputeWindowEnd => Sys2Proof.Machine.execDisputeWindowEnd s
  | .pairFailover b why => Sys2Proof.Machine.execPairFailover b why s
  | .fltFence src kind idx => Sys2Proof.Machine.execFltFence src kind idx s
  | .unfence src kind idx => Sys2Proof.Machine.execUnfence src kind idx s
  | .unfenceSelftestDone pass => Sys2Proof.Machine.execUnfenceSelftestDone pass s
  | .fltRestore src kind idx => Sys2Proof.Machine.execFltRestore src kind idx s
  | .crashLogClear src => Sys2Proof.Machine.execCrashLogClear src s
  | .d2dAudit m expected observed jobs => Sys2Proof.Machine.execD2dAudit m expected observed jobs s
  | .powerOnReset => Sys2Proof.Machine.execPowerOnReset s
  | .rstNAssert => Sys2Proof.Machine.execRstNAssert s
  | .perstAssert l => Sys2Proof.Machine.execPerstAssert l s
  | .perstDeassert l => Sys2Proof.Machine.execPerstDeassert l s
  | .watchdogExpire => Sys2Proof.Machine.execWatchdogExpire s
  | .rstDevice src key => Sys2Proof.Machine.execRstDevice src key s
  | .rstPartial src kind idx => Sys2Proof.Machine.execRstPartial src kind idx s
  | .partialResetDone ok => Sys2Proof.Machine.execPartialResetDone ok s
  | .resetRelease test => Sys2Proof.Machine.execResetRelease test s
  | .pllLock bad => Sys2Proof.Machine.execPllLock bad s
  | .kindlingApply => Sys2Proof.Machine.execKindlingApply s
  | .selftestDone scdOk dies untrained chans => Sys2Proof.Machine.execSelftestDone scdOk dies untrained chans s
  | .loaderFailure => Sys2Proof.Machine.execLoaderFailure s
  | .vbkupPowerOn => Sys2Proof.Machine.execVbkupPowerOn s
  | .claim src reach => Sys2Proof.Machine.execClaim src reach s
  | .renew src => Sys2Proof.Machine.execRenew src s
  | .ownRelease src => Sys2Proof.Machine.execOwnRelease src s
  | .handover src dest => Sys2Proof.Machine.execHandover src dest s
  | .ownCmdBadOp src k => Sys2Proof.Machine.execOwnCmdBadOp src k s
  | .electionClose => Sys2Proof.Machine.execElectionClose s
  | .leaseExpire => Sys2Proof.Machine.execLeaseExpire s
  | .download src h => Sys2Proof.Machine.execDownload src h s
  | .updateVerify src => Sys2Proof.Machine.execUpdateVerify src s
  | .activate src => Sys2Proof.Machine.execActivate src s
  | .confirm src => Sys2Proof.Machine.execConfirm src s
  | .optWrite src h => Sys2Proof.Machine.execOptWrite src h s
  | .updateDone fail => Sys2Proof.Machine.execUpdateDone fail s
  | .governorTick est => Sys2Proof.Machine.execGovernorTick est s
  | .stepChange => Sys2Proof.Machine.execStepChange s
  | .sensorScan temps => Sys2Proof.Machine.execSensorScan temps s
  | .tripRelease => Sys2Proof.Machine.execTripRelease s
  | .brakeAssert => Sys2Proof.Machine.execBrakeAssert s
  | .brakeRelease => Sys2Proof.Machine.execBrakeRelease s
  | .railFault rail mv => Sys2Proof.Machine.execRailFault rail mv s
  | .refclkLoss refclk => Sys2Proof.Machine.execRefclkLoss refclk s
  | .sleepEnter src => Sys2Proof.Machine.execSleepEnter src s
  | .sleepEntryDone => Sys2Proof.Machine.execSleepEntryDone s
  | .wake src => Sys2Proof.Machine.execWake src s
  | .wakeDone => Sys2Proof.Machine.execWakeDone s
  | .hostLinkFail l internal => Sys2Proof.Machine.execHostLinkFail l internal s
  | .recoveryTimeout l => Sys2Proof.Machine.execRecoveryTimeout l s
  | .autoBack l => Sys2Proof.Machine.execAutoBack l s
  | .movePairs src l => Sys2Proof.Machine.execMovePairs src l s
  | .moveHome src => Sys2Proof.Machine.execMoveHome src s
  | .moveWaitEnd expired => Sys2Proof.Machine.execMoveWaitEnd expired s
  | .bar2Read l off n => Sys2Proof.Machine.execBar2Read l off n s
  | .bar2Write l off data => Sys2Proof.Machine.execBar2Write l off data s
  | .ptmRequest => Sys2Proof.Machine.execPtmRequest s
  | .ptmResponse t2 t3 => Sys2Proof.Machine.execPtmResponse t2 t3 s
  | .mgtRead src off n => Sys2Proof.Machine.execMgtRead src off n s
  | .mgtWrite src off words => Sys2Proof.Machine.execMgtWrite src off words s
  | .readLog src off n => Sys2Proof.Machine.execReadLog src off n s
  | .mctpControl src c => Sys2Proof.Machine.execMctpControl src c s
  | .mctpBadMsg src op => Sys2Proof.Machine.execMctpBadMsg src op s
  | .mgtTimeout src wr off n words => Sys2Proof.Machine.execMgtTimeout src wr off n words s
  | .pmbusPoll res => Sys2Proof.Machine.execPmbusPoll res s
  | .pmbAlert res => Sys2Proof.Machine.execPmbAlert res s
  | .pmbXfer src w => Sys2Proof.Machine.execPmbXfer src w s
  | .pmbXferDone nack pec data => Sys2Proof.Machine.execPmbXferDone nack pec data s
  | .bypass tdi => Sys2Proof.Machine.execBypass tdi s
  | .idcode tdi => Sys2Proof.Machine.execIdcode tdi s
  | .samplePreload sampled tdi => Sys2Proof.Machine.execSamplePreload sampled tdi s
  | .extest sampled tdi => Sys2Proof.Machine.execExtest sampled tdi s
  | .extestPulse sampled tdi => Sys2Proof.Machine.execExtestPulse sampled tdi s
  | .extestTrain sampled tdi => Sys2Proof.Machine.execExtestTrain sampled tdi s
  | .clamp tdi => Sys2Proof.Machine.execClamp tdi s
  | .highz tdi => Sys2Proof.Machine.execHighz tdi s
  | .jtagEnChange level => Sys2Proof.Machine.execJtagEnChange level s
  | .hostLinkUp l rate width cxl => Sys2Proof.Machine.execHostLinkUp l rate width cxl s
  | .configurationRequest l => Sys2Proof.Machine.execConfigurationRequest l s
  | .cxlSnoop l addr => Sys2Proof.Machine.execCxlSnoop l addr s
  | .mgtDynamicAddress op => Sys2Proof.Machine.execMgtDynamicAddress op s
  | .vbkupLoss => Sys2Proof.Machine.execVbkupLoss s
  | .trstNAssert => Sys2Proof.Machine.execTrstNAssert s

end Sys2Proof.Machine
end

