-- ==== Sys2Proof/Safety.lean ====
section
/-! DEFINITION. What counts as a safe run, and the terms that claims use: every waiting command is well formed; memory is in
canonical form; what a slot may change; how an operation leaves its tile. -/

namespace Sys2Proof.Safety

open Sys2Proof Sys2Proof.Machine

/-- Every waiting command holds no reserved encoding: no step of the block then stops. -/
def QueueReady (s : State) : Prop := ∀ c ∈ s.pending, wfInstr c = true

/-- T1's listing is in canonical form: addresses strictly rising, no listed zero. -/
def MemoryCanonical (s : State) : Prop := Memory.wf s.dev.tmg.mem = true

/-- What a slot of tile `g` that stays in its tile may change: that tile, the scopes (a mapping fault, and a CHECK or PSEND), and the
counter of free values. -/
structure SlotFrame (g : Nat) (d e : Dev) : Prop where
  tiles : ∀ k, k ≠ g → tile e k = tile d k
  rest : { e with tiles := d.tiles, sc0 := d.sc0, sc1 := d.sc1, free := d.free } = d

/-- How an operation with source T0 bytes `a` to `a + n` is issued in tile `g` (R52, R58, R102): it takes the bytes, an entry of the
pending-source table and its place among the operations that leave at the end of the beat, marked held where a speculation is open, or, for
any but a send, a replayable region is uncommitted. -/
def Leaves (s : State) (g : Nat) (i : Instr) (a n : Nat) (send : Bool) (mk : List Byte → OutOp) : Prop :=
  let t := tile s.dev g
  let x := scope s.dev (scopeOf s.dev g)
  let held := specOpen x || (!send && x.rrun.isSome)
  (held = true → send = false → specOpen x = false → holdCount t < 64) →
    exec i s = .next { s with dev := updTile s.dev g (fun u =>
      { u with psrc := u.psrc ++ [⟨t.nextSrc, a, n, held⟩], nextSrc := u.nextSrc + 1
               issued := u.issued ++ [⟨mk (t0Read t a n), x.pos, x.gen, t.nextSrc, t.core.rm, held⟩] }) }

/-- A pixel engine that can execute the command at the front of its queue (R115): no command is finished and unreported, the block is
well formed with this operation, and the source can be read. -/
structure PixelReady (d : Dev) (n op frames : Nat) (c : EngCmd) (rest : List EngCmd) (bs : List Byte) : Prop where
  cur : (pxe d n).cur = none
  queue : (pxe d n).queue = c :: rest
  op : (pxeBlk c.bytes).op = op
  ok : pxeOk (pxeBlk c.bytes) = true
  there : engWaits d c.scope (pxeBlk c.bytes).src (pxeBlk c.bytes).srcOff (srcSpan (pxeBlk c.bytes) frames) = []
  read : engLines d c.scope (pxeBlk c.bytes).src (pxeBlk c.bytes).srcOff (srcSpan (pxeBlk c.bytes) frames) = .ok bs

/-- The state once the engine has read its source, which dates the pages (R210). -/
def pixelRead (d : Dev) (c : EngCmd) (frames : Nat) : Dev :=
  engTouch d c.scope (pxeBlk c.bytes).src (pxeBlk c.bytes).srcOff (srcSpan (pxeBlk c.bytes) frames)

/-- What executing it leaves of the state `d` once its sources are read (R119): `out` on its way to T0 through the buffer whose area holds the
destination, or written into the destination object where that can be written and no rounds hold it, the command finished with status 0 and its completion word
ready, and the commands that wait in tiles moved up. -/
def PixelDone (d : Dev) (n : Nat) (c : EngCmd) (rest : List EngCmd) (out : List Byte) (bad pixels : Nat) (e : Dev) : Prop :=
  let b := pxeBlk c.bytes
  let w := leBytes 2 0 ++ leBytes 2 (Machine.sat 16 bad) ++ leBytes 4 (Machine.sat 32 pixels)
  (b.toLb = true → e = pxePop (addXfer d c.scope c.tile ((lbAt (tile d c.tile).core (b.dstOff % 2 ^ 21)).getD c.lb) c.gen
    (some (b.dstOff % 2 ^ 21)) out [] 0) n rest (some c) (some w))
  ∧ (∀ f, b.toLb = false → engWaits d c.scope b.dst b.dstOff out.length = [] → engHeld d c.scope b.dst b.dstOff out.length = false →
      engStoreLines d c.scope b.dst b.dstOff out = .ok f → e = pxePop f n rest (some c) (some w))

/-- A codec engine that can execute the command of operation `op` at the front of its queue (R270, R272): none is at work, the engine has not
stopped, and the context's place in the context object can be read. -/
structure CodecReady (d : Dev) (n op : Nat) (c : EngCmd) (rest : List EngCmd) : Prop where
  cur : (vce d n).cur = none
  queue : (vce d n).queue = c :: rest
  alive : (vce d n).faulted = false
  op : leAt c.bytes 0 1 = op
  ver : leAt c.bytes 1 1 = 1
  ctx : ctxObject d n ≠ 0
  there : engWaits d 2 (ctxObject d n) (65536 * leAt c.bytes 2 1) 65536 = []
  read : ∃ b, engLines d 2 (ctxObject d n) (65536 * leAt c.bytes 2 1) 65536 = .ok b

/-- The state once the engine has read the context, which dates the pages (R210). -/
def ctxRead (d : Dev) (n : Nat) (c : EngCmd) : Dev := engTouch d 2 (ctxObject d n) (65536 * leAt c.bytes 2 1) 65536

/-- What executing the front command of a codec engine leaves until its completion (R271): the word, the contexts and buffers that then stand,
and the buffers marked meanwhile; a command that waits in its tile enters the queue. -/
def codecLeaves (d : Dev) (n : Nat) (c : EngCmd) (rest : List EngCmd) (w : VceWord) (ctxs : FMap VCtx) (bufs cur : FMap VBuf) : Dev :=
  let v := vce d n
  setVce d n { v with queue := rest ++ v.wait.take (32 - rest.length), wait := v.wait.drop (32 - rest.length), pages := [], cur := some c
                      word := some (vceWord w), after := some (ctxs, bufs), bufs := cur, lastCtx := leAt c.bytes 2 1 }

end Sys2Proof.Safety
end

