-- ==== Sys2Proof/Certificates/Slice0/Obligations.lean ====
section
/-! DEFINITION. The statements for the provers: for every family of commands what it does and that it completes, frames, and the rules
that hold of every step. `s` is the state before, `t` after; commands come with the conditions under which they act. -/

open Sys2Proof Sys2Proof.Machine Sys2Proof.Safety

/-! ### Tile slots -/

/-- The CTL slot (R83, Table 4-6) in a running tile: every operation has its result one beat later and changes nothing else; an
all-zero slot changes nothing (R77). P0 discards writes (R78).

CHECK, ARM and PSEND (R41, R42, R45, R49) in a running tile. CHECK reports each named buffer that is not READY for use 32
positions later; ARM of a FREE entry leaves it ARMED with base, length and expected count, READY at the end of the beat when
nothing is expected; PSEND puts bit 0 of its predicate on the beat control path, due 12 cycles later. -/
def Obligations.ControlSlotsComplete : Prop :=
  (∀ (s : State) (g : Fin 800), tileRuns s.dev g.val = true →
    let c := (tile s.dev g.val).core
    exec (.nop g) s = .next s
    ∧ (∀ fn sd sa sb, wfSalu fn = true → exec (.salu g fn sd sa sb) s = .next { s with
        dev := result s.dev g.val 1 (.s sd.val (saluFn fn.val (rdS c sa.val) (rdS c sb.val))) })
    ∧ (∀ sd imm, exec (.sli g sd true imm) s = .next { s with
        dev := result s.dev g.val 1 (.s sd.val (imm ++ (rdS c sd.val).extractLsb' 0 16)) })
    ∧ (∀ sd imm, exec (.sli g sd false imm) s = .next { s with
        dev := result s.dev g.val 1 (.s sd.val ((rdS c sd.val).extractLsb' 16 16 ++ imm)) })
    ∧ (∀ ad fn sa imm, wfAmov fn sa = true → exec (.amov g ad fn sa imm) s = .next { s with
        dev := result s.dev g.val 1 (.a ad.val (
          if fn = 0 then (rdS c (sa.val + 1)).extractLsb' 0 16 ++ rdS c sa.val
          else if fn = 1 then rdA c ad.val + (rdS c sa.val).signExtend 48
          else rdA c ad.val + BitVec.ofInt 48 (imm.toInt * 64))) })
    ∧ (∀ csr sa, wfCsrw csr = true → exec (.csrw g csr sa) s = .next { s with
        dev := result s.dev g.val 1 (.rm (
          if (rdS c sa.val).toNat % 4 = 3 then 0 else (rdS c sa.val).toNat % 4)) })
    ∧ (∀ (pd cond : Fin 16) sa sb, wfPset cond = true → exec (.pset g pd cond sa sb) s = .next (
        if pd = 0 then s else { s with
          dev := result s.dev g.val 1 (.p pd.val (BitVec.allOnes 64)
            (if scond cond.val (rdS c sa.val) (rdS c sb.val) then BitVec.allOnes 64 else 0)) }))
    ∧ (∀ (pd pa pb : Fin 16) (fn : Fin 4), exec (.plog g pd pa pb fn) s = .next (
        if pd = 0 then s else { s with
          dev := result s.dev g.val 1 (.p pd.val (BitVec.allOnes 64)
            (if fn = 0 then rdP c pa.val &&& rdP c pb.val else if fn = 1 then rdP c pa.val ||| rdP c pb.val
             else if fn = 2 then rdP c pa.val ^^^ rdP c pb.val else rdP c pa.val &&& ~~~rdP c pb.val)) })))
  ∧ (∀ (s : State) (g : Fin 800), tileRuns s.dev g.val = true →
    let c := (tile s.dev g.val).core
    let si := scopeOf s.dev g.val
    let x := scope s.dev si
    (∀ n la lb lc ld, wfCheck n lb lc ld = true → ∃ t, exec (.check g n la lb lc ld) s = .next t
      ∧ t.pending = s.pending ∧ t.dev.tiles = s.dev.tiles
      ∧ scope t.dev si = { x with
          reps := x.reps ++ ((([la, lb, lc, ld].take (n.val + 1)).map (fun i => i.val)).filter (fun i => (lbuf c i).st != .ready)).map
            (fun i => ⟨x.pos + 32, g.val, i, false, none⟩) })
    ∧ (∀ lb src sa sb, wfArm src sb = true → (lbuf c lb.val).st = .free → ∃ t, exec (.arm g lb src sa sb) s = .next t
      ∧ t.pending = s.pending
      ∧ lbuf (tile t.dev g.val).core lb.val = ⟨.armed, (rdS c sa.val).toNat, (rdS c sb.val).toNat,
          (rdS c (sb.val + 1)).toNat, 0, srcClass src.val⟩
      ∧ (tile t.dev g.val).core.pend = c.pend ++ (if (rdS c (sb.val + 1)).toNat = 0 then [⟨1, .lbReady lb.val⟩] else []))
    ∧ (∀ (p : Fin 16) (idx : Fin 256), ∃ t, exec (.psend g p idx) s = .next t ∧ t.pending = s.pending ∧ t.dev.tiles = s.dev.tiles
      ∧ scope t.dev si = { x with flight := x.flight ++
          [⟨idx.val, (rdP c p.val).getLsbD 0, x.jobCycles + 12, x.jobCycles⟩] }))

/-- The functions of SALU (Table 4-6): 32-bit, wrapping, shifts by the low five bits, signed and unsigned extremes. -/
def Obligations.ScalarFunctions : Prop :=
  ∀ a b : Word,
    saluFn 0 a b = a + b ∧ saluFn 1 a b = a - b ∧ saluFn 2 a b = a &&& b ∧ saluFn 3 a b = a ||| b ∧ saluFn 4 a b = a ^^^ b
    ∧ saluFn 5 a b = a <<< (b.toNat % 32) ∧ saluFn 6 a b = a >>> (b.toNat % 32)
    ∧ (saluFn 7 a b).toInt = a.toInt >>> (b.toNat % 32)
    ∧ saluFn 8 a b = a * b
    ∧ (saluFn 9 a b).toInt = min a.toInt b.toInt ∧ (saluFn 10 a b).toInt = max a.toInt b.toInt
    ∧ (saluFn 11 a b).toNat = min a.toNat b.toNat ∧ (saluFn 12 a b).toNat = max a.toNat b.toNat

/-- FP32 lane operations and reductions of the VPU (Table 7-1, R138, R144) in a running tile whose guard enables a lane: each
enabled lane of Vd takes the function of the same lanes of the sources four beats later; a reduction reads all 64 lanes and
leaves its value in lane 0 and zero elsewhere eight beats later. In a replayable region the monitors count NaN results (R154). -/
def Obligations.VectorFloatComplete : Prop :=
  ∀ (s : State) (g : Fin 800) (gd : Guard) (r : VR), tileRuns s.dev g.val = true →
    guardAny (tile s.dev g.val).core gd = true →
    let c := (tile s.dev g.val).core
    let a := rdV c r.va.val
    let b := rdV c r.vb.val
    let m := guardMask c gd.pg.val gd.pn
    (∀ p ∈ [(Instr.vpuAdd, fadd), (Instr.vpuSub, fsub), (Instr.vpuMul, fmul), (Instr.vpuMin, fmin), (Instr.vpuMax, fmax)],
      let out := vec (fun k => p.2 (lane a k) (lane b k))
      exec (p.1 g gd r) s = .next { s with
        dev := result (monitorNan s.dev g.val (enabled m out)) g.val 4 (.v r.vd.val m out) })
    ∧ (∀ p ∈ [(Instr.fma, ffma), (Instr.fms, ffms)],
      let out := vec (fun k => p.2 (lane a k) (lane b k) (lane (rdV c r.vc.val) k))
      exec (p.1 g gd r) s = .next { s with
        dev := result (monitorNan s.dev g.val (enabled m out)) g.val 4 (.v r.vd.val m out) })
    ∧ (∀ p ∈ [(Instr.abs, fabs), (Instr.neg, fneg)],
      let out := vec (fun k => p.2 (lane a k))
      exec (p.1 g gd r) s = .next { s with
        dev := result (monitorNan s.dev g.val (enabled m out)) g.val 4 (.v r.vd.val m out) })
    ∧ (∀ p ∈ [(Instr.rsum, fadd), (Instr.rmax, fmax), (Instr.rmin, fmin)],
      let out := inLane0 (reduce64 p.2 a)
      exec (p.1 g gd r) s = .next { s with
        dev := result (monitorNan s.dev g.val (enabled m out)) g.val 8 (.v r.vd.val m out) })

/-- INT32 and move operations and CMP of the VPU (R142, R143, Table 7-2), as above; the monitors see none of them. CMP writes the
predicate named by the low four bits of Vd, P0 never; SEL writes all 64 lanes whatever its guard, taking Va where the guard is 1.

CVI, CVO and the statistics of the VPU (R129, R130, R134, R149, R150, R153, R168). The three or four registers that a statistic
writes are consecutive from Vd and readable eight beats later. A NaN that CVI widens is the canonical one (R133). A register past V31, which
WMRG may name, reads free lanes (notes/assumptions/13.md). -/
def Obligations.VectorIntegerComplete : Prop :=
  (∀ (s : State) (g : Fin 800) (gd : Guard) (r : VR), tileRuns s.dev g.val = true →
    let c := (tile s.dev g.val).core
    let a := rdV c r.va.val
    let b := rdV c r.vb.val
    let m := guardMask c gd.pg.val gd.pn
    exec (.sel g gd r) s = .next { s with
        dev := result s.dev g.val 4 (.v r.vd.val (BitVec.allOnes 64) (maskLanes m b a)) }
    ∧ (guardAny c gd = true →
    (∀ p ∈ [(Instr.vpuIntAdd, iadd r.wrap), (Instr.vpuIntSub, isub r.wrap), (Instr.vpuIntMul, imul r.wrap),
        (Instr.vpuAnd, fun x y => x &&& y), (Instr.vpuOr, fun x y => x ||| y), (Instr.vpuXor, fun x y => x ^^^ y),
        (Instr.vpuShl, ishl), (Instr.vpuShr, ishr), (Instr.vpuSra, isra), (Instr.vpuIntMin, imin), (Instr.vpuIntMax, imax)],
      exec (p.1 g gd r) s = .next { s with
        dev := result s.dev g.val 4 (.v r.vd.val m (vec (fun k => p.2 (lane a k) (lane b k)))) })
    ∧ exec (.mov g gd r) s = .next { s with dev := result s.dev g.val 4 (.v r.vd.val m (vec (fun k => lane a k))) }
    ∧ exec (.bcast g gd r) s = .next { s with
        dev := result s.dev g.val 4 (.v r.vd.val m (vec (fun _ => lane a ((lane b 0).toNat % 64)))) }
    ∧ exec (.perm g gd r) s = .next { s with
        dev := result s.dev g.val 4 (.v r.vd.val m (vec (fun k => lane a ((lane b k).toNat % 64)))) }
    ∧ exec (.slide g gd r) s = .next { s with
        dev := result s.dev g.val 4 (.v r.vd.val m (vec (fun k =>
          let n := (lane (rdV c r.vc.val) 0).toNat % 64
          if k + n < 64 then lane a (k + n) else lane b (k + n - 64)))) }
    ∧ (wfCmp r = true → exec (.cmp g gd r) s = .next (
        if r.vd.val % 16 = 0 then s else { s with
          dev := result s.dev g.val 4 (.p (r.vd.val % 16) m (BitVec.ofNat 64
            ((List.range 64).map (fun k => if fcond r.fmt.val (lane a k) (lane b k) then 2 ^ k else 0)).sum)) }))))
  ∧ (∀ (s : State) (g : Fin 800) (gd : Guard) (r : VR), tileRuns s.dev g.val = true →
    guardAny (tile s.dev g.val).core gd = true →
    let c := (tile s.dev g.val).core
    let v := fun i => rdV c i
    let m := guardMask c gd.pg.val gd.pn
    let wel3 := fun (f : Nat → WState) => [(List.range 64).map (fun k => (f k).n), (List.range 64).map (fun k => (f k).mu),
      (List.range 64).map (fun k => (f k).m)]
    let old := fun k => (⟨lane (v r.vd.val) k, lane (v (r.vd.val + 1)) k, lane (v (r.vd.val + 2)) k⟩ : WState)
    (wfFmtV r.fmt = true →
      let out := vec (fun k => canon (widen r.fmt.val (fld (lane (v r.va.val) k).toNat 0 (fmtBits r.fmt.val))))
      exec (.cvi g gd r) s = .next { s with
        dev := result (monitorNan s.dev g.val (enabled m out)) g.val 4 (.v r.vd.val m out) })
    ∧ (wfCvo r = true → fmtBlock r.fmt.val = 0 → exec (.cvo g gd r) s = .next { s with dev := cvoLanesRun s.dev g.val gd r })
    ∧ (wfCvo r = true → fmtBlock r.fmt.val ≠ 0 → guardOn c gd = true →
        exec (.cvo g gd r) s = .next { s with dev := cvoBlockRun s.dev g.val r })
    ∧ (wfWel r = true → exec (.wel g gd r) s = .next { s with
        dev := statWrite s.dev g.val gd r.vd.val (wel3 (fun k => welLane (old k) (lane (v r.va.val) k))) })
    ∧ (wfWmrg r = true → exec (.wmrg g gd r) s = .next { s with
        dev := statWrite s.dev g.val gd r.vd.val (wel3 (fun k => wmrgLane (old k)
          ⟨lane (v r.va.val) k, lane (rdVx s.dev g.val (r.va.val + 1)) k, lane (rdVx s.dev g.val (r.va.val + 2)) k⟩)) })
    ∧ (wfSmxu r = true →
        let o := fun k => smxuLane (lane (v r.vd.val) k) (lane (v (r.vd.val + 1)) k) (lane (v r.va.val) k) (lane (v r.vb.val) k)
        exec (.smxu g gd r) s = .next { s with
          dev := statWrite s.dev g.val gd r.vd.val [(List.range 64).map (fun k => (o k).1), (List.range 64).map (fun k => (o k).2.1),
           (List.range 64).map (fun k => (o k).2.2.1), (List.range 64).map (fun k => (o k).2.2.2)] })
    ∧ (wfSkmrg r = true → exec (.skmrg g gd r) s = .next { s with
        dev := statWrite s.dev g.val gd r.vd.val [vec (fun k => skmrgLane (lane (v r.vd.val) k) (lane (v r.va.val) k)
          (lane (v r.vb.val) k) (lane (v r.vc.val) k))] }))

/-- VLD and VST (R79, R100, R124, R129, Table 5-2) in a running tile, with no mapping fault: VLD reads its span through the static
port and Vd takes the widened elements in enabled lanes three beats later; VST writes its span now, the bits of disabled lanes as
they were, FMT 0 lanes unchanged, the others narrowed under the tag's latch and counted. REL of a VLD releases a landing buffer (R80); a VST
reads none and releases none. -/
def Obligations.VectorMemoryComplete : Prop :=
  ∀ (s : State) (g : Fin 800) (gd : Guard) (m : VM), tileRuns s.dev g.val = true →
    guardAny (tile s.dev g.val).core gd = true → wfVM m = true →
    let c := (tile s.dev g.val).core
    let a := t0Addr c m.aa.val m.off.toNat
    let f := m.fmt.val
    let mask := guardMask c gd.pg.val gd.pn
    portFault c 0 a (roundUp (vmBytes f) 64) = none →
    (readFault c a (vmBytes f) = none →
      let out := vec (fun k => widen f (elemAt (t0Read (tile s.dev g.val) a (vmBytes f)) (fmtBits f) k))
      let d := updCore s.dev g.val (fun c => usePort c 0 a)
      exec (.vld g gd m) s = .next { s with
        dev := releaseAt (result (if f = 0 then d else monitorNan d g.val (enabled mask out)) g.val 3
          (.v m.vt.val mask out)) g.val m.rel a })
    ∧ (f = 0 → writeFault (tile s.dev g.val) a 256 = none →
      exec (.vst g gd m) s = .next { s with
        dev := updTile (updCore s.dev g.val (fun c => usePort c 0 a)) g.val (fun t =>
          t0Write t (inSpec s.dev g.val) a (mergeElems 32 mask (t0Read t a 256)
            ((List.range 64).map (fun k => (lane (rdV c m.vt.val) k).toNat)))) })
    ∧ (f ≠ 0 → writeFault (tile s.dev g.val) a (vmBytes f) = none →
      let v := rdV c m.vt.val
      let on := (List.range 64).filter (fun k => mask.toNat.testBit k)
      let rb := roundBeat s.dev g.val
      let cs := (List.range 64).map (fun k =>
        convert f (rb.1 (512 + k)) m.sat (latchOf s.dev g.val m.tag.val) (dec32 (lane v k)))
      let d := monitorConv rb.2 g.val m.tag.val (on.map (lane v)) (on.map (fun k => cs.getD k ⟨0, false, false, false⟩))
      exec (.vst g gd m) s = .next { s with
        dev := staticWrite d g.val 2 a (vmBytes f) (fun t =>
          t0Write t (inSpec s.dev g.val) a (mergeElems (fmtBits f) mask (t0Read t a (vmBytes f)) (cs.map (fun x => x.code)))) })

/-- The SFU slot (R87, R145 to R148) in a running tile. EVAL of a loaded slot that is 64 beats old writes the 16 lanes of its
quarter that the guard enables, eight beats later, and one at its wait or never loaded is a mapping fault that writes nothing (R87); TSEL selects a
built-in set; TLD of an acceptable payload whose accesses do not fault reserves its nine accesses, and one whose header is not accepted is a
mapping fault.

The MXU slot (R104 to R109) in a running tile, with no mapping fault in its beat: LDW plans its accesses, one a beat, those that fault in theirs
marked, and its load takes the inactive buffer at the end of the beat; MAC multiplies the rows that its formats give into the bank; DRN converts
the drained rows and writes them in the eighth beat; ZAC zeroes the bank. Rows of a bank count modulo 64 (notes/assumptions/56.md). -/
def Obligations.MatrixAndSfuComplete : Prop :=
  (∀ (s : State) (g : Fin 800) (gd : Guard), tileRuns s.dev g.val = true →
    let c := (tile s.dev g.val).core
    (∀ ts vd va q, guardAny c gd = true → (sfuSlot c ts.val).loaded = true → (sfuSlot c ts.val).wait = 0 →
      let sl := sfuSlot c ts.val
      let sel : Word64 := guardMask c gd.pg.val gd.pn &&& BitVec.ofNat 64 (0xFFFF * 2 ^ (16 * q.val))
      let out := vec (fun k => if sel.getLsbD k
        then evalSlotLane sl (parseTable sl.payload) (lane (rdV c va.val) k) (Config.evalFree sl.payload (lane (rdV c va.val) k)) else 0)
      exec (.evalTs g gd ts vd va q) s = .next (if sel = 0 then s else { s with
        dev := result (monitorNan s.dev g.val (enabled sel out)) g.val 8 (.v vd.val sel out) }))
    ∧ (∀ ts vd va q, guardAny c gd = true → (sfuSlot c ts.val).loaded = false ∨ (sfuSlot c ts.val).wait ≠ 0 →
      exec (.evalTs g gd ts vd va q) s = .next { s with dev := mapFault s.dev g.val 3 mfSfuTable ts.val 0 })
    ∧ (∀ ts set, guardOn c gd = true → ∃ t, exec (.tsel g gd ts set) s = .next t ∧ t.pending = s.pending
      ∧ sfuSlot (tile t.dev g.val).core ts.val = ⟨true, true, set.val, [], 64, []⟩
      ∧ t.dev = setTile s.dev g.val (tile t.dev g.val))
    ∧ (∀ ts aa off, guardOn c gd = true →
      let a := t0Addr c aa.val off.toNat
      a / 2 ^ 17 = (a + 4159) / 2 ^ 17 →
      (∀ i, i < 9 → portFault c i (a + 512 * i) (if i = 8 then 64 else 512) = none) →
      tableOk (t0Read (tile s.dev g.val) a 4160) = true → ∃ t, exec (.tld g gd ts aa off) s = .next t
      ∧ t.pending = s.pending ∧ t.dev = setTile s.dev g.val (tile t.dev g.val)
      ∧ sfuSlot (tile t.dev g.val).core ts.val
          = ⟨true, false, 0, [], 64, (List.range 9).map (fun i => (a + 512 * i, if i = 8 then 64 else 512, false))⟩
      ∧ (tile t.dev g.val).core.ports = c.ports ++ (List.range 9).map (fun i => (i, bankOf (a + 512 * i))))
    ∧ (∀ ts aa off, guardOn c gd = true →
      let a := t0Addr c aa.val off.toNat
      a / 2 ^ 17 = (a + 4159) / 2 ^ 17 → a + 4160 ≤ 2 ^ 21 → tableOk (t0Read (tile s.dev g.val) a 4160) = false →
      exec (.tld g gd ts aa off) s = .next { s with dev := mapFault s.dev g.val 3 mfSfuTable ts.val a }))
  ∧ (∀ (s : State) (g : Fin 800) (gd : Guard), tileRuns s.dev g.val = true → guardOn (tile s.dev g.val).core gd = true →
    mxuBlocked (tile s.dev g.val).core = false →
    let c := (tile s.dev g.val).core
    (∀ fmtw sp aa off sc rel, wfFmtw fmtw = true →
      let base := t0Addr c aa.val off.toNat
      let plan := ldwPlan fmtw.val sp base (t0Addr c sc.val 0)
      let q := planPorts 1 c 0 plan
      let d := updCore s.dev g.val (fun _ => { q.1 with wNew := some ⟨fmtw.val, sp, [], [], [], 0, q.2⟩ })
      c.wNew = none → ¬ (sp = true ∧ (fmtw = 1 ∨ fmtw = 2)) →
      exec (.ldw g gd fmtw sp aa off sc rel) s = .next { s with
        dev := if portFault c 0 base 512 = none then releaseAt d g.val rel base else d })
    ∧ (∀ (fmta : Fin 16) (acc : Fin 4) accum ref aa off rel (w : WBuf) (r : Nat), wfFmta fmta = true →
      macAccFault c acc.val accum = none → (macActivate c acc.val).wAct = some w → pairRows fmta.val w.fmt = some r →
      let a := t0Addr c aa.val off.toNat
      let n := r * (if w.sp then 128 else 64) * fmtBits fmta.val / 8
      portFault c 0 a (roundUp n 64) = none → readFault c a n = none →
      exec (.mac g gd fmta acc accum ref aa off rel) s = .next { s with
        dev := releaseAt (macApply (updCore (updCore s.dev g.val (fun c => usePort c 0 a)) g.val (fun c =>
          macActivate c acc.val)) g.val w fmta.val acc.val r accum ref (t0Read (tile s.dev g.val) a n)) g.val rel a })
    ∧ (∀ (acc : Fin 4) (fmto : Fin 16) sat tag aa off (n : Nat), wfFmto fmto = true → wfTag tag = true →
      let a := t0Addr c aa.val off.toNat
      drnRows fmto.val = some n → mget c.rp acc.val 0 = 0 → mget c.undrained acc.val false = true →
      let dp := mget c.dp acc.val 0
      let xs := ((List.range n).map (fun i => mget c.accVis (acc.val * 64 + (dp + i) % 64) zeroVec)).flatten
      let rb := roundBeat s.dev g.val
      let cs := (List.range xs.length).map (fun k =>
        convert fmto.val (rb.1 k) sat (latchOf s.dev g.val tag.val) (dec32 (xs.getD k 0)))
      let data := (packLanes (fmtBits fmto.val) (cs.map (fun x => x.code))).map some
      exec (.drn g gd acc fmto sat tag aa off) s = .next { s with
        dev := updCore (monitorConv rb.2 g.val tag.val xs cs) g.val (fun c =>
          let e := match portFault c 7 a 512 with
            | some f => { c with pend := c.pend ++ [(⟨8, .fault 1 f.1 f.2 a⟩ : PendRes)] }
            | none => { c with ports := c.ports ++ [(7, bankOf a)], pend := c.pend ++ [(⟨8, .t0 1 a data (inSpec s.dev g.val)⟩ : PendRes)] }
          { e with dp := mset c.dp acc.val ((dp + n) % 64)
                   undrained := if 64 ≤ dp + n then mset c.undrained acc.val false else c.undrained }) })
    ∧ (∀ acc : Fin 4, ∃ t, exec (.zac g gd acc) s = .next t ∧ t.pending = s.pending
      ∧ t.dev = setTile s.dev g.val (tile t.dev g.val)
      ∧ (∀ row, row < 64 → mget (tile t.dev g.val).core.acc (acc.val * 64 + row) zeroVec = zeroVec)
      ∧ mget (tile t.dev g.val).core.rp acc.val 0 = 0 ∧ mget (tile t.dev g.val).core.dp acc.val 0 = 0
      ∧ mget (tile t.dev g.val).core.undrained acc.val false = false
      ∧ (tile t.dev g.val).core.pend = c.pend ++ [⟨4, .accZero acc.val⟩]))

/-- Reads and moves of the LSU slot (R79, R80, R88, R101, R188, R189, R205, R206, R239) in a running tile. RD of a size above 0 whose destination
keeps to T0's window reads its object into a landing buffer, and otherwise is a mapping fault, or ends the job RANGE for a size of 0; the NRW gather
reads its object so; CPY moves T0 bytes through the fill port and releases the buffer its slot names; GTH and CMPT read a window now, if that read
does not fault, and write four beats later, when a fault of the write is raised.

Operations that leave the tile (R52, R58, R88, R89, R102): WR, ATM, the NRW scatter and ENG of the LSU, SND, RWS, COL and RED of
the NET, in a running tile with room in the pending-source table and a source that faults nothing. Each takes the bytes of its source now, an
entry of the table, and its place among the operations that leave the tile at the end of the beat. -/
def Obligations.MemorySlotsComplete : Prop :=
  (∀ (s : State) (g : Fin 800) (gd : Guard), tileRuns s.dev g.val = true → guardOn (tile s.dev g.val).core gd = true →
    let c := (tile s.dev g.val).core
    let si := scopeOf s.dev g.val
    let x := scope s.dev si
    (∀ (aa ab : Fin 16) (lb sn : Fin 64) (blk : Bool),
      let w := (rdS c sn.val).toNat
      let n := if blk then 512 * blkBits w else w
      let dst := t0Addr c ab.val 0
      let h := rebase s.dev si (objHandle c aa.val)
      exec (.rd g gd aa ab lb sn blk) s = .next { s with
        dev :=
          if 2 ^ 21 < dst + n then mapFault s.dev g.val 4 mfAddrWindow (bankOf dst) dst
          else if blk = false ∧ w = 0 then endTier s.dev si 4 h
          else scopeRead s.dev si x.pos g.val lb.val (some dst) h (objOff c aa.val) n (if blk then some w else none) })
    ∧ (∀ (aa ab : Fin 16) (vi : Fin 32) (lb : Fin 64), exec (.nrw g gd aa ab vi false lb) s = .next { s with
        dev := scopeGather s.dev si x.pos g.val lb.val (rebase s.dev si (objHandle c aa.val)) (objOff c aa.val)
          (laneIdx c vi.val) })
    ∧ (∀ (aa ab : Fin 16) (sn : Fin 64) (rel : Bool) (lb : Fin 64),
        let src := t0Addr c ab.val 0
        let dst := t0Addr c aa.val 0
        let n := (rdS c sn.val).toNat
        sourceFault c src n = none →
        exec (.cpy g gd aa ab sn rel lb) s = .next { s with
          dev :=
            if 2 ^ 21 < dst + n then mapFault s.dev g.val 4 mfAddrWindow (bankOf dst) dst
            else
              let d := addXfer s.dev si g.val lb.val x.gen (some dst) (t0Read (tile s.dev g.val) src n) [] x.pos
              if rel then release d g.val lb.val else d })
    ∧ (∀ (aa ab : Fin 16) (vi : Fin 32) (sn : Fin 64),
        let src := t0Addr c ab.val 0
        let dst := t0Addr c aa.val 0
        let w := (rdS c sn.val).toNat
        portFault c 0 src 512 = none → readFault c src 512 = none →
        exec (.gth g gd aa ab vi sn) s = .next { s with
          dev := updCore (updCore s.dev g.val (fun c => usePort c 0 src)) g.val (fun c => lateWrite 4 4 dst 512
            (gthWrite (t0Read (tile s.dev g.val) src 512) (rdV c vi.val) (min (w % 128) 64) (2 ^ (w / 256 % 4)))
            (inSpec s.dev g.val) c) })
    ∧ (∀ (aa ab : Fin 16) (vi : Fin 32) (sn : Fin 64),
        let src := t0Addr c ab.val 0
        let w := (rdS c sn.val).toNat
        let cur := w / 2 ^ 16 % 16
        let old := if w.testBit 31 then (0, 0) else mget c.cur cur (0, 0)
        let b := min (w % 2 ^ 16) 32768
        let kept := (List.range 64).filter (fun k => lane (rdV c vi.val) k != 0)
        let n := kept.length
        let lo := 4 * old.1 / 64 * 64
        let span := roundUp (4 * old.1 + 256) 64 - lo
        let a := t0Addr c aa.val 0 + lo
        portFault c 0 src 256 = none → readFault c src 256 = none →
        ∃ (t : State) (data : List (Option Byte)), exec (.cmpt g gd aa ab vi sn) s = .next t ∧ t.pending = s.pending
          ∧ t.dev = setTile s.dev g.val (tile t.dev g.val)
          ∧ mget (tile t.dev g.val).core.cur cur (0, 0) = (min b (old.1 + n), satAdd 32 old.2 (old.1 + n - b))
          ∧ (∀ k, k ≠ cur → mget (tile t.dev g.val).core.cur k (0, 0) = mget c.cur k (0, 0))
          ∧ (tile t.dev g.val).core.cmptDrop = satAdd 32 c.cmptDrop (old.1 + n - b)
          ∧ data.length = span
          ∧ (∀ i j, i < n → old.1 + i < b → j < 4 → data.getD (4 * (old.1 + i) - lo + j) none
              = some (byteAt (t0Read (tile s.dev g.val) src 256) (4 * kept.getD i 0 + j)))
          ∧ (∀ p, (∀ i j, i < n → old.1 + i < b → j < 4 → p ≠ 4 * (old.1 + i) - lo + j) → data.getD p none = none)
          ∧ (tile t.dev g.val).core.pend = c.pend ++ [match portFault (usePort c 0 src) 4 a span with
              | some f => (⟨5, .fault 4 f.1 f.2 a⟩ : PendRes)
              | none => ⟨5, .t0 4 a data (inSpec s.dev g.val)⟩]))
  ∧ (∀ (s : State) (g : Fin 800) (gd : Guard), tileRuns s.dev g.val = true → guardOn (tile s.dev g.val).core gd = true →
    let t := tile s.dev g.val
    let c := t.core
    t.psrc.length < 64 →
    (∀ aa ab sn blk,
      let w := (rdS c sn.val).toNat
      let n := if blk then 512 * blkBits w else w
      sourceFault c (t0Addr c ab.val 0) n = none →
      Leaves s g.val (.wr g gd aa ab sn blk) (t0Addr c ab.val 0) n false
      (fun bs => .wr (objHandle c aa.val) (objOff c aa.val) bs (if blk then some w else none)))
    ∧ (∀ aa ab vi afmt, sourceFault c (t0Addr c ab.val 0) (64 * atmBytes afmt.val) = none →
      Leaves s g.val (.atm g gd aa ab vi afmt) (t0Addr c ab.val 0) (64 * atmBytes afmt.val) false
      (fun bs => .atm (objHandle c aa.val) (objOff c aa.val) (laneIdx c vi.val) (pieces (atmBytes afmt.val) bs) afmt.val))
    ∧ (∀ aa ab vi lb, sourceFault c (t0Addr c ab.val 0) 2048 = none →
      Leaves s g.val (.nrw g gd aa ab vi true lb) (t0Addr c ab.val 0) 2048 false
      (fun bs => .nrw (objHandle c aa.val) (objOff c aa.val) (laneIdx c vi.val) (pieces 32 bs)))
    ∧ (∀ aa kind index lb, wfEng kind = true → sourceFault c (t0Addr c aa.val 0) 64 = none →
      Leaves s g.val (.eng g gd aa kind index lb) (t0Addr c aa.val 0) 64 false
      (fun bs => .eng kind.val index.val lb.val bs))
    ∧ (∀ (dst : Fin 1024) via aa lb sn, sourceFault c (t0Addr c aa.val 0) (rdS c sn.val).toNat = none →
      Leaves s g.val (.snd g gd dst via aa lb sn) (t0Addr c aa.val 0) (rdS c sn.val).toNat true
        (fun bs => .snd dst.val lb.val (flag via) bs))
    ∧ (∀ aa ab sn sd vc sb, wfRws vc = true → sourceFault c (t0Addr c aa.val 0) (rdS c sn.val).toNat = none →
      Leaves s g.val (.rws g gd aa ab sn sd vc sb) (t0Addr c aa.val 0) (rdS c sn.val).toNat false
      (fun bs => .rws ((rdS c sd.val).toNat % 2 ^ 18) (objHandle c ab.val) (objOff c ab.val) bs vc.val
        ((rdS c sb.val).toNat % 2 ^ 20)))
    ∧ (∀ aa sn kind fmt group lb, wfCol kind fmt = true →
      sourceFault c (t0Addr c aa.val 0) (rdS c sn.val).toNat = none →
      Leaves s g.val (.col g gd aa sn kind fmt group lb) (t0Addr c aa.val 0) (rdS c sn.val).toNat false
        (fun bs => .col kind.val fmt.val group.val lb.val bs))
    ∧ (∀ aa sn fmt lb (root : Fin 1024), wfFmto fmt = true →
      sourceFault c (t0Addr c aa.val 0) (rdS c sn.val).toNat = none →
      Leaves s g.val (.red g gd aa sn fmt lb root) (t0Addr c aa.val 0) (rdS c sn.val).toNat true
        (fun bs => .red fmt.val lb.val root.val bs)))

/-- Mapping faults of outbound slots (R102, R112): a source whose span leaves the window of T0 or holds an ARMED buffer, and a 65th pending source,
suppress the operation, whatever else the slot names.

What becomes of an operation at the end of its beat (R52, R58, R112): in a tile with no mapping fault one that is not held acts; a held send
between tiles waits in the egress and any other held operation in the hold queue; in a tile stopped by a mapping fault none leaves, and its entry
of the pending-source table is free. -/
def Obligations.OutboundFaultsAndReleases : Prop :=
  (∀ (s : State) (g : Fin 800) (gd : Guard), tileRuns s.dev g.val = true → guardOn (tile s.dev g.val).core gd = true →
    let t := tile s.dev g.val
    let c := t.core
    let bad := fun slot a n (u : State) => (∀ f, sourceFault c a n = some f → u = { s with dev := mapFault s.dev g.val slot f.1 f.2 a })
      ∧ (sourceFault c a n = none → 64 ≤ t.psrc.length → u = { s with dev := mapFault s.dev g.val slot mfPendingFull 0 a })
    (∀ aa ab sn, ∃ u, exec (.wr g gd aa ab sn false) s = .next u ∧ bad 4 (t0Addr c ab.val 0) (rdS c sn.val).toNat u)
    ∧ (∀ aa ab vi afmt, ∃ u, exec (.atm g gd aa ab vi afmt) s = .next u ∧ bad 4 (t0Addr c ab.val 0) (64 * atmBytes afmt.val) u)
    ∧ (∀ aa ab vi lb, ∃ u, exec (.nrw g gd aa ab vi true lb) s = .next u ∧ bad 4 (t0Addr c ab.val 0) 2048 u)
    ∧ (∀ aa kind index lb, wfEng kind = true → ∃ u, exec (.eng g gd aa kind index lb) s = .next u ∧ bad 4 (t0Addr c aa.val 0) 64 u)
    ∧ (∀ dst via aa lb sn, ∃ u, exec (.snd g gd dst via aa lb sn) s = .next u ∧ bad 5 (t0Addr c aa.val 0) (rdS c sn.val).toNat u)
    ∧ (∀ aa ab sn sd vc sb, wfRws vc = true → ∃ u, exec (.rws g gd aa ab sn sd vc sb) s = .next u
        ∧ bad 5 (t0Addr c aa.val 0) (rdS c sn.val).toNat u)
    ∧ (∀ aa sn kind fmt group lb, wfCol kind fmt = true → ∃ u, exec (.col g gd aa sn kind fmt group lb) s = .next u
        ∧ bad 5 (t0Addr c aa.val 0) (rdS c sn.val).toNat u)
    ∧ (∀ aa sn fmt lb root, wfFmto fmt = true → ∃ u, exec (.red g gd aa sn fmt lb root) s = .next u
        ∧ bad 5 (t0Addr c aa.val 0) (rdS c sn.val).toNat u))
  ∧ (∀ (d : Dev) (g : Nat) (o : Held), (tile d g).issued = [o] →
    let t := tile d g
    let e := setTile d g { t with issued := [] }
    (t.stopIssue = false → o.held = false → issueBeat d g = performOut e g o)
    ∧ (t.stopIssue = false → o.held = true → isSend o.op = true →
        issueBeat d g = setTile d g { t with issued := [], egress := t.egress ++ [o] })
    ∧ (t.stopIssue = false → o.held = true → isSend o.op = false →
        issueBeat d g = setTile d g { t with issued := [], hold := t.hold ++ [o] })
    ∧ (t.stopIssue = true →
        issueBeat d g = setTile d g { t with issued := [], psrc := t.psrc.filter (fun p => p.id != o.src) }))

/-- In the east half scope of a half image, an ENG command with KIND 1 and index i goes to VCE((i + 8) mod 16); in every other scope,
index i names VCEi (R269): that engine takes the command at the end of those that wait, of which its queue holds the first 32 and the tiles the
rest (R270); no other engine changes. -/
def Obligations.CodecEngineIndex : Prop :=
  ∀ (d : Dev) (g : Nat) (o : Held) (i : Fin 16) (lb : Nat) (cmd : List Byte), o.op = .eng 1 i.val lb cmd →
    let x := scope d (scopeOf d g)
    let n := if x.kind = .east then (i.val + 8) % 16 else i.val
    let e := performOut d g o
    let v := mget d.vce n Vce.reset
    (∃ q : EngCmd, q.bytes = cmd ∧ q.tile = g ∧ q.lb = lb ∧ q.slot = x.slot
        ∧ mget e.vce n Vce.reset = { v with
            queue := (v.queue ++ (v.wait ++ [q])).take (max 32 v.queue.length), wait := (v.queue ++ (v.wait ++ [q])).drop (max 32 v.queue.length) })
    ∧ (∀ k, k ≠ n → mget e.vce k Vce.reset = mget d.vce k Vce.reset)
    ∧ { e with vce := d.vce } = d

/-- A slot whose guard is off, and any slot of a tile that does not run, changes nothing (R78): in every family of slots. A CTL slot and SEL
execute whatever a guard says. -/
def Obligations.DisabledSlotsChangeNothing : Prop :=
  ∀ (s : State) (g : Fin 800) (gd : Guard),
    (tileRuns s.dev g.val = false ∨ guardAny (tile s.dev g.val).core gd = false →
      ∀ (r : VR) (m : VM), (∀ i ∈ [Instr.vpuAdd, Instr.vpuSub, Instr.vpuMul, Instr.fma, Instr.fms, Instr.vpuMin, Instr.vpuMax,
          Instr.abs, Instr.neg, Instr.cmp, Instr.vpuIntAdd, Instr.vpuIntSub, Instr.vpuIntMul, Instr.vpuAnd, Instr.vpuOr,
          Instr.vpuXor, Instr.vpuShl, Instr.vpuShr, Instr.vpuSra, Instr.vpuIntMin, Instr.vpuIntMax, Instr.cvi, Instr.cvo, Instr.mov,
          Instr.bcast, Instr.perm, Instr.slide, Instr.rsum, Instr.rmax, Instr.rmin, Instr.wel, Instr.wmrg,
          Instr.smxu, Instr.skmrg],
          wfInstr (i g gd r) = true → exec (i g gd r) s = .next s)
        ∧ (wfVM m = true → exec (.vld g gd m) s = .next s ∧ exec (.vst g gd m) s = .next s)
        ∧ ∀ ts vd va q, exec (.evalTs g gd ts vd va q) s = .next s)
    ∧ (tileRuns s.dev g.val = false ∨ guardOn (tile s.dev g.val).core gd = false →
      (∀ fmtw sp aa off sc rel, wfFmtw fmtw = true → exec (.ldw g gd fmtw sp aa off sc rel) s = .next s)
      ∧ (∀ fmta acc accum ref aa off rel, wfFmta fmta = true → exec (.mac g gd fmta acc accum ref aa off rel) s = .next s)
      ∧ (∀ acc fmto sat tag aa off, wfFmto fmto = true → wfTag tag = true →
          exec (.drn g gd acc fmto sat tag aa off) s = .next s)
      ∧ (∀ acc, exec (.zac g gd acc) s = .next s)
      ∧ (∀ ts aa off, exec (.tld g gd ts aa off) s = .next s) ∧ (∀ ts set, exec (.tsel g gd ts set) s = .next s)
      ∧ (∀ aa ab lb sn blk, exec (.rd g gd aa ab lb sn blk) s = .next s)
      ∧ (∀ aa ab sn blk, exec (.wr g gd aa ab sn blk) s = .next s)
      ∧ (∀ aa ab sn rel lb, exec (.cpy g gd aa ab sn rel lb) s = .next s)
      ∧ (∀ aa ab vi afmt, exec (.atm g gd aa ab vi afmt) s = .next s)
      ∧ (∀ aa ab vi dir lb, exec (.nrw g gd aa ab vi dir lb) s = .next s)
      ∧ (∀ aa ab vi sn, exec (.gth g gd aa ab vi sn) s = .next s ∧ exec (.cmpt g gd aa ab vi sn) s = .next s)
      ∧ (∀ aa kind index lb, wfEng kind = true → exec (.eng g gd aa kind index lb) s = .next s)
      ∧ (∀ dst via aa lb sn, exec (.snd g gd dst via aa lb sn) s = .next s)
      ∧ (∀ aa ab sn sd vc sb, wfRws vc = true → exec (.rws g gd aa ab sn sd vc sb) s = .next s)
      ∧ (∀ aa sn kind fmt group lb, wfCol kind fmt = true → exec (.col g gd aa sn kind fmt group lb) s = .next s)
      ∧ (∀ aa sn fmt lb root, wfFmto fmt = true → exec (.red g gd aa sn fmt lb root) s = .next s))
    ∧ (tileRuns s.dev g.val = false → ∀ i : Instr, wfInstr i = true →
        ((∃ r, i = .sel g gd r) ∨ (∃ n la lb lc ld, i = .check g n la lb lc ld) ∨ (∃ lb src sa sb, i = .arm g lb src sa sb)
          ∨ (∃ p k, i = .psend g p k) ∨ (∃ pd cond sa sb, i = .pset g pd cond sa sb) ∨ (∃ pd pa pb fn, i = .plog g pd pa pb fn)
          ∨ (∃ fn sd sa sb, i = .salu g fn sd sa sb) ∨ (∃ sd hi imm, i = .sli g sd hi imm)
          ∨ (∃ ad fn sa imm, i = .amov g ad fn sa imm) ∨ (∃ csr sa, i = .csrw g csr sa)) → exec i s = .next s)

/-- FRAME of the slots that stay in their tile (R37, R78, R112): whatever its operands, guard and faults, a CTL, MXU, VPU, SFU, GTH or
CMPT slot of tile g leaves every other tile, every control register, object memory, the backup domain, the NVM, ownership, the
scheduler, the ports, the links, the clocks, the pins and everything sent out as they were; only its tile, the two scopes (reports, predicates, a
mapping fault) and the model's counter of free values may change. -/
def Obligations.SlotsChangeOnlyTheirTile : Prop :=
  ∀ (s t : State) (g : Fin 800) (gd : Guard) (r : VR) (m : VM) (i : Instr),
    (i ∈ [Instr.nop g, .vpuAdd g gd r, .vpuSub g gd r, .vpuMul g gd r, .fma g gd r, .fms g gd r, .vpuMin g gd r, .vpuMax g gd r,
        .abs g gd r, .neg g gd r, .cmp g gd r, .vpuIntAdd g gd r, .vpuIntSub g gd r, .vpuIntMul g gd r, .vpuAnd g gd r,
        .vpuOr g gd r, .vpuXor g gd r, .vpuShl g gd r, .vpuShr g gd r, .vpuSra g gd r, .vpuIntMin g gd r, .vpuIntMax g gd r,
        .cvi g gd r, .cvo g gd r, .mov g gd r, .bcast g gd r, .sel g gd r, .perm g gd r, .slide g gd r, .rsum g gd r,
        .rmax g gd r, .rmin g gd r, .wel g gd r, .wmrg g gd r, .smxu g gd r, .skmrg g gd r, .vld g gd m, .vst g gd m]
      ∨ (∃ n la lb lc ld, i = .check g n la lb lc ld) ∨ (∃ lb src sa sb, i = .arm g lb src sa sb) ∨ (∃ p k, i = .psend g p k)
      ∨ (∃ pd cond sa sb, i = .pset g pd cond sa sb) ∨ (∃ pd pa pb fn, i = .plog g pd pa pb fn)
      ∨ (∃ fn sd sa sb, i = .salu g fn sd sa sb) ∨ (∃ sd hi imm, i = .sli g sd hi imm)
      ∨ (∃ ad fn sa imm, i = .amov g ad fn sa imm) ∨ (∃ csr sa, i = .csrw g csr sa)
      ∨ (∃ fmtw sp aa off sc rel, i = .ldw g gd fmtw sp aa off sc rel)
      ∨ (∃ fmta acc accum ref aa off rel, i = .mac g gd fmta acc accum ref aa off rel)
      ∨ (∃ acc fmto sat tag aa off, i = .drn g gd acc fmto sat tag aa off) ∨ (∃ acc, i = .zac g gd acc)
      ∨ (∃ ts vd va q, i = .evalTs g gd ts vd va q) ∨ (∃ ts aa off, i = .tld g gd ts aa off) ∨ (∃ ts k, i = .tsel g gd ts k)
      ∨ (∃ aa ab vi sn, i = .gth g gd aa ab vi sn) ∨ (∃ aa ab vi sn, i = .cmpt g gd aa ab vi sn)) →
    exec i s = .next t → t.pending = s.pending ∧ SlotFrame g.val s.dev t.dev

/-! ### The sequencer (chapter 03) -/

/-- BEAT (R37, R214): a scope that runs, with nothing due before its bundle and no prefetch entry to issue, executes it. With no region,
speculation, report or reduction, no predicate on its way from CHT_GPRED_SET, and no operation about to leave a tile, every tile of the scope ends
its beat, and JOB_CYCLES, BEAT and the position grow by one; the queue, the registers and the other scope's place are as they were. A scope with
something due executes nothing. -/
def Obligations.BeatComplete : Prop :=
  ∀ (s : State) (sc : Fin 2),
    let x := scope s.dev sc.val
    (running x = true → beatBlocked x = false → prefetchDue s.dev sc.val = false →
      exec (.beat sc) s = .next { s with dev := beat s.dev sc.val }
      ∧ (x.regions = [] → x.spec = none → x.rrun = none → x.reps = [] → x.reds = [] → x.sets = [] →
        (∀ g ∈ tilesOf s.dev x.kind, (tile s.dev g).issued = []) →
        let e := beat s.dev sc.val
        e = updScope ((tilesOf s.dev x.kind).foldl tileBeat s.dev) sc.val countBeat
        ∧ (scope e sc.val).jobCycles = x.jobCycles + 1 ∧ (scope e sc.val).beat = x.beat + 1
        ∧ (scope e sc.val).pos = x.pos + 1 ∧ (scope e sc.val).phase = .run ∧ e.regs = s.dev.regs
        ∧ ∀ k, k ≠ sc.val → (scope e k).pos = (scope s.dev k).pos ∧ (scope e k).jobCycles = (scope s.dev k).jobCycles))
    ∧ (running x = false ∨ beatBlocked x = true ∨ prefetchDue s.dev sc.val = true → exec (.beat sc) s = .next s)

/-- A result issued in beat b becomes readable at beat b + L, and a read before that returns the old value (R81): at the end of a beat in
which nothing else of the tile is pending, a result with one beat left takes effect, under its lane mask, and one with more beats
left comes one beat nearer while every register keeps its value. -/
def Obligations.ResultsBecomeReadable : Prop :=
  ∀ (d : Dev) (g n : Nat),
    let c := (tile d g).core
    let e := tileBeat d g
    let c' := (tile e g).core
    c.wIn = none → c.wNew = none → c.sfu = [] → (tile d g).issued = [] →
    (∀ i v, c.pend = [⟨1, .s i v⟩] → rdS c' i = v ∧ (∀ k, k ≠ i → rdS c' k = rdS c k) ∧ c'.a = c.a ∧ c'.p = c.p ∧ c'.v = c.v)
    ∧ (∀ i v, c.pend = [⟨1, .a i v⟩] → rdA c' i = v ∧ (∀ k, k ≠ i → rdA c' k = rdA c k) ∧ c'.s = c.s ∧ c'.p = c.p ∧ c'.v = c.v)
    ∧ (∀ i m v, i ≠ 0 → c.pend = [⟨1, .p i m v⟩] → rdP c' i = (rdP c i &&& ~~~m) ||| (v &&& m)
        ∧ (∀ k, k ≠ i → rdP c' k = rdP c k) ∧ c'.s = c.s ∧ c'.a = c.a ∧ c'.v = c.v)
    ∧ (∀ i m v, c.pend = [⟨1, .v i m v⟩] → rdV c' i = maskLanes m (rdV c i) v
        ∧ (∀ k, k ≠ i → rdV c' k = rdV c k) ∧ c'.s = c.s ∧ c'.a = c.a ∧ c'.p = c.p)
    ∧ (∀ r, 1 ≤ n → c.pend = [⟨n + 1, r⟩] → c'.pend = [⟨n, r⟩] ∧ c'.s = c.s ∧ c'.a = c.a ∧ c'.p = c.p ∧ c'.v = c.v)

/-- Slips and arrivals (R41, R44 to R47, R58): a freeze order marks every report; READY is observed for each report of its buffer; a slip
whose buffers have all been observed ends 32 cycles after the later of its start and the last observation, counts its cycles and one
event, and shows the last buffer in CHTs_LAST_SLIP; bytes of a live transfer land in their armed entry and count toward READY, and are a mapping
fault in an entry that is not ARMED; a transfer of a discarded generation is dropped and counted in STALE. -/
def Obligations.SlipsAndArrivalsComplete : Prop :=
  ∀ (s : State) (sc : Fin 2),
    let x := scope s.dev sc.val
    (exec (.freezeOrder sc) s = .next { s with
        dev := setScope s.dev sc.val { x with reps := x.reps.map (fun r => { r with ordered := true }) } })
    ∧ (∀ (g : Fin 800) (lb : Fin 64) (y : Nat), scopeOf s.dev g.val = sc.val → (lbuf (tile s.dev g.val).core lb.val).st = .ready →
        exec (.readyObserved g lb y) s = .next { s with
          dev := setScope s.dev sc.val { x with
            reps := x.reps.map (fun r => if r.tile = g.val && r.lb == lb.val && r.seen.isNone
              then { r with seen := some (max y x.jobCycles) } else r) } })
    ∧ (∀ (u y : Nat) (r : ChkRep), x.phase = .slip → x.slipAt = some u →
        (∀ q ∈ x.reps, u ≤ q.use → q.use ≤ u + 31 → q.seen.isSome = true) →
        lastSeen (x.reps.filter (fun q => decide (u ≤ q.use) && decide (q.use ≤ u + 31))) = some (y, r) →
        let go := max x.slipFrom y + 32
        eventBefore x go = false →
        ∃ t, exec (.slipRestart sc) s = .next t ∧ t.pending = s.pending ∧ t.dev.tiles = s.dev.tiles
          ∧ (scope t.dev sc.val).phase = .run ∧ (scope t.dev sc.val).slipAt = none ∧ (scope t.dev sc.val).pos = x.pos
          ∧ (scope t.dev sc.val).slipEvents = satAdd 32 x.slipEvents 1
          ∧ (scope t.dev sc.val).slipCycles = x.slipCycles + (go - x.slipFrom)
          ∧ (scope t.dev sc.val).jobCycles = x.jobCycles + (go - x.slipFrom)
          ∧ (scope t.dev sc.val).lastTile = r.tile ∧ (scope t.dev sc.val).lastLb = r.lb
          ∧ (scope t.dev sc.val).lastCause = slipCause (lbuf (tile s.dev r.tile).core r.lb).cls
          ∧ (∀ q ∈ (scope t.dev sc.val).reps, q.use < u ∨ u + 31 < q.use))
    ∧ (∀ (id n : Nat) (data : List Byte) (q : Xfer), x.xfers.find? (fun k => k.id == id) = some q → genLive x q.gen = true →
        sendBlocked s.dev sc.val q = false → q.owed = 0 → q.blk = none → 0 < n → q.data ≠ [] →
        let e := lbuf (tile s.dev q.tile).core q.lb
        let a := q.addr.getD (e.base + e.landed)
        let k := min n q.data.length
        e.st = .armed → e.base ≤ a → a + k ≤ e.base + e.len → a + k ≤ 2 ^ 21 → retained (tile s.dev q.tile) a k = false →
        ∃ t, exec (.landingArrival sc id n data false) s = .next t ∧ t.pending = s.pending
          ∧ lbuf (tile t.dev q.tile).core q.lb
              = { e with landed := e.landed + k, st := if e.expected ≤ e.landed + k then .ready else .armed }
          ∧ (tile t.dev q.tile).t0 = (t0Write (tile s.dev q.tile) false a (q.data.take n)).t0)
    ∧ (∀ (id n : Nat) (data : List Byte) (q : Xfer), x.xfers.find? (fun k => k.id == id) = some q → genLive x q.gen = true →
        sendBlocked s.dev sc.val q = false → q.owed = 0 → q.blk = none → q.data ≠ [] → q.data.length ≤ n →
        let e := lbuf (tile s.dev q.tile).core q.lb
        e.st ≠ .armed → exec (.landingArrival sc id n data false) s = .next { s with
          dev := mapFault (updScope s.dev sc.val (fun x => { x with xfers := x.xfers.filter (fun u => u.id != id) })) q.tile 6 mfLbState q.lb
            (q.addr.getD (e.base + e.landed)) })
    ∧ (∀ (id n : Nat) (data : List Byte) (bad : Bool) (q : Xfer), x.xfers.find? (fun k => k.id == id) = some q → genLive x q.gen = false →
        exec (.landingArrival sc id n data bad) s = .next { s with
          dev := updTile (updScope s.dev sc.val (fun x => { x with xfers := x.xfers.filter (fun u => u.id != id) })) q.tile
            (fun t => { t with stale := satAdd 16 t.stale 1 }) })

/-- Global predicates (R40, R49): the oldest PSEND to a predicate that is not valid makes it valid when it is due, and leaves the path; the
owner's CHT_GPRED_SET is delivered in the next cycle, which is the end of the beat of a running scope, and in a freeze comes after the cycles the
sender names. A CHT_GPRED_SET of a valid predicate is discarded and recorded, and so is one without a job; one from another master does
nothing.

Shadow drains, sources, audits, overrun and the stop of a mapping fault (R38, R52, R67, R102, R112, R113, R259). A shadow line that is
committed is written to its bank. A source that has been read leaves the table. The audit of a scope passes when R38's identity holds, and
otherwise ends the job with a class 3 record. A job that has used its budgets is marked as overrunning. A mapping fault ends its job. -/
def Obligations.ScopeEventsComplete : Prop :=
  (∀ (s : State) (sc : Fin 2) (idx : Fin 256),
    let x := scope s.dev sc.val
    (∀ p, x.flight.find? (fun p => p.idx == idx.val) = some p → (x.phase ≠ .run ∨ p.due ≤ x.jobCycles) →
        mget? x.gpreds idx.val = none →
        ∃ t, exec (.gpredDelivery sc idx) s = .next t ∧ t.pending = s.pending ∧ t.dev.tiles = s.dev.tiles
          ∧ (scope t.dev sc.val).gpreds = mset x.gpreds idx.val p.val ∧ (scope t.dev sc.val).flight = x.flight.erase p
          ∧ t.dev.flt = s.dev.flt)
    ∧ (∀ src val wait, isOwner s.dev src = true → running x = true →
        exec (.gpredSet src sc idx val wait) s = .next { s with dev := setScope s.dev sc.val { x with sets := x.sets ++ [(idx.val, val)] } })
    ∧ (∀ val, x.sets = [(idx.val, val)] → mget? x.gpreds idx.val = none →
        (scope (flushSets s.dev sc.val) sc.val).gpreds = mset x.gpreds idx.val val ∧ (scope (flushSets s.dev sc.val) sc.val).sets = []
        ∧ (flushSets s.dev sc.val).tiles = s.dev.tiles ∧ (flushSets s.dev sc.val).flt = s.dev.flt)
    ∧ (∀ src val wait, isOwner s.dev src = true → running x = false → x.jobValid = true → mget? x.gpreds idx.val = none →
        ∃ t, exec (.gpredSet src sc idx val wait) s = .next t ∧ t.pending = s.pending ∧ t.dev.tiles = s.dev.tiles
          ∧ (scope t.dev sc.val).gpreds = mset x.gpreds idx.val val ∧ (scope t.dev sc.val).flight = x.flight
          ∧ t.dev.flt = s.dev.flt)
    ∧ (∀ src val wait b, isOwner s.dev src = true → running x = false → x.jobValid = true → mget? x.gpreds idx.val = some b →
        ∃ t r, exec (.gpredSet src sc idx val wait) s = .next t ∧ (scope t.dev sc.val).gpreds = x.gpreds
          ∧ mget? t.dev.flt.ring (s.dev.flt.seq % 256) = some r ∧ r.cls = 0 ∧ r.block = 0x08 ∧ r.code = 0x02)
    ∧ (∀ src val wait, isOwner s.dev src = true → running x = false → x.jobValid = false →
        exec (.gpredSet src sc idx val wait) s = .next { s with dev := discarded s.dev 0x08 (0x8280 + 4 * sc.val) })
    ∧ (∀ src val wait, isOwner s.dev src = false → exec (.gpredSet src sc idx val wait) s = .next s))
  ∧ (∀ (s : State) (sc : Fin 2),
    let x := scope s.dev sc.val
    (∀ (g : Fin 800) (line : Fin 32768) l, mget? (tile s.dev g.val).shadow line.val = some l → l.isOpen = false →
        exec (.shadowDrain g line) s = .next { s with
          dev := setTile s.dev g.val { tile s.dev g.val with
            t0 := memWrite (tile s.dev g.val).t0 (64 * line.val) l.data, shadow := mdel (tile s.dev g.val).shadow line.val } })
    ∧ (∀ (g : Fin 800) (id : Nat), beyondQueue s.dev g.val id = false →
        exec (.sourceReadDone g id) s = .next { s with
          dev := setTile s.dev g.val { tile s.dev g.val with
            psrc := (tile s.dev g.val).psrc.filter (fun p => p.held || p.id != id) } })
    ∧ (x.jobValid = true → x.spec = none → (x.phase = .run ∨ x.phase = .ending) →
        (x.jobCycles + x.skipped = x.pos + x.slipCycles + x.specCycles + x.replayCycles →
          exec (.auditPoint sc) s = .next { s with dev := setScope s.dev sc.val { x with auditDue := false } })
        ∧ (x.jobCycles + x.skipped ≠ x.pos + x.slipCycles + x.specCycles + x.replayCycles →
          ∃ t r, exec (.auditPoint sc) s = .next t ∧ t.pending = s.pending ∧ (scope t.dev sc.val).jobValid = false
            ∧ mget? t.dev.flt.ring (s.dev.flt.seq % 256) = some r ∧ r.cls = 3 ∧ r.block = 0x08 ∧ r.code = 0x08 ∧ r.slot = x.slot))
    ∧ (∀ j, x.jobValid = true → x.overrun = false →
        x.staticBeats + x.slipBudget + x.replayBudget < x.jobCycles + x.skipped → mget? s.dev.sched.slots x.slot = some j →
        j.desc.be = false →
        ∃ t, exec (.jobOverrun sc) s = .next t ∧ t.pending = s.pending ∧ (scope t.dev sc.val).overrun = true
          ∧ t.dev.sched.lcOverrun = true ∧ (scope t.dev sc.val).jobValid = true
          ∧ t.dev.sched.slots = mset s.dev.sched.slots x.slot { j with overrun := true })
    ∧ (∀ f, x.fault = some f → x.jobValid = true →
        exec (.scopeStop sc) s = .next { s with dev := endMapping s.dev sc.val f }
        ∧ (scope (endMapping s.dev sc.val f) sc.val).jobValid = false))

/-- Speculation and replay (R49, R53 to R61): once the predicates set in the cycle before are delivered, an open speculation that is due commits when
the predicate agrees with ASSUME and is squashed when it does not; a squash is closed 32 cycles later and a replay 96 cycles later, when the scope
runs again; a check tail that is due replays its region while the monitors are above their thresholds and fewer than two replays have run, ends the
job FAILED_NUMERIC on a NaN under NAN_STRICT, and commits the region otherwise.

After a squash (R54, R432): no speculation is open, the scope waits 32 cycles from Q, the predicate that decided it is consumed, and the position
is that of the checkpoint when the region executes, the word after the region when it is skipped; a replay waits 96 cycles and counts itself
(R59). -/
def Obligations.SpeculationComplete : Prop :=
  (∀ (s : State) (sc : Fin 2),
    let x := scope s.dev sc.val
    let d := flushSets s.dev sc.val
    let y := scope d sc.val
    (∀ sp sp' q, x.spec = some sp → y.spec = some sp' → sp.due = some q → sp.tail = false → (x.phase ≠ .run ∨ q ≤ x.jobCycles) →
        exec (.specResolve sc) s = .next { s with
          dev := if sp'.value = sp'.assumeSkip then resolveSquash d sc.val sp' q else resolveCommit d sc.val sp' q })
    ∧ (x.phase = .squash → exec (.squashResume sc) s = .next { s with
          dev := enter (setScope s.dev sc.val (decide256
            { x with specCycles := x.specCycles + (x.resume - x.jobCycles), jobCycles := x.resume, phase := .run } 0)) sc.val })
    ∧ (x.phase = .replay → exec (.squashResume sc) s = .next { s with
          dev := enter (setScope s.dev sc.val (decide256
            { x with replayCycles := x.replayCycles + (x.resume - x.jobCycles), jobCycles := x.resume, phase := .run } 0)) sc.val })
    ∧ (x.phase = .specStall → x.spec = none → x.fault = none → exec (.stallResume sc) s = .next { s with
          dev := enter (setScope s.dev sc.val (decide256
            { x with specCycles := x.specCycles + (x.resume - x.jobCycles), jobCycles := x.resume, phase := .run } 0)) sc.val })
    ∧ (∀ sp rr r q sp' rr', x.spec = some sp → x.rrun = some rr → sp.tail = true → sp.due = some q → x.regions[rr.region]? = some r →
        (x.phase ≠ .run ∨ q ≤ x.jobCycles) → y.spec = some sp' → y.rrun = some rr' →
        let nans := sumCount d y.kind (fun c => c.nan)
        let high := r.ovfT < sumCount d y.kind (fun c => c.ovf) ∨ r.satT < sumCount d y.kind (fun c => c.sat) ∨ r.nanT < nans
        let bad := r.nanStrict = true ∧ nans ≠ 0
        ((high ∨ bad) → rr'.num < 2 → exec (.replayDecision sc) s = .next { s with
            dev := replayNow d sc.val sp' rr' r (max q y.jobCycles) })
        ∧ (bad → 2 ≤ rr'.num → exec (.replayDecision sc) s = .next { s with
            dev := endScope d sc.val .failedNumeric 0 [] })
        ∧ (¬ high → ¬ bad → exec (.replayDecision sc) s = .next { s with
            dev := commitRegion d sc.val sp' (max q y.jobCycles) false })
        ∧ (high → ¬ bad → 2 ≤ rr'.num → exec (.replayDecision sc) s = .next { s with
            dev := commitRegion d sc.val sp' (max q y.jobCycles) true })))
  ∧ (∀ (d : Dev) (sc : Fin 2) (sp : Spec) (q : Nat),
    let x := scope d sc.val
    let y := scope (resolveSquash d sc.val sp q) sc.val
    (x.phase ≠ .slip → x.jobCycles ≤ q →
      y.spec = none ∧ y.phase = .squash ∧ y.jobCycles = q ∧ y.resume = q + 32
      ∧ (∀ r, x.regions[sp.region]? = some r → mget? y.gpreds r.gpred = none)
      ∧ (sp.value = true → y.pos = sp.ck.pos)
      ∧ (∀ r, sp.value = false → x.regions[sp.region]? = some r → y.pos = r.e + 1))
    ∧ (∀ (rr : RRun) (r : Region),
      let z := scope (replayNow d sc.val sp rr r q) sc.val
      z.spec = none ∧ z.phase = .replay ∧ z.jobCycles = q ∧ z.resume = q + 96 ∧ z.replays = satAdd 16 x.replays 1 ∧ z.pos = rr.ck.pos))

/-- The global lane (R62, R92) outside speculations: an entry whose bundle has executed leaves the lane and acts; REGION_BEGIN and
REGION_END change nothing else, EVENT signals its target with the DEVTIME, STAMP writes DEVTIME into RESULT and REFRESH opens a window. Within a
speculation that holds its beat, the entry waits for the commit with the count of beats at which it came.

Lane directives (R73, R74): the fetcher that stands at one takes it; REST holds COUNT beats, LOOP opens a frame, END ends the
lane. No other part of the tile changes. -/
def Obligations.LanesComplete : Prop :=
  (∀ (s : State) (sc : Fin 2) (e : GEntry) (rest : List GEntry),
    let x := scope s.dev sc.val
    let taken := setScope s.dev sc.val { x with glane := rest }
    x.jobValid = true → x.glane = e :: rest → e.pos < x.pos →
    (x.spec = none →
      (e.act = 1 → exec (.regionBegin sc) s = .next { s with dev := taken })
      ∧ (e.act = 2 → exec (.regionEnd sc) s = .next { s with dev := taken })
      ∧ (e.act = 3 → exec (.refresh sc) s = .next { s with dev := laneRefresh taken sc.val e x.beat })
      ∧ (e.act = 4 → exec (.stamp sc) s = .next { s with dev := laneStamp taken sc.val (e.operand % 2 ^ 32) })
      ∧ (e.act = 5 → e.operand % 256 < 16 → exec (.event sc) s = .next { s with
          dev := { taken with out := s.dev.out ++ [.event (e.operand / 2 ^ 16 % 2 ^ 16) e.pos s.dev.clk.devtime] } })
      ∧ (e.act = 5 → 16 ≤ e.operand % 256 → ∃ t, exec (.event sc) s = .next t ∧ t.pending = s.pending
          ∧ t.dev.out = s.dev.out ++ [.event (e.operand / 2 ^ 16 % 2 ^ 16) e.pos s.dev.clk.devtime]
          ∧ (mget t.dev.ports.emp (e.operand % 256 - 16) Emp.reset).event = e.operand / 2 ^ 16 % 2 ^ 16
          ∧ (mget t.dev.ports.emp (e.operand % 256 - 16) Emp.reset).eventAt = s.dev.clk.devtime))
    ∧ (∀ sp, x.spec = some sp → sp.ck.pos ≤ e.pos →
      ∀ i ∈ [(1, Instr.regionBegin sc), (2, Instr.regionEnd sc), (3, Instr.refresh sc), (4, Instr.stamp sc), (5, Instr.event sc)],
        e.act = i.1 → exec i.2 s = .next { s with
          dev := setScope s.dev sc.val { x with glane := rest, spec := some { sp with heldLane := sp.heldLane ++ [(e, x.beat)] } } }))
  ∧ (∀ (s : State) (g : Fin 800) (w : List Byte),
    let t := tile s.dev g.val
    let f := t.core.fetch
    laneWord t = some w → f.ended = false → f.restLeft = 0 →
    (directive w = some 0 → exec (.laneRest g) s = .next { s with
      dev := setTile s.dev g.val { t with core := { t.core with fetch := { nextWord f with restLeft := leAt w 4 6 } } } })
    ∧ (directive w = some 1 → exec (.laneLoop g) s = .next { s with
      dev := setTile s.dev g.val { t with core := { t.core with
        fetch := { f with word := f.word + 1, loops := ⟨leAt w 4 4, leAt w 8 2, f.word + 1⟩ :: f.loops } } } })
    ∧ (directive w = some 2 → exec (.laneEnd g) s = .next { s with
      dev := setTile s.dev g.val { t with core := { t.core with fetch := { f with ended := true } } } }))

/-- The end of a job (R64, R237, R245, R261, R262): JOB_END when the stream is over releases what the tiles still hold and starts the drain; each
drained tile's token counts its drain cycles as slip cycles; the last token's collection ends the scope SERVED; a token of C4's violation, and a short
count at the time-out, end it FAILED_FAULT with code 0x08 and 0x17; a due record, once all that its job wrote has been performed, is written at the
tail of its CQ, in host memory or in T1, with the phase bit, while there is room, and is taken off the due list. -/
def Obligations.JobEndComplete : Prop :=
  ∀ (s : State) (sc : Fin 2),
    let x := scope s.dev sc.val
    (running x = true → x.pos = x.staticBeats → x.spec = none → x.rrun = none → (∀ e ∈ x.glane, e.act = 6) → x.fault = none →
        exec (.jobEnd sc) s = .next { s with
          dev := flushPorts (releaseHeld (mapTiles (setScope s.dev sc.val
            { x with phase := .ending, jobEnded := true, endCycle := x.jobCycles, glane := [], tokens := [] }) x.kind
              (fun _ t => { t with hold := [], egress := [] })) sc.val (heldInOrder s.dev x.kind)) })
    ∧ (∀ (g : Fin 800) (drain : Nat), x.jobValid = true → x.phase = .ending → inScope x.kind g.val = true → g.val ∉ x.tokens →
        tileDrained s.dev sc.val g.val = true →
        let n := x.endCycle + drain - x.jobCycles
        ∃ t, exec (.completionToken sc g drain) s = .next t ∧ t.pending = s.pending ∧ t.dev.tiles = s.dev.tiles
          ∧ (scope t.dev sc.val).tokens = x.tokens ++ [g.val] ∧ (scope t.dev sc.val).jobCycles = x.jobCycles + n
          ∧ (scope t.dev sc.val).slipCycles = x.slipCycles + n)
    ∧ (x.jobValid = true → x.phase = .ending → x.c4bad = false → x.tokens.length = scopeTiles x.kind →
        exec (.tokenCollect sc) s = .next { s with dev := endScope s.dev sc.val .served 0 [] }
        ∧ (scope (endScope s.dev sc.val .served 0 []) sc.val).jobValid = false)
    ∧ (x.jobValid = true → x.phase = .ending → x.c4bad = true →
        ∃ t r, exec (.tokenCollect sc) s = .next t ∧ t.pending = s.pending ∧ (scope t.dev sc.val).jobValid = false
          ∧ mget? t.dev.flt.ring (s.dev.flt.seq % 256) = some r ∧ r.cls = 3 ∧ r.block = 0x08 ∧ r.code = 0x08)
    ∧ (x.jobValid = true → x.phase = .ending → x.tokens.length < scopeTiles x.kind →
        ∃ t r, exec (.tokenTimeout sc) s = .next t ∧ t.pending = s.pending ∧ (scope t.dev sc.val).jobValid = false
          ∧ mget? t.dev.flt.ring (s.dev.flt.seq % 256) = some r ∧ r.cls = 3 ∧ r.block = 0x08 ∧ r.code = 0x17
          ∧ r.detail = x.tokens.length % 2 ^ 64)
    ∧ (∀ (k : Nat) (r : DueRec), s.dev.sched.due[k]? = some r → schedOn s.dev = true → cqFull s.dev r.cq = false →
        (∀ i, r.slot = some i → jobPerformed s.dev i = true) →
        let bytes := withPhase r.bytes (queue s.dev r.cq).phase
        (bit (qCtrl s.dev r.cq) 29 = false → ringReach s.dev r.cq false = true →
          let addr := ringAddr s.dev r.cq 8 + 32 * (queue s.dev r.cq).cqTail
          exec (.completionRecord k) s = .next { s with
            dev := recordWritten (hostPost s.dev (servingLink s.dev r.cq) (some r.cq) addr bytes) k r }
          ∧ (hostPost s.dev (servingLink s.dev r.cq) (some r.cq) addr bytes).out = s.dev.out ++ [.hostWrite addr bytes])
        ∧ (∀ h o, bit (qCtrl s.dev r.cq) 29 = true →
          let ring := ringObj s.dev r.cq 8
          let off := ring.2 + 32 * (queue s.dev r.cq).cqTail
          objOf s.dev ring.1 = some (h, o) → off + 32 ≤ o.npages * pageSize → o.rdonly = false → o.cls ≠ .far → o.cls ≠ .peer →
          missing h o off 32 = [] →
          exec (.completionRecord k) s = .next { s with dev := recordWritten (t1Write s.dev h off bytes) k r }))
    ∧ (∀ (k i : Nat) (r : DueRec), s.dev.sched.due[k]? = some r → r.slot = some i → jobPerformed s.dev i = false →
        exec (.completionRecord k) s = .next s)

/-- DISPATCH (R248, R254): with nothing running and a job that can be chosen now, the scheduler starts it; the job and its slot are
then the running ones. With none to choose now, the time runs to the first RELEASE that lets one be chosen. While a job runs nothing
starts.

PAIRED_SET (R349): the owner's write changes SCH_CTRL.PAIRED while no slot is held, and the authority token with it, EPOCH grown
by one; while a slot is held the bit stays and the token with it. -/
def Obligations.DispatchComplete : Prop :=
  (∀ (s : State), schedOn s.dev = true →
    (∀ k d, s.dev.sched.running = none → pick s.dev = (some k, d) →
      exec .dispatch s = .next { s with dev := dispatch d k }
      ∧ (∀ j, mget? d.sched.slots k = some j → scopesFor d j.half ≠ [] → (dispatch d k).sched.running = some k))
    ∧ (∀ r k d, s.dev.sched.running = none → (pick s.dev).1 = none → soonest s.dev = some r →
      pick (untilDevtime s.dev r) = (some k, d) → exec .dispatch s = .next { s with dev := dispatch d k })
    ∧ (s.dev.sched.running.isSome = true → exec .dispatch s = .next s))
  ∧ (∀ (s : State) (src : Iface) (v : Bool), isOwner s.dev src = true →
    (s.dev.sched.slots = [] → v ≠ paired s.dev → ∃ t, exec (.pairedSet src v) s = .next t ∧ t.pending = s.pending
      ∧ paired t.dev = v ∧ t.dev.flt.epoch = s.dev.flt.epoch + 1 ∧ t.dev.flt.primary = flag (v && s.dev.flt.fencedW)
      ∧ t.dev.flt.secValid = (v && !s.dev.flt.fencedW && !s.dev.flt.fencedE) ∧ t.dev.sched = s.dev.sched)
    ∧ (s.dev.sched.slots ≠ [] ∨ v = paired s.dev → ∃ t, exec (.pairedSet src v) s = .next t ∧ t.pending = s.pending
      ∧ paired t.dev = paired s.dev ∧ t.dev.flt = s.dev.flt ∧ t.dev.sched = s.dev.sched))

/-! ### The tier manager (chapter 10) -/

/-- Fills and write-backs (R204, R211, R213, R220). A fill that ends maps its page clean, holding the bytes that T2 gave, and moves one page
of the pool from transit to mapped. A write-back that ends leaves its page mapped, or frees it where an eviction chose it and it is
clean and unpinned; a page of an eviction, of a command or of a retired channel that has been written meanwhile is written back again. One that
fails leaves the page mapped, dirty and pinned, or poisoned on a retired channel, and a class 2 record names the object.

Prefetch (R214 to R216): an entry whose beat has come, NEED less its lead, and that no earlier NEED precedes, is marked as issued at the
position and its missing pages are requested; a kind 1 entry reads its span into the landing buffer it names, which must be ARMED. An entry
that names no object, or passes the end of one, ends the job with cause 4; one of kind 0 on an object that is not BACKED moves nothing; one
that is not due waits. A move that is complete leaves the list, counts in TMG_LATE where its NEED has passed, and moves the estimate of its
source unless TMG_LEAD_CTRL freezes it. -/
def Obligations.FillsAndPrefetchComplete : Prop :=
  (∀ (s : State) (h : BitVec 16) (p : Nat) (o : Obj), obj? s.dev h.toNat = some o →
    let g := pageOf o p
    let a := t1Key h.toNat (p * pageSize)
    let k := pageKey h.toNat p
    (∀ data, g.st = .filling →
      let d1 := setObj s.dev h.toNat { o with pages := mset o.pages p { g with st := .mapped, dirty := 0, last := s.dev.tmg.clock + 1 } }
      let m := memWrite (memZero s.dev.tmg.mem a pageSize) a (data.take pageSize)
      let d2 := { d1 with tmg := { d1.tmg with clock := s.dev.tmg.clock + 1, mem := m } }
      exec (.pageFillDone h p data) s = .next { s with dev := pageReady (poolMove d2 0 1 (-1)) k })
    ∧ (g.st = .writeback → g.dirty = 0 → goesFree s.dev o g = true →
      exec (.writebackDone h p) s = .next { s with
        dev := feedWanting (cmdPast (poolMove (dropPage s.dev h.toNat p) 1 0 (-1)) k) })
    ∧ (g.st = .writeback → (g.dirty ≠ 0 ∨ goesFree s.dev o g = false) →
      let d := poolMove (setObj s.dev h.toNat { o with pages := mset o.pages p { g with st := .mapped, wbMask := 0 } }) 0 1 (-1)
      exec (.writebackDone h p) s = .next { s with
        dev := if g.dirty ≠ 0 ∧ (g.again = true ∨ onRetired d g = true ∨ k ∈ d.tmg.cmdPages) then startWb d h.toNat p g.evicting g.again
          else cmdPast d k })
    ∧ (g.st = .writeback →
      let r := record s.dev { fspec 2 0x0B 0x0F with unit := 0, detail := h.toNat + 2 * 2 ^ 16 }
      let d := { r with tmg := { r.tmg with cmdErr := s.dev.tmg.cmdErr || s.dev.tmg.cmdPages.contains k } }
      let kept := { g with st := .mapped, dirty := g.dirty ||| g.wbMask, wbMask := 0, pinned := true, evicting := false, again := false }
      let lost := { g with st := .unmapped, poisoned := true, dirty := 0, wbMask := 0, evicting := false, again := false }
      exec (.writebackFail h p) s = .next { s with
        dev := cmdPast (if onRetired s.dev g = true then poolMove (setPage d h.toNat p lost) 1 0 (-1)
          else poolMove (setPage d h.toNat p kept) 0 1 (-1)) k })
    ∧ (g.st ≠ .filling → ∀ data, exec (.pageFillDone h p data) s = .next s)
    ∧ (g.st ≠ .writeback → exec (.writebackDone h p) s = .next s ∧ exec (.writebackFail h p) s = .next s))
  ∧ (∀ (s : State) (sc : Fin 2) (i : Nat) (e : PfEntry),
    let x := scope s.dev sc.val
    x.prefetch[i]? = some e →
    (x.jobValid = true → x.jobEnded = false → e.issued = false → x.moves.length < 1024 →
      (∀ j f, x.prefetch[j]? = some f → pfReady s.dev sc.val f = true → e.need < f.need ∨ (e.need = f.need ∧ i ≤ j)) →
      let hd := rebase s.dev sc.val e.handle
      let marked := listUpd x.prefetch i (fun e => { e with issued := true, issuedAt := x.pos })
      let d0 := setScope s.dev sc.val { x with prefetch := marked }
      (objOf s.dev hd = none → e.need - 64 * leadOf s.dev e (if e.kind = 0 then 1 else 0) ≤ x.pos →
        (e.kind = 0 ∨ (lbuf (tile s.dev (tileGlobal x.kind e.tile)).core e.lb).st = .armed) →
        exec (.prefetchIssue sc i) s = .next { s with dev := endTier d0 sc.val 4 hd })
      ∧ (∀ h o, objOf s.dev hd = some (h, o) →
        let off := (hd - h) * 2 ^ 32 + e.off
        let c := pfClass h o off e
        let ms := missing h o off e.len
        (x.pos < e.need - 64 * leadOf s.dev e c → exec (.prefetchIssue sc i) s = .next s)
        ∧ (e.need - 64 * leadOf s.dev e c ≤ x.pos →
          (e.kind = 0 → o.cls ≠ .backed → exec (.prefetchIssue sc i) s = .next { s with dev := d0 })
          ∧ (e.kind = 0 → o.cls = .backed → o.npages * pageSize < off + e.len →
            exec (.prefetchIssue sc i) s = .next { s with dev := endTier d0 sc.val 4 hd })
          ∧ (e.kind = 0 → o.cls = .backed → off + e.len ≤ o.npages * pageSize → ms = [] →
            exec (.prefetchIssue sc i) s = .next { s with dev := d0 })
          ∧ (e.kind = 0 → o.cls = .backed → off + e.len ≤ o.npages * pageSize → ms ≠ [] →
            exec (.prefetchIssue sc i) s = .next { s with
              dev := requestPages (setScope s.dev sc.val { x with
                prefetch := marked, moves := x.moves ++ [⟨i, 1, ms, none, hd, some e.need, false⟩] }) ms })
          ∧ (e.kind ≠ 0 → (lbuf (tile s.dev (tileGlobal x.kind e.tile)).core e.lb).st = .armed →
            exec (.prefetchIssue sc i) s = .next { s with
              dev := scopeRead (setScope s.dev sc.val { x with
                prefetch := marked, moves := x.moves ++ [⟨i, c, [], some x.nextXfer, hd, some e.need, false⟩] })
                sc.val x.pos (tileGlobal x.kind e.tile) e.lb none hd e.off e.len none })
          ∧ (e.kind ≠ 0 → (lbuf (tile s.dev (tileGlobal x.kind e.tile)).core e.lb).st ≠ .armed →
            exec (.prefetchIssue sc i) s = .next s))))
    ∧ (∀ n m rest, x.moves = m :: rest → m.idx = i → m.wait = [] → (∀ id, m.xfer = some id → ∀ t ∈ x.xfers, t.id ≠ id) →
      let z := fld (leadCtrl s.dev) 26 2
      let est := estOf s.dev m.cls
      let late := m.late = true ∨ ∃ need, m.need = some need ∧ need < x.pos
      let d0 := setScope s.dev sc.val { x with moves := rest }
      let d := fun (l : Nat) => { d0 with tmg := { d0.tmg with late := l } }
      let next := if est < n then est + (n - est) / 2 ^ z else est - (est - n) / 2 ^ (z + 2)
      (bit (leadCtrl s.dev) 31 = true →
        (late → exec (.prefetchComplete sc i n) s = .next { s with dev := d (satAdd 32 s.dev.tmg.late 1) })
        ∧ (¬ late → exec (.prefetchComplete sc i n) s = .next { s with dev := d0 }))
      ∧ (bit (leadCtrl s.dev) 31 = false →
        (late → exec (.prefetchComplete sc i n) s = .next { s with dev := setEst (d (satAdd 32 s.dev.tmg.late 1)) m.cls next })
        ∧ (¬ late → exec (.prefetchComplete sc i n) s = .next { s with dev := setEst d0 m.cls next }))))

/-- C7 (R28, R202): a pool whose FREE, MAPPED and IN_TRANSIT pages make its size keeps doing so as pages move between them, and nothing is
recorded; a move after which they do not is recorded with class 3 and ends both jobs. -/
def Obligations.PoolMovesAreAudited : Prop :=
  ∀ (d : Dev) (free mapped transit : Int),
    let t := { d.tmg with poolFree := (d.tmg.poolFree + free).toNat, poolMapped := (d.tmg.poolMapped + mapped).toNat,
                          poolTransit := (d.tmg.poolTransit + transit).toNat }
    let sum := t.poolFree + t.poolMapped + t.poolTransit
    (d.tmg.poolFree + d.tmg.poolMapped + d.tmg.poolTransit = d.tmg.poolSize → free + mapped + transit = 0 →
      0 ≤ d.tmg.poolFree + free → 0 ≤ d.tmg.poolMapped + mapped → 0 ≤ d.tmg.poolTransit + transit →
      poolMove d free mapped transit = { d with tmg := t })
    ∧ (sum ≠ d.tmg.poolSize → poolMove d free mapped transit =
        endFault (endFault (record { d with tmg := t } { fspec 3 0x0B 0x08 with detail := lawDetail 7 d.tmg.poolSize sum })
          0 3 (faultCode 3 0x0B 0x08)) 1 3 (faultCode 3 0x0B 0x08))

/-- Late and failed tiers (R217, R218): an access that fails ends the job with cause 2, poisoned data with cause 3; object, cause and scope
stand in the fields of TMG_FAIL, in a class 2 record and in the completion record. A transfer that fails leaves the list and ends the job in
the same way, as a slip that has waited too long on a move does with cause 1, and a fill that finds no FREE page with cause 7. A fill that
fails fails for every requester: each scope that waits for the page ends. -/
def Obligations.TierFailuresComplete : Prop :=
  ∀ (s : State) (sc : Fin 2),
    let x := scope s.dev sc.val
    let si := sc.val
    let k := scopeCode x.kind
    x.jobValid = true →
    (∀ cause h, endTier s.dev si cause h =
      endScope (record { s.dev with tmg := { s.dev.tmg with failCause := cause, failScope := k, failHandle := h } }
          { cls := 2, block := 0x0B, code := 0x0F, unit := 0, scope := k, slot := x.slot
            detail := h % 2 ^ 16 + cause * 2 ^ 16 + k * 2 ^ 24 })
        si .failedTier cause (leBytes 4 (h % 2 ^ 16 + k * 2 ^ 16)))
    ∧ (∀ h poison, exec (.tierFail (.access sc h) poison) s = .next { s with dev := endTier s.dev si (if poison then 3 else 2) h })
    ∧ (∀ h p o poison, obj? s.dev h = some o →
      let cause := if poison then 3 else 2
      let key := pageKey h p
      let st := (pageOf o p).st
      (st ≠ .filling → st ≠ .wanting → exec (.tierFail (.fill h p) poison) s = .next s)
      ∧ (st = .filling ∨ st = .wanting → ∃ d, exec (.tierFail (.fill h p) poison) s
          = .next { s with dev := feedWanting ((waitersOf s.dev key).foldl (fun d r => endTier d r.1 cause r.2) d) }))
    ∧ (∀ t poison, x.xfers = [t] →
      let d := setScope s.dev si { x with xfers := [] }
      let d := if poison = true then readPoison d t else d
      (genLive x t.gen = true → exec (.tierFail (.xfer sc t.id) poison) s = .next { s with
        dev := endTier d si (if poison then 3 else 2) t.used })
      ∧ (genLive x t.gen = false → exec (.tierFail (.xfer sc t.id) poison) s = .next { s with dev := d }))
    ∧ (∀ q, x.xfers = [q] → q.owed ≠ 0 → genLive x q.gen = true →
      (q.wait.any (pageWants s.dev) = true → exec (.t2Timeout sc) s = .next { s with dev := endTier s.dev si 7 q.used })
      ∧ (q.wait.any (pageWants s.dev) = false → s.dev.tmg.waiters = [] → engineFills s.dev si = [] → x.phase = .slip →
        (∃ r ∈ x.reps, r.tile = q.tile ∧ r.lb = q.lb ∧ r.seen = none) →
        exec (.t2Timeout sc) s = .next { s with dev := endTier s.dev si 1 q.used }))
    ∧ (x.xfers = [] →
      (∀ ks w i, s.dev.tmg.waiters = [(ks, w)] → waiterBy w = some i → i.scope = si → issuerLive s.dev i = true →
        ks.any (pageWants s.dev) = true → exec (.t2Timeout sc) s = .next { s with dev := endTier s.dev si 7 i.used })
      ∧ (s.dev.tmg.waiters = [] → ∀ e, engineFills s.dev si = [e] →
        (pageWants s.dev e.2 = true → exec (.t2Timeout sc) s = .next { s with dev := endTier s.dev si 7 (keyPage e.2).1 })
        ∧ (pageWants s.dev e.2 = false → x.phase = .slip → (∃ r ∈ x.reps, r.tile = e.1.tile ∧ r.lb = e.1.lb ∧ r.seen = none) →
          exec (.t2Timeout sc) s = .next { s with dev := endTier s.dev si 1 (keyPage e.2).1 }))
      ∧ (s.dev.tmg.waiters = [] → engineFills s.dev si = [] → exec (.t2Timeout sc) s = .next s))

/-- The owner's commands (R200, R202, R212, R219, R221). A command accepted makes BUSY 1 and STAT's handle the one it names, with what it
does at once; TMG_CMD_DONE shows its result when nothing is left to wait for. CREATE makes the object that the argument registers describe,
mapped whole where it is RESIDENT; a handle, size or base that is not allowed answers BAD_ARG, a run that is taken answers 2, a pool too small
answers 4. DESTROY takes an object out; FLUSH, EVICT, DISCARD and FETCH act on a BACKED object; a handle of no object answers 3, a job that names
the object 5, and a reserved operation BAD_ARG. A command that arrives while one runs is dropped.

TMG_CMD_DONE (R221): once a command waits for no page, BUSY falls and RESULT is its result, 6 where a move that it waited for
failed; it writes no object, no byte of T1 and no record. -/
def Obligations.TierCommandsComplete : Prop :=
  (∀ (s : State) (src : Iface) (h : BitVec 16), isOwner s.dev src = true →
    let n := h.toNat
    let np := fld (regGet s.dev 0x20004) 0 25
    let cw := regGet s.dev 0x20008
    let lo := regGet s.dev 0x2000C
    let hi := regGet s.dev 0x20010
    let cls := argClass cw
    let badBase := (cls = .peer ∧ (fld lo 18 14 ≠ 0 ∨ fld hi 16 16 ≠ 0)) ∨ ((cls = .backed ∨ cls = .far) ∧ fld lo 0 16 ≠ 0)
    let badArg := n = 0 ∨ np = 0 ∨ 16777216 < np ∨ badBase
    let taken := fun op => regPut { s.dev with tmg := { s.dev.tmg with cmdPages := [], cmdErr := false } } 0x20000 (put op 28 4 + put n 0 16)
    let ends := fun (d : Dev) res => { d with tmg := { d.tmg with busy := true, cmdRes := res, statHandle := n } }
    let all : List (Instr × Nat) := [(.destroy src h, 2), (.flush src h, 3), (.evict src h, 4), (.discard src h, 5), (.fetch src h, 6)]
    (s.dev.tmg.busy = true → exec (.create src h) s = .next { s with dev := { s.dev with tmg := { s.dev.tmg with dropped := true } } }
      ∧ (∀ k : Fin 9, exec (.tmgCmdReserved src k h) s = .next { s with dev := { s.dev with tmg := { s.dev.tmg with dropped := true } } })
      ∧ ∀ c ∈ all, exec c.1 s = .next { s with dev := { s.dev with tmg := { s.dev.tmg with dropped := true } } })
    ∧ (s.dev.tmg.busy = false →
      (badArg → exec (.create src h) s = .next { s with dev := ends (taken 1) 1 })
      ∧ (¬ badArg →
        let o : Obj := { npages := np, cls := cls, rdonly := bit cw 29, pin := bit cw 28, stk := fld cw 0 12, base := lo + hi * 2 ^ 32
                         devid := fld lo 0 18, rhandle := fld hi 0 16, chans := chansOf s.dev (fld cw 0 12), lastCh := none, pages := [] }
        let last := if o.chans = [] then none else some (o.chans.getD ((np - 1) % o.chans.length) 0)
        (runTaken s.dev n np = true → exec (.create src h) s = .next { s with dev := ends (taken 1) 2 })
        ∧ (runTaken s.dev n np = false →
          (cls = .resident → s.dev.tmg.poolFree < np → exec (.create src h) s = .next { s with dev := ends (taken 1) 4 })
          ∧ (cls = .resident → np ≤ s.dev.tmg.poolFree → exec (.create src h) s = .next { s with
            dev := ends (reclaimAll (poolMove (setObj (taken 1) n { o with lastCh := last }) (-(np : Int)) np 0)) 0 })
          ∧ (cls ≠ .resident → exec (.create src h) s = .next { s with dev := ends (setObj (taken 1) n o) 0 })))
      ∧ (∀ k : Fin 9, exec (.tmgCmdReserved src k h) s = .next { s with dev := ends (taken (7 + k.val)) 1 })
      ∧ (obj? s.dev n = none → ∀ c ∈ all, exec c.1 s = .next { s with dev := ends (taken c.2) 3 })
      ∧ (∀ o, obj? s.dev n = some o →
        (namedByJob s.dev n o = true → exec (.destroy src h) s = .next { s with dev := ends (taken 2) 5 })
        ∧ (namedByJob s.dev n o = false → exec (.destroy src h) s = .next { s with dev := ends (tmgDestroy (taken 2) n o) 0 })
        ∧ (o.cls ≠ .backed → ∀ c ∈ all, c.2 ≠ 2 → exec c.1 s = .next { s with dev := ends (taken c.2) 1 })
        ∧ (o.cls = .backed →
          let unmapped := (List.range o.npages).filter (fun i => (pageOf o i).st == .unmapped)
          exec (.flush src h) s = .next { s with dev := ends (tmgFlush (taken 3) n o false) 0 }
          ∧ (namedByJob s.dev n o = true → exec (.evict src h) s = .next { s with dev := ends (taken 4) 5 }
            ∧ exec (.discard src h) s = .next { s with dev := ends (taken 5) 5 })
          ∧ (namedByJob s.dev n o = false →
            exec (.evict src h) s = .next { s with dev := ends (feedWanting (tmgFlush (freePages (dropImages (taken 4) n o) n o
              (fun p => p.dirty == 0 && !p.pinned && !o.pin)) n o true)) 0 }
            ∧ exec (.discard src h) s = .next { s with
              dev := ends (feedWanting (o.pages.foldl (fun d p => if p.2.st = .writeback then
                  setPage d n p.1 { p.2 with dirty := 0, evicting := true, again := false, pinned := false } else d)
                (freePages (dropImages (taken 5) n o) n o (fun _ => true)))) 0 })
          ∧ (s.dev.tmg.poolFree < unmapped.length → exec (.fetch src h) s = .next { s with dev := ends (taken 6) 4 })
          ∧ (unmapped.length ≤ s.dev.tmg.poolFree → exec (.fetch src h) s = .next { s with
              dev := ends (requestPages { taken 6 with
                tmg := { (taken 6).tmg with cmdPages := missing n o 0 (o.npages * pageSize) } } (unmapped.map (pageKey n))) 0 })))))
  ∧ (∀ s : State, s.dev.tmg.busy = true → s.dev.tmg.cmdPages = [] →
    exec .tmgCmdDone s = .next { s with dev := { s.dev with tmg := { s.dev.tmg with
      busy := false
      result := if s.dev.tmg.cmdRes = 0 ∧ s.dev.tmg.cmdErr = true then 6 else s.dev.tmg.cmdRes } } })

/-! ### Stacked memory (chapter 11) -/

/-- Temperature and refresh (R228 to R231, R233). A reading sets the temperature, the peak and the band, which rises at once and falls
only HYST degrees below the limit. REFRESH_ACCRUAL raises the debt by one, at most to 8; a stack that no window serves starts a round
at once, and one that a job's windows serve is forced to 4 rounds at a debt of 8 with no window open. The debt falls by one as each round
starts, 40 ns after the run and every 410 ns from there, and REFRESH_RUN_END comes when all of them have run: a window that waited opens, and
the accesses that waited go on.

Scrubbing, error counts and retirement (R220, R224 to R227). The scrub reads the channel's next line unless a refresh round runs on
its stack or it is retired; a corrected burst is counted and recorded (class 1), and a count above the threshold asks for the channel's
retirement, as an uncorrectable read does. A period's end clears the counts. The owner's commands retire a channel or restore it
in the journal. CHANNEL_RETIRE takes the first channel asked for, waits for the adds that pend on it, retires it in the journal with a class 3
record and empties it; once no page is left on it the pool shrinks. -/
def Obligations.StacksComplete : Prop :=
  (∀ (s : State) (n : Fin 12),
    let st := stack s.dev n.val
    let now := s.dev.clk.localNs
    (∀ temp : Byte, ∃ t, exec (.hbmTempRead n temp) s = .next t ∧ t.pending = s.pending
      ∧ (stack t.dev n.val).temp = temp.toNat ∧ (stack t.dev n.val).peak = max st.peak temp.toNat
      ∧ (let h := hystOf s.dev n.val
         let up := if temp.toNat ≤ 85 then 0 else if temp.toNat ≤ 95 then 1 else 2
         (stack t.dev n.val).band = (if st.band < up then up
           else if st.band = 2 ∧ temp.toNat + h ≤ 95 then (if temp.toNat + h ≤ 85 then 0 else 1)
           else if st.band = 1 ∧ temp.toNat + h ≤ 85 then 0 else st.band))
      ∧ (∀ si, govScope s.dev n.val = some si →
          (stack t.dev n.val).overClass = decide ((scope s.dev si).startBand < (stack t.dev n.val).band))
      ∧ (govScope s.dev n.val = none → (stack t.dev n.val).overClass = false)
      ∧ (stack t.dev n.val).debt = st.debt ∧ t.dev.tmg = s.dev.tmg)
    ∧ (st.present = false → exec (.refreshAccrual n) s = .next s)
    ∧ (st.present = true →
        let owed := min 8 (st.debt + 1)
        (st.runLeft = 0 → freeRefresh s.dev n.val = true → exec (.refreshAccrual n) s = .next { s with
          dev := setStack s.dev n.val { st with debt := owed, runLeft := 1, runAt := now, runDone := 0 } })
        ∧ (st.runLeft = 0 → freeRefresh s.dev n.val = false → owed = 8 → winIsOpen s.dev n.val = false →
          exec (.refreshAccrual n) s = .next { s with
            dev := setStack s.dev n.val { st with debt := 8, forced := satAdd 16 st.forced 4, runLeft := 4, runAt := now, runDone := 0 } })
        ∧ (st.runLeft = 0 → freeRefresh s.dev n.val = false → (owed < 8 ∨ winIsOpen s.dev n.val = true) →
          exec (.refreshAccrual n) s = .next { s with dev := setStack s.dev n.val { st with debt := owed } })
        ∧ (st.runLeft ≠ 0 →
          let begun := if now < st.runAt + 40 then 0 else min st.runLeft ((now - st.runAt - 40) / 410 + 1)
          exec (.refreshAccrual n) s = .next { s with
            dev := setStack s.dev n.val { st with debt := min 8 (st.debt - (begun - st.runDone) + 1), runDone := begun } }))
    ∧ (st.runLeft = 0 → exec (.refreshRunEnd n) s = .next s)
    ∧ (st.runLeft ≠ 0 →
        let d := untilLocal s.dev (st.runAt + 40 + 410 * st.runLeft)
        let beat := match govScope d n.val with
          | some si => (scope d si).beat
          | none => 0
        let after := { st with debt := st.debt - (st.runLeft - st.runDone), runLeft := 0, runDone := 0 }
        (st.winPend ≤ beat → exec (.refreshRunEnd n) s = .next { s with
          dev := settleT1 (refStart (setStack d n.val { after with winPend := 0 }) n.val) })
        ∧ (beat < st.winPend → exec (.refreshRunEnd n) s = .next { s with
          dev := settleT1 (refStart (setStack d n.val (refOpen d after (st.winPend - beat) st.winPend)) n.val) })))
  ∧ (∀ (s : State) (n : Fin 12) (c : Fin 16),
    let st := stack s.dev n.val
    let ch := n.val * 16 + c.val
    let line := mget st.scrub c.val 0
    let next := { st with scrub := mset st.scrub c.val ((line + 1) % (36864 * 1024)) }
    (st.present = false ∨ st.runLeft ≠ 0 ∨ c.val ∈ st.retired → ∀ r, exec (.scrubRead n c r) s = .next s)
    ∧ (st.present = true → st.runLeft = 0 → c.val ∉ st.retired →
      (exec (.scrubRead n c 0) s = .next { s with dev := setStack s.dev n.val next })
      ∧ (exec (.scrubRead n c 3) s = .next { s with
          dev := setStack s.dev n.val { next with odecc := mset st.odecc c.val (satAdd 16 (mget st.odecc c.val 0) 1) } })
      ∧ (∃ t, exec (.scrubRead n c 2) s = .next t ∧ t.pending = s.pending
          ∧ (stack t.dev n.val).ueCount = satAdd 16 st.ueCount 1 ∧ (stack t.dev n.val).ueLastCh = c.val
          ∧ (stack t.dev n.val).scrub = next.scrub
          ∧ (ch ∈ t.dev.hbm.retireQ ∨ s.dev.hbm.retiring = some ch))
      ∧ (∃ t r, exec (.scrubRead n c 1) s = .next t ∧ t.pending = s.pending
          ∧ mget (stack t.dev n.val).ce c.val 0 = satAdd 16 (mget st.ce c.val 0) 1 ∧ (stack t.dev n.val).scrub = next.scrub
          ∧ mget? t.dev.flt.ring (s.dev.flt.seq % 256) = some r ∧ r.cls = 1 ∧ r.block = 0x0C ∧ r.code = 0x03 ∧ r.detail = line % 2 ^ 64
          ∧ (fld (regGet s.dev (hbBase n.val + 0x10)) 0 16 < satAdd 16 (mget st.ce c.val 0) 1 →
              ch ∈ t.dev.hbm.retireQ ∨ s.dev.hbm.retiring = some ch)))
    ∧ (exec (.cePeriodEnd n) s = .next { s with dev := setStack s.dev n.val { st with ce := [] } })
    ∧ (∀ src, isOwner s.dev src = true →
        let cmd := fun op => regPut s.dev (hbBase n.val + 0x14) (put op 30 2 + put c.val 0 4)
        let known := c.val ∈ st.retired ∨ ch ∈ s.dev.hbm.retireQ ∨ s.dev.hbm.retiring = some ch
        (known → exec (.hbRetire src n c) s = .next { s with dev := cmd 1 })
        ∧ (¬ known → exec (.hbRetire src n c) s = .next { s with
            dev := { cmd 1 with hbm := { s.dev.hbm with retireQ := s.dev.hbm.retireQ ++ [ch] } } })
        ∧ (exec (.hbRestore src n c) s = .next { s with dev := jWrite (cmd 2) (.restore 0 ch) }))
    ∧ (∀ bad rest, s.dev.hbm.retiring = none → s.dev.hbm.retireQ = ch :: rest →
        let there := fun (a : Machine.Add) => match obj? s.dev a.handle with
          | some o => (pageOf o (a.off / pageSize)).ch = ch
          | none => False
        ((∃ a ∈ st.adds, there a) → exec (.channelRetire bad) s = .next s)
        ∧ ((∀ a ∈ st.adds, ¬ there a) →
          let d := setStack s.dev n.val { st with retired := st.retired ++ [c.val] }
          let d := jWrite (record { d with hbm := { d.hbm with retireQ := rest, retiring := some ch } }
            { fspec 3 0x0C 0x10 with unit := ch, detail := ch }) (.retire 0 ch)
          exec (.channelRetire bad) s = .next { s with dev := retireStep (makeRoom (evictable d).length d ch) bad }))
    ∧ (∀ bad, s.dev.hbm.retiring = none → s.dev.hbm.retireQ = [] → exec (.channelRetire bad) s = .next s)
    ∧ (∀ bad, s.dev.hbm.retiring = some ch → exec (.channelRetire bad) s = .next { s with dev := retireStep s.dev bad }
        ∧ (pagesOn s.dev ch = [] → retireStep s.dev bad = reclaimAll (poolAudit { s.dev with
            tmg := { s.dev.tmg with poolSize := s.dev.tmg.poolSize - 36864, poolFree := s.dev.tmg.poolFree - 36864 }
            hbm := { s.dev.hbm with retiring := none } }))))

/-- Memory-side adds (R235 to R238). An integer add is applied in arrival order at its bytes and an FP add once every tile's watermark has
passed it, in the order of R237, and none while rounds run on its stack; it leaves the list and is counted, whatever its line holds. A line that
cannot be read, or lies on a page that is poisoned or lost, keeps its bytes, and the job that issued the add ends with cause 3. WATERMARK
reports the tile's; the audit of C6 writes no record while accepted is applied plus pending, and a class 3 record otherwise, with which the jobs
end. -/
def Obligations.MemoryAddsComplete : Prop :=
  ∀ (s : State) (n : Fin 12),
    let st := stack s.dev n.val
    (∀ k a bad, st.adds[k]? = some a → (st.runLeft ≠ 0 ∨ addReady s.dev st.adds k a = false) → exec (.atmApply n k bad) s = .next s)
    ∧ (∀ k a, st.adds[k]? = some a → st.runLeft = 0 →
      ((a.afmt = 2 ∨ a.afmt = 3) ∧ (∀ b ∈ st.adds.take k, addInt b.afmt = true → addsMeet a b = false)
        ∨ addReady s.dev st.adds k a = true) →
      let d := setStack s.dev n.val { st with adds := st.adds.eraseIdx k, applied := (st.applied + 1) % 2 ^ 64 }
      let z := atmBytes a.afmt
      let sum := addSum a.afmt (t1Read s.dev a.handle a.off z) a.val
      (obj? s.dev a.handle = none → ∀ bad, exec (.atmApply n k bad) s = .next { s with dev := settleT1 d })
      ∧ (∀ o, obj? s.dev a.handle = some o →
        let i := a.off / pageSize
        (spanBad o a.off z = false → exec (.atmApply n k false) s = .next { s with dev := settleT1 (t1Put d a.handle a.off sum) })
        ∧ (∀ bad, spanBad o a.off z = true ∨ bad = true →
          let e := if spanBad o a.off z = true then d else uncorrected d n.val ((pageOf o i).ch % 16)
          let e := setPage e a.handle i { pageOf o i with poisoned := true }
          exec (.atmApply n k bad) s = .next { s with
            dev := settleT1 (if issuerLive s.dev a.by_ = true then endTier e a.by_.scope 3 a.by_.used else e) })))
    ∧ (∀ g : Fin 800, exec (.watermark g) s = .next { s with
        dev := { s.dev with hbm := { s.dev.hbm with marks := mset s.dev.hbm.marks g.val (markOf s.dev g.val) } } })
    ∧ (st.accepted = (st.applied + st.adds.length) % 2 ^ 64 → exec (.atmAudit n) s = .next s)
    ∧ (st.accepted ≠ (st.applied + st.adds.length) % 2 ^ 64 →
        let f := { fspec 3 0x0C 0x08 with unit := n.val * 16, detail := lawDetail 6 st.accepted (st.applied + st.adds.length) }
        exec (.atmAudit n) s = .next { s with
          dev := endFault (endFault (record s.dev f) 0 3 (faultCode 3 0x0C 0x08)) 1 3 (faultCode 3 0x0C 0x08) })

/-! ### The scheduler (chapter 12) -/

/-- Doorbells and queue control (R242, R243, R379, R400). A doorbell write inside the ring moves the pointer, from any interface and whoever
owns the device; one at or past the ring's size is discarded with a class 0 record. With DB_WAKE 1 it wakes the device first. EN from 0 to 1 clears
the pointers and the phase; while EN is 1 the ring places and the CQ number stay as they are.

DESCRIPTOR_ACCEPT (R244, R251, R265): the scheduler takes the descriptor of the SQ whose turn it is, from the host or from a ring in T1. Its
head moves on by one, the turn passes to the next SQ, and the client's count of submissions grows by one. A descriptor whose form is wrong makes
a REFUSED_VERSION record due and is counted; a best-effort job that passes every test takes the lowest free slot and joins the best-effort
queue. C8 is then audited for the client, whose account balances if it did before. An SQ whose turn it is not gives nothing. -/
def Obligations.QueuesComplete : Prop :=
  (∀ (s : State) (src : Iface) (q : Fin 64),
    let x := queue s.dev q.val
    let d := if bit (regGet s.dev 0x4014) 29 = true then wakeEvent s.dev else s.dev
    (∀ i : BitVec 16,
      (i.toNat < sqSize s.dev q.val → exec (.sqDoorbell src q i) s = .next { s with dev := setQueue d q.val { x with sqTail := i.toNat } })
      ∧ (i.toNat < cqSize s.dev q.val → exec (.cqDoorbell src q i) s = .next { s with dev := setQueue d q.val { x with cqHead := i.toNat } })
      ∧ (sqSize s.dev q.val ≤ i.toNat → exec (.sqDoorbell src q i) s = .next { s with
          dev := record d { fspec 0 0x08 0x02 with detail := 0x9000 + 8 * q.val } })
      ∧ (cqSize s.dev q.val ≤ i.toNat → exec (.cqDoorbell src q i) s = .next { s with
          dev := record d { fspec 0 0x08 0x02 with detail := 0x9004 + 8 * q.val } }))
    ∧ (∀ w : BitVec 31, isOwner s.dev src = true → qEn s.dev q.val = false →
        exec (.queueEnable src q w) s = .next { s with
          dev := setQueue (regPut s.dev (qBase q.val + 0x10) ((2 ^ 31 + w.toNat) / 2 ^ 10 * 2 ^ 10)) q.val ⟨0, 0, 0, 0, false⟩ })
    ∧ (∀ w : BitVec 31, isOwner s.dev src = true → qEn s.dev q.val = true → ∃ t, exec (.queueEnable src q w) s = .next t
        ∧ t.pending = s.pending ∧ t.dev.sched = s.dev.sched ∧ qEn t.dev q.val = true
        ∧ cqOf t.dev q.val = cqOf s.dev q.val ∧ bit (qCtrl t.dev q.val) 30 = bit (qCtrl s.dev q.val) 30
        ∧ bit (qCtrl t.dev q.val) 29 = bit (qCtrl s.dev q.val) 29))
  ∧ (∀ (s : State) (q : Fin 64) (data : List Byte),
    let got := if bit (qCtrl s.dev q.val) 30 = true then ringRead s.dev q.val else (some (slice data 0 64), s.dev)
    (schedOn s.dev = false ∨ bit (regGet s.dev 0x8000) 31 = false ∨ nextSq s.dev ≠ some q.val →
      exec (.descriptorAccept q data) s = .next s)
    ∧ (schedOn s.dev = true → bit (regGet s.dev 0x8000) 31 = true → nextSq s.dev = some q.val →
      (got.1 = none → exec (.descriptorAccept q data) s = .next { s with dev := got.2 })
      ∧ (∀ raw, got.1 = some raw →
        let e := got.2
        let cl := if bit (qCtrl e q.val) 28 then fld (regGet e (qBase q.val + 0x18)) 0 12 else fld (leAt raw 2 2) 0 12
        let b := descOf raw cl
        ∃ d, exec (.descriptorAccept q data) s = .next { s with dev := clientAudit d cl }
          ∧ (descFormOk raw = false → ∃ r, d.sched.due = e.sched.due ++ [r] ∧ r.status = .refusedVersion ∧ r.slot = none
              ∧ r.cq = cqOf e q.val ∧ (client d cl).refused = (client e cl).refused + 1 ∧ d.sched.slots = e.sched.slots
              ∧ d.sched.rrNext = (q.val + 1) % 64 ∧ (client d cl).submitted = (client e cl).submitted + 1
              ∧ queue d q.val = { queue e q.val with sqHead := ((queue e q.val).sqHead + 1) % sqSize e q.val }
              ∧ (law8 e cl = none → clientAudit d cl = d))
          ∧ (∀ k, refusalOf e raw b = none → freeSlot e = some k → b.be = true → e.sched.planDirty = false →
              ∃ j, mget? d.sched.slots k = some j ∧ j.desc = b ∧ j.sq = q.val ∧ j.index = (queue e q.val).sqHead
                ∧ j.running = false ∧ j.ended = false ∧ d.sched.be = e.sched.be ++ [k]
                ∧ (client d cl).inflight = (client e cl).inflight + 1
                ∧ d.sched.rrNext = (q.val + 1) % 64 ∧ (client d cl).submitted = (client e cl).submitted + 1
                ∧ queue d q.val = { queue e q.val with sqHead := ((queue e q.val).sqHead + 1) % sqSize e q.val }
                ∧ (law8 e cl = none → clientAudit d cl = d)))))

/-- SCH_ABORT (R260): a job that waits leaves its queue, and its ABORTED record falls due with counters of 0; a job that runs, alone in
scope 0 or in both halves, ends there. The identity of R38 is audited as a scope ends, and a violation makes the status FAILED_FAULT. A slot
that holds no job, or one that has ended, changes nothing. -/
def Obligations.AbortComplete : Prop :=
  ∀ (s : State) (src : Iface) (k : Fin 8192), isOwner s.dev src = true →
    let ends := fun (x : Scope) => if auditable x = true ∧ auditOk x = false then Status.failedFault else .aborted
    let a := s.dev.sc0
    let b := s.dev.sc1
    ((∀ j, mget? s.dev.sched.slots k.val = some j → j.ended = true) → exec (.schAbort src k) s = .next s)
    ∧ (∀ j, mget? s.dev.sched.slots k.val = some j → j.ended = false →
      (j.running = false → ∃ t r, exec (.schAbort src k) s = .next t ∧ t.pending = s.pending
        ∧ t.dev.sched.due = s.dev.sched.due ++ [r] ∧ r.status = .aborted ∧ r.slot = some k.val
        ∧ k.val ∉ t.dev.sched.plan ∧ k.val ∉ t.dev.sched.be ∧ t.dev.tiles = s.dev.tiles ∧ t.dev.tmg = s.dev.tmg)
      ∧ (j.running = true → j.half = false → a.jobValid = true → a.slot = k.val → a.kind = .device → b.jobValid = false →
        ∃ t r, exec (.schAbort src k) s = .next t ∧ t.pending = s.pending ∧ t.dev.sc0.jobValid = false
          ∧ t.dev.sched.due = s.dev.sched.due ++ [r] ∧ r.status = ends a ∧ r.slot = some k.val)
      ∧ (j.running = true → j.half = true → a.jobValid = true → a.slot = k.val → a.kind = .west →
        b.jobValid = true → b.slot = k.val → b.kind = .east →
        ∃ t r, exec (.schAbort src k) s = .next t ∧ t.pending = s.pending ∧ t.dev.sc0.jobValid = false ∧ t.dev.sc1.jobValid = false
          ∧ t.dev.sched.due = s.dev.sched.due ++ [r] ∧ r.status = (if s.dev.flt.primary = 0 then ends a else ends b) ∧ r.slot = some k.val))

/-! ### Images (R97, R98) and pixel engines (chapter 05) -/

/-- Validation (R97, R98). VALIDATE by the owner makes BUSY 1 for the handle and fetches the pages of its object that are not in T1. At the end,
once all of them are there, the first failing check is reported, or the image joins the table, 0x12 where that is full and 0x10 where the object
was written meanwhile; a handle that names no object reports 0x14, a failed or poisoned read, or an object outside T1, 0x13. INVALIDATE of a
validated image no job names takes it out at once, and of one that a job names when that job ends, with code 0x00; of any other image it
reports 0x11. OP 3 starts nothing and leaves a class 0 record. A command while BUSY only sets DROPPED. -/
def Obligations.ImagesComplete : Prop :=
  ∀ (s : State),
    let m := s.dev.imgs
    (∀ src (h : BitVec 16), isOwner s.dev src = true →
      let n := h.toNat
      let drop := { s with dev := { s.dev with imgs := { m with dropped := true } } }
      let rsvd := { fspec 0 0x08 0x02 with detail := 3 * 2 ^ 30 + n }
      (m.busy = true → exec (.validate src h) s = .next drop ∧ exec (.invalidate src h) s = .next drop
        ∧ exec (.imgCtrlReserved src h) s = .next { s with dev := record drop.dev rsvd })
      ∧ (m.busy = false →
        let started := { regPut s.dev 0x82C0 (2 ^ 30 + n) with imgs := { m with busy := true, cur := n, dirty := false, handle := n } }
        let ended := fun im => { s with dev := { regPut s.dev 0x82C0 (2 * 2 ^ 30 + n) with imgs := im } }
        (objOf s.dev n = none → exec (.validate src h) s = .next { s with dev := started })
        ∧ (∀ h0 o, objOf s.dev n = some (h0, o) → exec (.validate src h) s = .next { s with
            dev := requestPages started (missing h0 o 0 (o.npages * pageSize)) })
        ∧ (n ∈ m.valid → imageNamed s.dev n = false → exec (.invalidate src h) s = .next (ended { m with
            handle := n, code := 0, valid := m.valid.filter (fun i => i != n) }))
        ∧ (n ∈ m.valid → imageNamed s.dev n = true → n ∉ m.invalPend → exec (.invalidate src h) s = .next (ended { m with
            handle := n, code := 0, invalPend := m.invalPend ++ [n] }))
        ∧ (n ∈ m.valid → imageNamed s.dev n = true → n ∈ m.invalPend → exec (.invalidate src h) s = .next (ended { m with
            handle := n, code := 0 }))
        ∧ (n ∉ m.valid → exec (.invalidate src h) s = .next (ended { m with handle := n, code := 0x11 }))
        ∧ exec (.imgCtrlReserved src h) s = .next { s with dev := record s.dev rsvd }))
    ∧ (m.busy = false → ∀ failed, exec (.validationDone failed) s = .next s)
    ∧ (m.busy = true →
      let others := m.valid.filter (fun i => i != m.cur)
      let fails := fun k => { s with dev := { s.dev with imgs := { m with busy := false, code := k, valid := others } } }
      (∀ failed, objOf s.dev m.cur = none → exec (.validationDone failed) s = .next (fails 0x14))
      ∧ (∀ h0 o failed, objOf s.dev m.cur = some (h0, o) →
        let unread := failed = true ∨ o.cls = .far ∨ o.cls = .peer ∨ spanBad o 0 (o.npages * pageSize) = true
        (unread → exec (.validationDone failed) s = .next (fails 0x13))
        ∧ (¬ unread → missing h0 o 0 (o.npages * pageSize) ≠ [] → exec (.validationDone failed) s = .next s)
        ∧ (¬ unread → missing h0 o 0 (o.npages * pageSize) = [] →
          let c := checkImage (imageBytes s.dev h0 o) (o.npages * pageSize) s.dev.boot.keys
          (c ≠ 0 → exec (.validationDone failed) s = .next (fails c))
          ∧ (c = 0 → m.dirty = true → exec (.validationDone failed) s = .next (fails 0x10))
          ∧ (c = 0 → m.dirty = false → m.cur ∉ m.valid → 1024 ≤ m.valid.length → exec (.validationDone failed) s = .next (fails 0x12))
          ∧ (c = 0 → m.dirty = false → (m.cur ∈ m.valid ∨ m.valid.length < 1024) → exec (.validationDone failed) s = .next { s with
            dev := { s.dev with imgs := { m with busy := false, code := 0, valid := others ++ [m.cur] } } }))))

/-- The pixel engines (R115 to R119, R134, Table 5-11). The command at the front executes when its block is well formed and its sources are
there; its output, rounded by the RM of its tile, leaves for its destination and its completion word, status 0, is ready. REMOSAIC takes each
pixel's channel of the pattern; PATCHIFY gathers each token's pixels; UNPATCHIFY scatters them; the convolution accumulates the products of its
window, zeros outside the source; pooling takes the window's maximum, or the mean of its elements inside the source; CROP_AND_RESIZE samples each
box, to nearest even. The values of a colour conversion, and of a sum that its order could change, are free ones (notes/assumptions/17.md), the same
for the same command and source. A malformed block completes with status 1, and a command is executed only by the event of its own operation. -/
def Obligations.PixelEnginesComplete : Prop :=
  ∀ (s : State) (n : Fin 16) (c : EngCmd) (rest : List EngCmd) (bs : List Byte),
    let b := pxeBlk c.bytes
    let z := fmtBits b.fout
    (PixelReady s.dev n.val 1 1 c rest bs →
        let codes := (List.range (b.w * b.h * b.cout)).map (fun i => Config.pixelFree 1 c.bytes [] bs i % 2 ^ z)
        ∃ t, exec (.colourConversion n) s = .next t ∧ t.pending = s.pending
          ∧ PixelDone (pixelRead s.dev c 1) n.val c rest (packLanes z codes) (badNums (codes.map (decFmt b.fout))) (b.w * b.h) t.dev)
    ∧ (∀ (pat : Fin 4) (depth : Fin 17), PixelReady s.dev n.val 2 1 c rest bs → b.cin = 3 → 8 ≤ depth.val →
        let z := if depth.val = 8 then 1 else 2
        let px := fun y x => leBytes z (leAt bs (y * b.pitch + (3 * x + bayerChannel pat.val y x) * z) z % 2 ^ depth.val)
        ∃ t, exec (.remosaic n pat depth) s = .next t ∧ t.pending = s.pending
          ∧ PixelDone (pixelRead s.dev c 1) n.val c rest ((List.range (b.h * b.w)).map (fun i => px (i / b.w) (i % b.w))).flatten 0
              (b.w * b.h) t.dev)
    ∧ (∀ (p : Fin 17) (f : Fin 5), PixelReady s.dev n.val 3 f.val c rest bs → patchOk p.val b.cin f.val = true →
        b.w % p.val = 0 → b.h % p.val = 0 →
        let cols := b.w / p.val
        let xs := ((List.range (cols * (b.h / p.val))).map (fun k => (tokenElems p.val b.cin f.val).map (fun e =>
          srcNum b bs (e.1 * b.h + k / cols * p.val + e.2.1) (k % cols * p.val + e.2.2.1) e.2.2.2))).flatten
        ∃ t, exec (.patchify n p f) s = .next t ∧ t.pending = s.pending
          ∧ PixelDone (pixelRead s.dev c f.val) n.val c rest (packOut b.fout (engRound c) xs) (badNums xs) (b.w * b.h * f.val) t.dev)
    ∧ (∀ (p : Fin 17) (f : Fin 5) (oh ow : Nat), PixelReady s.dev n.val 4 1 c rest bs → patchOk p.val b.cout f.val = true →
        0 < oh → 0 < ow →
        let z := fmtBits b.fin
        let elem := fun f' y x ch =>
          let i := ((f' * p.val + y % p.val) * p.val + x % p.val) * b.cout + ch
          decFmt b.fin (fld (leAt bs ((y / p.val * ceilDiv ow p.val + x / p.val) * b.pitch + i * z / 8) 5) (i * z % 8) z)
        let xs := (List.range (f.val * oh * ow * b.cout)).map (fun i =>
          elem (i / (b.cout * ow * oh)) (i / (b.cout * ow) % oh) (i / b.cout % ow) (i % b.cout))
        ∃ t, exec (.unpatchify n p f oh ow) s = .next t ∧ t.pending = s.pending
          ∧ PixelDone (pixelRead s.dev c 1) n.val c rest (packOut b.fout (engRound c) xs) (badNums xs) (oh * ow * f.val) t.dev)
    ∧ (∀ (kh kw : Fin 8) (st : Fin 3) (py px : Fin 8) (oh ow : Nat) (wh : BitVec 16) (woff : Nat) (wf : Fin 16) (ws : List Byte),
        PixelReady s.dev n.val 5 1 c rest bs → 0 < kh.val → 0 < kw.val → 0 < st.val →
        b.cin ≤ 32 → b.cout ≤ 32 → (b.cin ≤ 4 ∨ b.cout ≤ 4) → wf.val ∈ [1, 3, 4, 5] →
        let taps := kh.val * kw.val * b.cin
        let len := ceilDiv (b.cout * kh.val * kw.val * b.cin * fmtBits wf.val) 8
        len ≠ 0 → engWaits s.dev c.scope wh.toNat woff len = [] → engLines s.dev c.scope wh.toNat woff len = .ok ws →
        let inside := fun y x => decide (py.val ≤ y) && decide (y < b.h + py.val) && decide (px.val ≤ x) && decide (x < b.w + px.val)
        let prod := fun i j co q =>
          let y := i * st.val + q / (kw.val * b.cin)
          let x := j * st.val + q / b.cin % kw.val
          let w := decFmt wf.val (elemAt ws (fmtBits wf.val) (co * taps + q))
          if inside y x then numMul (srcNum b bs (y - py.val) (x - px.val) (q % b.cin)) w else numMul (.fin false 0 1) w
        let xs := (List.range (oh * ow * b.cout)).map (fun e =>
          accumulate c ((List.range taps).map (prod (e / (b.cout * ow)) (e / b.cout % ow) (e % b.cout))))
        ∃ t, exec (.vaeConvolution n kh kw ⟨st, py, px, wh, woff, wf⟩ oh ow) s = .next t ∧ t.pending = s.pending
          ∧ PixelDone (engTouch (pixelRead s.dev c 1) c.scope wh.toNat woff len) n.val c rest (packOut b.fout (engRound c) xs) (badNums xs)
              (oh * ow) t.dev)
    ∧ (∀ (avg : Bool) (k st : Fin 9) (oh ow : Nat), PixelReady s.dev n.val 6 1 c rest bs → 2 ≤ k.val → 0 < st.val → b.cin = b.cout →
        let win := fun i j ch => ((List.range (k.val * k.val)).map (fun q => (i * st.val + q / k.val, j * st.val + q % k.val))).filterMap
          (fun q => if q.1 < b.h && q.2 < b.w then some (srcCode b bs q.1 q.2 ch) else none)
        let xs := (List.range (oh * ow * b.cin)).map (fun q =>
          let w := win (q / (b.cin * ow)) (q / b.cin % ow) (q % b.cin)
          if avg then meanNum (w.map (decFmt b.fin)) else maxNum b.fin w)
        ∃ t, exec (.pxePooling n avg k st oh ow) s = .next t ∧ t.pending = s.pending
          ∧ PixelDone (pixelRead s.dev c 1) n.val c rest (packOut b.fout (engRound c) xs) (badNums xs) (oh * ow) t.dev)
    ∧ (∀ (bh : BitVec 16) (boff : Nat) (boxes : Fin 4097) (oh ow : Fin 513) (bx : List Byte),
        PixelReady s.dev n.val 7 1 c rest bs → 0 < boxes.val → 0 < oh.val → 0 < ow.val → b.cin = b.cout →
        let len := 16 * boxes.val
        engWaits s.dev c.scope bh.toNat boff len = [] → engLines s.dev c.scope bh.toNat boff len = .ok bx →
        let rs := (List.range boxes.val).map (fun k => cropBox b bs (slice bx (16 * k) 16) oh.val ow.val)
        let zeros := List.replicate (oh.val * ow.val * b.cin) (Num.fin false 0 1)
        ∃ t, exec (.cropAndResize n bh boff boxes oh ow) s = .next t ∧ t.pending = s.pending
          ∧ PixelDone (engTouch (pixelRead s.dev c 1) c.scope bh.toNat boff len) n.val c rest
              (packOut b.fout (fun _ => .rne) (rs.map (fun r => r.getD zeros)).flatten) (countIf rs (fun r => r.isNone))
              (boxes.val * oh.val * ow.val) t.dev)
    ∧ (∀ pat depth p q f f' oh ow kh kw conv avg k k' bh boff boxes oh' ow',
        let all : List (Instr × Nat) := [(.colourConversion n, 1), (.remosaic n pat depth, 2), (.patchify n p f, 3), (.unpatchify n q f' oh ow, 4),
          (.vaeConvolution n kh kw conv oh ow, 5), (.pxePooling n avg k k' oh ow, 6), (.cropAndResize n bh boff boxes oh' ow', 7)]
        ∀ x ∈ all,
          ((pxe s.dev n.val).cur ≠ none ∨ (pxe s.dev n.val).queue = [] → exec x.1 s = .next s)
          ∧ ((pxe s.dev n.val).cur = none → (pxe s.dev n.val).queue = c :: rest →
            (b.op ≠ x.2 → exec x.1 s = .next s)
            ∧ (b.op = x.2 → pxeOk b = false → exec x.1 s = .next { s with
                dev := pxePop s.dev n.val rest (some c) (some (leBytes 2 1 ++ leBytes 2 0 ++ leBytes 4 0)) })))
    ∧ (∀ w, (pxe s.dev n.val).cur = some c → (pxe s.dev n.val).word = some w → exec (.pxeCompletion n) s = .next { s with
        dev := engineWord (setPxe s.dev n.val { pxe s.dev n.val with cur := none, word := none }) c w })

/-! ### Codec engines (chapter 13) -/

/-- CONFIG, DRAIN and CLOSE (R267, R270, R272, R274, R277, Table 13-5). The front command executes once its context can be read: CONFIG with a
well-formed, supported parameter block sets its context up and frees that context's buffers, ending MALFORMED, UNSUPPORTED or, where an encoder's
rate control fails R277, BAD_RC; DRAIN hands the next waiting picture, the one of lowest order count, to the consumer; CLOSE frees the context's
buffers and leaves it unconfigured. What a command leaves takes effect at VCE_COMPLETION. With no context object every command ends NO_CONTEXT, and
one whose operation is not the front command's, or at an engine at work, changes nothing.

The end of a command, a fault and a reset (R28, R270, R271, R281). VCE_COMPLETION makes what the command leaves take effect and sends its word
to the buffer its slot named, none where it named none; a malformed front command ends at once, and the queue moves on. C5 is audited then, and a
pool that does not balance stops the engine. A fault leaves a class 3 record; the engine stops with its contexts unconfigured, its CURRENT marks
ended and its holds kept, and the job of its command ends. The owner's reset makes it accept commands again. -/
def Obligations.CodecControlComplete : Prop :=
  (∀ (s : State) (n : Fin 16) (c : EngCmd) (rest : List EngCmd),
    let v := vce s.dev n.val
    let k := leAt c.bytes 2 1
    let waiting := ctxWaiting v k
    let e := ctxRead s.dev n.val c
    let all : List (Instr × Nat) := [(.configDec n, 1), (.configEnc n, 2), (.decode n, 3), (.vceDrain n, 4), (.encode n, 5),
      (.vceRelease n, 6), (.vceClose n, 7)]
    (∀ op b, CodecReady s.dev n.val op c rest →
      engWaits e c.scope (leAt c.bytes 6 2) (leAt c.bytes 0x18 8) 128 = [] →
      engLines e c.scope (leAt c.bytes 6 2) (leAt c.bytes 0x18 8) 128 = .ok b →
      let e := engTouch e c.scope (leAt c.bytes 6 2) (leAt c.bytes 0x18 8) 128
      let ends := fun w ctxs bufs => codecLeaves e n.val c rest w ctxs bufs v.bufs
      let x := fun dir => ({ dir := dir, params := b, outq := [], full := prmRate b * prmDelay b * prmScale b, pics := 0, sps := [], pps := []
                             hist := Config.codecHist 0 c.bytes b } : VCtx)
      (op = 1 → decFormOk b = true → decSupported b = true → exec (.configDec n) s = .next { s with
        dev := ends (vceStatus 0 0) (mset v.ctxs k (x .dec)) (dropCtx v.bufs k) })
      ∧ (op = 1 → decFormOk b = false → exec (.configDec n) s = .next { s with dev := ends (vceStatus 1 waiting) v.ctxs v.bufs })
      ∧ (op = 1 → decFormOk b = true → decSupported b = false → exec (.configDec n) s = .next { s with
        dev := ends (vceStatus 2 waiting) v.ctxs v.bufs })
      ∧ (op = 2 → encFormOk b = true → encSupported b = true → (prmRc b = 0 ∨ rateOk b = true) →
        exec (.configEnc n) s = .next { s with dev := ends (vceStatus 0 0) (mset v.ctxs k (x .enc)) (dropCtx v.bufs k) })
      ∧ (op = 2 → encFormOk b = false → exec (.configEnc n) s = .next { s with dev := ends (vceStatus 1 waiting) v.ctxs v.bufs })
      ∧ (op = 2 → encFormOk b = true → encSupported b = false → exec (.configEnc n) s = .next { s with
        dev := ends (vceStatus 2 waiting) v.ctxs v.bufs })
      ∧ (op = 2 → encFormOk b = true → encSupported b = true → prmRc b ≠ 0 → rateOk b = false →
        exec (.configEnc n) s = .next { s with dev := ends (vceStatus 6 0) (mdel v.ctxs k) (dropCtx v.bufs k) }))
    ∧ (CodecReady s.dev n.val 4 c rest →
      let ends := fun w ctxs bufs => codecLeaves e n.val c rest w ctxs bufs v.bufs
      (ctxOf v k .dec = none → exec (.vceDrain n) s = .next { s with dev := ends (vceStatus 3 waiting) v.ctxs v.bufs })
      ∧ (∀ x, ctxOf v k .dec = some x →
        (x.outq = [] → exec (.vceDrain n) s = .next { s with dev := ends (vceStatus 0 0) v.ctxs v.bufs })
        ∧ (∀ j, nextOut v.bufs x.outq = some j → ∃ bufs h, exec (.vceDrain n) s = .next { s with
              dev := ends ⟨0, j, 0, (vbuf v.bufs j).poc, 0, 0, 0, (x.outq.filter (fun i => i != j)).length⟩
                (mset v.ctxs k { x with outq := x.outq.filter (fun i => i != j), hist := h }) bufs }
            ∧ (vbuf bufs j).hold = true ∧ (∀ i, i ≠ j → mget? bufs i = mget? v.bufs i))))
    ∧ (CodecReady s.dev n.val 7 c rest → exec (.vceClose n) s = .next { s with
        dev := codecLeaves e n.val c rest (vceStatus 0 0) (mdel v.ctxs k) (dropCtx v.bufs k) v.bufs })
    ∧ (∀ x ∈ all,
      ((v.cur ≠ none ∨ v.queue = [] ∨ v.faulted = true) → exec x.1 s = .next s)
      ∧ (v.cur = none → v.queue = c :: rest → v.faulted = false →
        ((leAt c.bytes 0 1 ≠ x.2 ∨ leAt c.bytes 1 1 ≠ 1) → exec x.1 s = .next s)
        ∧ (leAt c.bytes 0 1 = x.2 → leAt c.bytes 1 1 = 1 → ctxObject s.dev n.val = 0 → exec x.1 s = .next { s with
            dev := codecLeaves s.dev n.val c rest (vceStatus 3 waiting) v.ctxs v.bufs v.bufs }))))
  ∧ (∀ (s : State) (n : Fin 16),
    let v := vce s.dev n.val
    (∀ c w ctxs bufs, v.cur = some c → v.word = some w → v.after = some (ctxs, bufs) →
      exec (.vceCompletion n) s = .next { s with dev := vceAudit (engineWord (setVce s.dev n.val { v with
        cur := none, word := none, after := none, ctxs := ctxs, bufs := bufs }) c w) n.val c.slot })
    ∧ (∀ c rest, v.cur = none → v.queue = c :: rest → v.faulted = false →
      (leAt c.bytes 1 1 ≠ 1 ∨ leAt c.bytes 0 1 = 0 ∨ 7 < leAt c.bytes 0 1) →
      let k := leAt c.bytes 2 1
      let st := if ctxObject s.dev n.val = 0 then 3 else 1
      exec (.vceCompletion n) s = .next { s with dev := vceAudit (engineWord (setVce s.dev n.val { v with
        queue := rest ++ v.wait.take (32 - rest.length), wait := v.wait.drop (32 - rest.length), lastCtx := k })
        c (vceWord (vceStatus st (ctxWaiting v k)))) n.val c.slot })
    ∧ (∀ d slot,
        let x := vce d n.val
        let sum := vceFree d n.val x + vceProducer x + vceConsumer x
        (sum = vcePool d n.val → vceAudit d n.val slot = d)
        ∧ (sum ≠ vcePool d n.val → vceAudit d n.val slot = vceHalt (endJobs
            (record d { fspec 3 0x0D 0x08 with unit := n.val, detail := lawDetail 5 (vcePool d n.val) sum })
            (scopesOf d [slot]) 3 (faultCode 3 0x0D 0x08)) n.val))
    ∧ (∀ parity, v.faulted = true → exec (.vceFault n parity) s = .next s)
    ∧ (∀ parity, v.faulted = false →
        let code := if parity then 0x05 else 0x04
        let r := record s.dev { fspec 3 0x0D code with
          unit := n.val, slot := (v.cur.map (fun c => c.slot)).getD 0xFFFF
          scope := (v.cur.map (fun c => scopeCode (scope s.dev c.scope).kind)).getD 0 }
        let d := setVce r n.val { v with
          faulted := true, cur := none, word := none, after := none, ctxs := []
          bufs := v.bufs.foldl (fun m p => if p.2.mark = .current then setVbuf m p.1 { p.2 with mark := .unused } else m) v.bufs }
        (v.cur = none → exec (.vceFault n parity) s = .next { s with dev := d })
        ∧ (∀ c, v.cur = some c → exec (.vceFault n parity) s = .next { s with
            dev := endJobs d (scopesOf d [c.slot]) 3 (faultCode 3 0x0D code) }))
    ∧ (∀ src, isOwner s.dev src = true →
        ((v.cur = none ∨ v.faulted = true) → exec (.vceReset src n) s = .next { s with
          dev := setVce s.dev n.val { v with
            queue := v.wait.take 32, wait := v.wait.drop 32, pages := [], ctxs := [], faulted := false } })
        ∧ (v.cur ≠ none → v.faulted = false → exec (.vceReset src n) s = .next s)))

/-- DECODE and ENCODE (R273, R274, R278). With its context and its source, a DECODE whose stream asks for more than Table 13-1 or the context
gives ends UNSUPPORTED, and one with no free buffer in the pool NO_BUFFER. With a free buffer that fits it takes the lowest such buffer as CURRENT
and ends DONE; an ENCODE whose output area can be written ends DONE with at most as many bytes as that area holds, after one to four attempts, or
CAPACITY. Samples, coded bytes and marks that H.265 decides are free (notes/assumptions/18.md). No other context changes. -/
def Obligations.CodecPicturesComplete : Prop :=
  ∀ (s : State) (n : Fin 16) (op : Nat) (c : EngCmd) (rest : List EngCmd) (x : VCtx) (bs : List Byte),
    CodecReady s.dev n.val op c rest →
    let v := vce s.dev n.val
    let k := leAt c.bytes 2 1
    let e := ctxRead s.dev n.val c
    let enc := op = 5
    let src := if enc then (leAt c.bytes 6 2, leAt c.bytes 0x18 8, picSpan x.params (prmW x.params) (prmH x.params) (leAt c.bytes 0x20 4))
      else (leAt c.bytes 4 2, leAt c.bytes 8 8, leAt c.bytes 0x10 4)
    let cmd := if enc then Instr.encode n else .decode n
    let ends := fun (d : Dev) st => codecLeaves d n.val c rest (vceStatus st (ctxWaiting v k)) v.ctxs v.bufs v.bufs
    (op = 3 ∨ enc) →
    (ctxOf v k (if enc then .enc else .dec) = none → exec cmd s = .next { s with dev := ends e 3 })
    ∧ (ctxOf v k (if enc then .enc else .dec) = some x →
      engWaits e c.scope src.1 src.2.1 src.2.2 = [] → engLines e c.scope src.1 src.2.1 src.2.2 = .ok bs →
      let d := engTouch e c.scope src.1 src.2.1 src.2.2
      let refused := (nalUnits bs none).any (fun u => nalType u == 33 && !spsOk x.params (spsOf (u.drop 2))) = true
      let table := fld (regGet d (vceBase n.val + 8)) 0 16
      (¬ enc → refused → exec cmd s = .next { s with dev := ends d 2 })
      ∧ ((enc ∨ ¬ refused) → takeBuf d n.val v = none → exec cmd s = .next { s with dev := ends d 4 })
      ∧ (∀ i row, (enc ∨ ¬ refused) → takeBuf d n.val v = some i → engWaits d 2 table (16 * i) 16 = [] →
        engRead d 2 table (16 * i) 16 = .ok row →
        let p := poolPlace row
        let span := picSpan x.params (prmW x.params) (prmH x.params) p.2.2
        (bufFits d x.params p = false → exec cmd s = .next { s with dev := ends d 1 })
        ∧ (∀ f, bufFits d x.params p = true → engStoreLines d 2 p.1 p.2.1 [] = .ok f → engWaits d 2 p.1 p.2.1 span = [] →
          engHeld d 2 p.1 p.2.1 span = false →
          let out := rebase d c.scope (leAt c.bytes 4 2)
          (enc → ∃ h0 o, objOf d out = some (h0, o) ∧ o.cls = .resident ∧ o.rdonly = false ∧ leAt c.bytes 8 8 % 64 = 0
            ∧ (∀ st ∈ d.hbm.stk, st.2.runLeft = 0)
            ∧ (out - h0) * 2 ^ 32 + leAt c.bytes 8 8 + leAt c.bytes 0x10 4 ≤ o.npages * pageSize) →
          ∃ t w ctxs bufs, exec cmd s = .next t ∧ t.pending = s.pending ∧ (w.status = 0 ∨ (enc ∧ w.status = 5))
            ∧ (vce t.dev n.val).cur = some c ∧ (vce t.dev n.val).queue = rest ++ v.wait.take (32 - rest.length)
            ∧ (vce t.dev n.val).word = some (vceWord w) ∧ (vce t.dev n.val).after = some (ctxs, bufs)
            ∧ (∀ k', k' ≠ k → mget? ctxs k' = mget? v.ctxs k')
            ∧ (w.status = 0 → (vbuf (vce t.dev n.val).bufs i).mark = .current)
            ∧ (enc → w.status = 0 → w.bytes ≤ leAt c.bytes 0x10 4 ∧ 1 ≤ w.attempts ∧ w.attempts ≤ 4))))

/-- R275: RELEASE of a held buffer clears its hold bit; of one whose hold bit is clear it ends BAD_RELEASE, leaves every buffer as it was
and records a class 0 fault. A held buffer that is still marked keeps its mark, so it is not free; one whose mark is UNUSED is. -/
def Obligations.CodecRelease : Prop :=
  ∀ (s : State) (n : Fin 16) (c : EngCmd) (rest : List EngCmd), CodecReady s.dev n.val 6 c rest →
    let v := vce s.dev n.val
    let i := leAt c.bytes 0x14 4
    let b := vbuf v.bufs i
    let waiting := ctxWaiting v (leAt c.bytes 2 1)
    let ends := fun st bufs => codecLeaves (ctxRead s.dev n.val c) n.val c rest (vceStatus st waiting) v.ctxs bufs v.bufs
    (b.hold = true → ∃ bufs, exec (.vceRelease n) s = .next { s with dev := ends 0 bufs }
        ∧ bufs = setVbuf v.bufs i { b with hold := false } ∧ (vbuf bufs i).hold = false ∧ (vbuf bufs i).mark = b.mark
        ∧ (mget? bufs i = none ↔ b.mark = .unused)
        ∧ (∀ m, mget? (setVbuf m i { b with hold := false, mark := .unused }) i = none))
    ∧ (b.hold = false → exec (.vceRelease n) s = .next { s with
        dev := record (ends 7 v.bufs) { fspec 0 0x0D 0x02 with unit := n.val, detail := i } })

/-! ### Emulation ports (chapter 14) -/

/-- EN of an emulation port (R287). Setting it with every check passed enables the port: no frame yet, the first Frame Start 100
microseconds away, EXP_DELAY tickets from 0 issued at the exposure the table holds now. A check that fails leaves EN 0 and shows its
number. Clearing EN discards every commit and drives EMP_OK low. A write that does not change EN does nothing. -/
def Obligations.EmulationEnableComplete : Prop :=
  ∀ (s : State) (src : Iface) (n : Fin 16), isOwner s.dev src = true →
    let e := emp s.dev n.val
    let c := empCfg s.dev n.val
    let x := exposureNow s.dev n.val e
    (e.enabled = false → empCheck s.dev n.val c = 0 → ∃ t, exec (.empEnable src n) s = .next t ∧ t.pending = s.pending
        ∧ emp t.dev n.val = { e with
          enabled := true, cfgErr := 0, frame := none, fsLocal := s.dev.clk.localNs + 100000, edge := none, repeats := 0, latched := x
          tickets := (List.range c.expDelay).map (fun i => ⟨i, i + 1, x, e.evSeq + i⟩), ticketNo := c.expDelay
          evSeq := e.evSeq + c.expDelay, crcBad := false, source := none, phase := if e.phase = .off then .waiting else e.phase }
        ∧ bit (empReg t.dev n.val 0) 31 = true ∧ t.dev.tmg = s.dev.tmg)
    ∧ (e.enabled = false → empCheck s.dev n.val c ≠ 0 → exec (.empEnable src n) s = .next { s with
        dev := setEmp s.dev n.val { e with cfgErr := empCheck s.dev n.val c } })
    ∧ (e.enabled = true → exec (.empEnable src n) s = .next s)
    ∧ (e.enabled = true → ∃ t, exec (.empDisable src n) s = .next t ∧ t.pending = s.pending
        ∧ (emp t.dev n.val).enabled = false ∧ (emp t.dev n.val).commits = [] ∧ (emp t.dev n.val).ok = false
        ∧ bit (empReg t.dev n.val 0) 31 = false ∧ t.dev.tmg = s.dev.tmg ∧ t.dev.flt = s.dev.flt)
    ∧ (e.enabled = false → exec (.empDisable src n) s = .next s)

/-- Frames of an emulation port (R28, R285, R286, R297, R299, R305, R309). A Frame Start that is due comes at its time, one LINE_PERIOD after the
edge in sync mode, and makes the next frame the one on air, of A lines, issuing one ticket; while SAFE_STATE_N is low it is a safe frame, counted,
with EMP_OK low. C5 is audited for both sides. FRAME_END sends the frame's lines as packets at their time, on the port's virtual channel, and
the port blanks. An uncorrectable read ends the frame after its line, with a class 2 record. In sync mode an FSYNC edge lets the next Frame Start
come, or is counted as ignored while a frame is not over.

Verification (R295, R296, R299): the eligible pass that comes first starts while none runs; a base pass that ends gives its candidate
level 1 for that frame with the CRC of the frame as it would be sent, and an overlay pass level 2; it waits for the pages it lacks, and one whose
read fails loses the candidate, with a class 2 record. -/
def Obligations.EmulationFramesComplete : Prop :=
  (∀ (s : State) (n : Fin 16),
    let e := emp s.dev n.val
    let c := empCfg s.dev n.val
    let vc := fld (empReg s.dev n.val 0) 25 2
    (frameDue s.dev n.val = false → exec (.frameStart n) s = .next s)
    ∧ (frameDue s.dev n.val = true →
        let due := match c.sync, e.edge with
          | true, some t => t + c.period
          | _, _ => startFrom s.dev n.val
        ∃ d good, (let a := empAudit (empAudit d n.val 0) n.val 1
            exec (.frameStart n) s = .next { s with dev := setOk a n.val (good && (emp a n.val).enabled) })
          ∧ (let e' := emp d n.val
             e'.frame = some (nextFrame e) ∧ e'.phase = .active ∧ e'.edge = none
             ∧ e'.fsLocal = max s.dev.clk.localNs due ∧ d.clk.localNs = e'.fsLocal
             ∧ e'.lines.length = activeLines c ∧ e'.ticketNo = (e.ticketNo + 1) % 2 ^ 32
             ∧ (s.dev.ports.safeIn = true → e'.safeAir = true ∧ e'.onAir = none ∧ e'.source = none ∧ good = false
                 ∧ e'.cSafe = satAdd 16 e.cSafe 1)))
    ∧ (∀ d side,
        let x := emp d n.val
        let bs := if side = 0 then x.bufs0 else x.bufs1
        let sum := countIf (List.range (empPool d n.val side)) (fun i => (mget? bs i).isNone) + bs.length
        (sum = empPool d n.val side → empAudit d n.val side = d)
        ∧ (sum ≠ empPool d n.val side → empAudit d n.val side = empDisable (endJobs
            (record d { fspec 3 0x0F 0x08 with unit := n.val, detail := lawDetail 5 (empPool d n.val side) sum })
            (scopesOf d (empJobs x)) 3 (faultCode 3 0x0F 0x08)) n.val))
    ∧ (e.phase ≠ .active → exec (.frameEnd n) s = .next s)
    ∧ (∀ f, e.phase = .active → e.frame = some f → ∃ t, exec (.frameEnd n) s = .next t ∧ t.pending = s.pending
        ∧ t.dev.out = s.dev.out ++ [.frame n.val (f % 65535 + 1) vc (linePackets c e.lines)]
        ∧ (emp t.dev n.val).phase = (if e.enabled = true then .blank else .off)
        ∧ (emp t.dev n.val).lines = [] ∧ t.dev.clk.localNs = max s.dev.clk.localNs (e.fsLocal + activeLines c * c.period))
    ∧ (∀ line : Fin 4105, e.phase ≠ .active ∨ e.onAir = none → exec (.empReadError n line) s = .next s)
    ∧ (∀ (line : Fin 4105) x, e.phase = .active → e.onAir = some x → ∃ t r, exec (.empReadError n line) s = .next t
        ∧ t.pending = s.pending ∧ (emp t.dev n.val).cEarlyEnd = satAdd 8 e.cEarlyEnd 1 ∧ (emp t.dev n.val).ok = false
        ∧ (emp t.dev n.val).phase ≠ .active
        ∧ .frame n.val (e.frame.getD 0 % 65535 + 1) vc (linePackets c (e.lines.take (line.val + 1))) ∈ t.dev.out
        ∧ mget? t.dev.flt.ring (s.dev.flt.seq % 256) = some r ∧ r.cls = 2 ∧ r.block = 0x0F ∧ r.code = 0x04
        ∧ r.detail = x.l0.buf % 2 ^ 64)
    ∧ (∀ after : BitVec 32,
        let d := elapse s.dev after.toNat
        (e.enabled = false ∨ c.sync = false ∨ e.edge ≠ none → exec (.fsyncInEdge n after) s = .next { s with dev := d })
        ∧ (e.enabled = true → c.sync = true → e.edge = none →
          let ready := (e.phase = .waiting ∨ e.phase = .blank) ∧ startFrom s.dev n.val ≤ s.dev.clk.localNs + after.toNat
          (ready → exec (.fsyncInEdge n after) s = .next { s with
            dev := setEmp d n.val { e with edge := some (s.dev.clk.localNs + after.toNat) } })
          ∧ (¬ ready → e.frame.isSome = true → exec (.fsyncInEdge n after) s = .next { s with
            dev := setEmp d n.val { e with cFsyncIgn := satAdd 8 e.cFsyncIgn 1 } })
          ∧ (¬ ready → e.frame = none → exec (.fsyncInEdge n after) s = .next { s with dev := d }))))
  ∧ (∀ (s : State) (n : Fin 16),
    let e := emp s.dev n.val
    let cf := empCfg s.dev n.val
    (e.enabled = false ∨ e.pass ≠ none → exec (.verifyPassStart n) s = .next s)
    ∧ (e.enabled = true → e.pass = none → exec (.verifyPassStart n) s = .next { s with
        dev := setEmp s.dev n.val { e with pass := (firstPass e).map (fun p => p.2) } })
    ∧ (e.pass = none → ∀ bad, exec (.verifyPassDone n bad) s = .next s)
    ∧ (∀ p, e.pass = some p →
        let find := fun b layer => e.commits.find? (fun c => c.side == p.side && c.buf == b && c.layer == layer)
        (∀ bad, find p.buf0 0 = none ∨ ticketFor e p.frame = none → exec (.verifyPassDone n bad) s = .next { s with
          dev := setEmp s.dev n.val { e with pass := none } })
        ∧ (∀ c t bad, find p.buf0 0 = some c → ticketFor e p.frame = some t →
          let ovl := p.buf1.bind (fun b => find b 1)
          let x1 := ovl.bind (commitEntry s.dev n.val)
          let r1 := (x1.map (fun x => passReads s.dev cf x true)).getD ([], false)
          let gone := record (setEmp s.dev n.val (dropOne { e with pass := none } c 4)) { fspec 2 0x0F 0x04 with unit := n.val, detail := c.buf }
          let lost := { s with dev := gone }
          (commitEntry s.dev n.val c = none → exec (.verifyPassDone n bad) s = .next lost)
          ∧ (∀ x0, commitEntry s.dev n.val c = some x0 →
            let r0 := passReads s.dev cf x0 false
            let unread := bad = true ∨ r0.2 = true ∨ r1.2 = true ∨ (ovl ≠ none ∧ x1 = none)
            (r0.1 ++ r1.1 ≠ [] → exec (.verifyPassDone n bad) s = .next { s with dev := requestPages s.dev (r0.1 ++ r1.1) })
            ∧ (r0.1 ++ r1.1 = [] → unread → exec (.verifyPassDone n bad) s = .next lost)
            ∧ (r0.1 ++ r1.1 = [] → ¬ unread →
              let crc := crc32 (packFrame cf.dt (frameComps s.dev cf x0 x1 (trimOf cf.dt t.e (commitER c t.e)))).flatten
              let up := fun (x : Commit) =>
                if x.side = c.side ∧ x.buf = c.buf then
                  if p.buf1 = none then { x with level := 1, vfor := p.frame, crc0 := crc } else { x with level := 2, crc1 := crc }
                else x
              exec (.verifyPassDone n bad) s = .next { s with
                dev := setEmp s.dev n.val { e with pass := none, commits := e.commits.map up } })))))

/-- Commands of jobs at an emulation port (R288 to R294). The next command that a well-formed block, EN, the token and its epoch allow is
accepted: ACQUIRE takes the lowest free buffers of the side for the job; COMMIT of a buffer that the job holds queues it, arriving
now or at ARRIVE_AT; RETURN frees a buffer that the job holds; TICKET reports a frame's ticket, or the exposure expected of one to come. Every
other command leaves the port as it was and is answered with the status that says why. COMMIT_ARRIVE lets the earliest
queued commit arrive at its time. The owner's EMPn_COMMIT commits a free buffer of side 0 in unpaired mode, and else leaves a class 0 record. -/
def Obligations.EmulationCommandsComplete : Prop :=
  ∀ (s : State) (n : Fin 16),
    let e := emp s.dev n.val
    let all : List (Instr × Nat) := [(.acquire n, 1), (.commit n, 2), (.empReturn n, 3), (.ticket n, 4)]
    (∀ x ∈ all, empFront e x.2 = none → exec x.1 s = .next s)
    ∧ (∀ x ∈ all, ∀ c, empFront e x.2 = some c →
      let e' := { e with cmds := e.cmds.erase c }
      let answer := fun k => .next { s with dev := engineWord (setEmp s.dev n.val e') c (empWord k 0 []) }
      (empCmdOk c.bytes = false → exec x.1 s = answer 1)
      ∧ (empCmdOk c.bytes = true → e.enabled = false → exec x.1 s = answer 4)
      ∧ (empCmdOk c.bytes = true → e.enabled = true → badEpoch e c = true → exec x.1 s = answer 5))
    ∧ (∀ c op, empFront e op = some c → empCmdOk c.bytes = true → e.enabled = true → badEpoch e c = false →
      let e' := { e with cmds := e.cmds.erase c }
      let answer := fun (f : Emp) w => .next { s with dev := engineWord (setEmp s.dev n.val f) c w }
      let side := cmdSide c
      let buf := leAt c.bytes 4 2
      let layer := leAt c.bytes 2 1
      let tag := wordAt c.bytes 0x10
      let want := leAt c.bytes 0x1C 4
      let free := ((List.range (empPool s.dev n.val side)).filter (fun i => ebuf e side i == .free)).take layer
      let x : Commit :=
        { side := side, layer := layer, buf := buf, ovl := layer == 0 && bit (leAt c.bytes 3 1) 0
          frameTag := tag, jobTag := wordAt c.bytes 0x14, genId := wordAt c.bytes 0x18, eR := wordAt c.bytes 0x20
          slot := some c.slot, arriveAt := some (leAt c.bytes 8 8), target := 0, level := 0, vfor := 0, arrSeq := 0, crc0 := 0, crc1 := 0 }
      let queued := setEbuf { e' with commits := e'.commits ++ [x] } side buf .cons
      let later := bit (leAt c.bytes 3 1) 1 && decide (s.dev.clk.devtime.toNat < leAt c.bytes 8 8)
      let held := buf < empPool s.dev n.val side ∧ ebuf e side buf = .prod c.slot
      let based := layer = 0 ∨ ∃ b ∈ e.commits, b.layer = 0 ∧ b.side = side ∧ b.ovl = true ∧ b.frameTag = tag ∧ arrived b = true
      (op = 1 → free ≠ [] → exec (.acquire n) s = answer (free.foldl (fun e i => setEbuf e side i (.prod c.slot)) e')
          (empWord 0 free.length ((List.range 4).map (fun k => leBytes 2 (free.getD k 0xFFFF))).flatten))
      ∧ (op = 1 → free = [] → exec (.acquire n) s = answer e' (empWord 2 0 []))
      ∧ (op = 2 → held → based → exec (.commit n) s =
          answer (if later then queued else arriveCommit s.dev n.val queued x) (empWord 0 0 []))
      ∧ (op = 2 → held → ¬ based → exec (.commit n) s = answer e' (empWord 6 0 []))
      ∧ (op = 2 → ¬ held → exec (.commit n) s = answer e' (empWord 3 0 []))
      ∧ (op = 3 → ebuf e side buf = .prod c.slot → exec (.empReturn n) s = answer (setEbuf e' side buf .free) (empWord 0 0 []))
      ∧ (op = 3 → ebuf e side buf ≠ .prod c.slot → exec (.empReturn n) s = answer e' (empWord 3 0 []))
      ∧ (op = 4 →
        let last := ((e.tickets.getLast?).map (fun t => t.frame)).getD 0
        let f := if want = 0xFFFFFFFF then last else want
        (∀ t, e.tickets.find? (fun t => t.frame == f) = some t →
          exec (.ticket n) s = answer e' (empWord 0 0 (leBytes 4 t.num ++ leBytes 4 f ++ leBytes 4 t.e.toNat)))
        ∧ (e.tickets.find? (fun t => t.frame == f) = none → last < f → exec (.ticket n) s = answer e'
          (empWord 0 1 (leBytes 4 0 ++ leBytes 4 f ++ leBytes 4 (exposureNow s.dev n.val e').toNat)))
        ∧ (e.tickets.find? (fun t => t.frame == f) = none → f ≤ last → exec (.ticket n) s = answer e' (empWord 7 0 []))))
    ∧ (nextArrival e = none → exec (.commitArrive n) s = .next s)
    ∧ (∀ at_ c, nextArrival e = some (at_, c) → exec (.commitArrive n) s = .next { s with
        dev := setEmp (untilDevtime s.dev at_) n.val (arriveCommit (untilDevtime s.dev at_) n.val e c) })
    ∧ (∀ src (buf : Fin 32), isOwner s.dev src = true →
        let ok := e.enabled = true ∧ paired s.dev = false ∧ buf.val < empPool s.dev n.val 0 ∧ ebuf e 0 buf.val = .free ∧ sideQueued e 0 < 16
        let x : Commit :=
          { side := 0, layer := 0, buf := buf.val, ovl := false, frameTag := 0, jobTag := 0, genId := 0, eR := 0, slot := none
            arriveAt := some 0, target := 0, level := 0, vfor := 0, arrSeq := 0, crc0 := 0, crc1 := 0 }
        (ok → exec (.empCommitWrite src n buf) s = .next { s with
          dev := setEmp s.dev n.val (arriveCommit s.dev n.val (setEbuf { e with commits := e.commits ++ [x] } 0 buf.val .cons) x) })
        ∧ (¬ ok → exec (.empCommitWrite src n buf) s = .next { s with
          dev := record s.dev { fspec 0 0x0F 0x02 with unit := n.val, detail := empBase n.val + 0x40 } }))

/-- Emulated registers (R302 to R304). A byte written to an address with a writable entry changes that entry's value; to any other address
it only counts; the bytes of a transfer go to addresses that rise and wrap at 0xFFFF. A read gives the entry's value, 0 where there is none. An
I3C target takes the dynamic address that a CCC gives it, and any other target ignores it. The owner reads and writes the table through
EMPn_RT_ACC and EMPn_RT_DATA.

Token and safe state of the ports (R306 to R309). A port adopts epoch, sides and dispute as the SCD has them; 50 microseconds of an
open dispute force it to safe frames with EMP_OK low, until it adopts a token without one; SAFE_STATE_N low drives EMP_OK low at every port. -/
def Obligations.EmulationTargetsComplete : Prop :=
  (∀ (s : State) (n : Fin 16),
    let e := emp s.dev n.val
    (∀ (addr : BitVec 16) (b : Byte),
      (∀ i, rtFind s.dev n.val e addr.toNat = some i → (rtEntry e i).wr = true → exec (.targetWrite n addr [b]) s = .next { s with
        dev := setEmp s.dev n.val { e with rt := mset e.rt i { rtEntry e i with value := b.toNat } } })
      ∧ ((rtFind s.dev n.val e addr.toNat = none ∨ ∃ i, rtFind s.dev n.val e addr.toNat = some i ∧ (rtEntry e i).wr = false) →
        exec (.targetWrite n addr [b]) s = .next { s with dev := setEmp s.dev n.val { e with cUnmapped := satAdd 16 e.cUnmapped 1 } })
      ∧ (∀ bs t, exec (.targetWrite n addr [b]) s = .next t →
          exec (.targetWrite n addr (b :: bs)) s = exec (.targetWrite n (addr + 1) bs) t)
      ∧ exec (.targetWrite n addr []) s = .next { s with dev := setEmp s.dev n.val e })
    ∧ (∀ (addr : BitVec 16) len, ∃ bs, bs.length = len
        ∧ exec (.targetRead n addr len) s = .next { s with dev := { s.dev with out := s.dev.out ++ [.target n.val bs] } }
        ∧ ∀ k, k < len → byteAt bs k = (match rtFind s.dev n.val e ((addr.toNat + k) % 2 ^ 16) with
          | some i => BitVec.ofNat 8 (rtEntry e i).value
          | none => 0))
    ∧ (bit (empReg s.dev n.val 0x80) 31 = false → ∀ op, exec (.targetCcc n op) s = .next s)
    ∧ (bit (empReg s.dev n.val 0x80) 31 = true →
      (∀ a, exec (.targetCcc n (.setdasa a)) s = .next { s with dev := setEmp s.dev n.val { e with dyn := some a.toNat } })
      ∧ (∀ a, exec (.targetCcc n (.entdaa a)) s = .next { s with
          dev := setEmp s.dev n.val { e with dyn := if e.dyn = none then some a.toNat else e.dyn } })
      ∧ exec (.targetCcc n .rstdaa) s = .next { s with dev := setEmp s.dev n.val { e with dyn := none } }
      ∧ exec (.targetCcc n .other) s = .next { s with dev := setEmp s.dev n.val e })
    ∧ (∀ src (i : Fin 1024), isOwner s.dev src = true →
      (∃ t, exec (.rtAccRead src n i) s = .next t ∧ t.pending = s.pending ∧ t.dev.ports = s.dev.ports
        ∧ empReg t.dev n.val 0x88 = rtWord (rtEntry e i.val) % 2 ^ 32)
      ∧ (∃ t, exec (.rtAccWrite src n i) s = .next t ∧ t.pending = s.pending
        ∧ rtEntry (emp t.dev n.val) i.val = ⟨fld (empReg s.dev n.val 0x88) 16 16, fld (empReg s.dev n.val 0x88) 8 8,
            fld (empReg s.dev n.val 0x88) 5 3, fld (empReg s.dev n.val 0x88) 3 2, bit (empReg s.dev n.val 0x88) 2⟩
        ∧ (∀ k, k ≠ i.val → rtEntry (emp t.dev n.val) k = rtEntry e k))))
  ∧ (∀ s : State,
    (∀ n : Fin 16, ∃ t, exec (.tokenAdopt n) s = .next t ∧ t.pending = s.pending
      ∧ (let e' := emp t.dev n.val
         e'.epoch = s.dev.flt.epoch ∧ e'.primary = s.dev.flt.primary ∧ e'.secValid = s.dev.flt.secValid ∧ e'.dispute = s.dev.flt.dispute
           ∧ e'.alone = false ∧ e'.forced = ((emp s.dev n.val).forced && s.dev.flt.dispute)
           ∧ (∀ c ∈ e'.commits, c.side = s.dev.flt.primary ∨ s.dev.flt.secValid = true)))
    ∧ (∃ t, exec .disputeTimeout s = .next t ∧ t.pending = s.pending
      ∧ ∀ n : Fin 16, ((emp s.dev n.val).dispute = true → (emp t.dev n.val).forced = true ∧ (emp t.dev n.val).ok = false)
        ∧ ((emp s.dev n.val).dispute = false → emp t.dev n.val = emp s.dev n.val))
    ∧ (∃ t, exec .safeStateAssert s = .next t ∧ t.pending = s.pending ∧ t.dev.ports.safeIn = true
      ∧ ∀ n : Fin 16, (emp t.dev n.val).ok = false)
    ∧ exec .safeStateRelease s = .next { s with dev := { s.dev with ports := { s.dev.ports with safeIn := false } } })

/-! ### Capture ports (chapter 14) -/

/-- Frames received (R310, R311). A Frame Start closes a frame that is open; at an enabled port it takes the lowest free buffer, or drops the
frame, counted and with a class 0 record, when none is free. A line of the port's channel and type is stored, padded or cut, as the next row;
one with an error only uses up its row; one past HEIGHT marks the frame LONG. A Frame End, a time-out FRAME_TO after the last packet, and a Frame
Start close the frame: missing lines are filled and mark it SHORT, it joins the queue, and a class 0 record is written when it carries a mark.
Any other packet is counted while the port is enabled or a frame is open.

EN of a capture port, its commands, its audit and FSYNC_OUT (R28, R311, R312). EN is set and cleared by the owner; clearing it between
frames frees every buffer, and ends the waiting TAKEs. TAKE waits; TAKE_COMPLETE gives the oldest buffer that a waiting side has not taken to the
first TAKE that one is available for; RETURN of a taken buffer is accepted, of another answered NOT_HELD. A violation of C5 stops the
port and ends the jobs that use it. FSYNC_OUT rises at the next instant of its period and falls WIDTH later. -/
def Obligations.CaptureComplete : Prop :=
  (∀ (s : State) (n : Fin 8),
    let c := cap s.dev n.val
    let dt := capDt s.dev n.val
    let m := capW s.dev n.val * dtComps dt
    let ofPort := fun (vc : Fin 4) (t : Fin 64) => vc.val = fld (capReg s.dev n.val 0) 27 2 ∧ t.val = dt
    let other : Out3 := .next (if c.enabled = true ∨ c.cur ≠ none then
      { s with dev := setCap s.dev n.val { c with cOther := satAdd 8 c.cOther 1 } } else s)
    (∀ num : BitVec 16,
      let d := capClose s.dev n.val true
      let e := cap d n.val
      let frame : Option Nat → CFrame := fun b => ⟨b, num.toNat, d.clk.devtime, 0, [], false, false, d.clk.localNs⟩
      let free := (List.range (capPool d n.val)).find? (fun i => (mget? e.bufs i).isNone)
      (e.enabled = false → exec (.capFrameStart n num) s = .next { s with dev := d })
      ∧ (∀ b, e.enabled = true → free = some b → exec (.capFrameStart n num) s = .next { s with
          dev := setCap d n.val { e with cur := some (frame (some b)), bufs := mset e.bufs b .filling } })
      ∧ (e.enabled = true → free = none → exec (.capFrameStart n num) s = .next { s with
          dev := record (setCap d n.val { e with cur := some (frame none), cDropped := satAdd 8 e.cDropped 1 })
            { fspec 0 0x10 0x16 with unit := n.val, detail := num.toNat } }))
    ∧ (∀ vc t data bad, ¬ ofPort vc t ∨ c.cur = none ∨ dtDepth dt = 0 → exec (.capLine n ⟨vc, t, data⟩ bad) s = other)
    ∧ (∀ vc t data f, ofPort vc t → c.cur = some f → dtDepth dt ≠ 0 →
      let f' := { f with next := f.next + 1, last := s.dev.clk.localNs }
      let put := fun (x : CFrame) d => setCap d n.val { c with cur := some x }
      let row := padLine (bit (capReg s.dev n.val 0) 30) (dtComps dt) m ((unpackLine dt data).take m)
      let want := lineBytes dt (capW s.dev n.val)
      let seen := { f' with got := f.got ++ [f.next], long := f.long || decide (want < data.length), short := f.short || decide (data.length < want) }
      (capH s.dev n.val ≤ f.next → ∀ bad, exec (.capLine n ⟨vc, t, data⟩ bad) s = .next { s with dev := put { f' with long := true } s.dev })
      ∧ (f.next < capH s.dev n.val → exec (.capLine n ⟨vc, t, data⟩ true) s = .next { s with dev := put f' s.dev })
      ∧ (f.next < capH s.dev n.val → ∀ b, f.buf = some b → exec (.capLine n ⟨vc, t, data⟩ false) s = .next { s with
          dev := put seen (capStore s.dev n.val b f.next row) })
      ∧ (f.next < capH s.dev n.val → f.buf = none → exec (.capLine n ⟨vc, t, data⟩ false) s = .next { s with dev := put seen s.dev }))
    ∧ exec (.capOtherPacket n) s = other
    ∧ exec (.capFrameEnd n) s = (if c.cur = none then other else .next { s with dev := capClose s.dev n.val false })
    ∧ exec (.capFrameTimeout n) s = (match c.cur with
      | none => .next s
      | some f => .next { s with
          dev := capClose (untilLocal s.dev (f.last + 1000 * max 1 (fld (capReg s.dev n.val 0x14) 16 16))) n.val true })
    ∧ (∀ d cut,
      let c := cap d n.val
      let freed := fun d => if c.enabled = true then d else setCap d n.val { cap d n.val with bufs := [], queue := [] }
      (c.cur = none → capClose d n.val cut = d)
      ∧ (∀ f, c.cur = some f → f.buf = none → capClose d n.val cut = capAudit (freed (setCap d n.val { c with cur := none })) n.val)
      ∧ (∀ f b, c.cur = some f → f.buf = some b →
        let miss := (List.range (capH d n.val)).filter (fun j => !f.got.contains j)
        let short := f.short = true ∨ cut = true ∨ miss ≠ []
        let filled := miss.foldl (fun d j => capStore d n.val b j (fillLine d n.val b f.got j)) d
        let closed := setCap filled n.val { c with
          cur := none, bufs := mset c.bufs b (.complete (decide short) f.long f.frame f.time .waiting .waiting), queue := c.queue ++ [b]
          cShort := satAdd 8 c.cShort (flag (decide short)), cLong := satAdd 8 c.cLong (flag f.long) }
        (¬ short → f.long = false → capClose d n.val cut = capAudit (freed closed) n.val)
        ∧ (short ∨ f.long = true → capClose d n.val cut =
            capAudit (freed (record closed { fspec 0 0x10 0x16 with unit := n.val, detail := f.frame })) n.val))))
  ∧ (∀ (s : State) (n : Fin 8),
    let c := cap s.dev n.val
    let all : List (Instr × Nat) := [(.take n, 1), (.capReturn n, 2)]
    (∀ src, isOwner s.dev src = true →
      exec (.capEnable src n) s = .next { s with
        dev := regPut (setCap s.dev n.val { c with enabled := true }) (capBase n.val) (capReg s.dev n.val 0 % 2 ^ 31 + 2 ^ 31) }
      ∧ exec (.capDisable src n) s = .next { s with
        dev := (let off := { c with enabled := false, takes := [] }
                let d := setCap (regPut s.dev (capBase n.val) (capReg s.dev n.val 0 % 2 ^ 31)) n.val
                  (if c.cur = none then { off with bufs := [], queue := [] } else off)
                c.takes.foldl (fun d x => engineWord d x (capWord 4)) d) })
    ∧ (∀ x ∈ all, c.cmds = [] ∨ (∃ y rest, c.cmds = y :: rest ∧ leAt y.bytes 0 1 ≠ x.2) → exec x.1 s = .next s)
    ∧ (∀ p ∈ all, ∀ x rest, c.cmds = x :: rest → leAt x.bytes 0 1 = p.2 →
      let formed := leAt x.bytes 2 1 < 2 ∧ leAt x.bytes 3 1 = 0 ∧ leAt x.bytes 6 58 = 0
      let i := leAt x.bytes 4 2
      let done := fun k (e : Cap) => Host.Outcome.next { s with dev := engineWord (setCap s.dev n.val e) x (capWord k) }
      (¬ formed → exec p.1 s = done 1 { c with cmds := rest })
      ∧ (formed → c.enabled = false → exec p.1 s = done 4 { c with cmds := rest })
      ∧ (formed → c.enabled = true → p.2 = 1 → exec p.1 s = .next { s with
          dev := setCap s.dev n.val (capSettle s.dev { c with cmds := rest, takes := c.takes ++ [x] }) })
      ∧ (formed → c.enabled = true → p.2 = 2 → takenBy (sideTake (mget c.bufs i .filling) (cmdSide x)) = true → exec p.1 s =
          done 0 (capSettle s.dev { c with cmds := rest, bufs := mset c.bufs i (setTake (mget c.bufs i .filling) (cmdSide x) .returned) }))
      ∧ (formed → c.enabled = true → p.2 = 2 → takenBy (sideTake (mget c.bufs i .filling) (cmdSide x)) = false → exec p.1 s =
          done 6 (capSettle s.dev { c with cmds := rest })))
    ∧ (c.takes.find? (fun x => (oldestFor c (cmdSide x)).isSome) = none → exec (.takeComplete n) s = .next s)
    ∧ (∀ x i sh lo f tm t0 t1, c.takes.find? (fun x => (oldestFor c (cmdSide x)).isSome) = some x → oldestFor c (cmdSide x) = some i →
        mget? c.bufs i = some (.complete sh lo f tm t0 t1) → exec (.takeComplete n) s = .next { s with
          dev := engineWord (setCap s.dev n.val (capSettle s.dev { c with
            takes := c.takes.erase x
            bufs := mset c.bufs i (setTake (.complete sh lo f tm t0 t1) (cmdSide x) (.taken x.slot (bit (leAt x.bytes 2 1) 0))) })) x
            (leBytes 2 0 ++ leBytes 2 i ++ leBytes 2 (flag sh + 2 * flag lo) ++ leBytes 2 f ++ leBytes 8 tm.toNat) })
    ∧ (∀ d,
        let k := capCounts d n.val
        let sum := k.1 + k.2.1 + k.2.2
        (sum = capPool d n.val → capAudit d n.val = d)
        ∧ (sum ≠ capPool d n.val → capAudit d n.val = capDisable (endJobs
            (record d { fspec 3 0x10 0x08 with unit := n.val, detail := lawDetail 5 (capPool d n.val) sum })
            (scopesOf d (capJobs (cap d n.val))) 3 (faultCode 3 0x10 0x08)) n.val))
    ∧ (let p := fsoTimes s.dev n.val
       let on := bit (capReg s.dev n.val 0) 29 = true ∧ c.fso = false ∧ 2 * p.2.2 ≤ p.1
       (¬ on → exec (.fsyncOutRise n) s = .next s)
       ∧ (on →
        ∃ t k, exec (.fsyncOutRise n) s = .next t ∧ t.pending = s.pending ∧ t.dev.out = s.dev.out ++ [.pin "FSYNC_OUT" n.val true]
          ∧ k < p.1 ∧ ((s.dev.clk.devtime.toNat : Int) + k - p.2.1) % (p.1 : Int) = 0
          ∧ t.dev.clk.localNs = s.dev.clk.localNs + k
          ∧ cap t.dev n.val = { c with fso := true, fsoFall := t.dev.clk.localNs + p.2.2 }))
    ∧ (c.fso = true → exec (.fsyncOutFall n) s = .next { s with
        dev := emit (setCap (untilLocal s.dev c.fsoFall) n.val { c with fso := false }) (.pin "FSYNC_OUT" n.val false) })
    ∧ (c.fso = false → exec (.fsyncOutFall n) s = .next s))

/-! ### Reedway (chapter 15) -/

/-- Port states and training (R315 to R317, R333, R334, R336 to R338). EN from 0 to 1, REJOIN of a failed port and PORT_RETRAIN of one with AUTO
start training; ISOLATE, and EN cleared, take the port out. IDENT is recorded and accepted or refused; training ends UP with the lanes that
trained, or FAILED with its cause; the port of a ring tells JOIN on every VC. A loss, a time-out or an isolation takes a port that is UP out of
service with its cause and a class 3 record: its packets go round its ring, replays first, with RECLAIM behind them, or are returned and
routed anew. JOIN ends a wrap. A command that meets none of these changes nothing. -/
def Obligations.ReedwayPortsComplete : Prop :=
  ∀ (s : State) (n : Fin 8),
    let x := rwPort s.dev n.val
    let w := rwCtrl s.dev n.val
    (∀ src, isOwner s.dev src = true →
      exec (.portEnable src n) s = .next { s with dev := rwCtrlWrite s.dev n.val (w % 2 ^ 31 + 2 ^ 31) }
      ∧ exec (.rejoin src n) s = .next { s with dev := rwCtrlWrite s.dev n.val (if bit w 28 = true then w else w + 2 ^ 28) })
    ∧ (∀ v,
      let d := regPut s.dev (rwBase n.val) (keepBits v 0xEF03FFFF)
      let act := fun e => rwCtrlWrite s.dev n.val v = e
      let stay := bit v 24 = false ∧ (x.alone = false ∨ bit v 31 = false)
      let open_ := { x with st := if x.st = .isolated then (if x.barred = true then PortSt.refused else .failed) else x.st }
      (¬ stay → act (isolatePort d n.val))
      ∧ (stay → bit v 31 = false → bit w 31 = false → x.st ≠ .isolated → act d)
      ∧ (stay → bit v 31 = false → bit w 31 = true ∨ x.st = .isolated →
        let off := setRw d n.val { x with st := .disabled, width := 0, barred := false, alone := false }
        act (if x.st = .up then portDown off n.val else off))
      ∧ (stay → bit v 31 = true → bit w 31 = false → act (trainPort (setRw d n.val { x with wrapping := false, joinWait := false }) n.val))
      ∧ (stay → bit v 31 = true → bit w 31 = true → bit v 28 = false → x.st = .isolated → act (setRw d n.val open_))
      ∧ (stay → bit v 31 = true → bit w 31 = true → bit v 28 = false → x.st ≠ .isolated → act d)
      ∧ (stay → bit v 31 = true → bit w 31 = true → bit v 28 = true →
        (x.st = .failed → act (trainPort d n.val))
        ∧ (x.st = .isolated → x.barred = false → act (trainPort (setRw d n.val open_) n.val))
        ∧ (x.st = .isolated → x.barred = true → act (discarded (setRw d n.val open_) 0x11 (rwBase n.val)))
        ∧ (x.st ≠ .failed → x.st ≠ .isolated → act (discarded d 0x11 (rwBase n.val)))))
    ∧ trainPort s.dev n.val = emit (setRw s.dev n.val { x with
        st := .training, width := 0, identOk := false, txSeq := 0, rxSeq := 0, naks := 0, retry := [], t1 := none }) (.link n.val .ident)
    ∧ (∀ same id (port : Fin 8),
        let bad := same = false ∨ id.toNat = rwgId s.dev ∨ (fld w 0 18 ≠ 0x3FFFF ∧ fld w 0 18 ≠ id.toNat)
        (x.st ≠ .training → exec (.ident n same id port) s = .next s)
        ∧ (x.st = .training → bad → exec (.ident n same id port) s = .next { s with
          dev := setRw s.dev n.val { x with peerId := id.toNat, peerPort := port.val, identOk := false, barred := true, st := .refused } })
        ∧ (x.st = .training → ¬ bad → exec (.ident n same id port) s = .next { s with
          dev := setRw s.dev n.val { x with peerId := id.toNat, peerPort := port.val, identOk := true, barred := false } }))
    ∧ (∀ (lanes : Fin 5) lat,
        let does := fun e => exec (.trainingDone n lanes lat) s = .next { s with dev := e }
        let width := if lanes.val = 4 then 3 else if lanes.val = 1 then 1 else 2
        let pools := (List.range 5).map (fun i => (i, (⟨grantOf s.dev n.val i, grantOf s.dev n.val i, 0, 0, 0, 0⟩ : Pool)))
        let d := setRw s.dev n.val { x with st := .up, width := width, lat := sat 16 lat, pools := pools, joinWait := x.wrapping, mine := none }
        (x.st ≠ .training ∨ x.identOk = false → exec (.trainingDone n lanes lat) s = .next s)
        ∧ (x.st = .training → x.identOk = true →
          (lanes.val = 0 → does (failTo s.dev n.val 6 .failed))
          ∧ (lanes.val ≠ 0 → lanes.val ≠ 4 → bit w 29 = false → does (failTo s.dev n.val 8 .failed))
          ∧ (lanes.val ≠ 0 → lanes.val = 4 ∨ bit w 29 = true →
            (x.wrapping = false → does (flushPorts d))
            ∧ (x.wrapping = true → ringMate d n.val = none → does d)
            ∧ (∀ o, x.wrapping = true → ringMate d n.val = some o →
              does ((List.range 4).foldl (fun d _ => emit d (.link o .join)) (flushPorts d))))))
    ∧ (∀ cause st,
        let d := record (setRw s.dev n.val { x with st := st, cause := cause, width := 0, fails := satAdd 8 x.fails 1 })
          { fspec 3 0x11 0x0A with unit := n.val, detail := cause }
        failTo s.dev n.val cause st = if x.st = .up then portDown d n.val else d)
    ∧ (x.st = .training → exec (.trainingTimeout n) s = .next { s with dev := failTo s.dev n.val 6 .failed })
    ∧ (x.st ≠ .training → exec (.trainingTimeout n) s = .next s)
    ∧ (let auto := x.st = .failed ∧ x.wrapping = false ∧ bit w 30 = true ∧ bit w 31 = true
       (auto → exec (.portRetrain n) s = .next { s with dev := trainPort s.dev n.val })
       ∧ (¬ auto → exec (.portRetrain n) s = .next s))
    ∧ (x.st = .up → ∀ i ∈ [(Instr.linkLoss n, 1, PortSt.failed), (.flitTimeout n, 2, .failed), (.portIsolate n, 7, .isolated)],
        exec i.1 s = .next { s with dev := failTo s.dev n.val i.2.1 i.2.2 })
    ∧ (x.st ≠ .up → exec (.linkLoss n) s = .next s ∧ exec (.flitTimeout n) s = .next s
        ∧ exec (.portIsolate n) s = .next (if x.st = .isolated then s else { s with
          dev := setRw s.dev n.val { x with st := .isolated, cause := 7, width := 0 } }))
    ∧ (x.joinWait = true → x.st = .up → exec (.join n) s = .next { s with
        dev := flushPorts (setRw s.dev n.val { x with joinWait := false, wrapping := false, txq := x.txq ++ x.held, held := [] }) })
    ∧ (x.joinWait = false ∨ x.st ≠ .up → exec (.join n) s = .next s)
    ∧ (ringMate s.dev n.val = none → portDown s.dev n.val =
        (let d := setRw s.dev n.val { x with joinWait := false, retry := [], txq := [], held := [] }
         let d := x.retry.foldl (fun d r => bounce d r.2 3) d
         flushPorts ((x.txq ++ x.held).foldl (fun d p => sendPkt d p (p.p.src.toNat == rwgId d)) d)))
    ∧ (∀ o, ringMate s.dev n.val = some o → portDown s.dev n.val =
        (let y := rwPort s.dev o
         let r := reclaimOf x
         let d := setRw s.dev n.val { x with wrapping := true, joinWait := false, retry := [], txq := [], held := [], mine := some r }
         let d := setRw d o { y with txq := [] }
         let d := x.retry.foldl (fun d r => rewrap d n.val o r.2 true r.1) d
         let d := setRw d o { rwPort d o with txq := (rwPort d o).txq ++ y.txq }
         let d := flushPorts ((x.txq ++ x.held).foldl (fun d p => rewrap d n.val o p false x.txSeq) d)
         (List.range 4).foldl (fun d _ => emit d (.link o (.reclaim r))) d))

/-- Flits and packets that arrive (R317 to R320, R325, R330, R335). At a port that is UP a good flit in sequence is taken, frees what it
acknowledges, and replays the rest when it says so; any other asks for a replay. A packet takes its credits, which return, and acts: a wrapped one
goes on round the ring, or leaves the wrap here, a replay that came before being dropped; one for another device is routed; one with a
bad trailer is returned with status 7; a return goes to its requester, read data and acknowledgements to the transfer that asked, COLL data to
its collective or among the kept ones, at most 4 MiB and for COLL_TO at most; a write or a read request is served and answered, waits for the pages that it lacks, or is
returned with its status; one of an undefined type or version is counted, one of a link-local type
only takes credits. -/
def Obligations.ReedwayPacketsComplete : Prop :=
  ∀ (s : State) (n : Fin 8),
    let x := rwPort s.dev n.val
    (x.st ≠ .up → (∀ seq good a nak, exec (.flitReceive n seq good a nak) s = .next s)
      ∧ (∀ p : Pkt, ∀ i ∈ [Instr.pktWr n p, .pktRdReq n p, .pktRdRsp n p, .pktWrAck n p, .pktColl n p, .pktMgt n p, .pktReturned n p,
          .pktWrapped n p, .pktReserved n p], exec i s = .next s))
    ∧ (∀ p : Pkt, pktKnown p = true → exec (.pktReserved n p) s = .next s)
    ∧ (x.st = .up →
      (∀ seq : BitVec 12,
        let y := { x with rxSeq := (x.rxSeq + 1) % 4096 }
        let took := fun a : Option (BitVec 12) => setRw s.dev n.val (match a with
          | some a => ackRetry y a.toNat
          | none => y)
        (∀ a nak, exec (.flitReceive n seq false a nak) s = .next { s with
          dev := emit (setRw s.dev n.val { x with discards := satAdd 8 x.discards 1 }) (.link n.val .replay) })
        ∧ (seq.toNat ≠ x.rxSeq → ∀ a nak, exec (.flitReceive n seq true a nak) s = .next { s with dev := emit s.dev (.link n.val .replay) })
        ∧ (seq.toNat = x.rxSeq → ∀ a, exec (.flitReceive n seq true a false) s = .next { s with dev := flushPorts (took a) })
        ∧ (seq.toNat = x.rxSeq → ∀ a, exec (.flitReceive n seq true a true) s = .next { s with dev := flushPorts (replayAll (took a) n.val) }))
      ∧ (∀ p : Pkt,
        let k := flits p
        let i := poolOf p
        let c := pool x i
        let d := emit (setRw s.dev n.val { x with
          rxSeq := (x.rxSeq + k) % 4096
          pools := mset x.pools i { c with received := (c.received + k) % 2 ^ 32, freed := (c.freed + k) % 2 ^ 32 } })
          (.link n.val (.credit i k))
        let r : RPkt := ⟨p, s.dev.clk.localNs, p.budget.toNat⟩
        let all : List (Instr × Bool) := [(.pktWr n p, p.ty == 1), (.pktRdReq n p, p.ty == 2 && p.payload.isEmpty), (.pktRdRsp n p, p.ty == 3),
          (.pktWrAck n p, p.ty == 4 && p.payload.isEmpty), (.pktColl n p, p.ty == 5), (.pktMgt n p, p.ty == 6),
          (.pktReturned n p, p.ret && p.payload.isEmpty), (.pktWrapped n p, p.wrap)]
        let gives := fun e => ∀ y ∈ all, y.2 = true → exec y.1 s = .next { s with dev := flushPorts e }
        (pktLocal p = true → ∀ y ∈ (.pktReserved n p, true) :: all, y.2 = true → exec y.1 s = .next { s with dev := d })
        ∧ (pktKnown p = false → pktLocal p = false → ∀ y ∈ (.pktReserved n p, true) :: all, y.2 = true → exec y.1 s = .next { s with
          dev := { d with rw := { d.rw with badPkt := satAdd 8 d.rw.badPkt 1 } } })
        ∧ (pktKnown p = true → p.wrap = true →
          (ringMate d n.val = none → gives (bounce d r 2))
          ∧ (∀ o, ringMate d n.val = some o →
            let q : RPkt := { r with p := { p with wrap := false, replay := false } }
            let y := rwPort d o
            (p.wrapTo.toNat ≠ rwgId d → portUp d o = true → gives (enqueue d o r))
            ∧ (p.wrapTo.toNat ≠ rwgId d → portUp d o = false → gives (bounce d r 2))
            ∧ (p.wrapTo.toNat = rwgId d → p.replay = false → gives (routeHere d q))
            ∧ (p.wrapTo.toNat = rwgId d → p.replay = true → (y.rxSeq + 4095 - p.lseq.toNat) % 4096 < 2048 → gives d)
            ∧ (p.wrapTo.toNat = rwgId d → p.replay = true → 2048 ≤ (y.rxSeq + 4095 - p.lseq.toNat) % 4096 →
                gives (routeHere (setRw d o { y with rxSeq := (p.lseq.toNat + flits p) % 4096 }) q))))
        ∧ (pktKnown p = true → p.wrap = false → gives (routeHere d r))
        ∧ (p.dst.toNat ≠ rwgId d → routeHere d r = sendPkt d r false)
        ∧ (p.dst.toNat = rwgId d →
          (pktTrailer p ≠ p.trailer → routeHere d r = bounce d r 7)
          ∧ (pktTrailer p = p.trailer → p.ret = true → routeHere d r = returnHome d p)
          ∧ (pktTrailer p = p.trailer → p.ret = false →
            (p.ty = 3 → routeHere d r = takeRsp d p)
            ∧ (p.ty = 4 → routeHere d r = takeAck d p)
            ∧ (p.ty = 6 → routeHere d r = d)
            ∧ (p.ty = 5 →
              let e0 := expireEarly d
              let kept := (e0.rw.early.map (fun q => q.p.payload.length)).sum + p.payload.length
              (d.boot.st ≠ .service → routeHere d r = bounce d r 6)
              ∧ (∀ e, d.boot.st = .service → colTake d p = some e → routeHere d r = e)
              ∧ (d.boot.st = .service → colTake d p = none → kept ≤ 2 ^ 22 →
                  routeHere d r = { e0 with rw := { e0.rw with early := e0.rw.early ++ [r] } })
              ∧ (d.boot.st = .service → colTake d p = none → 2 ^ 22 < kept → routeHere d r = bounce e0 r 6))
            ∧ (p.ty = 1 ∨ p.ty = 2 →
              let len := if p.ty = 1 then p.payload.length else 64 * p.len.toNat
              (d.boot.st ≠ .service → routeHere d r = bounce d r 6)
              ∧ (d.boot.st = .service → objOf d p.word.toNat = none → routeHere d r = bounce d r 4)
              ∧ (∀ h o, d.boot.st = .service → objOf d p.word.toNat = some (h, o) →
                let off := (p.word.toNat - h) * 2 ^ 32 + p.off.toNat
                let ok := accessOk o off len (decide (p.ty = 1)) = true ∧ o.cls ≠ .far ∧ o.cls ≠ .peer
                let waits := missing h o off len ≠ [] ∨ roundsHold d o [(off, len)] = true
                let answer := fun d ty bs => sendAnswer d (newPkt d ty p.vc.toNat p.src.toNat 0 p.tag.toNat p.word.toNat p.off.toNat bs)
                (¬ ok → routeHere d r = bounce d r 4)
                ∧ (ok → waits → routeHere d r = waitFor d (missing h o off len) (.serve r))
                ∧ (ok → ¬ waits → p.ty = 1 → routeHere d r = answer (t1Write d h off p.payload) 4 [])
                ∧ (ok → ¬ waits → p.ty = 2 → spanBad o off len = true → routeHere d r = bounce d r 5)
                ∧ (ok → ¬ waits → p.ty = 2 → spanBad o off len = false →
                    routeHere d r = sendAnswer (touch d h off len)
                      (newPkt d 3 p.vc.toNat p.src.toNat 0 p.tag.toNat p.word.toNat p.off.toNat (t1Read d h off len)))))))))

/-- Credits, audits, time, collectives, estimates and routes (R29, R321, R325, R326, R330 to R332, R336, R339). At a port that is UP returned
credits go back to the pool, more than are out breaking C1; an audit of sound pools is sent as a SENT per pool; an audit that agrees is
counted, one that does not fails the port; a time exchange notes DEVTIME and sends it. A TIME answer gives the link's delay and the offset; at the
time port an offset beyond 1,000 ns steps DEVTIME, otherwise it is slewed. A RECLAIM that answers the port's own restores every pool
to its grant, and records what does not agree. Without a time port a device that follows one enters holdover and loses lock. A collective that
times out fails. EST_SAMPLE moves each port's estimate toward its sample. The owner reads a route into the data registers and writes
one from them, or removes one. -/
def Obligations.ReedwayUpkeepComplete : Prop :=
  ∀ (s : State) (n : Fin 8),
    let x := rwPort s.dev n.val
    let failC1 := failTo (setRw s.dev n.val { x with mismatch := satAdd 8 x.mismatch 1 }) n.val 4 .failed
    (x.st ≠ .up → (∀ i k, exec (.creditReturn n i k) s = .next s) ∧ exec (.auditSend n) s = .next s
      ∧ (∀ l, exec (.audit n l) s = .next s) ∧ exec (.timeExchange n) s = .next s ∧ (∀ t2 t3, exec (.time n t2 t3) s = .next s))
    ∧ (x.st = .up →
      (∀ (i : Fin 5) k,
        ((pool x i.val).avail + k ≤ (pool x i.val).granted → exec (.creditReturn n i k) s = .next { s with
          dev := flushPorts (setRw s.dev n.val { x with pools := mset x.pools i.val { pool x i.val with
            avail := (pool x i.val).avail + k, returned := ((pool x i.val).returned + k) % 2 ^ 32 } }) })
        ∧ ((pool x i.val).granted < (pool x i.val).avail + k → exec (.creditReturn n i k) s = .next { s with dev := failC1 }))
      ∧ (let sound := ∀ i < 5, poolSound (pool x i) = true
         (sound → exec (.auditSend n) s = .next { s with
          dev := emit s.dev (.link n.val (.audit ((List.range 5).map (fun i => (pool x i).sent)))) })
         ∧ (¬ sound → exec (.auditSend n) s = .next { s with dev := failC1 }))
      ∧ (∀ sents,
          let agree := ∀ i < 5, (pool x i).received = sents.getD i 0
            ∧ ((pool x i).received + 2 ^ 32 - (pool x i).freed) % 2 ^ 32 ≤ (pool x i).granted
          (agree → exec (.audit n sents) s = .next { s with dev := setRw s.dev n.val { x with audits := satAdd 16 x.audits 1 } })
          ∧ (¬ agree → exec (.audit n sents) s = .next { s with dev := failC1 }))
      ∧ (bit (rwCtrl s.dev n.val) 27 = true → exec (.timeExchange n) s = .next { s with
        dev := emit (setRw s.dev n.val { x with t1 := some s.dev.clk.devtime.toNat }) (.link n.val (.time s.dev.clk.devtime.toNat)) })
      ∧ (bit (rwCtrl s.dev n.val) 27 = false → exec (.timeExchange n) s = .next s)
      ∧ (x.t1 = none → ∀ t2 t3, exec (.time n t2 t3) s = .next s)
      ∧ (∀ t1 (t2 t3 : Word64), x.t1 = some t1 →
          let now : Int := s.dev.clk.devtime.toNat
          let o : Int := (((t2.toNat : Int) - t1) - (now - t3.toNat)) / 2
          let trip : Int := (now - t1) - ((t3.toNat : Int) - t2.toNat)
          let noted := setRw s.dev n.val { x with t1 := none, lat := sat 16 ((trip + 1) / 2).toNat }
          let follows := bit (rwgTime s.dev) 31 = false ∧ timePort s.dev = some n.val
          (¬ follows → exec (.time n t2 t3) s = .next { s with dev := { noted with rw := { noted.rw with ofs := o } } })
          ∧ (follows → ∃ t, exec (.time n t2 t3) s = .next t ∧ t.pending = s.pending ∧ rwPort t.dev n.val = rwPort noted n.val
            ∧ t.dev.rw.ofs = o ∧ t.dev.rw.holdover = false
            ∧ (1000 < o.natAbs → t.dev.clk = { s.dev.clk with devtime := BitVec.ofInt 64 (now + o), slew := 0 })
            ∧ (o.natAbs ≤ 1000 → t.dev.clk = { s.dev.clk with slew := o } ∧ t.dev.sched = s.dev.sched)
            ∧ (o.natAbs ≤ 16 → t.dev.rw.lockCnt = min 8 (s.dev.rw.lockCnt + 1)
                ∧ t.dev.rw.locked = (s.dev.rw.locked || decide (8 ≤ s.dev.rw.lockCnt + 1)))
            ∧ (16 < o.natAbs → t.dev.rw.lockCnt = 0 ∧ t.dev.rw.locked = (s.dev.rw.locked && decide (o.natAbs ≤ 64))))))
    ∧ (∀ r, x.mine = none → exec (.reclaim n r) s = .next s)
    ∧ (∀ r m, x.mine = some m →
        let agree := ∀ i < 5, poolSound (pool x i) = true ∧ cdiff (pool x i).sent (r.received.getD i 0) ≤ (pool x i).granted
          ∧ cdiff (r.received.getD i 0) (r.freed.getD i 0) ≤ (pool x i).granted
          ∧ cdiff (r.freed.getD i 0) (pool x i).returned ≤ (pool x i).granted
        let anew := { x with
          mine := none, reclaims := satAdd 8 x.reclaims 1
          pools := mmap x.pools (fun _ c => { c with avail := c.granted, returned := c.sent, freed := c.received }) }
        (agree → exec (.reclaim n r) s = .next { s with
          dev := setRw s.dev n.val { anew with audits := satAdd 16 x.audits 1, mismatch := satAdd 8 x.mismatch 0 } })
        ∧ (¬ agree → exec (.reclaim n r) s = .next { s with
          dev := record (setRw s.dev n.val { anew with audits := satAdd 16 x.audits 0, mismatch := satAdd 8 x.mismatch 1 })
            { fspec 3 0x11 0x08 with unit := n.val, detail := lawDetail 1 0 0 } }))
    ∧ (let lost := bit (rwgTime s.dev) 3 = true ∧ timePort s.dev = none
       (lost → exec .holdover s = .next { s with
        dev := { s.dev with rw := { s.dev.rw with holdover := true, locked := false, lockCnt := 0 } } })
       ∧ (¬ lost → exec .holdover s = .next s))
    ∧ (∀ k, s.dev.rw.cols[k]? = none → exec (.collTimeout k) s = .next s)
    ∧ (∀ k c, s.dev.rw.cols[k]? = some c → exec (.collTimeout k) s = .next { s with dev := failCol s.dev c })
    ∧ (∃ t, exec .estSample s = .next t ∧ t.pending = s.pending ∧ t.dev.flt = s.dev.flt ∧ ∀ m < 8,
        rwPort t.dev m = { rwPort s.dev m with est := estAfter (rwPort s.dev m).est (estSample s.dev (rwPort s.dev m)) })
    ∧ (∀ src (i : Fin 4096), isOwner s.dev src = true →
      let a := regGet s.dev 0x68008
      let b := regGet s.dev 0x6800C
      let r : Route := ⟨bit a 30, fld a 27 3, fld a 24 3, fld a 0 18, fld b 27 5, fld b 12 12, fld b 0 12, false⟩
      let named := fun op => regPut s.dev 0x68004 (op * 2 ^ 30 + i.val)
      (mget? s.dev.rw.routes i.val = none → exec (.routeRead src i) s = .next { s with
          dev := regPut (regPut (named 1) 0x68008 0) 0x6800C 0 })
      ∧ (∀ r, mget? s.dev.rw.routes i.val = some r → exec (.routeRead src i) s = .next { s with
          dev := regPut (regPut (named 1) 0x68008 (put 1 31 1 + put (flag r.altEn) 30 1 + put r.port 27 3 + put r.alt 24 3 + put r.pfx 0 18))
            0x6800C (put r.plen 27 5 + put r.extraAlt 12 12 + put r.extraPri 0 12) })
      ∧ (bit a 31 = false → ∃ t, exec (.routeWrite src i) s = .next t ∧ t.pending = s.pending
        ∧ t.dev.rw = { s.dev.rw with routes := mdel s.dev.rw.routes i.val })
      ∧ (bit a 31 = true → ∃ t, exec (.routeWrite src i) s = .next t ∧ t.pending = s.pending
        ∧ t.dev.rw = { s.dev.rw with routes := mset s.dev.rw.routes i.val r }))

/-! ### Faults and containment (chapter 16) -/

/-- Faults that units report (R226, R343, R345, R347, Table 16-5). In RESET nothing is recorded. The reports of one SCLK cycle are taken by class,
highest first, then by block, lowest first. Each is recorded with its class, block, unit, code and detail, its containment time where it has one,
and contained by its class: 0 needs nothing, 1 counts on the channel that corrected; 2 ends the jobs of the scopes named; 3 ends them and takes
the unit out of service; 4 fences the half, or strikes the die; 5 halts the device, and resets it where the unit is critical. -/
def Obligations.FaultReportsContained : Prop :=
  ∀ s : State,
    (∀ rs, s.dev.boot.st = .reset → exec (.faultReport rs) s = .next s)
    ∧ (∀ rs, exec (.faultReport rs) s = .next { s with dev := (reportOrder rs).foldl faultReport s.dev })
    ∧ (∀ rs, (reportOrder rs).Perm rs ∧ (reportOrder rs).Pairwise (fun a b => b.cls < a.cls ∨ (b.cls = a.cls ∧ a.block ≤ b.block)))
    ∧ (∀ r : Report, s.dev.boot.st ≠ .reset →
      let jobs := r.jobs.map (fun j => j.val)
      let code := faultCode r.cls.val r.block.val r.code.val
      let u := r.unit.toNat
      let channel := r.block.val = 0x0C ∧ u < 192
      let lostData := channel ∧ (r.code.val = 4 ∨ r.code.val = 5)
      ∃ d q, mget? d.flt.ring (s.dev.flt.seq % 256) = some q ∧ q.cls = r.cls.val ∧ q.block = r.block.val ∧ q.code = r.code.val
        ∧ q.unit = u ∧ q.detail = r.detail.toNat ∧ q.devtime = s.dev.clk.devtime ∧ q.late = r.late
        ∧ q.containUs = (if r.cls.val ≤ 1 then 0 else r.us.toNat) ∧ q.contained = decide (2 ≤ r.cls.val)
        ∧ d.flt.seq = (s.dev.flt.seq + 1) % 2 ^ 32 ∧ d.tiles = s.dev.tiles ∧ d.tmg = s.dev.tmg ∧ d.sched = s.dev.sched
        ∧ (let does := fun e => exec (.faultReport [r]) s = .next { s with dev := e }
           (r.cls.val = 0 → does d)
           ∧ (r.cls.val = 1 → ¬ (channel ∧ r.code.val = 3) → does d)
           ∧ (r.cls.val = 1 → channel → r.code.val = 3 → does (countCe d (u / 16) (u % 16)))
           ∧ (r.cls.val = 2 → ¬ lostData → does (endJobs d jobs 2 code))
           ∧ (r.cls.val = 2 → lostData → does (endJobs (uncorrected d (u / 16) (u % 16)) jobs 2 code))
           ∧ (∀ b, r.cls.val = 3 → r.what = .pair b →
              let e := endJobs d jobs 3 code
              does { e with flt := if e.flt.redundant then { e.flt with redundant := false, activeB := !b } else e.flt })
           ∧ (∀ m : Fin 100, r.cls.val = 3 → r.what = .module m → does (retireModule (endJobs d jobs 3 code) m.val))
           ∧ (r.cls.val = 3 → (∀ b, r.what ≠ .pair b) → (∀ m, r.what ≠ .module m) →
              does (stopUnit (endJobs d jobs 3 code) r.block.val u r.code.val))
           ∧ (∀ h : Fin 2, r.cls.val = 4 → r.what = .half h → does (fenceHalf d h.val 4 code))
           ∧ (∀ i : Fin 36, r.cls.val = 4 → r.what = .die i → does (if dieValid i.val = true then strikeDie d i.val 4 code else d))
           ∧ (r.cls.val = 4 → (∀ h, r.what ≠ .half h) → (∀ i, r.what ≠ .die i) →
              (r.block.val = 0x14 → u < 800 → does (strikeDie d (u / 40) 4 code))
              ∧ (r.block.val = 0x14 → 800 ≤ u → does (fenceHalf d 1 4 code))
              ∧ (r.block.val = 0x15 → does (fenceHalf d (u % 2) 4 code))
              ∧ (r.block.val ≠ 0x14 → r.block.val ≠ 0x15 →
                 let east := match jobs with
                   | j :: _ => (scope d j).kind == .east || j == 1
                   | [] => false
                 does (fenceHalf d (if east = true then 1 else 0) 4 code)))
           ∧ (r.cls.val = 5 → r.what ≠ .critical → does (haltDevice d))
           ∧ (r.cls.val = 5 → r.what = .critical → does (deviceReset (haltDevice d) 0x07))))
    ∧ (∀ d : Dev, ∀ u c : Nat,
        (u < 192 → stopUnit d 0x0C u c = if c = 4 ∨ c = 5 then uncorrected d (u / 16) (u % 16) else wantRetire d u)
        ∧ (u < 16 → stopUnit d 0x0D u c = vceFail d u c)
        ∧ (u < 16 → stopUnit d 0x0E u c = if (pxe d u).cur = none then d else setPxe d u { pxe d u with cur := none, word := none })
        ∧ (u < 16 → stopUnit d 0x0F u c = empDisable d u)
        ∧ (u < 8 → stopUnit d 0x10 u c = capDisable d u)
        ∧ (u < 8 → stopUnit d 0x11 u c = isolatePort d u)
        ∧ (u < 2 → stopUnit d 0x12 u c = linkFail d u 3)
        ∧ (u < 100 → stopUnit d 0x13 u c = retireModule d u)
        ∧ stopUnit d 0x01 u 0x13 = { d with own := { d.own with
            st := .dispute, owner := none, standing := false, electing := false, leaseEnd := 0 } })
    ∧ (∀ d,
        let e := (List.range 8).foldl isolatePort (allOkLow (enterState { d with flt := { d.flt with halt := true } } .halt))
        let f := dropScope (dropScope e 0) 1
        haltDevice d = sealLog { f with sched := { f.sched with running := none } }
        ∧ (haltDevice d).sched.running = none
        ∧ ((∀ n < 8, (rwPort d n).st ≠ .up) → (haltDevice d).boot.st = .halt ∧ (haltDevice d).flt.halt = true
          ∧ (∀ n < 16, (emp (haltDevice d) n).ok = false) ∧ (∀ n < 8, (rwPort (haltDevice d) n).st = .isolated)))

/-- Fencing and its end (R28, R263, R346, R347, R349, R352, R354). FENCE of a half drops what it holds, closes its modules, takes the
token from it, ends or leaves its job, and records it; of a die or a module it retires it. A fenced half that does not answer loses power. UNFENCE
starts the half's self-test, or waits for a paired job that runs; a pass returns the half to service. RESTORE journals. A command that names
nothing is discarded. The audit of a link between dies is silent while the counts agree, and otherwise retires the module
with a class 3 record. -/
def Obligations.FencingComplete : Prop :=
  ∀ s : State,
    (∀ h : Fin 2, fenced s.dev h.val = false → exec (.fenceNoAnswer h) s = .next s)
    ∧ (∀ h : Fin 2, fenced s.dev h.val = true → ∃ t, exec (.fenceNoAnswer h) s = .next t ∧ t.pending = s.pending
        ∧ (∀ g < 800, tileHalf g = h.val → (tile t.dev g).powered = false)
        ∧ (∀ g, g < 400 * h.val ∨ 400 * h.val + 400 ≤ g → tile t.dev g = tile s.dev g)
        ∧ (∀ i < 10, t.dev.flt.poweredOff.contains (10 * h.val + i) = true))
    ∧ (∀ src, isOwner s.dev src = true →
      let cmd (op kind idx : Nat) : Dev := regPut s.dev 0x10014 (put op 30 2 + put kind 28 2 + put idx 0 8)
      let code := faultCode 0 0x0A 0x11
      let pairedJob := ∃ k j, s.dev.sched.running = some k ∧ mget? s.dev.sched.slots k = some j ∧ j.half = true
      (∀ (k : Fin 4) (i : Byte), fenceTarget k.val i.toNat = false →
        exec (.fltFence src k i) s = .next { s with dev := discarded (cmd 1 k.val i.toNat) 0x0A 0x10014 }
        ∧ exec (.unfence src k i) s = .next { s with dev := discarded (cmd 2 k.val i.toNat) 0x0A 0x10014 }
        ∧ exec (.fltRestore src k i) s = .next { s with dev := discarded (cmd 3 k.val i.toNat) 0x0A 0x10014 })
      ∧ (∀ h : Byte, h.toNat < 2 → exec (.fltFence src 0 h) s = .next { s with dev := fenceHalf (cmd 1 0 h.toNat) h.toNat 0 code })
      ∧ (∀ i : Byte, dieValid i.toNat = true → exec (.fltFence src 1 i) s = .next { s with dev := strikeDie (cmd 1 1 i.toNat) i.toNat 0 code })
      ∧ (∀ m : Byte, m.toNat < 100 → exec (.fltFence src 2 m) s = .next { s with dev := retireModule (cmd 1 2 m.toNat) m.toNat })
      ∧ (∀ h : Byte, h.toNat < 2 → fenced s.dev h.toNat = false ∨ s.dev.flt.unfenceBusy = true →
          exec (.unfence src 0 h) s = .next { s with dev := discarded (cmd 2 0 h.toNat) 0x0A 0x10014 })
      ∧ (∀ h : Byte, h.toNat < 2 → fenced s.dev h.toNat = true → s.dev.flt.unfenceBusy = false →
          (¬ pairedJob → exec (.unfence src 0 h) s = .next { s with
            dev := startTimer { cmd 2 0 h.toNat with flt := { s.dev.flt with
              unfenceBusy := true, unfenceResult := 0, selftest := some h.toNat } } .selftest })
          ∧ (pairedJob → exec (.unfence src 0 h) s = .next { s with
            dev := { cmd 2 0 h.toNat with flt := { s.dev.flt with
              unfenceBusy := true, unfenceResult := 0, deferred := some h.toNat } } }))
      ∧ (∀ (k : Fin 4) (i : Byte), fenceTarget k.val i.toNat = true →
          (k.val ≠ 0 → exec (.unfence src k i) s = .next { s with dev := discarded (cmd 2 k.val i.toNat) 0x0A 0x10014 })
          ∧ (k.val ≠ 0 → exec (.fltRestore src k i) s = .next { s with dev := jWrite (cmd 3 k.val i.toNat) (.restore k.val i.toNat) })
          ∧ (k.val = 0 → exec (.fltRestore src k i) s = .next { s with dev := discarded (cmd 3 0 i.toNat) 0x0A 0x10014 })))
    ∧ (∀ d h cls code,
        let d0 := abandonTest d h
        let d1 := fenceJob (fenceToken (closeModules (setFenced d0 h true) (halfModules h)) h) h cls code
        (fenced d0 h = true → fenceHalf d h cls code = d0)
        ∧ (fenced d0 h = false → fenceHalf d h cls code =
          record { d1 with ports := { d1.ports with cap := mmap d1.ports.cap (fun _ c => capSettle d1 c) } }
            { fspec 0 0x0A 0x11 with unit := h, detail := h }))
    ∧ (∀ d h cls code,
        (d.sched.running = none → fenceJob d h cls code = d)
        ∧ (∀ k j, d.sched.running = some k → mget? d.sched.slots k = some j →
          (j.half = false → fenceJob d h cls code = endFault d 0 cls code)
          ∧ (j.half = true →
            let e := setJob d k { j with fencedDuring := true }
            let on := fun i => (scope e i).jobValid = true ∧ (scope e i).slot = k
            let spoken := on (1 - h) ∨ (if h = 0 then j.eastEnd else j.westEnd) ≠ none
            (¬ on h → fenceJob d h cls code = finishCheck e k)
            ∧ (on h → spoken → fenceJob d h cls code = finishCheck (dropScope e h) k)
            ∧ (on h → ¬ spoken → fenceJob d h cls code = endFault e h cls code))))
    ∧ (∀ d h, (d.flt.secValid = false → fenceToken d h = d)
        ∧ (d.flt.secValid = true → fenceToken d h = tokenChange d (if d.flt.primary = h then 1 - h else d.flt.primary) false))
    ∧ (∀ d m, retireModule d m = (let e := closeModules d [m]
        if d.flt.retiredModules.contains m = true then e
        else jWrite { e with flt := { e.flt with retiredModules := e.flt.retiredModules ++ [m] } } (.retire 2 m)))
    ∧ (∀ p, s.dev.flt.selftest = none → exec (.unfenceSelftestDone p) s = .next s)
    ∧ (∀ h, s.dev.flt.selftest = some h →
        let d := afterTimer s.dev .selftest 2000000
        let ended := fun r => { d with flt := { d.flt with selftest := none, unfenceBusy := false, unfenceResult := r } }
        exec (.unfenceSelftestDone true) s = .next { s with dev := returnHalf (ended 1) h }
        ∧ exec (.unfenceSelftestDone false) s = .next { s with dev := ended 2 }
        ∧ (h < 2 → ∃ t, exec (.unfenceSelftestDone true) s = .next t ∧ fenced t.dev h = false
          ∧ t.dev.flt.closedModules = s.dev.flt.closedModules.filter (fun m =>
              !(halfModules h).contains m || s.dev.flt.retiredModules.contains m)))
    ∧ (∀ (m : Fin 100) (n : Nat) (jobs : List (Fin 2)), exec (.d2dAudit m n n jobs) s = .next s
        ∧ ∀ k, n ≠ k → exec (.d2dAudit m n k jobs) s = .next { s with
          dev := retireModule (endJobs (record s.dev { fspec 3 0x13 0x08 with unit := m.val, detail := lawDetail 2 n k })
            (jobs.map (fun j => j.val)) 3 (faultCode 3 0x13 0x08)) m.val })

/-- Token, heartbeats, disputes, controller pairs and the fault registers (R344, R348 to R351, R353, R431). TOKEN_BROADCAST brings EPOCH to each
half that is not fenced, and a Reedway port that isolated itself comes back as FAILED. A heartbeat that agrees changes nothing; one whose epoch
or role differs opens a dispute with a new epoch, which every emulation port sees. A lost heartbeat fences its half, with a class 4
record. An acknowledgement by the last half that owes one closes the dispute, by another it is noted with the epoch. The end of the window
fences the half that did not acknowledge, and the other becomes primary; without any acknowledgement both are fenced and the device halts. A
failover of a redundant pair makes the other controller active, with a class 3 record; a fault of the one that is left halts the device. The owner
clears the crash log and the pending faults. A port that loses the token's broadcast stands alone with EMP_OK low; a Reedway port is isolated. -/
def Obligations.TokenAndDisputesComplete : Prop :=
  ∀ s : State,
    (∃ t, exec .tokenBroadcast s = .next t ∧ t.pending = s.pending
      ∧ (∀ h < 2, mget? t.dev.flt.supEpoch h = if fenced s.dev h then mget? s.dev.flt.supEpoch h else some s.dev.flt.epoch)
      ∧ (∀ n < 8, let x := rwPort s.dev n
          rwPort t.dev n = if x.alone = true then { x with
            alone := false, st := if x.st = .isolated ∧ bit (rwCtrl s.dev n) 24 = false then .failed else x.st } else x))
    ∧ (∀ (h : Fin 2) (e : Word) (role : Fin 3),
        let agrees := e = s.dev.flt.epoch ∧ role.val = roleOf s.dev h.val
        (fenced s.dev h.val = true ∨ s.dev.flt.dispute = true ∨ agrees → exec (.heartbeat h e role) s = .next s)
        ∧ (fenced s.dev h.val = false → s.dev.flt.dispute = false → ¬ agrees →
            ∃ t r, exec (.heartbeat h e role) s = .next t ∧ t.pending = s.pending ∧ t.dev.flt.dispute = true
              ∧ t.dev.flt.epoch = s.dev.flt.epoch + 1 ∧ t.dev.flt.primary = s.dev.flt.primary ∧ t.dev.flt.acks = []
              ∧ mget? t.dev.flt.ring (s.dev.flt.seq % 256) = some r ∧ r.cls = 3 ∧ r.block = 0x15 ∧ r.code = 0x13 ∧ r.unit = h.val
              ∧ (∀ n < 16, (emp t.dev n).dispute = true) ∧ (.dispute, s.dev.clk.localNs) ∈ t.dev.clk.timers))
    ∧ (∀ h : Fin 2, fenced s.dev h.val = true → exec (.heartbeatLoss h) s = .next s)
    ∧ (∀ h : Fin 2, fenced s.dev h.val = false → exec (.heartbeatLoss h) s = .next { s with
        dev := fenceHalf (record s.dev { fspec 4 0x15 0x09 with
          unit := h.val, scope := h.val + 1, detail := (mget s.dev.flt.supEpoch h.val 0).toNat }) h.val 4 (faultCode 4 0x15 0x09) })
    ∧ (∀ h : Fin 2,
        let owes := s.dev.flt.dispute = true ∧ fenced s.dev h.val = false ∧ s.dev.flt.acks.contains h.val = false
        let d := { s.dev with flt := { s.dev.flt with
          acks := s.dev.flt.acks ++ [h.val], supEpoch := mset s.dev.flt.supEpoch h.val s.dev.flt.epoch } }
        let other := fenced s.dev (1 - h.val) = true ∨ s.dev.flt.acks.contains (1 - h.val) = true
        (¬ owes → exec (.disputeAck h) s = .next s)
        ∧ (owes → ¬ other → exec (.disputeAck h) s = .next { s with dev := d })
        ∧ (owes → other → exec (.disputeAck h) s = .next { s with dev := closeDispute d }))
    ∧ (∀ d, closeDispute d = record { d with flt := { d.flt with dispute := false, acks := [] } }
        { fspec 0 0x0A 0x13 with detail := d.flt.epoch.toNat })
    ∧ (s.dev.flt.dispute = false → exec .disputeWindowEnd s = .next s)
    ∧ (∀ a rest, s.dev.flt.dispute = true → s.dev.flt.acks = a :: rest →
        let d := fenceHalf (afterTimer s.dev .dispute 20000) (1 - a) 3 (faultCode 3 0x15 0x13)
        (d.flt.primary = a → d.flt.secValid = false → exec .disputeWindowEnd s = .next { s with dev := closeDispute d })
        ∧ (d.flt.primary ≠ a ∨ d.flt.secValid = true → exec .disputeWindowEnd s = .next { s with dev := closeDispute (tokenChange d a false) }))
    ∧ (s.dev.flt.dispute = true → s.dev.flt.acks = [] →
        let code := faultCode 5 0x15 0x13
        let d := fenceHalf (fenceHalf (afterTimer s.dev .dispute 20000) 0 5 code) 1 5 code
        exec .disputeWindowEnd s = .next { s with
          dev := haltDevice (record d { fspec 5 0x15 0x13 with unit := 0xFFFF, detail := d.flt.epoch.toNat }) })
    ∧ (∀ (b : Bool) (why : Fin 3),
        let code := if why.val = 0 then 0x06 else if why.val = 1 then 0x0C else 0x0B
        (s.dev.flt.redundant = true → exec (.pairFailover b why) s = .next { s with
          dev := record { s.dev with flt := { s.dev.flt with redundant := false, activeB := !b } }
            { fspec 3 0x00 code with unit := flag b, detail := flag b } })
        ∧ (s.dev.flt.redundant = false → b = s.dev.flt.activeB → exec (.pairFailover b why) s = .next { s with
          dev := haltDevice (record s.dev { fspec 5 0x00 code with unit := flag b }) })
        ∧ (s.dev.flt.redundant = false → b ≠ s.dev.flt.activeB → exec (.pairFailover b why) s = .next s))
    ∧ (∀ src, isOwner s.dev src = true →
        exec (.crashLogClear src) s = .next { s with
          dev := { s.dev with bk := { s.dev.bk with clog := { s.dev.bk.clog with recs := [], next := 1, written := 0 } } } }
        ∧ exec (.pendClear src) s = .next (if s.dev.flt.halt = true then s else { s with
          dev := { s.dev with flt := { s.dev.flt with pend := false, maxClass := 0 } } }))
    ∧ (∀ n : Fin 16,
        exec (.tokenLoss true n) s = .next { s with
          dev := setOk (setEmp s.dev n.val { emp s.dev n.val with alone := true }) n.val false }
        ∧ (let d := isolatePort s.dev n.val
           n.val < 8 → exec (.tokenLoss false n) s = .next { s with dev := setRw d n.val { rwPort d n.val with alone := true } })
        ∧ (8 ≤ n.val → exec (.tokenLoss false n) s = .next s))

/-! ### Reset, boot, ownership and update (chapters 17 and 18) -/

/-- Reset sources (R247, R353, R355, R356, R359, R384). A source that finds the device out of RESET, or in a RESET that nothing holds, records
its cause and count in the backup domain and puts the device into RESET; NVM, local time and the other backup items stay, and everything else
has its reset value. A source that finds the device held in RESET only joins those that must deassert. The watchdog's reset is
recorded in class 5 and the crash log sealed; a power cut during an update may leave the first copy of its journal record.

The other resets (R359, R360, R385, R412). RST_DEVICE with its key is a device reset, with another a discarded write; a PERSTx_N resets its
link, and both together the device when the options say so; a partial reset of a target acts on it, one that names none or comes while
another is busy is discarded; its end reports, returns a half, opens a module or retires it; the backup domain loses and regains power. -/
def Obligations.ResetsComplete : Prop :=
  (∀ s : State,
    (∀ d c,
      let t := deviceReset d c
      (d.boot.st = .reset → d.boot.sources ≠ [] → t = { d with boot := { d.boot with
          sources := if d.boot.sources.contains c then d.boot.sources else d.boot.sources ++ [c] } })
      ∧ (d.boot.st ≠ .reset ∨ d.boot.sources = [] →
        t.boot = { Dev.reset.boot with st := .reset, sources := [c] } ∧ t.bk = { d.bk with cause := c, count := d.bk.count + 1 }
        ∧ t.nvm = d.nvm ∧ t.clk = { Dev.reset.clk with localNs := d.clk.localNs } ∧ t.pins = d.pins
        ∧ t.regs = Dev.reset.regs ∧ t.capt = Dev.reset.capt ∧ t.tiles = Dev.reset.tiles ∧ t.sc0 = Dev.reset.sc0 ∧ t.sc1 = Dev.reset.sc1
        ∧ t.sched = Dev.reset.sched ∧ t.imgs = Dev.reset.imgs ∧ t.tmg = Dev.reset.tmg ∧ t.hbm = Dev.reset.hbm ∧ t.flt = Dev.reset.flt
        ∧ t.own = Dev.reset.own ∧ t.rw = Dev.reset.rw ∧ t.hlk = Dev.reset.hlk ∧ t.vce = Dev.reset.vce ∧ t.pxe = Dev.reset.pxe
        ∧ t.ports = { Dev.reset.ports with safeIn := d.ports.safeIn } ∧ t.pwr = { Dev.reset.pwr with brake := d.pwr.brake }))
    ∧ (let held := s.dev.boot.updBusy = true ∧ s.dev.boot.updResult = 0
       let r := drawFree s.dev 1
       (¬ held → exec .powerOnReset s = .next { s with dev := deviceReset s.dev 0x01 })
       ∧ (held → exec .powerOnReset s = .next { s with dev := deviceReset (if r.1 = 1 then updCut r.2 else r.2) 0x01 }))
    ∧ (let held := s.dev.boot.updBusy = true ∧ s.dev.boot.updResult = 0
       let n := inactiveSlot s.dev
       (¬ held ∨ s.dev.boot.updOp = 1 ∨ s.dev.boot.updOp = 5 → updCut s.dev = s.dev)
       ∧ (held → s.dev.boot.updOp = 2 → updCut s.dev =
          if kindCode (slotBytes s.dev n) s.dev.boot.powerClassOpt = 0 then jWriteFirst s.dev (.verified n) else s.dev)
       ∧ (held → s.dev.boot.updOp = 3 → updCut s.dev = jWriteFirst s.dev (.activate n))
       ∧ (held → s.dev.boot.updOp = 4 → updCut s.dev = jWriteFirst s.dev (.confirm s.dev.boot.slot)))
    ∧ (let d := deviceReset s.dev 0x02
       exec .rstNAssert s = .next { s with dev := setPins d { d.pins with rstLow := true } })
    ∧ (s.dev.boot.st = .reset → exec .watchdogExpire s = .next s)
    ∧ (s.dev.boot.st ≠ .reset → exec .watchdogExpire s = .next { s with
        dev := deviceReset (sealLog (record s.dev (fspec 5 0x00 0x09))) 0x04 })
    ∧ (s.dev.boot.st = .load → exec .loaderFailure s = .next { s with dev := deviceReset s.dev 0x08 })
    ∧ (s.dev.boot.st ≠ .load → exec .loaderFailure s = .next s))
  ∧ (∀ s : State,
    (∀ src, isOwner s.dev src = true →
      (∀ key : Byte, exec (.rstDevice src key) s = .next { s with
        dev := if key = 0xD5 then deviceReset s.dev 0x05 else discarded s.dev 0x02 0x200C })
      ∧ (∀ (k : Fin 4) (i : Byte),
          let ok := s.dev.boot.partBusy = false ∧ partTarget k.val i.toNat = true
          let d := partReset (regPut s.dev 0x2010 (put 1 31 1 + put k.val 28 2 + put i.toNat 0 8)) k.val i.toNat
          (¬ ok → exec (.rstPartial src k i) s = .next { s with dev := discarded s.dev 0x02 0x2010 })
          ∧ (ok → exec (.rstPartial src k i) s = .next { s with dev := { d with boot := { d.boot with
              partBusy := true, partKind := k.val, partIndex := i.toNat, partResult := 0 } } })))
    ∧ (∀ d i,
        let code := faultCode 0 0x0A 0x11
        partReset d 0 i = resetTiles (fenceHalf d i 0 code) (fun g => tileHalf g == i)
        ∧ (i < 20 → partReset d 1 i = resetTiles (fenceHalf d (dieHalf i) 0 code) (fun g => g / 40 == i))
        ∧ (20 ≤ i → partReset d 1 i = resetIod (fenceHalf d (dieHalf i) 0 code) (i - 32))
        ∧ (i < 16 → partReset d 2 i = resetEmp d i) ∧ (16 ≤ i → i < 24 → partReset d 2 i = resetCap d (i - 16))
        ∧ (24 ≤ i → partReset d 2 i = resetRw d (i - 32))
        ∧ (i < 100 → partReset d 3 i = closeModules d [i]) ∧ (100 ≤ i → partReset d 3 i = linkReset d (i - 128)))
    ∧ (∀ ok, s.dev.boot.partBusy = false → exec (.partialResetDone ok) s = .next s)
    ∧ (∀ ok, s.dev.boot.partBusy = true →
        let k := s.dev.boot.partKind
        let i := s.dev.boot.partIndex
        let ended := fun r => { s.dev with boot := { s.dev.boot with partBusy := false, partResult := r } }
        let does := fun e => exec (.partialResetDone ok) s = .next { s with dev := e }
        (k = 2 → does (ended 1))
        ∧ (k = 0 ∨ k = 1 →
          let h := if k = 0 then i else dieHalf i
          (ok = true → fenced s.dev h = true → does (returnHalf (ended 1) h))
          ∧ (ok = true → fenced s.dev h = false → does (ended 1)) ∧ (ok = false → does (ended 2)))
        ∧ (k = 3 →
          (100 ≤ i → does (ended (if ok = true then 1 else 2)))
          ∧ (i < 100 → ok = true → does { ended 1 with flt := { s.dev.flt with closedModules := s.dev.flt.closedModules.filter (· != i) } })
          ∧ (i < 100 → ok = false → does (retireModule (record (ended 2) { fspec 3 0x13 0x0A with unit := i, detail := i }) i))))
    ∧ (∀ l : Fin 2,
        let pins := if l.val = 0 then { s.dev.pins with perst0 := true } else { s.dev.pins with perst1 := true }
        let both := s.dev.boot.perstMode = 1 ∧ pins.perst0 = true ∧ pins.perst1 = true
        (both → exec (.perstAssert l) s = .next { s with dev := deviceReset { s.dev with pins := pins } 0x03 })
        ∧ (¬ both → exec (.perstAssert l) s = .next { s with dev := linkReset { s.dev with pins := pins } l.val })
        ∧ exec (.perstDeassert l) s = .next { s with dev := { s.dev with
          pins := if l.val = 0 then { s.dev.pins with perst0 := false } else { s.dev.pins with perst1 := false }
          boot := { s.dev.boot with sources := s.dev.boot.sources.map (fun c => if c = 3 then 0 else c) } } })
    ∧ exec .vbkupLoss s = .next { s with dev := { s.dev with bk := { Backup.reset with powered := false } } }
    ∧ exec .vbkupPowerOn s = .next (if s.dev.bk.powered = true then s else
        { s with dev := { s.dev with bk := { Backup.reset with flags := 2 ^ 27 } } }))

/-- From RESET to SERVICE (R13, R352, R358, R363, R364, R368, R369, R372, R373, R378). A release that a source or TEST holds does not enter LOAD; one that
nothing holds does, counts a load begun and takes the options of the newer good copy, of the one that is good, or the defaults with RECOVERY;
after three loads that did not end it enters RECOVERY. The PLL lock starts the clocks, trains the modules and retires those that fail, replays
the journal and chooses a slot, or enters RECOVERY without one. The chosen Kindling is applied and SELFTEST entered, or RECOVERY. A self-test
halts the device with a failed SCD; otherwise it fences what failed, loses the stacks that did not train, and ends in SERVICE with
the other slot's verification noted and the boot descriptors submitted. -/
def Obligations.BootComplete : Prop :=
  ∀ s : State,
    (∀ test : Fin 16,
      let free := s.dev.boot.st = .reset ∧ s.dev.boot.testHeld = false ∧ 3 ∉ s.dev.boot.sources ∧ 6 ∉ s.dev.boot.sources
      let d := setPins s.dev { s.dev.pins with rstLow := false }
      (¬ free → exec (.resetRelease test) s = .next s)
      ∧ (free → test ≠ 0 → exec (.resetRelease test) s = .next { s with
          dev := emit { d with boot := { d.boot with sources := [], testHeld := true } } (.consoleTest test.val) })
      ∧ (free → test = 0 → exec (.resetRelease test) s = .next { s with
          dev := loadStart (enterState { d with boot := { d.boot with sources := [], cause := d.bk.cause, torn := d.bk.torn } } .load) }))
    ∧ (∀ d,
        let begun := setTorn d (d.bk.torn + 1)
        let e := if d.nvm.trimValid = true then begun else setBkFlag begun 29
        let a := d.nvm.opt0
        let b := d.nvm.opt1
        (3 ≤ d.bk.torn → loadStart d = recover (setOptions (setBkFlag (setTorn d 0) 31) 3 0 0) 1)
        ∧ (d.bk.torn < 3 →
          (a.valid = true → b.valid = true → a.gen < b.gen → loadStart d = setOptions e b.powerClass b.perstMode 1)
          ∧ (a.valid = true → b.valid = true → b.gen ≤ a.gen → loadStart d = setOptions e a.powerClass a.perstMode 0)
          ∧ (a.valid = true → b.valid = false → loadStart d = setOptions (setBkFlag e 26) a.powerClass a.perstMode 0)
          ∧ (a.valid = false → b.valid = true → loadStart d = setOptions (setBkFlag e 26) b.powerClass b.perstMode 1)
          ∧ (a.valid = false → b.valid = false → loadStart d = recover (setTorn (setOptions e 3 0 0) 0) 4)))
    ∧ (∀ bad : List (Fin 100),
        let ready := s.dev.clk.locked = false ∧ s.dev.boot.shadowValid = true ∧ (s.dev.boot.st = .load ∨ s.dev.boot.st = .recovery)
        let d := { s.dev with clk := { s.dev.clk with locked := true, refclk := true }, bk := { s.dev.bk with jptr := jAddr s.dev.nvm } }
        let t := bad.foldl (fun d m => retireModule (record d { fspec 3 0x13 0x0A with unit := m.val, detail := m.val }) m.val) d
        let e := (jNow t).retired.foldl restoreRetired { t with nvm := jSync t.nvm }
        let does := fun f => exec (.pllLock bad) s = .next { s with dev := f }
        (¬ ready → exec (.pllLock bad) s = .next s)
        ∧ (ready → e.boot.st = .recovery → does ((List.range 12).foldl (fun d k => setStack d k { stack d k with present := true }) e))
        ∧ (∀ k f, ready → e.boot.st ≠ .recovery → chooseSlot e = (some k, f) →
            does (noteSlot { f with boot := { f.boot with slot := k, chosen := true } } k true))
        ∧ (∀ f, ready → e.boot.st ≠ .recovery → chooseSlot e = (none, f) → does (recover (setTorn f 0) 2)))
    ∧ (∀ d,
        let a := (jNow d).active
        let fallback := fun d : Dev =>
          let a := (jNow d).active
          if verifySlot d a = true then (some a, d)
          else if verifySlot d (1 - a) = true ∧ eraseMark d (1 - a) = false then (some (1 - a), setBkFlag d 28) else (none, d)
        ((jNow d).pending = none → chooseSlot d = fallback d)
        ∧ (∀ p, (jNow d).pending = some p → (jNow d).tries < 3 → verifySlot d p = true → chooseSlot d = (some p, jWrite d (.bootTry p)))
        ∧ (∀ p, (jNow d).pending = some p → 3 ≤ (jNow d).tries ∨ verifySlot d p = false →
            chooseSlot d = fallback (setBkFlag (jWrite d (.rollback p)) 30)))
    ∧ (let ready := s.dev.boot.st = .load ∧ s.dev.boot.chosen = true
       let k := applyKindling s.dev (slotBytes s.dev s.dev.boot.slot)
       (¬ ready → exec .kindlingApply s = .next s)
       ∧ (∀ d, ready → k = some d → exec .kindlingApply s = .next { s with dev := announceReady (enterState (setTorn d 0) .selftest) })
       ∧ (ready → k = none → exec .kindlingApply s = .next { s with
          dev := recover (setTorn ((List.range 12).foldl (fun d k => setStack d k { stack d k with present := true }) s.dev) 0) 3 }))
    ∧ (∀ (dies : List (Fin 36)) (un : BitVec 12) (chans : List (Fin 192)),
        let b := slotBytes s.dev s.dev.boot.slot
        let d0 := (List.range 12).foldl (fun d k => if bit un.toNat k then loseStack d k else setStack d k { stack d k with present := true }) s.dev
        let d1 := ((d0.flt.retiredDies.filter (fun i => 32 ≤ i)).map (fun i => i - 32)).foldl (fun d n => iodGone d n 0 0) d0
        let d2 := ((dies.map (fun i => i.val)).filter dieValid).foldl (fun d i =>
          strikeDie (record d { fspec 4 0x05 0x10 with unit := i, detail := i }) i 4 (faultCode 4 0x05 0x10)) d1
        let d3 := (chans.map (fun c => c.val)).foldl wantRetire d2
        let d4 := (List.range d3.hbm.retireQ.length).foldl (fun d _ => channelRetire (retireStep d []) []) d3
        let d5 := enterState (bootOwner (verifyOther { d4 with nvm := { d4.nvm with trimValid := true } }) b) .service
        (s.dev.boot.st ≠ .selftest → ∀ ok, exec (.selftestDone ok dies un chans) s = .next s)
        ∧ (s.dev.boot.st = .selftest →
          exec (.selftestDone false dies un chans) s = .next { s with dev := haltDevice (record s.dev (fspec 5 0x05 0x10)) }
          ∧ exec (.selftestDone true dies un chans) s = .next { s with dev := (kindSubmits b).foldl submitOne d5 }
          ∧ d5.boot.st = .service))

/-- Ownership (R374 to R380). In RESET no command of ownership acts. A claim whose term is not above the copies is refused; a valid one with no
owner, in DISPUTE or in an open election is held, and opens an election unless one is open; the owner's own renews under its new term; that of
another is held while the lease lasts, and replaces a standing one by an election. A valid claim that reaches one pair of a redundant two opens a dispute.
ELECTION_CLOSE makes the winner owner with a lease of ten seconds, the highest term first, then H, F, M; RENEW extends the lease, OWN_RELEASE
and LEASE_EXPIRE end it, HANDOVER gives it to the pending claim of the master named, or ends it; a master that is not owner is refused; an
undefined OP is refused by OWN_RESULT. -/
def Obligations.OwnershipComplete : Prop :=
  ∀ (s : State) (src : Iface),
    let d := s.dev
    let o := d.own
    let q := masterOf src
    let t := claimTermOf d q
    let held := { d with own := { o with pend := setMaster o.pend q t } }
    let gives := fun i e => exec i s = .next { s with dev := e }
    (d.boot.st = .reset → ∀ i ∈ [Instr.claim src 0, .claim src 1, .claim src 2, .renew src, .ownRelease src, .handover src 0, .handover src 1,
        .handover src 2, .handover src 3, .ownCmdBadOp src 0, .ownCmdBadOp src 1, .ownCmdBadOp src 2], exec i s = .next s)
    ∧ (d.boot.st ≠ .reset →
      (∀ reach, claimValid d t = false → gives (.claim src reach) (ownResult d q 1))
      ∧ (∀ reach : Fin 3, claimValid d t = true → reach.val = 0 ∨ d.flt.redundant = false ∨ o.st = .dispute →
        (o.st ≠ .owned ∨ o.electing = true → gives (.claim src reach) (ownResult (openWindow held) q 2))
        ∧ (o.st = .owned → o.electing = false →
          (o.standing = true → gives (.claim src reach) (ownResult (openWindow { held with own := { held.own with
              standing := false, owner := none, leaseEnd := 0 } }) q 2))
          ∧ (o.standing = false → o.owner = some q → gives (.claim src reach) (ownResult { d with own := { o with
              term := t, pairA := t, pairB := t, leaseEnd := d.clk.localNs + 10000000000 } } q 0))
          ∧ (o.standing = false → o.owner ≠ some q → gives (.claim src reach) (ownResult held q 2))))
      ∧ (∀ reach : Fin 3, claimValid d t = true → reach.val ≠ 0 → d.flt.redundant = true → o.st ≠ .dispute →
        let renews := o.st = .owned ∧ o.owner = some q ∧ o.standing = false
        let n := { o with
          pend := setMaster o.pend q t
          pairA := if renews ∧ reach.val = 1 then t else o.pairA, pairB := if renews ∧ reach.val ≠ 1 then t else o.pairB }
        gives (.claim src reach) (ownResult (record { d with own := { n with
          st := .dispute, owner := none, standing := false, electing := false, leaseEnd := 0 } }
          { fspec 3 0x01 0x13 with detail := o.term.toNat }) q 2))
      ∧ (∀ i ∈ [Instr.renew src, .ownRelease src, .handover src 0, .handover src 1, .handover src 2, .handover src 3],
        (o.st = .dispute → gives i (ownResult d q 4))
        ∧ (o.st ≠ .dispute → o.st ≠ .owned ∨ o.owner ≠ some q → gives i (ownResult d q 3)))
      ∧ (o.st = .owned → o.owner = some q →
        gives (.renew src) (ownResult { d with own := { o with standing := false, leaseEnd := d.clk.localNs + 10000000000 } } q 0)
        ∧ gives (.ownRelease src) (ownResult (leaseEnds d) q 0)
        ∧ (∀ dest : Fin 4, masterNo dest.val = none → gives (.handover src dest) (ownResult (leaseEnds d) q 0))
        ∧ (∀ (dest : Fin 4) p, masterNo dest.val = some p → ofMaster o.pend p = none →
            gives (.handover src dest) (ownResult (leaseEnds d) q 0))
        ∧ (∀ (dest : Fin 4) p u, masterNo dest.val = some p → ofMaster o.pend p = some u →
            gives (.handover src dest) (ownResult (makeOwner d p u) q 0)))
      ∧ (∀ k, gives (.ownCmdBadOp src k) (ownResult d q 5)))
    ∧ (claimValid d t = true ↔ (o.st = .dispute → o.pairA < t ∧ o.pairB < t) ∧ (o.st ≠ .dispute → o.term < t))
    ∧ (openWindow d = if o.electing = true then d else startTimer { d with own := { o with electing := true } } .election)
    ∧ (leaseEnds d = (let n := { o with owner := none, standing := false, leaseEnd := 0 }
        if o.pend = [] then { d with own := { n with st := .noOwner } } else openWindow { d with own := n }))
    ∧ (o.electing = false → exec .electionClose s = .next s)
    ∧ (o.electing = true →
        let e := afterTimer d .election 1000000
        (∀ p u, winner o = some (p, u) → gives .electionClose (makeOwner e p u))
        ∧ (winner o = none → gives .electionClose { e with own := { o with electing := false, st := .noOwner } }))
    ∧ (∀ p u, winner o = some (p, u) → ofMaster o.pend p = some u ∧ ∀ m v, ofMaster o.pend m = some v → v ≤ u)
    ∧ (∀ p u, makeOwner d p u = { d with own := { o with
        term := u, pairA := u, pairB := u, st := .owned, owner := some p, standing := false, electing := false
        leaseEnd := d.clk.localNs + 10000000000, pend := [] } })
    ∧ (let runs := o.st = .owned ∧ o.owner ≠ none ∧ o.standing = false
       (runs → gives .leaseExpire (leaseEnds (untilLocal d o.leaseEnd))) ∧ (¬ runs → exec .leaseExpire s = .next s))

/-- Update (R365, R367, R381 to R383). A command while another is busy is dropped and noted. Otherwise each of the owner's update commands becomes
the busy one, with the result that its state gives it at once: DOWNLOAD erases the inactive slot unless something stops it, ACTIVATE needs a
verified slot, CONFIRM the pending one in SERVICE, OPT_WRITE erases the copy not in use. UPDATE_DONE ends it with its result: VERIFY notes and journals a
slot whose image is good, ACTIVATE and CONFIRM journal, DOWNLOAD programs the inactive slot with the object's image, OPT_WRITE the option
copy; a command whose object has pages elsewhere waits for them; a failing NVM gives result 5. -/
def Obligations.UpdateComplete : Prop :=
  ∀ (s : State) (src : Iface), isOwner s.dev src = true →
    let d := s.dev
    let n := inactiveSlot d
    let busy (op h r : Nat) : Dev :=
      { regPut d 0x5004 (put op 29 3 + put h 0 16) with boot := { d.boot with
        updBusy := true, updOp := op, updHandle := h, updResult := r, updProgress := 0 } }
    let gives := fun i e => exec i s = .next { s with dev := e }
    (d.boot.updBusy = true →
      ∀ i ∈ [Instr.updateVerify src, .activate src, .confirm src], ∀ h, ∀ j ∈ [i, .download src h, .optWrite src h],
        gives j { d with boot := { d.boot with updDropped := true } })
    ∧ (d.boot.updBusy = false →
      (∀ h : BitVec 16,
        let b := downloadBlocked (busy 1 h.toNat 0) h.toNat
        (b ≠ 0 → gives (.download src h) (busy 1 h.toNat b))
        ∧ (b = 0 → ∀ x, objHere d h.toNat 64 = some (x, []) → gives (.download src h) (downloadStart (busy 1 h.toNat 0)))
        ∧ (b = 0 → ∀ x ms, objHere d h.toNat 64 = some (x, ms) → ms ≠ [] → gives (.download src h) (requestPages (busy 1 h.toNat 0) ms)))
      ∧ gives (.updateVerify src) (busy 2 0 0)
      ∧ gives (.activate src) (busy 3 0 (if slotVerified d n = true then 0 else 1))
      ∧ gives (.confirm src) (busy 4 0 (if d.boot.st = .service ∧ (jNow d).pending = some d.boot.slot then 0 else 1))
      ∧ (∀ (h : BitVec 16) x ms, objHere d h.toNat 64 = some (x, ms) →
          gives (.optWrite src h) (requestPages (optErase (busy 5 h.toNat 0)) ms))
      ∧ (∀ h : BitVec 16, objHere d h.toNat 64 = none → gives (.optWrite src h) (busy 5 h.toNat 6)))
    ∧ (∀ fail, d.boot.updBusy = false → exec (.updateDone fail) s = .next s)
    ∧ (∀ fail, d.boot.updBusy = true → d.boot.updResult ≠ 0 → gives (.updateDone fail) (updEnd d d.boot.updResult))
    ∧ (d.boot.updBusy = true → d.boot.updResult = 0 →
      (d.boot.updOp = 2 →
        let c := kindCode (slotBytes d n) d.boot.powerClassOpt
        let e := { d with boot := { d.boot with updProgress := sat 16 (ceilDiv (slotLength (slotBytes d n)) 65536) } }
        gives (.updateDone true) (updEnd e 5)
        ∧ (c = 0 → gives (.updateDone false) (updEnd (noteSlot (jWrite e (.verified n)) n true) 0))
        ∧ (c ≠ 0 → gives (.updateDone false) (updEnd (noteSlot e n false) c)))
      ∧ (d.boot.updOp = 3 → gives (.updateDone true) (updEnd d 5) ∧ gives (.updateDone false) (updEnd (jWrite d (.activate n)) 0))
      ∧ (d.boot.updOp = 4 → gives (.updateDone true) (updEnd d 5) ∧ gives (.updateDone false) (updEnd (jWrite d (.confirm d.boot.slot)) 0))
      ∧ (d.boot.updOp = 1 →
        (objOf d d.boot.updHandle = none → ∀ fail, gives (.updateDone fail) (updEnd d 6))
        ∧ (∀ h o, objOf d d.boot.updHandle = some (h, o) →
          let len := kindLen (t1Read d h 0 64)
          let ms := missing h o 0 (max len 64)
          let fits := kindHeader (t1Read d h 0 64) = true ∧ len ≤ o.npages * pageSize
          let clean := slotBytes d n = [] ∧ eraseMark d n = true
          let e0 := if clean then d else downloadStart d
          let e := { e0 with boot := { e0.boot with updProgress := sat 16 (ceilDiv len 65536) } }
          (ms ≠ [] → ∀ fail, gives (.updateDone fail) (requestPages d ms))
          ∧ (ms = [] → ¬ fits → ∀ fail, gives (.updateDone fail) (updEnd d 2))
          ∧ (ms = [] → fits → ∀ fail, fail = true ∨ spanBad o 0 len = true → gives (.updateDone fail) (updEnd e 5))
          ∧ (ms = [] → fits → spanBad o 0 len = false →
              gives (.updateDone false) (updEnd (noteSlot (setSlotBytes e n (t1Read e h 0 len)) n false) 0))))
      ∧ (d.boot.updOp = 5 →
        (objHere d d.boot.updHandle 64 = none → ∀ fail, gives (.updateDone fail) (updEnd d 6))
        ∧ (∀ h ms, objHere d d.boot.updHandle 64 = some (h, ms) →
          let gen := fun (b : OptBlock) => if b.valid = true then b.gen else 0
          let o := optOf (t1Read d h 0 64) (max (gen d.nvm.opt0) (gen d.nvm.opt1) + 1)
          (ms ≠ [] → ∀ fail, gives (.updateDone fail) (requestPages d ms))
          ∧ (ms = [] → gives (.updateDone true) (updEnd d 5))
          ∧ (ms = [] → gives (.updateDone false)
              (updEnd { d with nvm := if d.boot.optSel = 0 then { d.nvm with opt1 := o } else { d.nvm with opt0 := o } } 0)))))

/-! ### Clocks, power and sleep (chapter 18) -/

/-- The governor, the divider, the brake, sensors, rails and the reference clock (R215, R387, R389 to R398). While the clock is locked
GOVERNOR_TICK takes a power sample, keeps the peak, asks for the slowest step when Tj or a stack is too hot, the brake is on or held, or a
rail is missing, for one step slower when Tj or power is over its limit, and for one faster when the conditions have held for the dwell. STEP_CHANGE takes
the step asked for, counts it, rescales the tier estimates and asks for a new plan. The brake asks for the slowest step unless it is in force or asked for, and its
release holds it for the dwell. A sensor scan notes the temperatures, records each die whose pair has come to differ, and resets the device with a
class 5 record at 115 degrees on a trip sensor; the trip’s release drops that reset source. A rail 15 mV outside its range strikes the die that it feeds, fails
over a controller pair, or resets the device. A lost clock halts a running device.

SLEEP (R399 to R401). ENTER while nothing runs starts the entry, otherwise SLEEP_BUSY says so; its end loses the tiles and enters SLEEP with
the Reedway ports isolated; WAKE starts the wake of a sleeping device, or is kept until the entry has ended; the wake's end returns to
SERVICE, and the enabled Reedway ports train. -/
def Obligations.PowerComplete : Prop :=
  (∀ s : State,
    (∀ est, s.dev.clk.locked = false → exec (.governorTick est) s = .next s)
    ∧ (∀ est, s.dev.clk.locked = true →
      let p := devicePower s.dev est
      let ss := (p :: s.dev.pwr.samples).take 10
      let d := { s.dev with pwr := { s.dev.pwr with
        samples := ss, peak := max s.dev.pwr.peak p, brakeHold := s.dev.pwr.brakeHold - 100
        estimate := (List.range 26).map (fun k => (k, est.getD k 0)) } }
      let c := classLimit (classNow s.dev)
      let k := stepNow s.dev
      let does := fun e => exec (.governorTick est) s = .next { s with dev := e }
      let limits := fun e hot above => { e with pwr := { e.pwr with tjLim := hot, powerLim := above } }
      let still := { d with pwr := { d.pwr with dwell := none } }
      let forced := 110 ≤ tjNow d ∨ 105 < hbmMax d ∨ d.pwr.brake = true ∨ d.pwr.brakeHold ≠ 0 ∨ railMissing d = true
      let hot := tjHigh d ≤ tjNow d
      let above := 110 * c < 100 * p ∨ c < meanPower ss
      let held := (match d.pwr.dwell with
        | some t => t + 100
        | none => 0)
      let slow := forced ∨ above ∨ hot
      let keeps := 2 ≤ k ∨ (¬ slow ∧ fastestStep d ≤ k)
      (forced → k < 2 → does (decideStep (limits d (decide hot) (decide above)) 2))
      ∧ (¬ forced → above ∨ hot ∨ k < fastestStep d → k < 2 → does (decideStep (limits d (decide hot) (decide above)) (k + 1)))
      ∧ (keeps → upOk d p = true → ¬ slow → upDwell d ≤ held → does (decideStep d (k - 1)))
      ∧ (keeps → upOk d p = true → slow ∨ held < upDwell d → does { d with pwr := { d.pwr with dwell := some held } })
      ∧ (keeps → upOk d p = false → does still)
      ∧ (∀ d k, decideStep d k = { d with pwr := { d.pwr with want := if k = d.clk.step then none else some k, dwell := none } }))
    ∧ (s.dev.pwr.want = none → exec .stepChange s = .next s)
    ∧ (∀ k, s.dev.pwr.want = some k → exec .stepChange s = .next { s with dev := { s.dev with
          clk := { s.dev.clk with step := k, steps := satAdd 32 s.dev.clk.steps 1 }
          pwr := { s.dev.pwr with want := none }
          tmg := { s.dev.tmg with est0 := rescaleEst s.dev.tmg.est0 s.dev.clk.step k, est1 := rescaleEst s.dev.tmg.est1 s.dev.clk.step k
                                  est2 := rescaleEst s.dev.tmg.est2 s.dev.clk.step k }
          sched := { s.dev.sched with planDirty := true } } })
    ∧ (let d := { s.dev with pwr := { s.dev.pwr with brake := true, brakeHold := 0 } }
       exec .brakeAssert s = .next { s with dev := if s.dev.clk.locked = true ∧ stepNow s.dev ≠ 2 then decideStep d 2 else d })
    ∧ exec .brakeRelease s = .next (if s.dev.pwr.brake = true then
        { s with dev := { s.dev with pwr := { s.dev.pwr with brake := false, brakeHold := upDwell s.dev } } } else s)
    ∧ (∀ temps : List (Option Byte),
        let m : FMap Nat := (List.range 64).filterMap (fun k => (temps.getD k none).map (fun b => (k, b.toNat)))
        let trip := m.find? (fun p => isTrip p.1 && decide (115 ≤ p.2))
        let noted := { s.dev with pwr := { s.dev.pwr with temps := m, differ := differing m } }
        let d := ((differing m).filter (fun i => !s.dev.pwr.differ.contains i)).foldl (fun d i => record d { fspec 3 0x04 0x0D with
          unit := i, detail := (tripPair i).1 + mget m (tripPair i).1 0 * 2 ^ 16 }) noted
        (s.dev.boot.st = .reset → exec (.sensorScan temps) s = .next (if trip = none then s else
          { s with dev := deviceReset s.dev 0x06 }))
        ∧ (s.dev.boot.st ≠ .reset → trip = none → exec (.sensorScan temps) s = .next { s with dev := d })
        ∧ (∀ p, s.dev.boot.st ≠ .reset → trip = some p → exec (.sensorScan temps) s = .next { s with
          dev := faultReset d { fspec 5 0x04 0x0D with unit := p.1, detail := p.1 + p.2 * 2 ^ 16 } 0x06 }))
    ∧ exec .tripRelease s = .next { s with dev := { s.dev with boot := { s.dev.boot with
        sources := s.dev.boot.sources.map (fun c => if c = 6 then 0 else c) } } }
    ∧ (∀ (rail : Fin 33) mv,
        let f (cls unit : Nat) : FSpec := { fspec cls 0x04 0x0C with unit := unit, detail := rail.val + mv * 2 ^ 16 }
        let does := fun e => exec (.railFault rail mv) s = .next { s with dev := e }
        (s.dev.boot.st = .reset ∨ railTrips rail.val mv = false → exec (.railFault rail mv) s = .next s)
        ∧ (s.dev.boot.st ≠ .reset → railTrips rail.val mv = true →
          (rail.val < 20 → does (strikeDie (record s.dev (f 4 rail.val)) rail.val 4 (faultCode 4 0x04 0x0C)))
          ∧ (20 ≤ rail.val → rail.val < 24 → does (strikeDie (record s.dev (f 4 (rail.val + 12))) (rail.val + 12) 4 (faultCode 4 0x04 0x0C)))
          ∧ (rail.val = 24 ∨ rail.val = 25 → does (pairFault s.dev (rail.val == 25) 0x0C))
          ∧ (26 ≤ rail.val → does (deviceReset s.dev 0x01))))
    ∧ (∀ refclk : Bool,
        let d := { s.dev with clk := { s.dev.clk with locked := false, refclk := s.dev.clk.refclk && !refclk } }
        exec (.refclkLoss refclk) s = .next { s with
          dev := if s.dev.clk.locked = true then haltDevice (record d (fspec 5 0x03 0x0B)) else d }))
  ∧ (∀ (s : State) (src : Iface),
    (isOwner s.dev src = true →
      let d := regPut s.dev 0x4014 (put (fld (regGet s.dev 0x4014) 29 1) 29 1)
      (maySleep s.dev = true → exec (.sleepEnter src) s = .next { s with
        dev := { d with pwr := { d.pwr with sleepBusy := false, entering := true, wakeAsked := false } } })
      ∧ (maySleep s.dev = false → exec (.sleepEnter src) s = .next { s with dev := { d with pwr := { d.pwr with sleepBusy := true } } })
      ∧ (s.dev.pwr.entering = true → exec (.wake src) s = .next { s with dev := { d with pwr := { d.pwr with wakeAsked := true } } })
      ∧ (s.dev.pwr.entering = false → s.dev.boot.st = .sleep → s.dev.pwr.waking = false →
          exec (.wake src) s = .next { s with dev := startTimer { d with pwr := { d.pwr with waking := true } } .wake })
      ∧ (s.dev.pwr.entering = false → s.dev.boot.st ≠ .sleep ∨ s.dev.pwr.waking = true → exec (.wake src) s = .next { s with dev := d }))
    ∧ (s.dev.pwr.entering = false ∨ s.dev.boot.st ≠ .service → exec .sleepEntryDone s = .next s)
    ∧ (s.dev.pwr.entering = true → s.dev.boot.st = .service →
        let d := (List.range 8).foldl isolatePort { s.dev with tiles := [] }
        let e := if d.pwr.wakeAsked = true then startTimer d .wake else d
        exec .sleepEntryDone s = .next { s with
          dev := enterState { e with pwr := { e.pwr with entering := false, waking := d.pwr.wakeAsked, wakeAsked := false } } .sleep })
    ∧ (s.dev.boot.st ≠ .sleep ∨ s.dev.pwr.waking = false → exec .wakeDone s = .next s)
    ∧ (s.dev.boot.st = .sleep → s.dev.pwr.waking = true → ∃ t, exec .wakeDone s = .next t ∧ t.pending = s.pending
        ∧ t.dev.boot.st = .service ∧ t.dev.pwr.waking = false ∧ t.dev.tmg = s.dev.tmg
        ∧ (∀ n < 8, (rwPort t.dev n).st = if bit (rwCtrl s.dev n) 31 && !bit (rwCtrl s.dev n) 24 then .training else (rwPort s.dev n).st)
        ∧ (∀ x, (.wake, x) ∈ s.dev.clk.timers → (∀ y, (.wake, y) ∈ s.dev.clk.timers → y = x) → x + 2000000 ≤ t.dev.clk.localNs)))

/-! ### Host links and management (chapters 19 and 20) -/

/-- Links (R403, R407, R409 to R411, R420). A link that trains comes up, and says so while BAR0 is available; one that fails gives its pairs to the
other link where that is up and the option set, with a class 3 record, and with no link up every move of T2 fails; a planned move gives its
pairs over when its wait ends, a zero-length read ordering the old link's writes, or as a failover where the wait expires; configuration
requests and snoops of a link that is up are answered.

Accesses through BAR2 and PTM (R404, R405, R413). Through a link that is up, with BAR0 open, a read or a write inside the window reaches the object
and is answered once its pages are there, and waits for them until then; one outside is answered as unsupported. A PTM request notes
DEVTIME; its response gives the offset, counts toward the lock, and steps or slews DEVTIME where the host is the time source. -/
def Obligations.HostLinksComplete : Prop :=
  (∀ (s : State) (l : Fin 2),
    let up := linkUp s.dev l.val
    (∀ (rate : Fin 7) (width : Fin 9) cxl,
      let trains := up = false ∧ perstLow s.dev l.val = false ∧ s.dev.clk.locked = true ∧ rate.val ≠ 0 ∧ [1, 2, 4, 8].contains width.val = true
      let d := setLink s.dev l.val true rate.val width.val cxl
      (trains → exec (.hostLinkUp l rate width cxl) s = .next { s with dev := if bar0Open s.dev = true then emit d (.ready l.val) else d })
      ∧ (¬ trains → exec (.hostLinkUp l rate width cxl) s = .next s))
    ∧ (∀ c ∈ [(Instr.hostLinkFail l false, 1), (.hostLinkFail l true, 3), (.recoveryTimeout l, 2)],
      exec c.1 s = .next { s with dev := linkFail s.dev l.val c.2 })
    ∧ (∀ cause,
      let d := setLink s.dev l.val false 0 0 false
      let left := s.dev.hlk.move.map (fun m => (⟨m.src, m.pairs.filter (fun q => servingLink d q != l.val)⟩ : Move))
      let e := { d with hlk := { d.hlk with move := left.filter (fun m => !m.pairs.isEmpty), ptmOut := none } }
      (up = false → linkFail s.dev l.val cause = s.dev)
      ∧ (up = true →
        (bit (regGet s.dev 0x70000) 31 = true → linkUp s.dev (1 - l.val) = true →
          linkFail s.dev l.val cause = failover e l.val cause (pairsOn e l.val))
        ∧ (bit (regGet s.dev 0x70000) 31 = false → linkUp s.dev (1 - l.val) = true → linkFail s.dev l.val cause = e)
        ∧ (linkUp s.dev (1 - l.val) = false → linkFail s.dev l.val cause = t2Lost e)))
    ∧ (up = true → linkUp s.dev (1 - l.val) = true → bit (regGet s.dev 0x70000) 31 = true → s.dev.hlk.move = none →
        ∀ c ∈ [(Instr.hostLinkFail l false, 1), (.hostLinkFail l true, 3), (.recoveryTimeout l, 2)],
        ∃ t r, exec c.1 s = .next t ∧ t.pending = s.pending ∧ linkUp t.dev l.val = false ∧ linkUp t.dev (1 - l.val) = true
          ∧ t.dev.hlk.serve = (pairsOn s.dev l.val).foldl (fun m q => m ^^^ 2 ^ q) s.dev.hlk.serve
          ∧ t.dev.hlk.foCount = satAdd 16 s.dev.hlk.foCount 1 ∧ t.dev.hlk.foFrom = l.val ∧ t.dev.hlk.foCause = c.2
          ∧ mget? t.dev.flt.ring (s.dev.flt.seq % 256) = some r ∧ r.cls = 3 ∧ r.block = 0x12 ∧ r.code = 0x0A ∧ r.detail = c.2)
    ∧ (let cxl := (if l.val = 0 then s.dev.hlk.cxl0 else s.dev.hlk.cxl1) = true
       exec (.configurationRequest l) s = .next (if up = true then { s with dev := emit s.dev (.cfg l.val (!bar0Open s.dev)) } else s)
       ∧ (∀ a : Word64,
          (up = true → cxl → exec (.cxlSnoop l a) s = .next { s with
            dev := emit s.dev (.snoop l.val (!lineInFlight s.dev (a.toNat / 64 * 64))) })
          ∧ (up = false ∨ ¬ cxl → exec (.cxlSnoop l a) s = .next s)))
    ∧ (∀ d src qs,
      let old := (d.hlk.move.map (fun m => m.pairs)).getD []
      (qs = [] → startMove d src qs = d)
      ∧ (qs ≠ [] → startMove d src qs = { d with hlk := { d.hlk with move := some ⟨src, old ++ qs.filter (fun q => !old.contains q)⟩ } }))
    ∧ (∀ src, isOwner s.dev src = true →
        exec (.movePairs src l) s = .next { s with dev := startMove s.dev l.val (pairsOn s.dev l.val) }
        ∧ (awayPairs s.dev = [] → exec (.moveHome src) s = .next s)
        ∧ (∀ q qs, awayPairs s.dev = q :: qs → exec (.moveHome src) s = .next { s with
            dev := startMove s.dev (servingLink s.dev q) (q :: qs) }))
    ∧ (bit (regGet s.dev 0x70000) 30 = true → up = true → exec (.autoBack l) s = .next { s with
          dev := startMove s.dev (1 - l.val) ((awayPairs s.dev).filter (fun q => servingLink s.dev q == 1 - l.val)) })
    ∧ (bit (regGet s.dev 0x70000) 30 = false ∨ up = false → exec (.autoBack l) s = .next s)
    ∧ (∀ b, s.dev.hlk.move = none → exec (.moveWaitEnd b) s = .next s)
    ∧ (∀ m, s.dev.hlk.move = some m →
        let d := { s.dev with hlk := { s.dev.hlk with move := none } }
        let on := fun k => m.pairs.filter (fun q => servingLink s.dev q == k)
        (∃ t, exec (.moveWaitEnd false) s = .next t ∧ t.pending = s.pending
          ∧ t.dev.out = s.dev.out ++ ([0, 1].filter (fun k => m.pairs.any (fun q => servingLink s.dev q == k))).map (fun k => .orderRead k)
          ∧ t.dev.hlk = { d.hlk with
              serve := m.pairs.foldl (fun k q => k ^^^ 2 ^ q) s.dev.hlk.serve, foCause := 6, foFrom := m.src }
          ∧ t.dev.flt = s.dev.flt)
        ∧ (let e := if on 0 = [] then d else failover d 0 6 (on 0)
           exec (.moveWaitEnd true) s = .next { s with dev := if on 1 = [] then e else failover e 1 6 (on 1) })))
  ∧ (∀ (s : State) (l : Fin 2),
    let open_ := linkUp s.dev l.val = true ∧ bar0Open s.dev = true
    (∀ (off : BitVec 38) (n : Fin 4097) data,
      let rd := fun e => exec (.bar2Read l off n) s = .next { s with dev := e }
      let wr := fun e => exec (.bar2Write l off data) s = .next { s with dev := e }
      (¬ open_ → exec (.bar2Read l off n) s = .next s ∧ exec (.bar2Write l off data) s = .next s)
      ∧ (open_ → winSpan s.dev off.toNat n.val = none → rd (emit s.dev (.bar2 l.val false false [])))
      ∧ (open_ → winSpan s.dev off.toNat data.length = none → wr (emit s.dev (.bar2 l.val false false [])))
      ∧ (∀ h o a, open_ → winSpan s.dev off.toNat n.val = some (h, o, a) →
        let waits := missing h o a n.val ≠ [] ∨ roundsHold s.dev o [(a, n.val)] = true
        (¬ waits → rd (winRead s.dev l.val h a n.val))
        ∧ (waits → rd (waitFor s.dev (missing h o a n.val) (.winRd l.val h a n.val))))
      ∧ (∀ h o a, open_ → winSpan s.dev off.toNat data.length = some (h, o, a) →
        let waits := missing h o a data.length ≠ [] ∨ roundsHold s.dev o [(a, data.length)] = true
        (¬ waits → wr (emit (t1Write s.dev h a data) (.bar2 l.val true false [])))
        ∧ (waits → wr (waitFor s.dev (missing h o a data.length) (.win l.val h a data)))))
    ∧ (∀ h a n, (obj? s.dev h = none → winRead s.dev l.val h a n = emit s.dev (.bar2 l.val false false []))
        ∧ (∀ o, obj? s.dev h = some o → winRead s.dev l.val h a n =
            emit (touch s.dev h a n) (.bar2 l.val true (spanBad o a n) (t1Read s.dev h a n))))
    ∧ (ptmLink s.dev = none → exec .ptmRequest s = .next s)
    ∧ (∀ k, ptmLink s.dev = some k → exec .ptmRequest s = .next { s with
        dev := emit { s.dev with hlk := { s.dev.hlk with ptmOut := some s.dev.clk.devtime.toNat } } (.ptm k) })
    ∧ (∀ t2 t3, s.dev.hlk.ptmOut = none → exec (.ptmResponse t2 t3) s = .next s)
    ∧ (∀ t1 (t2 t3 : Word64), s.dev.hlk.ptmOut = some t1 →
        let o := timeOffset t1 t2.toNat t3.toNat s.dev.clk.devtime.toNat
        let source := bit (regGet s.dev 0x70000) 29 = true ∧ bit (rwgTime s.dev) 3 = false
        ∃ t, exec (.ptmResponse t2 t3) s = .next t ∧ t.pending = s.pending ∧ t.dev.hlk.ptmOut = none ∧ t.dev.hlk.offset = o
          ∧ (o.natAbs ≤ 16 → t.dev.hlk.lockCnt = min 8 (s.dev.hlk.lockCnt + 1)
              ∧ t.dev.hlk.timeLocked = (s.dev.hlk.timeLocked || decide (8 ≤ s.dev.hlk.lockCnt + 1)))
          ∧ (16 < o.natAbs → t.dev.hlk.lockCnt = 0 ∧ t.dev.hlk.timeLocked = (s.dev.hlk.timeLocked && decide (o.natAbs ≤ 64)))
          ∧ (source → 1000 < o.natAbs →
              t.dev.clk = { s.dev.clk with devtime := BitVec.ofInt 64 ((s.dev.clk.devtime.toNat : Int) + o), slew := 0 })
          ∧ (source → o.natAbs ≤ 1000 → t.dev.clk = { s.dev.clk with slew := o })
          ∧ (¬ source → t.dev.clk = s.dev.clk ∧ t.dev.sched = s.dev.sched)))

/-- Management messages (R414 to R416). Out of RESET each register-access message of 1 to 16 words on an interface that carries messages reads or
writes its words in order and is answered, of another count answered with an error; a time-out answers TIMEOUT, but for reads that are never
late; a message of another type is counted; the control messages are answered; a CCC gives or takes the dynamic address in I3C
mode. On another interface, or in RESET, no message acts. The completion codes of control messages are notes/assumptions/43.md.

The PMBus master (R391, R417). A poll that is enabled reads every valid slot and moves the factors; an alert reads them without power; a slot that
does not answer or reports a fault is recorded in class 1; a pass-through transfer goes out and comes back with its data or its error, and
one that names no slot or comes while another waits is discarded.

The TAP (R418, R429): what each instruction shifts out and leaves. Instructions that drive pins do so while RST_N is low and JTAG_EN is
high, and execute as BYPASS otherwise. The boundary register's length and the captured pins are operands (notes/assumptions/21.md). -/
def Obligations.ServicePortsComplete : Prop :=
  (∀ (s : State) (src : Iface),
    (carriesMsg src = false ∨ s.dev.boot.st = .reset → ∀ off (n : Fin 17) (k : Fin 16) words wr op m,
      ∀ i ∈ [Instr.mgtRead src off n, .readLog src off n, .mgtWrite src off words, .mgtTimeout src wr off k words, .mctpBadMsg src op,
        .mctpControl src m], exec i s = .next s)
    ∧ (carriesMsg src = true → s.dev.boot.st ≠ .reset →
      (∀ (off : Word) (n : Fin 17),
        let r := readWords s.dev src off.toNat n.val
        (1 ≤ n.val → n.val ≤ 16 →
          exec (.mgtRead src off n) s = .next { s with dev := respond r.2 src (.mgt src 0x81 0 r.1) }
          ∧ exec (.readLog src off n) s = .next { s with
              dev := respond s.dev src (.mgt src 0x83 0
                ((List.range n.val).map (fun i => BitVec.ofNat 32 (leNat (clogRead s.dev.bk.clog (off.toNat + 4 * i) 4))))) })
        ∧ (n.val = 0 →
          exec (.mgtRead src off n) s = .next { s with dev := respond s.dev src (.mgt src 0x81 1 []) }
          ∧ exec (.readLog src off n) s = .next { s with dev := respond s.dev src (.mgt src 0x83 1 []) }))
      ∧ (∀ (off : Word) words,
        let r := writeWords s.dev src off.toNat words
        (1 ≤ words.length → words.length ≤ 16 →
          exec (.mgtWrite src off words) s = .next { s with dev := respond r.2 src (.mgt src 0x82 (if r.1 then 2 else 0) []) })
        ∧ (words = [] ∨ 16 < words.length →
          exec (.mgtWrite src off words) s = .next { s with dev := respond s.dev src (.mgt src 0x82 1 []) }))
      ∧ (∀ (off : Word) (n : Fin 16) words,
        exec (.mgtTimeout src false off n words) s = .next (if neverLate off.toNat = true then s else { s with
          dev := respond (readWords s.dev src off.toNat n.val).2 src (.mgt src 0x81 3 []) }))
      ∧ (∀ (off : Word) (n : Fin 16) words, exec (.mgtTimeout src true off n words) s = .next { s with
          dev := respond (writeWords s.dev src off.toNat (words.take 15)).2 src (.mgt src 0x82 3 []) })
      ∧ exec (.mctpBadMsg src none) s = .next { s with
          dev := { s.dev with mgt := { s.dev.mgt with badMsg := satAdd 16 s.dev.mgt.badMsg 1 } } }
      ∧ (∀ k : Byte, exec (.mctpBadMsg src (some k)) s = .next (if 1 ≤ k.toNat ∧ k.toNat ≤ 3 then s else { s with
          dev := respond s.dev src (.mgt src (128 ||| k.toNat) 1 []) }))
      ∧ (∀ e : Byte, e = 0 ∨ e = 255 → exec (.mctpControl src (.setEid e)) s = .next { s with
          dev := respond s.dev src (.mctp src 1 2 []) })
      ∧ (∀ e : Byte, e ≠ 0 → e ≠ 255 → ∃ d, exec (.mctpControl src (.setEid e)) s = .next { s with
            dev := respond d src (.mctp src 1 0 [0, e, 0]) }
          ∧ eidOf d src = e.toNat ∧ (∀ other, other ≠ src → eidOf d other = eidOf s.dev other)
          ∧ { d with mgt := s.dev.mgt } = s.dev)
      ∧ exec (.mctpControl src .getEid) s = .next { s with
          dev := respond s.dev src (.mctp src 2 0 [BitVec.ofNat 8 (eidOf s.dev src), 0, 0]) }
      ∧ (let r := drawBytes s.dev 4
         exec (.mctpControl src .getVersion) s = .next { s with dev := respond r.2 src (.mctp src 4 0 (1 :: r.1)) }
         ∧ exec (.mctpControl src (.getVendor 0)) s = .next { s with dev := respond r.2 src (.mctp src 6 0 (0xFF :: 0 :: r.1)) })
      ∧ exec (.mctpControl src .getTypes) s = .next { s with dev := respond s.dev src (.mctp src 5 0 [1, 0x7E]) }
      ∧ (∀ k, k ≠ 0 → exec (.mctpControl src (.getVendor k)) s = .next { s with dev := respond s.dev src (.mctp src 6 2 []) })
      ∧ (∀ c, exec (.mctpControl src (.other c)) s = .next { s with dev := respond s.dev src (.mctp src c.toNat 5 []) }))
    ∧ (∀ d o, respond d src o =
        if src = .mgt ∧ bit (regGet d 0x6000) 31 = true ∧ d.mgt.daValid = true then emit (emit d o) .ibi else emit d o)
    ∧ (∀ op, bit (regGet s.dev 0x6000) 31 = false ∨ s.dev.boot.st = .reset → exec (.mgtDynamicAddress op) s = .next s)
    ∧ (bit (regGet s.dev 0x6000) 31 = true → s.dev.boot.st ≠ .reset →
        let gives := fun op v a => exec (.mgtDynamicAddress op) s = .next { s with
          dev := { s.dev with mgt := { s.dev.mgt with daValid := v, dynAddr := a } } }
        (∀ a, gives (.setdasa a) true a.toNat)
        ∧ (∀ a, gives (.entdaa a) true (if s.dev.mgt.daValid = true then s.dev.mgt.dynAddr else a.toNat))
        ∧ gives .rstdaa false 0
        ∧ gives .other s.dev.mgt.daValid (if s.dev.mgt.daValid = true then s.dev.mgt.dynAddr else 0)))
  ∧ (∀ s : State,
    (∀ res,
      let runs := bit (regGet s.dev 0x6008) 31 = true ∧ s.dev.clk.locked = true
      (runs → exec (.pmbusPoll res) s = .next { s with dev := (List.range 26).foldl moveFactor (pollAll s.dev res true) })
      ∧ (¬ runs → exec (.pmbusPoll res) s = .next s)
      ∧ exec (.pmbAlert res) s = .next (if s.dev.clk.locked = true then { s with dev := pollAll s.dev res false } else s))
    ∧ (∀ d r p power,
      let rail := fld (railReg d r) 0 6
      let e := if p.ok = true ∧ power = true then { d with mgt := { d.mgt with power := mset d.mgt.power r p.pout } } else d
      let bad := fun d => record { d with mgt := { d.mgt with
          failed := if d.mgt.failed.contains rail = true then d.mgt.failed else d.mgt.failed ++ [rail] } }
        { fspec 1 0x06 0x0C with unit := r, detail := rail }
      (p.ok = true → p.fault = false → pollSlot d r (some p) power = e)
      ∧ (p.ok = false ∨ p.fault = true → pollSlot d r (some p) power = bad e)
      ∧ pollSlot d r none power = bad d)
    ∧ (∀ src (w : BitVec 31), isOwner s.dev src = true →
        let ok := s.dev.mgt.xfer = none ∧ fld w.toNat 16 6 < 48
        (ok → exec (.pmbXfer src w) s = .next { s with dev := { s.dev with mgt := { s.dev.mgt with
          xfer := some ⟨bit w.toNat 30, bit w.toNat 29, fld w.toNat 16 6, fld w.toNat 8 8, fld (regGet s.dev 0x6014) 0 16⟩ } } })
        ∧ (¬ ok → exec (.pmbXfer src w) s = .next { s with dev := discarded s.dev 0x06 0x600C }))
    ∧ (∀ nack pec data, s.dev.mgt.xfer = none → exec (.pmbXferDone nack pec data) s = .next s)
    ∧ (∀ x nack pec (data : BitVec 16), s.dev.mgt.xfer = some x →
        let d := sendPage s.dev x.slot
        let n := if x.word = true then 2 else 1
        let sent := emit d (.pmbus (fld (railReg s.dev x.slot) 24 7) x.cmd (leBytes n x.data))
        (x.read = true → exec (.pmbXferDone nack pec data) s = .next { s with dev := { d with mgt := { d.mgt with
          xfer := none, nack := nack, pecErr := pec
          data := if nack = false ∧ pec = false then data.toNat % 2 ^ (8 * n) else s.dev.mgt.data } } })
        ∧ (x.read = false → exec (.pmbXferDone nack pec data) s = .next { s with dev := { sent with mgt := { sent.mgt with
          xfer := none, nack := nack, pecErr := false } } })))
  ∧ (∀ (s : State) (sampled tdi : List Bool),
    let drives := s.dev.pins.rstLow = true ∧ s.dev.pins.jtagEn = true
    let loaded := fun i => { s.dev.pins with tap := { s.dev.pins.tap with loaded := i } }
    let all : List (Instr × TapIr) := [(.extest sampled tdi, .extest), (.extestPulse sampled tdi, .extestPulse),
      (.extestTrain sampled tdi, .extestTrain)]
    (∀ i ∈ [(Instr.bypass tdi, TapIr.bypass, [false]), (.idcode tdi, .idcode, idcodeBits)],
      ∃ t, exec i.1 s = .next t ∧ t.pending = s.pending ∧ t.dev.pins = loaded i.2.1
        ∧ t.dev.out.getLast? = some (.tdo ((i.2.2 ++ tdi).take tdi.length)))
    ∧ (∃ t, exec (.samplePreload sampled tdi) s = .next t ∧ t.pending = s.pending
        ∧ t.dev.pins.tap = { loaded := .samplePreload, boundary := (sampled ++ tdi).drop tdi.length }
        ∧ t.dev.out.getLast? = some (.tdo ((sampled ++ tdi).take tdi.length)))
    ∧ (drives →
      (∀ i ∈ all,
        ∃ t, exec i.1 s = .next t ∧ t.pending = s.pending ∧ t.dev.pins.tap = { loaded := i.2, boundary := (sampled ++ tdi).drop tdi.length }
          ∧ t.dev.out = s.dev.out ++ [.tdo ((sampled ++ tdi).take tdi.length), .drive i.2 ((sampled ++ tdi).drop tdi.length)])
      ∧ (∃ t, exec (.clamp tdi) s = .next t ∧ t.pending = s.pending ∧ t.dev.pins = loaded .clamp
          ∧ t.dev.out = s.dev.out ++ [.drive .clamp s.dev.pins.tap.boundary, .tdo ((false :: tdi).take tdi.length)])
      ∧ (∃ t, exec (.highz tdi) s = .next t ∧ t.pending = s.pending ∧ t.dev.pins = loaded .highz
          ∧ t.dev.out = s.dev.out ++ [.highz, .tdo ((false :: tdi).take tdi.length)]))
    ∧ (¬ drives → ∀ i ∈ all ++ [(.clamp tdi, .clamp), (.highz tdi, .highz)], exec i.1 s = .next { s with
        dev := emit { s.dev with pins := loaded i.2 } (.tdo ((false :: tdi).take tdi.length)) })
    ∧ (∃ t, exec .trstNAssert s = .next t ∧ t.pending = s.pending ∧ t.dev.pins = loaded .idcode)
    ∧ (∀ b, exec (.jtagEnChange b) s = .next { s with dev := setPins s.dev { s.dev.pins with jtagEn := b } }
        ∧ (setPins s.dev { s.dev.pins with jtagEn := b }).pins = { s.dev.pins with jtagEn := b }))

/-- An access of any size or alignment but an aligned word completes, reads 0, changes no register, and records a class 0 fault of source block
0x16 and code 0x01 with its offset (R3). An aligned word is no such access, and over an interface that cannot carry it none acts. -/
def Obligations.WrongSizeAccess : Prop :=
  ∀ (s : State) (src : Iface) (off : BitVec 24) (n : Fin 65) (wr : Bool),
    (reaches s.dev src = false ∨ (n.val = 4 ∧ off.toNat % 4 = 0) → exec (.accessWrongSize src off n wr) s = .next s)
    ∧ (reaches s.dev src = true → (n.val ≠ 4 ∨ off.toNat % 4 ≠ 0) →
      ∃ t r, exec (.accessWrongSize src off n wr) s = .next t ∧ t.pending = s.pending ∧ t.dev.regs = s.dev.regs
        ∧ { t.dev with flt := s.dev.flt, out := s.dev.out, hlk := s.dev.hlk } = s.dev
        ∧ t.dev.hlk.serve = s.dev.hlk.serve
        ∧ (wr = false → t.dev.out.getLast? = some (.rdata src off.toNat 0))
        ∧ mget? t.dev.flt.ring (s.dev.flt.seq % 256) = some r ∧ r.cls = 0 ∧ r.block = 0x16 ∧ r.code = 0x01 ∧ r.detail = off.toNat)

/-- Register pairs (R8). Reading a _LO word gives it and keeps the upper word for the master that reads; that master's next reads of the _HI
word give what was kept; no other master's and no other pair's kept word changes. Without a kept word the _HI word is read as it stands. A
device reset forgets all. An interface that cannot carry an access reads nothing. -/
def Obligations.PairCapture : Prop :=
  (∀ (s : State) (src : Iface) (off : BitVec 24), reaches s.dev src = false → exec (.pairLoRead src off) s = .next s)
  ∧ (∀ (s : State) (src : Iface) (off : BitVec 24) v, reaches s.dev src = true → off.toNat % 4 = 0 → isLo off.toNat = true →
    regView s.dev src off.toNat = some v →
    ∃ t, exec (.pairLoRead src off) s = .next t ∧ t.pending = s.pending ∧ t.dev.out = s.dev.out ++ [.rdata src off.toNat (BitVec.ofNat 32 v)]
      ∧ captured t.dev (masterOf src) off.toNat = some (BitVec.ofNat 32 ((regView s.dev src (off.toNat + 4)).getD 0))
      ∧ (∀ q lo, (q ≠ masterOf src ∨ lo ≠ off.toNat) → captured t.dev q lo = captured s.dev q lo)
      ∧ { t.dev with capt := s.dev.capt, out := s.dev.out } = s.dev)
  ∧ (∀ (s : State) (src : Iface) (lo : Nat) v, reaches s.dev src = true → lo % 4 = 0 → isLo lo = true → isLo (lo + 4) = false →
    lo + 4 < 2 ^ 24 → regView s.dev src (lo + 4) = some v →
    exec (.pairLoRead src (BitVec.ofNat 24 (lo + 4))) s = .next { s with
      dev := emit s.dev (.rdata src (lo + 4) ((captured s.dev (masterOf src) lo).getD (BitVec.ofNat 32 v))) })
  ∧ (∀ (d : Dev) (c : Nat) q lo, d.boot.st ≠ .reset ∨ d.boot.sources = [] → captured (deviceReset d c) q lo = none)

/-- Writes and reads of single words (R3, R4, R7, R9, R379). The owner's write of a register that only holds bits gives it the bits of its fields, and of
another does what that register is for; from any other master, outside the writes open to all, it changes nothing. Doorbells, the client's selection
and the claim's term take every master's write. At an offset that no block assigns a read gives 0 and a write is recorded; a misaligned access is
recorded; a read gives the word and clears the counts marked RC. An interface that cannot carry an access changes nothing. Of
OWN_CMD the ownership statement speaks. -/
def Obligations.RegisterAccess : Prop :=
  ∀ (s : State) (src : Iface) (off : BitVec 24),
    let a := off.toNat
    (reaches s.dev src = false → ∀ w wr, ∀ i ∈ [Instr.registerWrite src off w, .unassignedAccess src off wr, .readClear src off],
      exec i s = .next s)
    ∧ (reaches s.dev src = true →
      (∀ w : Word, a % 4 ≠ 0 → exec (.registerWrite src off w) s = .next { s with
          dev := record s.dev { fspec 0 0x16 0x01 with detail := a } })
      ∧ (∀ wr v, regView s.dev src a = some v → exec (.unassignedAccess src off wr) s = .next s)
      ∧ (a % 4 = 0 →
        (∀ (w : Word) v, regView s.dev src a = some v →
          let does := fun e => exec (.registerWrite src off w) s = .next { s with dev := e }
          let shared := (0x9000 ≤ a ∧ a < 0x9200) ∨ a = 0x8020 ∨ a = 0x1008 ∨ a = 0x100C
          (isOwner s.dev src = true → ¬ shared → does (ownWrite s.dev src a w.toNat))
          ∧ (∀ m, maskLow a = some m → isOwner s.dev src = true → does (regPut s.dev a (keep w.toNat m)))
          ∧ (isOwner s.dev src = false → ¬ shared → exec (.registerWrite src off w) s = .next s)
          ∧ (0x9000 ≤ a → a < 0x9200 → a % 8 = 0 → does (sqDoorbell s.dev ((a - 0x9000) / 8) (w.toNat % 65536)))
          ∧ (0x9000 ≤ a → a < 0x9200 → a % 8 ≠ 0 → does (cqDoorbell s.dev ((a - 0x9000) / 8) (w.toNat % 65536)))
          ∧ (a = 0x8020 → does { s.dev with sched := { s.dev.sched with
              sel := s.dev.sched.sel.filter (fun p => p.1 != src) ++ [(src, w.toNat % 4096)] } })
          ∧ (a = 0x1008 → does { s.dev with own := { s.dev.own with claimTerm := setMaster s.dev.own.claimTerm (masterOf src) w } })
          ∧ (a = 0x100C → does (ownCmd s.dev (masterOf src) (fld w.toNat 29 3) (fld w.toNat 0 2) 0)))
        ∧ (regView s.dev src a = none →
          exec (.unassignedAccess src off false) s = .next { s with dev := emit s.dev (.rdata src a 0) }
          ∧ (∀ w, exec (.registerWrite src off w) s = .next { s with dev := discarded s.dev 0x16 a })
          ∧ ∃ t r, exec (.unassignedAccess src off true) s = .next t ∧ t.pending = s.pending ∧ t.dev.regs = s.dev.regs
            ∧ mget? t.dev.flt.ring (s.dev.flt.seq % 256) = some r ∧ r.cls = 0 ∧ r.block = 0x16 ∧ r.code = 0x02 ∧ r.detail = a)
        ∧ (∀ v, regView s.dev src a = some v → isLo a = false → (a < 4 ∨ isLo (a - 4) = false) →
            exec (.readClear src off) s = .next { s with
              dev := emit (readClear s.dev a) (.rdata src a (BitVec.ofNat 32 v)) })))

/-! ### The queue, the idle clock, and the whole machine -/

/-- A step takes the command at the front of the queue and answers what it does on the block with the rest of the queue. -/
def Obligations.StepRunsFront : Prop :=
  ∀ (s : State) (c : Instr) (rest : List Instr), s.pending = c :: rest → step s = exec c { s with pending := rest }

/-- DEVTIME (R331, R388): from PLL lock it advances in each cycle by 3, 3 and 2 in rotation, before lock by 40; while a slew is in progress it
advances by one more or one less in a cycle that ends a further 5,000 ns, until the slew is done; a device reset sets it to 0, and it
stands while RESET lasts. That an idle step is one cycle, and where the slew's nanoseconds fall, is the model's choice
(notes/assumptions/22.md). -/
def Obligations.IdleClock : Prop :=
  (∀ s : State, s.pending = [] → s.dev.boot.st ≠ .reset →
    let c := s.dev.clk
    let n := if c.locked = false then 40 else if c.phase = 2 then 2 else 3
    let k : Int := if c.slew = 0 ∨ c.localNs / 5000 = (c.localNs + n) / 5000 then 0 else if 0 < c.slew then 1 else -1
    step s = .next { s with dev := { s.dev with clk := { c with
      localNs := c.localNs + n, devtime := c.devtime + BitVec.ofInt 64 ((n : Int) + k), slew := c.slew - k
      phase := if c.locked = true then (c.phase + 1) % 3 else 0 } } })
  ∧ (∀ (d : Dev) (c : Nat), d.boot.st ≠ .reset ∨ d.boot.sources = [] → (deviceReset d c).clk.devtime = 0)
  ∧ (∀ s : State, s.pending = [] → s.dev.boot.st = .reset → ∃ t, step s = .next t ∧ t.dev.clk.devtime = s.dev.clk.devtime)

/-- Every well-formed command answers a next state from every state of the block, and leaves the queue as it is; an ill-formed one is
refused for its reserved operand. -/
def Obligations.EveryCommandAnswers : Prop :=
  ∀ (c : Instr) (s : State),
    (wfInstr c = true → ∃ d, exec c s = .next { s with dev := d })
    ∧ (wfInstr c = false → exec c s = .refused .reservedOperand)

/-- Right after reset: no command waits; no job, no owner and no fault recorded; the device is in LOAD with DEVTIME at 0; T1 lists nothing, which
is canonical; the registers whose descriptions give a reset value other than 0 hold it. The registers the spec gives no reset value for
are not named here. -/
def Obligations.ResetState : Prop :=
  QueueReady State.reset ∧ State.reset.pending = [] ∧ MemoryCanonical State.reset
  ∧ (let d := State.reset.dev
     d.boot.st = .load ∧ d.own.owner = none ∧ d.sched.running = none ∧ d.sc0.jobValid = false ∧ d.sc1.jobValid = false
      ∧ d.clk.devtime = 0 ∧ d.flt.seq = 0 ∧ d.flt.pend = false ∧ d.tmg.mem = [] ∧ d.tmg.objs = []
      ∧ regGet d 0x8000 = 0x800007D0 ∧ regGet d 0x10004 = 3 ∧ regGet d 0x4004 = 0x0A676200 ∧ regGet d 0x6000 = 0xC000004C
      ∧ (∀ n < 16, empReg d n 0 = 0x10040000 ∧ empReg d n 0xC = 0x44040000 ∧ empReg d n 0x1C = 0x3F800000)
      ∧ (∀ n < 8, capReg d n 0x14 = 0x03E8000A) ∧ (∀ g < 800, (tile d g).t0 = [] ∧ rdP (tile d g).core 0 = -1))

/-- A run of well-formed commands never stops: from any state whose waiting commands are well formed a step answers a next state of which
the same holds, with the front command gone. -/
def Obligations.NeverStops : Prop :=
  ∀ s : State, QueueReady s →
    (∃ t, step s = .next t) ∧ ∀ t, step s = .next t → QueueReady t ∧ t.pending = s.pending.tail

/-- A write to T1 (R98, chapter 10): every byte of the span becomes the byte written, every other byte of T1 keeps its value, and the listing stays
canonical; a write to an object whose image a job names is discarded with a class 0 record, and one to no object changes nothing; a page that is
dropped reads as not listed, and the others keep theirs. -/
def Obligations.T1Writes : Prop :=
  ∀ (d : Dev) (h off : Nat),
    (obj? d h = none → (∀ bs, t1Write d h off bs = d) ∧ ∀ i, dropPage d h i = d)
    ∧ (∀ o, obj? d h = some o → Memory.wf d.tmg.mem = true →
      (∀ bs, jobNames d h o = true → t1Write d h off bs = record d { fspec 0 0x08 0x02 with detail := h })
      ∧ (∀ bs, jobNames d h o = false →
        Memory.wf (t1Write d h off bs).tmg.mem = true
        ∧ ∀ a, memGet (t1Write d h off bs).tmg.mem a =
            if t1Key h off ≤ a ∧ a < t1Key h off + bs.length then byteAt bs (a - t1Key h off) else memGet d.tmg.mem a)
      ∧ (∀ i, Memory.wf (dropPage d h i).tmg.mem = true
        ∧ ∀ a, memGet (dropPage d h i).tmg.mem a =
            if t1Key h (i * pageSize) ≤ a ∧ a < t1Key h (i * pageSize) + pageSize then 0 else memGet d.tmg.mem a))
end

