-- ==== Sys2Proof/Laws/Memory.lean ====
section
/-! SUPPORT. Laws of the sparse maps and of byte-addressed memory: a read after a write, and that every memory operation
keeps the canonical form. -/

namespace Sys2Proof.Machine

/-! ### Sparse maps -/

@[simp] theorem mget?_mset_same {α : Type} (m : FMap α) (n : Nat) (x : α) : mget? (mset m n x) n = some x := by
  induction m with
  | nil => simp [mset, mget?]
  | cons p r ih =>
    obtain ⟨k, v⟩ := p
    simp only [mset]
    split
    · simp [mget?]
    · split
      · simp [mget?]
      · next h1 h2 => simp [mget?, h1, h2, ih]

theorem mget?_below {α : Type} (m : FMap α) (n k : Nat) (v : α) (h : n < k) : mget? ((k, v) :: m) n = none := by
  simp [mget?, h]

theorem mget?_mset_other {α : Type} (m : FMap α) (n k : Nat) (x : α) (h : k ≠ n) : mget? (mset m n x) k = mget? m k := by
  induction m with
  | nil =>
    simp only [mset, mget?]
    (repeat' split) <;> first | rfl | omega
  | cons p r ih =>
    obtain ⟨a, v⟩ := p
    simp only [mset]
    split
    · simp only [mget?]
      (repeat' split) <;> first | rfl | omega
    · split
      · simp only [mget?]
        (repeat' split) <;> first | rfl | omega
      · simp only [mget?]
        (repeat' split) <;> first | rfl | exact ih

@[simp] theorem mget_mset_same {α : Type} (m : FMap α) (n : Nat) (x d : α) : mget (mset m n x) n d = x := by simp [mget]

theorem mget_mset_other {α : Type} (m : FMap α) (n k : Nat) (x d : α) (h : k ≠ n) :
    mget (mset m n x) k d = mget m k d := by simp [mget, mget?_mset_other m n k x h]

/-- A map given the value it has at a key is listed there twice over: setting it again changes nothing. -/
@[simp] theorem mset_mset {α : Type} (m : FMap α) (n : Nat) (x y : α) : mset (mset m n x) n y = mset m n y := by
  induction m with
  | nil => simp [mset]
  | cons p r ih =>
    obtain ⟨k, v⟩ := p
    simp only [mset]
    split
    · simp [mset]
    · split
      · next h => simp [mset]
      · next h1 h2 => simp [mset, h1, h2, ih]

/-! ### Memory -/

theorem memWfFrom_cons {lo k : Nat} {v : Byte} {r : List (Nat × Byte)} :
    memWfFrom lo ((k, v) :: r) = true ↔ lo ≤ k ∧ v ≠ 0 ∧ memWfFrom (k + 1) r = true := by
  simp only [memWfFrom, Bool.and_eq_true, decide_eq_true_eq, bne_iff_ne, and_assoc]

theorem memWfFrom_mono (m : List (Nat × Byte)) : ∀ (lo lo' : Nat), lo ≤ lo' → memWfFrom lo' m = true → memWfFrom lo m = true := by
  intro lo lo' h hw
  cases m with
  | nil => rfl
  | cons p r =>
    obtain ⟨k, v⟩ := p
    simp only [memWfFrom, Bool.and_eq_true, decide_eq_true_eq] at hw ⊢
    exact ⟨⟨by omega, hw.1.2⟩, hw.2⟩

theorem memSet_wfFrom (m : List (Nat × Byte)) : ∀ (lo a : Nat) (b : Byte), lo ≤ a → memWfFrom lo m = true →
    memWfFrom lo (memSet m a b) = true := by
  induction m with
  | nil =>
    intro lo a b h _
    simp only [memSet]
    split
    · rfl
    · next hb => exact memWfFrom_cons.2 ⟨h, hb, rfl⟩
  | cons p r ih =>
    obtain ⟨k, v⟩ := p
    intro lo a b h hw
    have hw' := hw
    obtain ⟨hk, hv, hr⟩ := memWfFrom_cons.1 hw
    simp only [memSet]
    split
    · next ha =>
      split
      · exact hw'
      · next hb => exact memWfFrom_cons.2 ⟨h, hb, memWfFrom_cons.2 ⟨by omega, hv, hr⟩⟩
    · split
      · next ha =>
        split
        · exact memWfFrom_mono r lo (k + 1) (by omega) hr
        · next hb => subst ha; exact memWfFrom_cons.2 ⟨h, hb, hr⟩
      · next h1 h2 =>
        exact memWfFrom_cons.2 ⟨hk, hv, ih (k + 1) a b (by omega) hr⟩

theorem memSet_wf (m : List (Nat × Byte)) (a : Nat) (b : Byte) (h : Memory.wf m = true) : Memory.wf (memSet m a b) = true :=
  memSet_wfFrom m 0 a b (Nat.zero_le a) h

theorem memWrite_wf (bs : List Byte) : ∀ (m : List (Nat × Byte)) (a : Nat), Memory.wf m = true →
    Memory.wf (memWrite m a bs) = true := by
  induction bs with
  | nil => intro m a h; exact h
  | cons b bs ih => intro m a h; exact ih _ _ (memSet_wf m a b h)

theorem filter_wfFrom (p : Nat × Byte → Bool) (m : List (Nat × Byte)) : ∀ lo, memWfFrom lo m = true →
    memWfFrom lo (m.filter p) = true := by
  induction m with
  | nil => intro lo h; exact h
  | cons q r ih =>
    obtain ⟨k, v⟩ := q
    intro lo h
    simp only [memWfFrom, Bool.and_eq_true, decide_eq_true_eq] at h
    simp only [List.filter]
    split
    · simp only [memWfFrom, Bool.and_eq_true, decide_eq_true_eq]
      exact ⟨h.1, ih _ h.2⟩
    · exact ih lo (memWfFrom_mono r lo (k + 1) (by omega) h.2)

theorem memZero_wf (m : List (Nat × Byte)) (a n : Nat) (h : Memory.wf m = true) : Memory.wf (memZero m a n) = true :=
  filter_wfFrom _ m 0 h

theorem memKeep_wf (m : List (Nat × Byte)) (a n : Nat) (h : Memory.wf m = true) : Memory.wf (memKeep m a n) = true :=
  filter_wfFrom _ m 0 h

/-! A read of one byte after each operation. -/

theorem memGet_below (m : List (Nat × Byte)) (lo a : Nat) (h : memWfFrom lo m = true) (ha : a < lo) : memGet m a = 0 := by
  cases m with
  | nil => rfl
  | cons p r =>
    obtain ⟨k, v⟩ := p
    simp only [memWfFrom, Bool.and_eq_true, decide_eq_true_eq] at h
    have : a < k := by omega
    simp [memGet, this]

theorem memGet_memSet_from (m : List (Nat × Byte)) : ∀ (lo a c : Nat) (b : Byte), memWfFrom lo m = true →
    memGet (memSet m a b) c = if c = a then b else memGet m c := by
  induction m with
  | nil =>
    intro lo a c b _
    simp only [memSet]
    split
    · next hb => simp [memGet, hb]
    · simp only [memGet]
      (repeat' split) <;> first | rfl | omega
  | cons p r ih =>
    obtain ⟨k, v⟩ := p
    intro lo a c b hw
    simp only [memWfFrom, Bool.and_eq_true, decide_eq_true_eq] at hw
    simp only [memSet]
    by_cases h1 : a < k
    · simp only [h1, if_true]
      split
      · next hb =>
        split
        · next hc => subst hc; simp [memGet, h1, hb]
        · rfl
      · simp only [memGet]
        (repeat' split) <;> first | rfl | omega
    · simp only [h1, if_false]
      by_cases h2 : a = k
      · subst h2
        simp only [if_true]
        split
        · next hb =>
          split
          · next hc => subst hc; rw [hb]; exact memGet_below r (c + 1) c hw.2 (by omega)
          · next hc =>
            simp only [memGet]
            split
            · next hlt => exact memGet_below r (a + 1) c hw.2 (by omega)
            · simp
        · simp only [memGet]
          (repeat' split) <;> first | rfl | omega
      · simp only [h2, if_false, memGet]
        split
        · split
          · omega
          · rfl
        · split
          · split
            · omega
            · rfl
          · exact ih (k + 1) a c b hw.2

/-- A read after a one-byte write: the byte written there, every other as before. -/
theorem memGet_memSet (m : List (Nat × Byte)) (a c : Nat) (b : Byte) (h : Memory.wf m = true) :
    memGet (memSet m a b) c = if c = a then b else memGet m c := memGet_memSet_from m 0 a c b h

/-- A read after a write of consecutive bytes. -/
theorem memGet_memWrite (bs : List Byte) : ∀ (m : List (Nat × Byte)) (a c : Nat), Memory.wf m = true →
    memGet (memWrite m a bs) c = if a ≤ c ∧ c < a + bs.length then bs.getD (c - a) 0 else memGet m c := by
  induction bs with
  | nil =>
    intro m a c _
    rw [if_neg (fun h => by have := h.2; rw [List.length_nil] at this; omega)]
    rfl
  | cons b bs ih =>
    intro m a c h
    rw [memWrite, ih _ _ _ (memSet_wf m a b h), memGet_memSet m a c b h]
    by_cases hc : c = a
    · subst hc
      have : ¬ (c + 1 ≤ c ∧ c < c + 1 + bs.length) := by omega
      simp [this]
    · by_cases hin : a + 1 ≤ c ∧ c < a + 1 + bs.length
      · have h2 : a ≤ c ∧ c < a + (b :: bs).length := by simp; omega
        have h3 : c - a = (c - (a + 1)) + 1 := by omega
        simp only [hin, h2, and_self, if_true, h3, List.getD_cons_succ]
      · have h2 : ¬ (a ≤ c ∧ c < a + (b :: bs).length) := by simp; omega
        rw [if_neg hin, if_neg h2, if_neg hc]

end Sys2Proof.Machine
end

