-- ==== Sys2Proof/Laws/State.lean ====
section
/-! SUPPORT. What each named update of the block does to each of its fields: one lemma per field, so that no proof unfolds
a record update. -/

namespace Sys2Proof.Machine

@[simp] theorem lift_eq (s : State) (f : Dev → Dev) : lift s f = .next { s with dev := f s.dev } := rfl

@[simp] theorem liftIf_true (s : State) (f : Dev → Dev) : liftIf s true f = .next { s with dev := f s.dev } := rfl

@[simp] theorem liftIf_false (s : State) (f : Dev → Dev) : liftIf s false f = .refused .reservedOperand := rfl

/-! ### setTile -/

@[simp] theorem setTile_regs (d : Dev) (g : Nat) (t : Tile) : (setTile d g t).regs = d.regs := rfl
@[simp] theorem setTile_capt (d : Dev) (g : Nat) (t : Tile) : (setTile d g t).capt = d.capt := rfl
@[simp] theorem setTile_flt (d : Dev) (g : Nat) (t : Tile) : (setTile d g t).flt = d.flt := rfl
@[simp] theorem setTile_bk (d : Dev) (g : Nat) (t : Tile) : (setTile d g t).bk = d.bk := rfl
@[simp] theorem setTile_nvm (d : Dev) (g : Nat) (t : Tile) : (setTile d g t).nvm = d.nvm := rfl
@[simp] theorem setTile_boot (d : Dev) (g : Nat) (t : Tile) : (setTile d g t).boot = d.boot := rfl
@[simp] theorem setTile_own (d : Dev) (g : Nat) (t : Tile) : (setTile d g t).own = d.own := rfl
@[simp] theorem setTile_tiles (d : Dev) (g : Nat) (t : Tile) : (setTile d g t).tiles = mset d.tiles g t := rfl
@[simp] theorem setTile_sc0 (d : Dev) (g : Nat) (t : Tile) : (setTile d g t).sc0 = d.sc0 := rfl
@[simp] theorem setTile_sc1 (d : Dev) (g : Nat) (t : Tile) : (setTile d g t).sc1 = d.sc1 := rfl
@[simp] theorem setTile_sched (d : Dev) (g : Nat) (t : Tile) : (setTile d g t).sched = d.sched := rfl
@[simp] theorem setTile_imgs (d : Dev) (g : Nat) (t : Tile) : (setTile d g t).imgs = d.imgs := rfl
@[simp] theorem setTile_tmg (d : Dev) (g : Nat) (t : Tile) : (setTile d g t).tmg = d.tmg := rfl
@[simp] theorem setTile_hbm (d : Dev) (g : Nat) (t : Tile) : (setTile d g t).hbm = d.hbm := rfl
@[simp] theorem setTile_vce (d : Dev) (g : Nat) (t : Tile) : (setTile d g t).vce = d.vce := rfl
@[simp] theorem setTile_pxe (d : Dev) (g : Nat) (t : Tile) : (setTile d g t).pxe = d.pxe := rfl
@[simp] theorem setTile_ports (d : Dev) (g : Nat) (t : Tile) : (setTile d g t).ports = d.ports := rfl
@[simp] theorem setTile_rw (d : Dev) (g : Nat) (t : Tile) : (setTile d g t).rw = d.rw := rfl
@[simp] theorem setTile_clk (d : Dev) (g : Nat) (t : Tile) : (setTile d g t).clk = d.clk := rfl
@[simp] theorem setTile_hlk (d : Dev) (g : Nat) (t : Tile) : (setTile d g t).hlk = d.hlk := rfl
@[simp] theorem setTile_pwr (d : Dev) (g : Nat) (t : Tile) : (setTile d g t).pwr = d.pwr := rfl
@[simp] theorem setTile_mgt (d : Dev) (g : Nat) (t : Tile) : (setTile d g t).mgt = d.mgt := rfl
@[simp] theorem setTile_pins (d : Dev) (g : Nat) (t : Tile) : (setTile d g t).pins = d.pins := rfl
@[simp] theorem setTile_out (d : Dev) (g : Nat) (t : Tile) : (setTile d g t).out = d.out := rfl
@[simp] theorem setTile_free (d : Dev) (g : Nat) (t : Tile) : (setTile d g t).free = d.free := rfl

/-! ### updTile -/

@[simp] theorem updTile_regs (d : Dev) (g : Nat) (f : Tile → Tile) : (updTile d g f).regs = d.regs := rfl
@[simp] theorem updTile_capt (d : Dev) (g : Nat) (f : Tile → Tile) : (updTile d g f).capt = d.capt := rfl
@[simp] theorem updTile_flt (d : Dev) (g : Nat) (f : Tile → Tile) : (updTile d g f).flt = d.flt := rfl
@[simp] theorem updTile_bk (d : Dev) (g : Nat) (f : Tile → Tile) : (updTile d g f).bk = d.bk := rfl
@[simp] theorem updTile_nvm (d : Dev) (g : Nat) (f : Tile → Tile) : (updTile d g f).nvm = d.nvm := rfl
@[simp] theorem updTile_boot (d : Dev) (g : Nat) (f : Tile → Tile) : (updTile d g f).boot = d.boot := rfl
@[simp] theorem updTile_own (d : Dev) (g : Nat) (f : Tile → Tile) : (updTile d g f).own = d.own := rfl
@[simp] theorem updTile_tiles (d : Dev) (g : Nat) (f : Tile → Tile) : (updTile d g f).tiles = mset d.tiles g (f (tile d g)) := rfl
@[simp] theorem updTile_sc0 (d : Dev) (g : Nat) (f : Tile → Tile) : (updTile d g f).sc0 = d.sc0 := rfl
@[simp] theorem updTile_sc1 (d : Dev) (g : Nat) (f : Tile → Tile) : (updTile d g f).sc1 = d.sc1 := rfl
@[simp] theorem updTile_sched (d : Dev) (g : Nat) (f : Tile → Tile) : (updTile d g f).sched = d.sched := rfl
@[simp] theorem updTile_imgs (d : Dev) (g : Nat) (f : Tile → Tile) : (updTile d g f).imgs = d.imgs := rfl
@[simp] theorem updTile_tmg (d : Dev) (g : Nat) (f : Tile → Tile) : (updTile d g f).tmg = d.tmg := rfl
@[simp] theorem updTile_hbm (d : Dev) (g : Nat) (f : Tile → Tile) : (updTile d g f).hbm = d.hbm := rfl
@[simp] theorem updTile_vce (d : Dev) (g : Nat) (f : Tile → Tile) : (updTile d g f).vce = d.vce := rfl
@[simp] theorem updTile_pxe (d : Dev) (g : Nat) (f : Tile → Tile) : (updTile d g f).pxe = d.pxe := rfl
@[simp] theorem updTile_ports (d : Dev) (g : Nat) (f : Tile → Tile) : (updTile d g f).ports = d.ports := rfl
@[simp] theorem updTile_rw (d : Dev) (g : Nat) (f : Tile → Tile) : (updTile d g f).rw = d.rw := rfl
@[simp] theorem updTile_clk (d : Dev) (g : Nat) (f : Tile → Tile) : (updTile d g f).clk = d.clk := rfl
@[simp] theorem updTile_hlk (d : Dev) (g : Nat) (f : Tile → Tile) : (updTile d g f).hlk = d.hlk := rfl
@[simp] theorem updTile_pwr (d : Dev) (g : Nat) (f : Tile → Tile) : (updTile d g f).pwr = d.pwr := rfl
@[simp] theorem updTile_mgt (d : Dev) (g : Nat) (f : Tile → Tile) : (updTile d g f).mgt = d.mgt := rfl
@[simp] theorem updTile_pins (d : Dev) (g : Nat) (f : Tile → Tile) : (updTile d g f).pins = d.pins := rfl
@[simp] theorem updTile_out (d : Dev) (g : Nat) (f : Tile → Tile) : (updTile d g f).out = d.out := rfl
@[simp] theorem updTile_free (d : Dev) (g : Nat) (f : Tile → Tile) : (updTile d g f).free = d.free := rfl

/-! ### updCore -/

@[simp] theorem updCore_regs (d : Dev) (g : Nat) (f : TileCore → TileCore) : (updCore d g f).regs = d.regs := rfl
@[simp] theorem updCore_capt (d : Dev) (g : Nat) (f : TileCore → TileCore) : (updCore d g f).capt = d.capt := rfl
@[simp] theorem updCore_flt (d : Dev) (g : Nat) (f : TileCore → TileCore) : (updCore d g f).flt = d.flt := rfl
@[simp] theorem updCore_bk (d : Dev) (g : Nat) (f : TileCore → TileCore) : (updCore d g f).bk = d.bk := rfl
@[simp] theorem updCore_nvm (d : Dev) (g : Nat) (f : TileCore → TileCore) : (updCore d g f).nvm = d.nvm := rfl
@[simp] theorem updCore_boot (d : Dev) (g : Nat) (f : TileCore → TileCore) : (updCore d g f).boot = d.boot := rfl
@[simp] theorem updCore_own (d : Dev) (g : Nat) (f : TileCore → TileCore) : (updCore d g f).own = d.own := rfl
@[simp] theorem updCore_sc0 (d : Dev) (g : Nat) (f : TileCore → TileCore) : (updCore d g f).sc0 = d.sc0 := rfl
@[simp] theorem updCore_sc1 (d : Dev) (g : Nat) (f : TileCore → TileCore) : (updCore d g f).sc1 = d.sc1 := rfl
@[simp] theorem updCore_sched (d : Dev) (g : Nat) (f : TileCore → TileCore) : (updCore d g f).sched = d.sched := rfl
@[simp] theorem updCore_imgs (d : Dev) (g : Nat) (f : TileCore → TileCore) : (updCore d g f).imgs = d.imgs := rfl
@[simp] theorem updCore_tmg (d : Dev) (g : Nat) (f : TileCore → TileCore) : (updCore d g f).tmg = d.tmg := rfl
@[simp] theorem updCore_hbm (d : Dev) (g : Nat) (f : TileCore → TileCore) : (updCore d g f).hbm = d.hbm := rfl
@[simp] theorem updCore_vce (d : Dev) (g : Nat) (f : TileCore → TileCore) : (updCore d g f).vce = d.vce := rfl
@[simp] theorem updCore_pxe (d : Dev) (g : Nat) (f : TileCore → TileCore) : (updCore d g f).pxe = d.pxe := rfl
@[simp] theorem updCore_ports (d : Dev) (g : Nat) (f : TileCore → TileCore) : (updCore d g f).ports = d.ports := rfl
@[simp] theorem updCore_rw (d : Dev) (g : Nat) (f : TileCore → TileCore) : (updCore d g f).rw = d.rw := rfl
@[simp] theorem updCore_clk (d : Dev) (g : Nat) (f : TileCore → TileCore) : (updCore d g f).clk = d.clk := rfl
@[simp] theorem updCore_hlk (d : Dev) (g : Nat) (f : TileCore → TileCore) : (updCore d g f).hlk = d.hlk := rfl
@[simp] theorem updCore_pwr (d : Dev) (g : Nat) (f : TileCore → TileCore) : (updCore d g f).pwr = d.pwr := rfl
@[simp] theorem updCore_mgt (d : Dev) (g : Nat) (f : TileCore → TileCore) : (updCore d g f).mgt = d.mgt := rfl
@[simp] theorem updCore_pins (d : Dev) (g : Nat) (f : TileCore → TileCore) : (updCore d g f).pins = d.pins := rfl
@[simp] theorem updCore_out (d : Dev) (g : Nat) (f : TileCore → TileCore) : (updCore d g f).out = d.out := rfl
@[simp] theorem updCore_free (d : Dev) (g : Nat) (f : TileCore → TileCore) : (updCore d g f).free = d.free := rfl

/-! ### result -/

@[simp] theorem result_regs (d : Dev) (g l : Nat) (r : Res) : (result d g l r).regs = d.regs := rfl
@[simp] theorem result_capt (d : Dev) (g l : Nat) (r : Res) : (result d g l r).capt = d.capt := rfl
@[simp] theorem result_flt (d : Dev) (g l : Nat) (r : Res) : (result d g l r).flt = d.flt := rfl
@[simp] theorem result_bk (d : Dev) (g l : Nat) (r : Res) : (result d g l r).bk = d.bk := rfl
@[simp] theorem result_nvm (d : Dev) (g l : Nat) (r : Res) : (result d g l r).nvm = d.nvm := rfl
@[simp] theorem result_boot (d : Dev) (g l : Nat) (r : Res) : (result d g l r).boot = d.boot := rfl
@[simp] theorem result_own (d : Dev) (g l : Nat) (r : Res) : (result d g l r).own = d.own := rfl
@[simp] theorem result_sc0 (d : Dev) (g l : Nat) (r : Res) : (result d g l r).sc0 = d.sc0 := rfl
@[simp] theorem result_sc1 (d : Dev) (g l : Nat) (r : Res) : (result d g l r).sc1 = d.sc1 := rfl
@[simp] theorem result_sched (d : Dev) (g l : Nat) (r : Res) : (result d g l r).sched = d.sched := rfl
@[simp] theorem result_imgs (d : Dev) (g l : Nat) (r : Res) : (result d g l r).imgs = d.imgs := rfl
@[simp] theorem result_tmg (d : Dev) (g l : Nat) (r : Res) : (result d g l r).tmg = d.tmg := rfl
@[simp] theorem result_hbm (d : Dev) (g l : Nat) (r : Res) : (result d g l r).hbm = d.hbm := rfl
@[simp] theorem result_vce (d : Dev) (g l : Nat) (r : Res) : (result d g l r).vce = d.vce := rfl
@[simp] theorem result_pxe (d : Dev) (g l : Nat) (r : Res) : (result d g l r).pxe = d.pxe := rfl
@[simp] theorem result_ports (d : Dev) (g l : Nat) (r : Res) : (result d g l r).ports = d.ports := rfl
@[simp] theorem result_rw (d : Dev) (g l : Nat) (r : Res) : (result d g l r).rw = d.rw := rfl
@[simp] theorem result_clk (d : Dev) (g l : Nat) (r : Res) : (result d g l r).clk = d.clk := rfl
@[simp] theorem result_hlk (d : Dev) (g l : Nat) (r : Res) : (result d g l r).hlk = d.hlk := rfl
@[simp] theorem result_pwr (d : Dev) (g l : Nat) (r : Res) : (result d g l r).pwr = d.pwr := rfl
@[simp] theorem result_mgt (d : Dev) (g l : Nat) (r : Res) : (result d g l r).mgt = d.mgt := rfl
@[simp] theorem result_pins (d : Dev) (g l : Nat) (r : Res) : (result d g l r).pins = d.pins := rfl
@[simp] theorem result_out (d : Dev) (g l : Nat) (r : Res) : (result d g l r).out = d.out := rfl
@[simp] theorem result_free (d : Dev) (g l : Nat) (r : Res) : (result d g l r).free = d.free := rfl

/-! ### regPut -/

@[simp] theorem regPut_regs (d : Dev) (off w : Nat) : (regPut d off w).regs = mset d.regs off (BitVec.ofNat 32 w) := rfl
@[simp] theorem regPut_capt (d : Dev) (off w : Nat) : (regPut d off w).capt = d.capt := rfl
@[simp] theorem regPut_flt (d : Dev) (off w : Nat) : (regPut d off w).flt = d.flt := rfl
@[simp] theorem regPut_bk (d : Dev) (off w : Nat) : (regPut d off w).bk = d.bk := rfl
@[simp] theorem regPut_nvm (d : Dev) (off w : Nat) : (regPut d off w).nvm = d.nvm := rfl
@[simp] theorem regPut_boot (d : Dev) (off w : Nat) : (regPut d off w).boot = d.boot := rfl
@[simp] theorem regPut_own (d : Dev) (off w : Nat) : (regPut d off w).own = d.own := rfl
@[simp] theorem regPut_tiles (d : Dev) (off w : Nat) : (regPut d off w).tiles = d.tiles := rfl
@[simp] theorem regPut_sc0 (d : Dev) (off w : Nat) : (regPut d off w).sc0 = d.sc0 := rfl
@[simp] theorem regPut_sc1 (d : Dev) (off w : Nat) : (regPut d off w).sc1 = d.sc1 := rfl
@[simp] theorem regPut_sched (d : Dev) (off w : Nat) : (regPut d off w).sched = d.sched := rfl
@[simp] theorem regPut_imgs (d : Dev) (off w : Nat) : (regPut d off w).imgs = d.imgs := rfl
@[simp] theorem regPut_tmg (d : Dev) (off w : Nat) : (regPut d off w).tmg = d.tmg := rfl
@[simp] theorem regPut_hbm (d : Dev) (off w : Nat) : (regPut d off w).hbm = d.hbm := rfl
@[simp] theorem regPut_vce (d : Dev) (off w : Nat) : (regPut d off w).vce = d.vce := rfl
@[simp] theorem regPut_pxe (d : Dev) (off w : Nat) : (regPut d off w).pxe = d.pxe := rfl
@[simp] theorem regPut_ports (d : Dev) (off w : Nat) : (regPut d off w).ports = d.ports := rfl
@[simp] theorem regPut_rw (d : Dev) (off w : Nat) : (regPut d off w).rw = d.rw := rfl
@[simp] theorem regPut_clk (d : Dev) (off w : Nat) : (regPut d off w).clk = d.clk := rfl
@[simp] theorem regPut_hlk (d : Dev) (off w : Nat) : (regPut d off w).hlk = d.hlk := rfl
@[simp] theorem regPut_pwr (d : Dev) (off w : Nat) : (regPut d off w).pwr = d.pwr := rfl
@[simp] theorem regPut_mgt (d : Dev) (off w : Nat) : (regPut d off w).mgt = d.mgt := rfl
@[simp] theorem regPut_pins (d : Dev) (off w : Nat) : (regPut d off w).pins = d.pins := rfl
@[simp] theorem regPut_out (d : Dev) (off w : Nat) : (regPut d off w).out = d.out := rfl
@[simp] theorem regPut_free (d : Dev) (off w : Nat) : (regPut d off w).free = d.free := rfl

/-! ### elapse -/

@[simp] theorem elapse_regs (d : Dev) (ns : Nat) : (elapse d ns).regs = d.regs := rfl
@[simp] theorem elapse_capt (d : Dev) (ns : Nat) : (elapse d ns).capt = d.capt := rfl
@[simp] theorem elapse_flt (d : Dev) (ns : Nat) : (elapse d ns).flt = d.flt := rfl
@[simp] theorem elapse_bk (d : Dev) (ns : Nat) : (elapse d ns).bk = d.bk := rfl
@[simp] theorem elapse_nvm (d : Dev) (ns : Nat) : (elapse d ns).nvm = d.nvm := rfl
@[simp] theorem elapse_boot (d : Dev) (ns : Nat) : (elapse d ns).boot = d.boot := rfl
@[simp] theorem elapse_own (d : Dev) (ns : Nat) : (elapse d ns).own = d.own := rfl
@[simp] theorem elapse_tiles (d : Dev) (ns : Nat) : (elapse d ns).tiles = d.tiles := rfl
@[simp] theorem elapse_sc0 (d : Dev) (ns : Nat) : (elapse d ns).sc0 = d.sc0 := rfl
@[simp] theorem elapse_sc1 (d : Dev) (ns : Nat) : (elapse d ns).sc1 = d.sc1 := rfl
@[simp] theorem elapse_sched (d : Dev) (ns : Nat) : (elapse d ns).sched = d.sched := rfl
@[simp] theorem elapse_imgs (d : Dev) (ns : Nat) : (elapse d ns).imgs = d.imgs := rfl
@[simp] theorem elapse_tmg (d : Dev) (ns : Nat) : (elapse d ns).tmg = d.tmg := rfl
@[simp] theorem elapse_hbm (d : Dev) (ns : Nat) : (elapse d ns).hbm = d.hbm := rfl
@[simp] theorem elapse_vce (d : Dev) (ns : Nat) : (elapse d ns).vce = d.vce := rfl
@[simp] theorem elapse_pxe (d : Dev) (ns : Nat) : (elapse d ns).pxe = d.pxe := rfl
@[simp] theorem elapse_ports (d : Dev) (ns : Nat) : (elapse d ns).ports = d.ports := rfl
@[simp] theorem elapse_rw (d : Dev) (ns : Nat) : (elapse d ns).rw = d.rw := rfl
@[simp] theorem elapse_hlk (d : Dev) (ns : Nat) : (elapse d ns).hlk = d.hlk := rfl
@[simp] theorem elapse_pwr (d : Dev) (ns : Nat) : (elapse d ns).pwr = d.pwr := rfl
@[simp] theorem elapse_mgt (d : Dev) (ns : Nat) : (elapse d ns).mgt = d.mgt := rfl
@[simp] theorem elapse_pins (d : Dev) (ns : Nat) : (elapse d ns).pins = d.pins := rfl
@[simp] theorem elapse_out (d : Dev) (ns : Nat) : (elapse d ns).out = d.out := rfl
@[simp] theorem elapse_free (d : Dev) (ns : Nat) : (elapse d ns).free = d.free := rfl

/-! ### untilLocal -/

@[simp] theorem untilLocal_regs (d : Dev) (t : Nat) : (untilLocal d t).regs = d.regs := rfl
@[simp] theorem untilLocal_capt (d : Dev) (t : Nat) : (untilLocal d t).capt = d.capt := rfl
@[simp] theorem untilLocal_flt (d : Dev) (t : Nat) : (untilLocal d t).flt = d.flt := rfl
@[simp] theorem untilLocal_bk (d : Dev) (t : Nat) : (untilLocal d t).bk = d.bk := rfl
@[simp] theorem untilLocal_nvm (d : Dev) (t : Nat) : (untilLocal d t).nvm = d.nvm := rfl
@[simp] theorem untilLocal_boot (d : Dev) (t : Nat) : (untilLocal d t).boot = d.boot := rfl
@[simp] theorem untilLocal_own (d : Dev) (t : Nat) : (untilLocal d t).own = d.own := rfl
@[simp] theorem untilLocal_tiles (d : Dev) (t : Nat) : (untilLocal d t).tiles = d.tiles := rfl
@[simp] theorem untilLocal_sc0 (d : Dev) (t : Nat) : (untilLocal d t).sc0 = d.sc0 := rfl
@[simp] theorem untilLocal_sc1 (d : Dev) (t : Nat) : (untilLocal d t).sc1 = d.sc1 := rfl
@[simp] theorem untilLocal_sched (d : Dev) (t : Nat) : (untilLocal d t).sched = d.sched := rfl
@[simp] theorem untilLocal_imgs (d : Dev) (t : Nat) : (untilLocal d t).imgs = d.imgs := rfl
@[simp] theorem untilLocal_tmg (d : Dev) (t : Nat) : (untilLocal d t).tmg = d.tmg := rfl
@[simp] theorem untilLocal_hbm (d : Dev) (t : Nat) : (untilLocal d t).hbm = d.hbm := rfl
@[simp] theorem untilLocal_vce (d : Dev) (t : Nat) : (untilLocal d t).vce = d.vce := rfl
@[simp] theorem untilLocal_pxe (d : Dev) (t : Nat) : (untilLocal d t).pxe = d.pxe := rfl
@[simp] theorem untilLocal_ports (d : Dev) (t : Nat) : (untilLocal d t).ports = d.ports := rfl
@[simp] theorem untilLocal_rw (d : Dev) (t : Nat) : (untilLocal d t).rw = d.rw := rfl
@[simp] theorem untilLocal_hlk (d : Dev) (t : Nat) : (untilLocal d t).hlk = d.hlk := rfl
@[simp] theorem untilLocal_pwr (d : Dev) (t : Nat) : (untilLocal d t).pwr = d.pwr := rfl
@[simp] theorem untilLocal_mgt (d : Dev) (t : Nat) : (untilLocal d t).mgt = d.mgt := rfl
@[simp] theorem untilLocal_pins (d : Dev) (t : Nat) : (untilLocal d t).pins = d.pins := rfl
@[simp] theorem untilLocal_out (d : Dev) (t : Nat) : (untilLocal d t).out = d.out := rfl
@[simp] theorem untilLocal_free (d : Dev) (t : Nat) : (untilLocal d t).free = d.free := rfl

/-! ### untilDevtime -/

@[simp] theorem untilDevtime_regs (d : Dev) (t : Nat) : (untilDevtime d t).regs = d.regs := rfl
@[simp] theorem untilDevtime_capt (d : Dev) (t : Nat) : (untilDevtime d t).capt = d.capt := rfl
@[simp] theorem untilDevtime_flt (d : Dev) (t : Nat) : (untilDevtime d t).flt = d.flt := rfl
@[simp] theorem untilDevtime_bk (d : Dev) (t : Nat) : (untilDevtime d t).bk = d.bk := rfl
@[simp] theorem untilDevtime_nvm (d : Dev) (t : Nat) : (untilDevtime d t).nvm = d.nvm := rfl
@[simp] theorem untilDevtime_boot (d : Dev) (t : Nat) : (untilDevtime d t).boot = d.boot := rfl
@[simp] theorem untilDevtime_own (d : Dev) (t : Nat) : (untilDevtime d t).own = d.own := rfl
@[simp] theorem untilDevtime_tiles (d : Dev) (t : Nat) : (untilDevtime d t).tiles = d.tiles := rfl
@[simp] theorem untilDevtime_sc0 (d : Dev) (t : Nat) : (untilDevtime d t).sc0 = d.sc0 := rfl
@[simp] theorem untilDevtime_sc1 (d : Dev) (t : Nat) : (untilDevtime d t).sc1 = d.sc1 := rfl
@[simp] theorem untilDevtime_sched (d : Dev) (t : Nat) : (untilDevtime d t).sched = d.sched := rfl
@[simp] theorem untilDevtime_imgs (d : Dev) (t : Nat) : (untilDevtime d t).imgs = d.imgs := rfl
@[simp] theorem untilDevtime_tmg (d : Dev) (t : Nat) : (untilDevtime d t).tmg = d.tmg := rfl
@[simp] theorem untilDevtime_hbm (d : Dev) (t : Nat) : (untilDevtime d t).hbm = d.hbm := rfl
@[simp] theorem untilDevtime_vce (d : Dev) (t : Nat) : (untilDevtime d t).vce = d.vce := rfl
@[simp] theorem untilDevtime_pxe (d : Dev) (t : Nat) : (untilDevtime d t).pxe = d.pxe := rfl
@[simp] theorem untilDevtime_ports (d : Dev) (t : Nat) : (untilDevtime d t).ports = d.ports := rfl
@[simp] theorem untilDevtime_rw (d : Dev) (t : Nat) : (untilDevtime d t).rw = d.rw := rfl
@[simp] theorem untilDevtime_hlk (d : Dev) (t : Nat) : (untilDevtime d t).hlk = d.hlk := rfl
@[simp] theorem untilDevtime_pwr (d : Dev) (t : Nat) : (untilDevtime d t).pwr = d.pwr := rfl
@[simp] theorem untilDevtime_mgt (d : Dev) (t : Nat) : (untilDevtime d t).mgt = d.mgt := rfl
@[simp] theorem untilDevtime_pins (d : Dev) (t : Nat) : (untilDevtime d t).pins = d.pins := rfl
@[simp] theorem untilDevtime_out (d : Dev) (t : Nat) : (untilDevtime d t).out = d.out := rfl
@[simp] theorem untilDevtime_free (d : Dev) (t : Nat) : (untilDevtime d t).free = d.free := rfl

/-! ### emit -/

@[simp] theorem emit_regs (d : Dev) (o : Out) : (emit d o).regs = d.regs := rfl
@[simp] theorem emit_capt (d : Dev) (o : Out) : (emit d o).capt = d.capt := rfl
@[simp] theorem emit_flt (d : Dev) (o : Out) : (emit d o).flt = d.flt := rfl
@[simp] theorem emit_bk (d : Dev) (o : Out) : (emit d o).bk = d.bk := rfl
@[simp] theorem emit_nvm (d : Dev) (o : Out) : (emit d o).nvm = d.nvm := rfl
@[simp] theorem emit_boot (d : Dev) (o : Out) : (emit d o).boot = d.boot := rfl
@[simp] theorem emit_own (d : Dev) (o : Out) : (emit d o).own = d.own := rfl
@[simp] theorem emit_tiles (d : Dev) (o : Out) : (emit d o).tiles = d.tiles := rfl
@[simp] theorem emit_sc0 (d : Dev) (o : Out) : (emit d o).sc0 = d.sc0 := rfl
@[simp] theorem emit_sc1 (d : Dev) (o : Out) : (emit d o).sc1 = d.sc1 := rfl
@[simp] theorem emit_sched (d : Dev) (o : Out) : (emit d o).sched = d.sched := rfl
@[simp] theorem emit_imgs (d : Dev) (o : Out) : (emit d o).imgs = d.imgs := rfl
@[simp] theorem emit_tmg (d : Dev) (o : Out) : (emit d o).tmg = d.tmg := rfl
@[simp] theorem emit_hbm (d : Dev) (o : Out) : (emit d o).hbm = d.hbm := rfl
@[simp] theorem emit_vce (d : Dev) (o : Out) : (emit d o).vce = d.vce := rfl
@[simp] theorem emit_pxe (d : Dev) (o : Out) : (emit d o).pxe = d.pxe := rfl
@[simp] theorem emit_ports (d : Dev) (o : Out) : (emit d o).ports = d.ports := rfl
@[simp] theorem emit_rw (d : Dev) (o : Out) : (emit d o).rw = d.rw := rfl
@[simp] theorem emit_clk (d : Dev) (o : Out) : (emit d o).clk = d.clk := rfl
@[simp] theorem emit_hlk (d : Dev) (o : Out) : (emit d o).hlk = d.hlk := rfl
@[simp] theorem emit_pwr (d : Dev) (o : Out) : (emit d o).pwr = d.pwr := rfl
@[simp] theorem emit_mgt (d : Dev) (o : Out) : (emit d o).mgt = d.mgt := rfl
@[simp] theorem emit_pins (d : Dev) (o : Out) : (emit d o).pins = d.pins := rfl
@[simp] theorem emit_out (d : Dev) (o : Out) : (emit d o).out = d.out ++ [o] := rfl
@[simp] theorem emit_free (d : Dev) (o : Out) : (emit d o).free = d.free := rfl

/-! ### setRw -/

@[simp] theorem setRw_regs (d : Dev) (n : Nat) (x : RwPort) : (setRw d n x).regs = d.regs := rfl
@[simp] theorem setRw_capt (d : Dev) (n : Nat) (x : RwPort) : (setRw d n x).capt = d.capt := rfl
@[simp] theorem setRw_flt (d : Dev) (n : Nat) (x : RwPort) : (setRw d n x).flt = d.flt := rfl
@[simp] theorem setRw_bk (d : Dev) (n : Nat) (x : RwPort) : (setRw d n x).bk = d.bk := rfl
@[simp] theorem setRw_nvm (d : Dev) (n : Nat) (x : RwPort) : (setRw d n x).nvm = d.nvm := rfl
@[simp] theorem setRw_boot (d : Dev) (n : Nat) (x : RwPort) : (setRw d n x).boot = d.boot := rfl
@[simp] theorem setRw_own (d : Dev) (n : Nat) (x : RwPort) : (setRw d n x).own = d.own := rfl
@[simp] theorem setRw_tiles (d : Dev) (n : Nat) (x : RwPort) : (setRw d n x).tiles = d.tiles := rfl
@[simp] theorem setRw_sc0 (d : Dev) (n : Nat) (x : RwPort) : (setRw d n x).sc0 = d.sc0 := rfl
@[simp] theorem setRw_sc1 (d : Dev) (n : Nat) (x : RwPort) : (setRw d n x).sc1 = d.sc1 := rfl
@[simp] theorem setRw_sched (d : Dev) (n : Nat) (x : RwPort) : (setRw d n x).sched = d.sched := rfl
@[simp] theorem setRw_imgs (d : Dev) (n : Nat) (x : RwPort) : (setRw d n x).imgs = d.imgs := rfl
@[simp] theorem setRw_tmg (d : Dev) (n : Nat) (x : RwPort) : (setRw d n x).tmg = d.tmg := rfl
@[simp] theorem setRw_hbm (d : Dev) (n : Nat) (x : RwPort) : (setRw d n x).hbm = d.hbm := rfl
@[simp] theorem setRw_vce (d : Dev) (n : Nat) (x : RwPort) : (setRw d n x).vce = d.vce := rfl
@[simp] theorem setRw_pxe (d : Dev) (n : Nat) (x : RwPort) : (setRw d n x).pxe = d.pxe := rfl
@[simp] theorem setRw_ports (d : Dev) (n : Nat) (x : RwPort) : (setRw d n x).ports = d.ports := rfl
@[simp] theorem setRw_clk (d : Dev) (n : Nat) (x : RwPort) : (setRw d n x).clk = d.clk := rfl
@[simp] theorem setRw_hlk (d : Dev) (n : Nat) (x : RwPort) : (setRw d n x).hlk = d.hlk := rfl
@[simp] theorem setRw_pwr (d : Dev) (n : Nat) (x : RwPort) : (setRw d n x).pwr = d.pwr := rfl
@[simp] theorem setRw_mgt (d : Dev) (n : Nat) (x : RwPort) : (setRw d n x).mgt = d.mgt := rfl
@[simp] theorem setRw_pins (d : Dev) (n : Nat) (x : RwPort) : (setRw d n x).pins = d.pins := rfl
@[simp] theorem setRw_out (d : Dev) (n : Nat) (x : RwPort) : (setRw d n x).out = d.out := rfl
@[simp] theorem setRw_free (d : Dev) (n : Nat) (x : RwPort) : (setRw d n x).free = d.free := rfl

/-! ### updRw -/

@[simp] theorem updRw_regs (d : Dev) (n : Nat) (f : RwPort → RwPort) : (updRw d n f).regs = d.regs := rfl
@[simp] theorem updRw_capt (d : Dev) (n : Nat) (f : RwPort → RwPort) : (updRw d n f).capt = d.capt := rfl
@[simp] theorem updRw_flt (d : Dev) (n : Nat) (f : RwPort → RwPort) : (updRw d n f).flt = d.flt := rfl
@[simp] theorem updRw_bk (d : Dev) (n : Nat) (f : RwPort → RwPort) : (updRw d n f).bk = d.bk := rfl
@[simp] theorem updRw_nvm (d : Dev) (n : Nat) (f : RwPort → RwPort) : (updRw d n f).nvm = d.nvm := rfl
@[simp] theorem updRw_boot (d : Dev) (n : Nat) (f : RwPort → RwPort) : (updRw d n f).boot = d.boot := rfl
@[simp] theorem updRw_own (d : Dev) (n : Nat) (f : RwPort → RwPort) : (updRw d n f).own = d.own := rfl
@[simp] theorem updRw_tiles (d : Dev) (n : Nat) (f : RwPort → RwPort) : (updRw d n f).tiles = d.tiles := rfl
@[simp] theorem updRw_sc0 (d : Dev) (n : Nat) (f : RwPort → RwPort) : (updRw d n f).sc0 = d.sc0 := rfl
@[simp] theorem updRw_sc1 (d : Dev) (n : Nat) (f : RwPort → RwPort) : (updRw d n f).sc1 = d.sc1 := rfl
@[simp] theorem updRw_sched (d : Dev) (n : Nat) (f : RwPort → RwPort) : (updRw d n f).sched = d.sched := rfl
@[simp] theorem updRw_imgs (d : Dev) (n : Nat) (f : RwPort → RwPort) : (updRw d n f).imgs = d.imgs := rfl
@[simp] theorem updRw_tmg (d : Dev) (n : Nat) (f : RwPort → RwPort) : (updRw d n f).tmg = d.tmg := rfl
@[simp] theorem updRw_hbm (d : Dev) (n : Nat) (f : RwPort → RwPort) : (updRw d n f).hbm = d.hbm := rfl
@[simp] theorem updRw_vce (d : Dev) (n : Nat) (f : RwPort → RwPort) : (updRw d n f).vce = d.vce := rfl
@[simp] theorem updRw_pxe (d : Dev) (n : Nat) (f : RwPort → RwPort) : (updRw d n f).pxe = d.pxe := rfl
@[simp] theorem updRw_ports (d : Dev) (n : Nat) (f : RwPort → RwPort) : (updRw d n f).ports = d.ports := rfl
@[simp] theorem updRw_clk (d : Dev) (n : Nat) (f : RwPort → RwPort) : (updRw d n f).clk = d.clk := rfl
@[simp] theorem updRw_hlk (d : Dev) (n : Nat) (f : RwPort → RwPort) : (updRw d n f).hlk = d.hlk := rfl
@[simp] theorem updRw_pwr (d : Dev) (n : Nat) (f : RwPort → RwPort) : (updRw d n f).pwr = d.pwr := rfl
@[simp] theorem updRw_mgt (d : Dev) (n : Nat) (f : RwPort → RwPort) : (updRw d n f).mgt = d.mgt := rfl
@[simp] theorem updRw_pins (d : Dev) (n : Nat) (f : RwPort → RwPort) : (updRw d n f).pins = d.pins := rfl
@[simp] theorem updRw_out (d : Dev) (n : Nat) (f : RwPort → RwPort) : (updRw d n f).out = d.out := rfl
@[simp] theorem updRw_free (d : Dev) (n : Nat) (f : RwPort → RwPort) : (updRw d n f).free = d.free := rfl

/-! ### setScope -/

@[simp] theorem setScope_regs (d : Dev) (s : Nat) (x : Scope) : (setScope d s x).regs = d.regs := by
  unfold setScope; (repeat' split) <;> rfl
@[simp] theorem setScope_capt (d : Dev) (s : Nat) (x : Scope) : (setScope d s x).capt = d.capt := by
  unfold setScope; (repeat' split) <;> rfl
@[simp] theorem setScope_flt (d : Dev) (s : Nat) (x : Scope) : (setScope d s x).flt = d.flt := by
  unfold setScope; (repeat' split) <;> rfl
@[simp] theorem setScope_bk (d : Dev) (s : Nat) (x : Scope) : (setScope d s x).bk = d.bk := by
  unfold setScope; (repeat' split) <;> rfl
@[simp] theorem setScope_nvm (d : Dev) (s : Nat) (x : Scope) : (setScope d s x).nvm = d.nvm := by
  unfold setScope; (repeat' split) <;> rfl
@[simp] theorem setScope_boot (d : Dev) (s : Nat) (x : Scope) : (setScope d s x).boot = d.boot := by
  unfold setScope; (repeat' split) <;> rfl
@[simp] theorem setScope_own (d : Dev) (s : Nat) (x : Scope) : (setScope d s x).own = d.own := by
  unfold setScope; (repeat' split) <;> rfl
@[simp] theorem setScope_tiles (d : Dev) (s : Nat) (x : Scope) : (setScope d s x).tiles = d.tiles := by
  unfold setScope; (repeat' split) <;> rfl
@[simp] theorem setScope_sched (d : Dev) (s : Nat) (x : Scope) : (setScope d s x).sched = d.sched := by
  unfold setScope; (repeat' split) <;> rfl
@[simp] theorem setScope_imgs (d : Dev) (s : Nat) (x : Scope) : (setScope d s x).imgs = d.imgs := by
  unfold setScope; (repeat' split) <;> rfl
@[simp] theorem setScope_tmg (d : Dev) (s : Nat) (x : Scope) : (setScope d s x).tmg = d.tmg := by
  unfold setScope; (repeat' split) <;> rfl
@[simp] theorem setScope_hbm (d : Dev) (s : Nat) (x : Scope) : (setScope d s x).hbm = d.hbm := by
  unfold setScope; (repeat' split) <;> rfl
@[simp] theorem setScope_vce (d : Dev) (s : Nat) (x : Scope) : (setScope d s x).vce = d.vce := by
  unfold setScope; (repeat' split) <;> rfl
@[simp] theorem setScope_pxe (d : Dev) (s : Nat) (x : Scope) : (setScope d s x).pxe = d.pxe := by
  unfold setScope; (repeat' split) <;> rfl
@[simp] theorem setScope_ports (d : Dev) (s : Nat) (x : Scope) : (setScope d s x).ports = d.ports := by
  unfold setScope; (repeat' split) <;> rfl
@[simp] theorem setScope_rw (d : Dev) (s : Nat) (x : Scope) : (setScope d s x).rw = d.rw := by
  unfold setScope; (repeat' split) <;> rfl
@[simp] theorem setScope_clk (d : Dev) (s : Nat) (x : Scope) : (setScope d s x).clk = d.clk := by
  unfold setScope; (repeat' split) <;> rfl
@[simp] theorem setScope_hlk (d : Dev) (s : Nat) (x : Scope) : (setScope d s x).hlk = d.hlk := by
  unfold setScope; (repeat' split) <;> rfl
@[simp] theorem setScope_pwr (d : Dev) (s : Nat) (x : Scope) : (setScope d s x).pwr = d.pwr := by
  unfold setScope; (repeat' split) <;> rfl
@[simp] theorem setScope_mgt (d : Dev) (s : Nat) (x : Scope) : (setScope d s x).mgt = d.mgt := by
  unfold setScope; (repeat' split) <;> rfl
@[simp] theorem setScope_pins (d : Dev) (s : Nat) (x : Scope) : (setScope d s x).pins = d.pins := by
  unfold setScope; (repeat' split) <;> rfl
@[simp] theorem setScope_out (d : Dev) (s : Nat) (x : Scope) : (setScope d s x).out = d.out := by
  unfold setScope; (repeat' split) <;> rfl
@[simp] theorem setScope_free (d : Dev) (s : Nat) (x : Scope) : (setScope d s x).free = d.free := by
  unfold setScope; (repeat' split) <;> rfl

/-! ### updScope -/

@[simp] theorem updScope_regs (d : Dev) (s : Nat) (f : Scope → Scope) : (updScope d s f).regs = d.regs := by
  simp [updScope]
@[simp] theorem updScope_capt (d : Dev) (s : Nat) (f : Scope → Scope) : (updScope d s f).capt = d.capt := by
  simp [updScope]
@[simp] theorem updScope_flt (d : Dev) (s : Nat) (f : Scope → Scope) : (updScope d s f).flt = d.flt := by
  simp [updScope]
@[simp] theorem updScope_bk (d : Dev) (s : Nat) (f : Scope → Scope) : (updScope d s f).bk = d.bk := by
  simp [updScope]
@[simp] theorem updScope_nvm (d : Dev) (s : Nat) (f : Scope → Scope) : (updScope d s f).nvm = d.nvm := by
  simp [updScope]
@[simp] theorem updScope_boot (d : Dev) (s : Nat) (f : Scope → Scope) : (updScope d s f).boot = d.boot := by
  simp [updScope]
@[simp] theorem updScope_own (d : Dev) (s : Nat) (f : Scope → Scope) : (updScope d s f).own = d.own := by
  simp [updScope]
@[simp] theorem updScope_tiles (d : Dev) (s : Nat) (f : Scope → Scope) : (updScope d s f).tiles = d.tiles := by
  simp [updScope]
@[simp] theorem updScope_sched (d : Dev) (s : Nat) (f : Scope → Scope) : (updScope d s f).sched = d.sched := by
  simp [updScope]
@[simp] theorem updScope_imgs (d : Dev) (s : Nat) (f : Scope → Scope) : (updScope d s f).imgs = d.imgs := by
  simp [updScope]
@[simp] theorem updScope_tmg (d : Dev) (s : Nat) (f : Scope → Scope) : (updScope d s f).tmg = d.tmg := by
  simp [updScope]
@[simp] theorem updScope_hbm (d : Dev) (s : Nat) (f : Scope → Scope) : (updScope d s f).hbm = d.hbm := by
  simp [updScope]
@[simp] theorem updScope_vce (d : Dev) (s : Nat) (f : Scope → Scope) : (updScope d s f).vce = d.vce := by
  simp [updScope]
@[simp] theorem updScope_pxe (d : Dev) (s : Nat) (f : Scope → Scope) : (updScope d s f).pxe = d.pxe := by
  simp [updScope]
@[simp] theorem updScope_ports (d : Dev) (s : Nat) (f : Scope → Scope) : (updScope d s f).ports = d.ports := by
  simp [updScope]
@[simp] theorem updScope_rw (d : Dev) (s : Nat) (f : Scope → Scope) : (updScope d s f).rw = d.rw := by
  simp [updScope]
@[simp] theorem updScope_clk (d : Dev) (s : Nat) (f : Scope → Scope) : (updScope d s f).clk = d.clk := by
  simp [updScope]
@[simp] theorem updScope_hlk (d : Dev) (s : Nat) (f : Scope → Scope) : (updScope d s f).hlk = d.hlk := by
  simp [updScope]
@[simp] theorem updScope_pwr (d : Dev) (s : Nat) (f : Scope → Scope) : (updScope d s f).pwr = d.pwr := by
  simp [updScope]
@[simp] theorem updScope_mgt (d : Dev) (s : Nat) (f : Scope → Scope) : (updScope d s f).mgt = d.mgt := by
  simp [updScope]
@[simp] theorem updScope_pins (d : Dev) (s : Nat) (f : Scope → Scope) : (updScope d s f).pins = d.pins := by
  simp [updScope]
@[simp] theorem updScope_out (d : Dev) (s : Nat) (f : Scope → Scope) : (updScope d s f).out = d.out := by
  simp [updScope]
@[simp] theorem updScope_free (d : Dev) (s : Nat) (f : Scope → Scope) : (updScope d s f).free = d.free := by
  simp [updScope]

/-! ### jWrite -/

@[simp] theorem jWrite_regs (d : Dev) (r : JRec) : (jWrite d r).regs = d.regs := rfl
@[simp] theorem jWrite_capt (d : Dev) (r : JRec) : (jWrite d r).capt = d.capt := rfl
@[simp] theorem jWrite_flt (d : Dev) (r : JRec) : (jWrite d r).flt = d.flt := rfl
@[simp] theorem jWrite_boot (d : Dev) (r : JRec) : (jWrite d r).boot = d.boot := rfl
@[simp] theorem jWrite_own (d : Dev) (r : JRec) : (jWrite d r).own = d.own := rfl
@[simp] theorem jWrite_tiles (d : Dev) (r : JRec) : (jWrite d r).tiles = d.tiles := rfl
@[simp] theorem jWrite_sc0 (d : Dev) (r : JRec) : (jWrite d r).sc0 = d.sc0 := rfl
@[simp] theorem jWrite_sc1 (d : Dev) (r : JRec) : (jWrite d r).sc1 = d.sc1 := rfl
@[simp] theorem jWrite_sched (d : Dev) (r : JRec) : (jWrite d r).sched = d.sched := rfl
@[simp] theorem jWrite_imgs (d : Dev) (r : JRec) : (jWrite d r).imgs = d.imgs := rfl
@[simp] theorem jWrite_tmg (d : Dev) (r : JRec) : (jWrite d r).tmg = d.tmg := rfl
@[simp] theorem jWrite_hbm (d : Dev) (r : JRec) : (jWrite d r).hbm = d.hbm := rfl
@[simp] theorem jWrite_vce (d : Dev) (r : JRec) : (jWrite d r).vce = d.vce := rfl
@[simp] theorem jWrite_pxe (d : Dev) (r : JRec) : (jWrite d r).pxe = d.pxe := rfl
@[simp] theorem jWrite_ports (d : Dev) (r : JRec) : (jWrite d r).ports = d.ports := rfl
@[simp] theorem jWrite_rw (d : Dev) (r : JRec) : (jWrite d r).rw = d.rw := rfl
@[simp] theorem jWrite_clk (d : Dev) (r : JRec) : (jWrite d r).clk = d.clk := rfl
@[simp] theorem jWrite_hlk (d : Dev) (r : JRec) : (jWrite d r).hlk = d.hlk := rfl
@[simp] theorem jWrite_pwr (d : Dev) (r : JRec) : (jWrite d r).pwr = d.pwr := rfl
@[simp] theorem jWrite_mgt (d : Dev) (r : JRec) : (jWrite d r).mgt = d.mgt := rfl
@[simp] theorem jWrite_pins (d : Dev) (r : JRec) : (jWrite d r).pins = d.pins := rfl
@[simp] theorem jWrite_out (d : Dev) (r : JRec) : (jWrite d r).out = d.out := rfl
@[simp] theorem jWrite_free (d : Dev) (r : JRec) : (jWrite d r).free = d.free := rfl

theorem raiseOn_shape (d : Dev) (link vec : Nat) :
    ∃ a b, raiseOn d link vec = { d with hlk := a, out := b } := by
  unfold raiseOn; dsimp only; (repeat' split) <;> exact ⟨_, _, rfl⟩

/-! ### raiseOn -/

@[simp] theorem raiseOn_regs (d : Dev) (link vec : Nat) : (raiseOn d link vec).regs = d.regs := by
  obtain ⟨a, b, h⟩ := raiseOn_shape d link vec; rw [h]
@[simp] theorem raiseOn_capt (d : Dev) (link vec : Nat) : (raiseOn d link vec).capt = d.capt := by
  obtain ⟨a, b, h⟩ := raiseOn_shape d link vec; rw [h]
@[simp] theorem raiseOn_flt (d : Dev) (link vec : Nat) : (raiseOn d link vec).flt = d.flt := by
  obtain ⟨a, b, h⟩ := raiseOn_shape d link vec; rw [h]
@[simp] theorem raiseOn_bk (d : Dev) (link vec : Nat) : (raiseOn d link vec).bk = d.bk := by
  obtain ⟨a, b, h⟩ := raiseOn_shape d link vec; rw [h]
@[simp] theorem raiseOn_nvm (d : Dev) (link vec : Nat) : (raiseOn d link vec).nvm = d.nvm := by
  obtain ⟨a, b, h⟩ := raiseOn_shape d link vec; rw [h]
@[simp] theorem raiseOn_boot (d : Dev) (link vec : Nat) : (raiseOn d link vec).boot = d.boot := by
  obtain ⟨a, b, h⟩ := raiseOn_shape d link vec; rw [h]
@[simp] theorem raiseOn_own (d : Dev) (link vec : Nat) : (raiseOn d link vec).own = d.own := by
  obtain ⟨a, b, h⟩ := raiseOn_shape d link vec; rw [h]
@[simp] theorem raiseOn_tiles (d : Dev) (link vec : Nat) : (raiseOn d link vec).tiles = d.tiles := by
  obtain ⟨a, b, h⟩ := raiseOn_shape d link vec; rw [h]
@[simp] theorem raiseOn_sc0 (d : Dev) (link vec : Nat) : (raiseOn d link vec).sc0 = d.sc0 := by
  obtain ⟨a, b, h⟩ := raiseOn_shape d link vec; rw [h]
@[simp] theorem raiseOn_sc1 (d : Dev) (link vec : Nat) : (raiseOn d link vec).sc1 = d.sc1 := by
  obtain ⟨a, b, h⟩ := raiseOn_shape d link vec; rw [h]
@[simp] theorem raiseOn_sched (d : Dev) (link vec : Nat) : (raiseOn d link vec).sched = d.sched := by
  obtain ⟨a, b, h⟩ := raiseOn_shape d link vec; rw [h]
@[simp] theorem raiseOn_imgs (d : Dev) (link vec : Nat) : (raiseOn d link vec).imgs = d.imgs := by
  obtain ⟨a, b, h⟩ := raiseOn_shape d link vec; rw [h]
@[simp] theorem raiseOn_tmg (d : Dev) (link vec : Nat) : (raiseOn d link vec).tmg = d.tmg := by
  obtain ⟨a, b, h⟩ := raiseOn_shape d link vec; rw [h]
@[simp] theorem raiseOn_hbm (d : Dev) (link vec : Nat) : (raiseOn d link vec).hbm = d.hbm := by
  obtain ⟨a, b, h⟩ := raiseOn_shape d link vec; rw [h]
@[simp] theorem raiseOn_vce (d : Dev) (link vec : Nat) : (raiseOn d link vec).vce = d.vce := by
  obtain ⟨a, b, h⟩ := raiseOn_shape d link vec; rw [h]
@[simp] theorem raiseOn_pxe (d : Dev) (link vec : Nat) : (raiseOn d link vec).pxe = d.pxe := by
  obtain ⟨a, b, h⟩ := raiseOn_shape d link vec; rw [h]
@[simp] theorem raiseOn_ports (d : Dev) (link vec : Nat) : (raiseOn d link vec).ports = d.ports := by
  obtain ⟨a, b, h⟩ := raiseOn_shape d link vec; rw [h]
@[simp] theorem raiseOn_rw (d : Dev) (link vec : Nat) : (raiseOn d link vec).rw = d.rw := by
  obtain ⟨a, b, h⟩ := raiseOn_shape d link vec; rw [h]
@[simp] theorem raiseOn_clk (d : Dev) (link vec : Nat) : (raiseOn d link vec).clk = d.clk := by
  obtain ⟨a, b, h⟩ := raiseOn_shape d link vec; rw [h]
@[simp] theorem raiseOn_pwr (d : Dev) (link vec : Nat) : (raiseOn d link vec).pwr = d.pwr := by
  obtain ⟨a, b, h⟩ := raiseOn_shape d link vec; rw [h]
@[simp] theorem raiseOn_mgt (d : Dev) (link vec : Nat) : (raiseOn d link vec).mgt = d.mgt := by
  obtain ⟨a, b, h⟩ := raiseOn_shape d link vec; rw [h]
@[simp] theorem raiseOn_pins (d : Dev) (link vec : Nat) : (raiseOn d link vec).pins = d.pins := by
  obtain ⟨a, b, h⟩ := raiseOn_shape d link vec; rw [h]
@[simp] theorem raiseOn_free (d : Dev) (link vec : Nat) : (raiseOn d link vec).free = d.free := by
  obtain ⟨a, b, h⟩ := raiseOn_shape d link vec; rw [h]

/-! ### hostPost -/

@[simp] theorem hostPost_regs (d : Dev) (link : Nat) (cq : Option Nat) (addr : Nat) (data : List Byte) : (hostPost d link cq addr data).regs = d.regs := rfl
@[simp] theorem hostPost_capt (d : Dev) (link : Nat) (cq : Option Nat) (addr : Nat) (data : List Byte) : (hostPost d link cq addr data).capt = d.capt := rfl
@[simp] theorem hostPost_flt (d : Dev) (link : Nat) (cq : Option Nat) (addr : Nat) (data : List Byte) : (hostPost d link cq addr data).flt = d.flt := rfl
@[simp] theorem hostPost_bk (d : Dev) (link : Nat) (cq : Option Nat) (addr : Nat) (data : List Byte) : (hostPost d link cq addr data).bk = d.bk := rfl
@[simp] theorem hostPost_nvm (d : Dev) (link : Nat) (cq : Option Nat) (addr : Nat) (data : List Byte) : (hostPost d link cq addr data).nvm = d.nvm := rfl
@[simp] theorem hostPost_boot (d : Dev) (link : Nat) (cq : Option Nat) (addr : Nat) (data : List Byte) : (hostPost d link cq addr data).boot = d.boot := rfl
@[simp] theorem hostPost_own (d : Dev) (link : Nat) (cq : Option Nat) (addr : Nat) (data : List Byte) : (hostPost d link cq addr data).own = d.own := rfl
@[simp] theorem hostPost_tiles (d : Dev) (link : Nat) (cq : Option Nat) (addr : Nat) (data : List Byte) : (hostPost d link cq addr data).tiles = d.tiles := rfl
@[simp] theorem hostPost_sc0 (d : Dev) (link : Nat) (cq : Option Nat) (addr : Nat) (data : List Byte) : (hostPost d link cq addr data).sc0 = d.sc0 := rfl
@[simp] theorem hostPost_sc1 (d : Dev) (link : Nat) (cq : Option Nat) (addr : Nat) (data : List Byte) : (hostPost d link cq addr data).sc1 = d.sc1 := rfl
@[simp] theorem hostPost_sched (d : Dev) (link : Nat) (cq : Option Nat) (addr : Nat) (data : List Byte) : (hostPost d link cq addr data).sched = d.sched := rfl
@[simp] theorem hostPost_imgs (d : Dev) (link : Nat) (cq : Option Nat) (addr : Nat) (data : List Byte) : (hostPost d link cq addr data).imgs = d.imgs := rfl
@[simp] theorem hostPost_tmg (d : Dev) (link : Nat) (cq : Option Nat) (addr : Nat) (data : List Byte) : (hostPost d link cq addr data).tmg = d.tmg := rfl
@[simp] theorem hostPost_hbm (d : Dev) (link : Nat) (cq : Option Nat) (addr : Nat) (data : List Byte) : (hostPost d link cq addr data).hbm = d.hbm := rfl
@[simp] theorem hostPost_vce (d : Dev) (link : Nat) (cq : Option Nat) (addr : Nat) (data : List Byte) : (hostPost d link cq addr data).vce = d.vce := rfl
@[simp] theorem hostPost_pxe (d : Dev) (link : Nat) (cq : Option Nat) (addr : Nat) (data : List Byte) : (hostPost d link cq addr data).pxe = d.pxe := rfl
@[simp] theorem hostPost_ports (d : Dev) (link : Nat) (cq : Option Nat) (addr : Nat) (data : List Byte) : (hostPost d link cq addr data).ports = d.ports := rfl
@[simp] theorem hostPost_rw (d : Dev) (link : Nat) (cq : Option Nat) (addr : Nat) (data : List Byte) : (hostPost d link cq addr data).rw = d.rw := rfl
@[simp] theorem hostPost_clk (d : Dev) (link : Nat) (cq : Option Nat) (addr : Nat) (data : List Byte) : (hostPost d link cq addr data).clk = d.clk := rfl
@[simp] theorem hostPost_pwr (d : Dev) (link : Nat) (cq : Option Nat) (addr : Nat) (data : List Byte) : (hostPost d link cq addr data).pwr = d.pwr := rfl
@[simp] theorem hostPost_mgt (d : Dev) (link : Nat) (cq : Option Nat) (addr : Nat) (data : List Byte) : (hostPost d link cq addr data).mgt = d.mgt := rfl
@[simp] theorem hostPost_pins (d : Dev) (link : Nat) (cq : Option Nat) (addr : Nat) (data : List Byte) : (hostPost d link cq addr data).pins = d.pins := rfl
@[simp] theorem hostPost_free (d : Dev) (link : Nat) (cq : Option Nat) (addr : Nat) (data : List Byte) : (hostPost d link cq addr data).free = d.free := rfl

/-- All that a record may change: the collector, the backup domain, pending vectors, and what leaves the device. -/
theorem recordAt_shape (d : Dev) (f : FSpec) (us : Nat) (late con : Bool) :
    ∃ a b c e, recordAt d f us late con = { d with flt := a, bk := b, hlk := c, out := e } := by
  unfold recordAt
  dsimp only
  generalize hd2 : (if 3 ≤ f.cls then _ else _ : Dev) = d2
  have h2 : ∃ a b, d2 = { d with flt := a, bk := b } := by subst hd2; split <;> exact ⟨_, _, rfl⟩
  obtain ⟨a, b, h2⟩ := h2
  generalize hd3 : (if (_ && _) = true then raiseOn _ _ _ else d2 : Dev) = d3
  have h3 : ∃ a b c e, d3 = { d with flt := a, bk := b, hlk := c, out := e } := by
    subst hd3; split
    · obtain ⟨p, q, hp⟩ := raiseOn_shape d2 0 (fld (regGet d2 0x70030) 0 11)
      rw [hp]
      obtain ⟨p', q', hq⟩ := raiseOn_shape { d2 with hlk := p, out := q } 1 (fld (regGet d2 0x70030) 0 11)
      rw [hq, h2]; exact ⟨_, _, _, _, rfl⟩
    · rw [h2]; exact ⟨_, _, _, _, rfl⟩
  obtain ⟨a', b', c', e', h3⟩ := h3
  rw [h3]; split
  · exact ⟨_, _, _, _, rfl⟩
  · exact ⟨_, _, _, _, rfl⟩

/-! ### recordAt -/

@[simp] theorem recordAt_regs (d : Dev) (f : FSpec) (us : Nat) (late con : Bool) : (recordAt d f us late con).regs = d.regs := by
  obtain ⟨a, b, c, e, h⟩ := recordAt_shape d f us late con; rw [h]
@[simp] theorem recordAt_capt (d : Dev) (f : FSpec) (us : Nat) (late con : Bool) : (recordAt d f us late con).capt = d.capt := by
  obtain ⟨a, b, c, e, h⟩ := recordAt_shape d f us late con; rw [h]
@[simp] theorem recordAt_nvm (d : Dev) (f : FSpec) (us : Nat) (late con : Bool) : (recordAt d f us late con).nvm = d.nvm := by
  obtain ⟨a, b, c, e, h⟩ := recordAt_shape d f us late con; rw [h]
@[simp] theorem recordAt_boot (d : Dev) (f : FSpec) (us : Nat) (late con : Bool) : (recordAt d f us late con).boot = d.boot := by
  obtain ⟨a, b, c, e, h⟩ := recordAt_shape d f us late con; rw [h]
@[simp] theorem recordAt_own (d : Dev) (f : FSpec) (us : Nat) (late con : Bool) : (recordAt d f us late con).own = d.own := by
  obtain ⟨a, b, c, e, h⟩ := recordAt_shape d f us late con; rw [h]
@[simp] theorem recordAt_tiles (d : Dev) (f : FSpec) (us : Nat) (late con : Bool) : (recordAt d f us late con).tiles = d.tiles := by
  obtain ⟨a, b, c, e, h⟩ := recordAt_shape d f us late con; rw [h]
@[simp] theorem recordAt_sc0 (d : Dev) (f : FSpec) (us : Nat) (late con : Bool) : (recordAt d f us late con).sc0 = d.sc0 := by
  obtain ⟨a, b, c, e, h⟩ := recordAt_shape d f us late con; rw [h]
@[simp] theorem recordAt_sc1 (d : Dev) (f : FSpec) (us : Nat) (late con : Bool) : (recordAt d f us late con).sc1 = d.sc1 := by
  obtain ⟨a, b, c, e, h⟩ := recordAt_shape d f us late con; rw [h]
@[simp] theorem recordAt_sched (d : Dev) (f : FSpec) (us : Nat) (late con : Bool) : (recordAt d f us late con).sched = d.sched := by
  obtain ⟨a, b, c, e, h⟩ := recordAt_shape d f us late con; rw [h]
@[simp] theorem recordAt_imgs (d : Dev) (f : FSpec) (us : Nat) (late con : Bool) : (recordAt d f us late con).imgs = d.imgs := by
  obtain ⟨a, b, c, e, h⟩ := recordAt_shape d f us late con; rw [h]
@[simp] theorem recordAt_tmg (d : Dev) (f : FSpec) (us : Nat) (late con : Bool) : (recordAt d f us late con).tmg = d.tmg := by
  obtain ⟨a, b, c, e, h⟩ := recordAt_shape d f us late con; rw [h]
@[simp] theorem recordAt_hbm (d : Dev) (f : FSpec) (us : Nat) (late con : Bool) : (recordAt d f us late con).hbm = d.hbm := by
  obtain ⟨a, b, c, e, h⟩ := recordAt_shape d f us late con; rw [h]
@[simp] theorem recordAt_vce (d : Dev) (f : FSpec) (us : Nat) (late con : Bool) : (recordAt d f us late con).vce = d.vce := by
  obtain ⟨a, b, c, e, h⟩ := recordAt_shape d f us late con; rw [h]
@[simp] theorem recordAt_pxe (d : Dev) (f : FSpec) (us : Nat) (late con : Bool) : (recordAt d f us late con).pxe = d.pxe := by
  obtain ⟨a, b, c, e, h⟩ := recordAt_shape d f us late con; rw [h]
@[simp] theorem recordAt_ports (d : Dev) (f : FSpec) (us : Nat) (late con : Bool) : (recordAt d f us late con).ports = d.ports := by
  obtain ⟨a, b, c, e, h⟩ := recordAt_shape d f us late con; rw [h]
@[simp] theorem recordAt_rw (d : Dev) (f : FSpec) (us : Nat) (late con : Bool) : (recordAt d f us late con).rw = d.rw := by
  obtain ⟨a, b, c, e, h⟩ := recordAt_shape d f us late con; rw [h]
@[simp] theorem recordAt_clk (d : Dev) (f : FSpec) (us : Nat) (late con : Bool) : (recordAt d f us late con).clk = d.clk := by
  obtain ⟨a, b, c, e, h⟩ := recordAt_shape d f us late con; rw [h]
@[simp] theorem recordAt_pwr (d : Dev) (f : FSpec) (us : Nat) (late con : Bool) : (recordAt d f us late con).pwr = d.pwr := by
  obtain ⟨a, b, c, e, h⟩ := recordAt_shape d f us late con; rw [h]
@[simp] theorem recordAt_mgt (d : Dev) (f : FSpec) (us : Nat) (late con : Bool) : (recordAt d f us late con).mgt = d.mgt := by
  obtain ⟨a, b, c, e, h⟩ := recordAt_shape d f us late con; rw [h]
@[simp] theorem recordAt_pins (d : Dev) (f : FSpec) (us : Nat) (late con : Bool) : (recordAt d f us late con).pins = d.pins := by
  obtain ⟨a, b, c, e, h⟩ := recordAt_shape d f us late con; rw [h]
@[simp] theorem recordAt_free (d : Dev) (f : FSpec) (us : Nat) (late con : Bool) : (recordAt d f us late con).free = d.free := by
  obtain ⟨a, b, c, e, h⟩ := recordAt_shape d f us late con; rw [h]

theorem record_shape (d : Dev) (f : FSpec) :
    ∃ a b c e k, record d f = { d with flt := a, bk := b, hlk := c, out := e, free := k } := by
  unfold record; split
  · obtain ⟨a, b, c, e, h⟩ := recordAt_shape d f 0 false false
    exact ⟨a, b, c, e, d.free, h⟩
  · obtain ⟨a, b, c, e, h⟩ := recordAt_shape (drawFree d 16).2 f ((drawFree d 16).1 % 11) false true
    exact ⟨a, b, c, e, d.free + 1, h⟩

/-! ### record -/

@[simp] theorem record_regs (d : Dev) (f : FSpec) : (record d f).regs = d.regs := by
  obtain ⟨a, b, c, e, k, h⟩ := record_shape d f; rw [h]
@[simp] theorem record_capt (d : Dev) (f : FSpec) : (record d f).capt = d.capt := by
  obtain ⟨a, b, c, e, k, h⟩ := record_shape d f; rw [h]
@[simp] theorem record_nvm (d : Dev) (f : FSpec) : (record d f).nvm = d.nvm := by
  obtain ⟨a, b, c, e, k, h⟩ := record_shape d f; rw [h]
@[simp] theorem record_boot (d : Dev) (f : FSpec) : (record d f).boot = d.boot := by
  obtain ⟨a, b, c, e, k, h⟩ := record_shape d f; rw [h]
@[simp] theorem record_own (d : Dev) (f : FSpec) : (record d f).own = d.own := by
  obtain ⟨a, b, c, e, k, h⟩ := record_shape d f; rw [h]
@[simp] theorem record_tiles (d : Dev) (f : FSpec) : (record d f).tiles = d.tiles := by
  obtain ⟨a, b, c, e, k, h⟩ := record_shape d f; rw [h]
@[simp] theorem record_sc0 (d : Dev) (f : FSpec) : (record d f).sc0 = d.sc0 := by
  obtain ⟨a, b, c, e, k, h⟩ := record_shape d f; rw [h]
@[simp] theorem record_sc1 (d : Dev) (f : FSpec) : (record d f).sc1 = d.sc1 := by
  obtain ⟨a, b, c, e, k, h⟩ := record_shape d f; rw [h]
@[simp] theorem record_sched (d : Dev) (f : FSpec) : (record d f).sched = d.sched := by
  obtain ⟨a, b, c, e, k, h⟩ := record_shape d f; rw [h]
@[simp] theorem record_imgs (d : Dev) (f : FSpec) : (record d f).imgs = d.imgs := by
  obtain ⟨a, b, c, e, k, h⟩ := record_shape d f; rw [h]
@[simp] theorem record_tmg (d : Dev) (f : FSpec) : (record d f).tmg = d.tmg := by
  obtain ⟨a, b, c, e, k, h⟩ := record_shape d f; rw [h]
@[simp] theorem record_hbm (d : Dev) (f : FSpec) : (record d f).hbm = d.hbm := by
  obtain ⟨a, b, c, e, k, h⟩ := record_shape d f; rw [h]
@[simp] theorem record_vce (d : Dev) (f : FSpec) : (record d f).vce = d.vce := by
  obtain ⟨a, b, c, e, k, h⟩ := record_shape d f; rw [h]
@[simp] theorem record_pxe (d : Dev) (f : FSpec) : (record d f).pxe = d.pxe := by
  obtain ⟨a, b, c, e, k, h⟩ := record_shape d f; rw [h]
@[simp] theorem record_ports (d : Dev) (f : FSpec) : (record d f).ports = d.ports := by
  obtain ⟨a, b, c, e, k, h⟩ := record_shape d f; rw [h]
@[simp] theorem record_rw (d : Dev) (f : FSpec) : (record d f).rw = d.rw := by
  obtain ⟨a, b, c, e, k, h⟩ := record_shape d f; rw [h]
@[simp] theorem record_clk (d : Dev) (f : FSpec) : (record d f).clk = d.clk := by
  obtain ⟨a, b, c, e, k, h⟩ := record_shape d f; rw [h]
@[simp] theorem record_pwr (d : Dev) (f : FSpec) : (record d f).pwr = d.pwr := by
  obtain ⟨a, b, c, e, k, h⟩ := record_shape d f; rw [h]
@[simp] theorem record_mgt (d : Dev) (f : FSpec) : (record d f).mgt = d.mgt := by
  obtain ⟨a, b, c, e, k, h⟩ := record_shape d f; rw [h]
@[simp] theorem record_pins (d : Dev) (f : FSpec) : (record d f).pins = d.pins := by
  obtain ⟨a, b, c, e, k, h⟩ := record_shape d f; rw [h]

/-! ### discarded -/

@[simp] theorem discarded_regs (d : Dev) (block detail : Nat) : (discarded d block detail).regs = d.regs := by
  simp [discarded]
@[simp] theorem discarded_capt (d : Dev) (block detail : Nat) : (discarded d block detail).capt = d.capt := by
  simp [discarded]
@[simp] theorem discarded_nvm (d : Dev) (block detail : Nat) : (discarded d block detail).nvm = d.nvm := by
  simp [discarded]
@[simp] theorem discarded_boot (d : Dev) (block detail : Nat) : (discarded d block detail).boot = d.boot := by
  simp [discarded]
@[simp] theorem discarded_own (d : Dev) (block detail : Nat) : (discarded d block detail).own = d.own := by
  simp [discarded]
@[simp] theorem discarded_tiles (d : Dev) (block detail : Nat) : (discarded d block detail).tiles = d.tiles := by
  simp [discarded]
@[simp] theorem discarded_sc0 (d : Dev) (block detail : Nat) : (discarded d block detail).sc0 = d.sc0 := by
  simp [discarded]
@[simp] theorem discarded_sc1 (d : Dev) (block detail : Nat) : (discarded d block detail).sc1 = d.sc1 := by
  simp [discarded]
@[simp] theorem discarded_sched (d : Dev) (block detail : Nat) : (discarded d block detail).sched = d.sched := by
  simp [discarded]
@[simp] theorem discarded_imgs (d : Dev) (block detail : Nat) : (discarded d block detail).imgs = d.imgs := by
  simp [discarded]
@[simp] theorem discarded_tmg (d : Dev) (block detail : Nat) : (discarded d block detail).tmg = d.tmg := by
  simp [discarded]
@[simp] theorem discarded_hbm (d : Dev) (block detail : Nat) : (discarded d block detail).hbm = d.hbm := by
  simp [discarded]
@[simp] theorem discarded_vce (d : Dev) (block detail : Nat) : (discarded d block detail).vce = d.vce := by
  simp [discarded]
@[simp] theorem discarded_pxe (d : Dev) (block detail : Nat) : (discarded d block detail).pxe = d.pxe := by
  simp [discarded]
@[simp] theorem discarded_ports (d : Dev) (block detail : Nat) : (discarded d block detail).ports = d.ports := by
  simp [discarded]
@[simp] theorem discarded_rw (d : Dev) (block detail : Nat) : (discarded d block detail).rw = d.rw := by
  simp [discarded]
@[simp] theorem discarded_clk (d : Dev) (block detail : Nat) : (discarded d block detail).clk = d.clk := by
  simp [discarded]
@[simp] theorem discarded_pwr (d : Dev) (block detail : Nat) : (discarded d block detail).pwr = d.pwr := by
  simp [discarded]
@[simp] theorem discarded_mgt (d : Dev) (block detail : Nat) : (discarded d block detail).mgt = d.mgt := by
  simp [discarded]
@[simp] theorem discarded_pins (d : Dev) (block detail : Nat) : (discarded d block detail).pins = d.pins := by
  simp [discarded]

/-! ### enterState -/

@[simp] theorem enterState_regs (d : Dev) (st : DevState) : (enterState d st).regs = d.regs := by
  unfold enterState; dsimp only; split <;> rfl
@[simp] theorem enterState_capt (d : Dev) (st : DevState) : (enterState d st).capt = d.capt := by
  unfold enterState; dsimp only; split <;> rfl
@[simp] theorem enterState_flt (d : Dev) (st : DevState) : (enterState d st).flt = d.flt := by
  unfold enterState; dsimp only; split <;> rfl
@[simp] theorem enterState_bk (d : Dev) (st : DevState) : (enterState d st).bk = d.bk := by
  unfold enterState; dsimp only; split <;> rfl
@[simp] theorem enterState_nvm (d : Dev) (st : DevState) : (enterState d st).nvm = d.nvm := by
  unfold enterState; dsimp only; split <;> rfl
@[simp] theorem enterState_own (d : Dev) (st : DevState) : (enterState d st).own = d.own := by
  unfold enterState; dsimp only; split <;> rfl
@[simp] theorem enterState_tiles (d : Dev) (st : DevState) : (enterState d st).tiles = d.tiles := by
  unfold enterState; dsimp only; split <;> rfl
@[simp] theorem enterState_sc0 (d : Dev) (st : DevState) : (enterState d st).sc0 = d.sc0 := by
  unfold enterState; dsimp only; split <;> rfl
@[simp] theorem enterState_sc1 (d : Dev) (st : DevState) : (enterState d st).sc1 = d.sc1 := by
  unfold enterState; dsimp only; split <;> rfl
@[simp] theorem enterState_sched (d : Dev) (st : DevState) : (enterState d st).sched = d.sched := by
  unfold enterState; dsimp only; split <;> rfl
@[simp] theorem enterState_imgs (d : Dev) (st : DevState) : (enterState d st).imgs = d.imgs := by
  unfold enterState; dsimp only; split <;> rfl
@[simp] theorem enterState_tmg (d : Dev) (st : DevState) : (enterState d st).tmg = d.tmg := by
  unfold enterState; dsimp only; split <;> rfl
@[simp] theorem enterState_hbm (d : Dev) (st : DevState) : (enterState d st).hbm = d.hbm := by
  unfold enterState; dsimp only; split <;> rfl
@[simp] theorem enterState_vce (d : Dev) (st : DevState) : (enterState d st).vce = d.vce := by
  unfold enterState; dsimp only; split <;> rfl
@[simp] theorem enterState_pxe (d : Dev) (st : DevState) : (enterState d st).pxe = d.pxe := by
  unfold enterState; dsimp only; split <;> rfl
@[simp] theorem enterState_ports (d : Dev) (st : DevState) : (enterState d st).ports = d.ports := by
  unfold enterState; dsimp only; split <;> rfl
@[simp] theorem enterState_rw (d : Dev) (st : DevState) : (enterState d st).rw = d.rw := by
  unfold enterState; dsimp only; split <;> rfl
@[simp] theorem enterState_clk (d : Dev) (st : DevState) : (enterState d st).clk = d.clk := by
  unfold enterState; dsimp only; split <;> rfl
@[simp] theorem enterState_hlk (d : Dev) (st : DevState) : (enterState d st).hlk = d.hlk := by
  unfold enterState; dsimp only; split <;> rfl
@[simp] theorem enterState_pwr (d : Dev) (st : DevState) : (enterState d st).pwr = d.pwr := by
  unfold enterState; dsimp only; split <;> rfl
@[simp] theorem enterState_mgt (d : Dev) (st : DevState) : (enterState d st).mgt = d.mgt := by
  unfold enterState; dsimp only; split <;> rfl
@[simp] theorem enterState_pins (d : Dev) (st : DevState) : (enterState d st).pins = d.pins := by
  unfold enterState; dsimp only; split <;> rfl
@[simp] theorem enterState_free (d : Dev) (st : DevState) : (enterState d st).free = d.free := by
  unfold enterState; dsimp only; split <;> rfl

/-! ### tokenChange -/

@[simp] theorem tokenChange_regs (d : Dev) (p : Nat) (sec : Bool) : (tokenChange d p sec).regs = d.regs := by
  simp [tokenChange]
@[simp] theorem tokenChange_capt (d : Dev) (p : Nat) (sec : Bool) : (tokenChange d p sec).capt = d.capt := by
  simp [tokenChange]
@[simp] theorem tokenChange_nvm (d : Dev) (p : Nat) (sec : Bool) : (tokenChange d p sec).nvm = d.nvm := by
  simp [tokenChange]
@[simp] theorem tokenChange_boot (d : Dev) (p : Nat) (sec : Bool) : (tokenChange d p sec).boot = d.boot := by
  simp [tokenChange]
@[simp] theorem tokenChange_own (d : Dev) (p : Nat) (sec : Bool) : (tokenChange d p sec).own = d.own := by
  simp [tokenChange]
@[simp] theorem tokenChange_tiles (d : Dev) (p : Nat) (sec : Bool) : (tokenChange d p sec).tiles = d.tiles := by
  simp [tokenChange]
@[simp] theorem tokenChange_sc0 (d : Dev) (p : Nat) (sec : Bool) : (tokenChange d p sec).sc0 = d.sc0 := by
  simp [tokenChange]
@[simp] theorem tokenChange_sc1 (d : Dev) (p : Nat) (sec : Bool) : (tokenChange d p sec).sc1 = d.sc1 := by
  simp [tokenChange]
@[simp] theorem tokenChange_sched (d : Dev) (p : Nat) (sec : Bool) : (tokenChange d p sec).sched = d.sched := by
  simp [tokenChange]
@[simp] theorem tokenChange_imgs (d : Dev) (p : Nat) (sec : Bool) : (tokenChange d p sec).imgs = d.imgs := by
  simp [tokenChange]
@[simp] theorem tokenChange_tmg (d : Dev) (p : Nat) (sec : Bool) : (tokenChange d p sec).tmg = d.tmg := by
  simp [tokenChange]
@[simp] theorem tokenChange_hbm (d : Dev) (p : Nat) (sec : Bool) : (tokenChange d p sec).hbm = d.hbm := by
  simp [tokenChange]
@[simp] theorem tokenChange_vce (d : Dev) (p : Nat) (sec : Bool) : (tokenChange d p sec).vce = d.vce := by
  simp [tokenChange]
@[simp] theorem tokenChange_pxe (d : Dev) (p : Nat) (sec : Bool) : (tokenChange d p sec).pxe = d.pxe := by
  simp [tokenChange]
@[simp] theorem tokenChange_ports (d : Dev) (p : Nat) (sec : Bool) : (tokenChange d p sec).ports = d.ports := by
  simp [tokenChange]
@[simp] theorem tokenChange_rw (d : Dev) (p : Nat) (sec : Bool) : (tokenChange d p sec).rw = d.rw := by
  simp [tokenChange]
@[simp] theorem tokenChange_clk (d : Dev) (p : Nat) (sec : Bool) : (tokenChange d p sec).clk = d.clk := by
  simp [tokenChange]
@[simp] theorem tokenChange_pwr (d : Dev) (p : Nat) (sec : Bool) : (tokenChange d p sec).pwr = d.pwr := by
  simp [tokenChange]
@[simp] theorem tokenChange_mgt (d : Dev) (p : Nat) (sec : Bool) : (tokenChange d p sec).mgt = d.mgt := by
  simp [tokenChange]
@[simp] theorem tokenChange_pins (d : Dev) (p : Nat) (sec : Bool) : (tokenChange d p sec).pins = d.pins := by
  simp [tokenChange]

/-- All that a mapping fault changes at once: its tile, and its scope. -/
theorem mapFault_shape (d : Dev) (g slot r dt a : Nat) :
    ∃ t x y, mapFault d g slot r dt a = { d with tiles := t, sc0 := x, sc1 := y } := by
  have h (e : Dev) (i : Nat) (z : Scope) : ∃ x y, setScope e i z = { e with sc0 := x, sc1 := y } := by
    unfold setScope; (repeat' split) <;> exact ⟨_, _, rfl⟩
  unfold mapFault; dsimp only; split
  · obtain ⟨x, y, k⟩ := h (updTile d g _) (scopeOf d g) _
    exact ⟨_, x, y, k⟩
  · obtain ⟨x, y, k⟩ := h (updTile d g _) (scopeOf d g) _
    exact ⟨_, x, y, k⟩

/-! ### mapFault -/

@[simp] theorem mapFault_regs (d : Dev) (g slot r dt a : Nat) : (mapFault d g slot r dt a).regs = d.regs := by
  obtain ⟨a, b, c, h⟩ := mapFault_shape d g slot r dt a; rw [h]
@[simp] theorem mapFault_capt (d : Dev) (g slot r dt a : Nat) : (mapFault d g slot r dt a).capt = d.capt := by
  obtain ⟨a, b, c, h⟩ := mapFault_shape d g slot r dt a; rw [h]
@[simp] theorem mapFault_flt (d : Dev) (g slot r dt a : Nat) : (mapFault d g slot r dt a).flt = d.flt := by
  obtain ⟨a, b, c, h⟩ := mapFault_shape d g slot r dt a; rw [h]
@[simp] theorem mapFault_bk (d : Dev) (g slot r dt a : Nat) : (mapFault d g slot r dt a).bk = d.bk := by
  obtain ⟨a, b, c, h⟩ := mapFault_shape d g slot r dt a; rw [h]
@[simp] theorem mapFault_nvm (d : Dev) (g slot r dt a : Nat) : (mapFault d g slot r dt a).nvm = d.nvm := by
  obtain ⟨a, b, c, h⟩ := mapFault_shape d g slot r dt a; rw [h]
@[simp] theorem mapFault_boot (d : Dev) (g slot r dt a : Nat) : (mapFault d g slot r dt a).boot = d.boot := by
  obtain ⟨a, b, c, h⟩ := mapFault_shape d g slot r dt a; rw [h]
@[simp] theorem mapFault_own (d : Dev) (g slot r dt a : Nat) : (mapFault d g slot r dt a).own = d.own := by
  obtain ⟨a, b, c, h⟩ := mapFault_shape d g slot r dt a; rw [h]
@[simp] theorem mapFault_sched (d : Dev) (g slot r dt a : Nat) : (mapFault d g slot r dt a).sched = d.sched := by
  obtain ⟨a, b, c, h⟩ := mapFault_shape d g slot r dt a; rw [h]
@[simp] theorem mapFault_imgs (d : Dev) (g slot r dt a : Nat) : (mapFault d g slot r dt a).imgs = d.imgs := by
  obtain ⟨a, b, c, h⟩ := mapFault_shape d g slot r dt a; rw [h]
@[simp] theorem mapFault_tmg (d : Dev) (g slot r dt a : Nat) : (mapFault d g slot r dt a).tmg = d.tmg := by
  obtain ⟨a, b, c, h⟩ := mapFault_shape d g slot r dt a; rw [h]
@[simp] theorem mapFault_hbm (d : Dev) (g slot r dt a : Nat) : (mapFault d g slot r dt a).hbm = d.hbm := by
  obtain ⟨a, b, c, h⟩ := mapFault_shape d g slot r dt a; rw [h]
@[simp] theorem mapFault_vce (d : Dev) (g slot r dt a : Nat) : (mapFault d g slot r dt a).vce = d.vce := by
  obtain ⟨a, b, c, h⟩ := mapFault_shape d g slot r dt a; rw [h]
@[simp] theorem mapFault_pxe (d : Dev) (g slot r dt a : Nat) : (mapFault d g slot r dt a).pxe = d.pxe := by
  obtain ⟨a, b, c, h⟩ := mapFault_shape d g slot r dt a; rw [h]
@[simp] theorem mapFault_ports (d : Dev) (g slot r dt a : Nat) : (mapFault d g slot r dt a).ports = d.ports := by
  obtain ⟨a, b, c, h⟩ := mapFault_shape d g slot r dt a; rw [h]
@[simp] theorem mapFault_rw (d : Dev) (g slot r dt a : Nat) : (mapFault d g slot r dt a).rw = d.rw := by
  obtain ⟨a, b, c, h⟩ := mapFault_shape d g slot r dt a; rw [h]
@[simp] theorem mapFault_clk (d : Dev) (g slot r dt a : Nat) : (mapFault d g slot r dt a).clk = d.clk := by
  obtain ⟨a, b, c, h⟩ := mapFault_shape d g slot r dt a; rw [h]
@[simp] theorem mapFault_hlk (d : Dev) (g slot r dt a : Nat) : (mapFault d g slot r dt a).hlk = d.hlk := by
  obtain ⟨a, b, c, h⟩ := mapFault_shape d g slot r dt a; rw [h]
@[simp] theorem mapFault_pwr (d : Dev) (g slot r dt a : Nat) : (mapFault d g slot r dt a).pwr = d.pwr := by
  obtain ⟨a, b, c, h⟩ := mapFault_shape d g slot r dt a; rw [h]
@[simp] theorem mapFault_mgt (d : Dev) (g slot r dt a : Nat) : (mapFault d g slot r dt a).mgt = d.mgt := by
  obtain ⟨a, b, c, h⟩ := mapFault_shape d g slot r dt a; rw [h]
@[simp] theorem mapFault_pins (d : Dev) (g slot r dt a : Nat) : (mapFault d g slot r dt a).pins = d.pins := by
  obtain ⟨a, b, c, h⟩ := mapFault_shape d g slot r dt a; rw [h]
@[simp] theorem mapFault_out (d : Dev) (g slot r dt a : Nat) : (mapFault d g slot r dt a).out = d.out := by
  obtain ⟨a, b, c, h⟩ := mapFault_shape d g slot r dt a; rw [h]
@[simp] theorem mapFault_free (d : Dev) (g slot r dt a : Nat) : (mapFault d g slot r dt a).free = d.free := by
  obtain ⟨a, b, c, h⟩ := mapFault_shape d g slot r dt a; rw [h]

end Sys2Proof.Machine
end

