-- ==== Sys2Proof/Laws/Ops.lean ====
section
/-! SUPPORT. What the shared operations can do, said once each: tiles and scopes read back, slots that execute or not, owner
commands, register words, time, records and free values. -/

namespace Sys2Proof.Machine

/-! ### Tiles and scopes -/

@[simp] theorem tile_setTile (d : Dev) (g : Nat) (t : Tile) : tile (setTile d g t) g = t := by simp [tile]

theorem tile_setTile_other (d : Dev) (g k : Nat) (t : Tile) (h : k ≠ g) : tile (setTile d g t) k = tile d k := by
  simp [tile, mget_mset_other, h]

@[simp] theorem tile_updTile (d : Dev) (g : Nat) (f : Tile → Tile) : tile (updTile d g f) g = f (tile d g) := by
  simp [updTile]

theorem tile_updTile_other (d : Dev) (g k : Nat) (f : Tile → Tile) (h : k ≠ g) : tile (updTile d g f) k = tile d k :=
  tile_setTile_other d g k _ h

@[simp] theorem tile_updCore (d : Dev) (g : Nat) (f : TileCore → TileCore) :
    tile (updCore d g f) g = { tile d g with core := f (tile d g).core } := by simp [updCore]

/-- A result adds one entry to what its tile still has to write, and changes nothing else of the tile. -/
@[simp] theorem tile_result (d : Dev) (g l : Nat) (r : Res) :
    tile (result d g l r) g = { tile d g with core := later (tile d g).core l r } := by simp [result]

theorem tile_result_other (d : Dev) (g l k : Nat) (r : Res) (h : k ≠ g) : tile (result d g l r) k = tile d k :=
  tile_updTile_other d g k _ h

@[simp] theorem tile_setScope (d : Dev) (i g : Nat) (x : Scope) : tile (setScope d i x) g = tile d g := by simp [tile]

@[simp] theorem tile_updScope (d : Dev) (i g : Nat) (f : Scope → Scope) : tile (updScope d i f) g = tile d g := by simp [tile]

@[simp] theorem scope_setTile (d : Dev) (g i : Nat) (t : Tile) : scope (setTile d g t) i = scope d i := by simp [scope]

@[simp] theorem scope_updTile (d : Dev) (g i : Nat) (f : Tile → Tile) : scope (updTile d g f) i = scope d i := by simp [scope]

@[simp] theorem scope_updCore (d : Dev) (g i : Nat) (f : TileCore → TileCore) : scope (updCore d g f) i = scope d i := by
  simp [scope]

@[simp] theorem scope_result (d : Dev) (g l i : Nat) (r : Res) : scope (result d g l r) i = scope d i := by simp [scope]

@[simp] theorem scope_record (d : Dev) (f : FSpec) (i : Nat) : scope (record d f) i = scope d i := by simp [scope]

@[simp] theorem tile_record (d : Dev) (f : FSpec) (g : Nat) : tile (record d f) g = tile d g := by simp [tile]

theorem scope_setScope (d : Dev) (i : Nat) (x : Scope) (h : i < 2) : scope (setScope d i x) i = x := by
  have : i = 0 ∨ i = 1 := by omega
  rcases this with rfl | rfl <;> rfl

theorem scope_setScope_other (d : Dev) (i k : Nat) (x : Scope) (h : k ≠ i) : scope (setScope d i x) k = scope d k := by
  unfold scope setScope
  (repeat' split) <;> first | rfl | omega

@[simp] theorem scope_setScope_fin (d : Dev) (i : Fin 2) (x : Scope) : scope (setScope d i.val x) i.val = x :=
  scope_setScope d i.val x i.isLt

@[simp] theorem scope_updScope_fin (d : Dev) (i : Fin 2) (f : Scope → Scope) :
    scope (updScope d i.val f) i.val = f (scope d i.val) := by simp [updScope]

/-- A tile is served by one of the two register sets (R36). -/
theorem scopeOf_lt (d : Dev) (g : Nat) : scopeOf d g < 2 := by
  unfold scopeOf
  (repeat' split) <;> omega

@[simp] theorem scope_updScope_of (d : Dev) (g : Nat) (f : Scope → Scope) :
    scope (updScope d (scopeOf d g) f) (scopeOf d g) = f (scope d (scopeOf d g)) := by
  simp [updScope, scope_setScope _ _ _ (scopeOf_lt d g)]

@[simp] theorem scopeOf_setTile (d : Dev) (g k : Nat) (t : Tile) : scopeOf (setTile d g t) k = scopeOf d k := by
  simp [scopeOf]

@[simp] theorem scopeOf_updTile (d : Dev) (g k : Nat) (f : Tile → Tile) : scopeOf (updTile d g f) k = scopeOf d k := by
  simp [scopeOf]

@[simp] theorem scopeOf_updCore (d : Dev) (g k : Nat) (f : TileCore → TileCore) : scopeOf (updCore d g f) k = scopeOf d k := by
  simp [scopeOf]

@[simp] theorem scopeOf_result (d : Dev) (g l k : Nat) (r : Res) : scopeOf (result d g l r) k = scopeOf d k := by
  simp [scopeOf]

/-! ### Slots (R78) -/

/-- A CTL slot of a running tile executes. -/
theorem ctlRun_runs (s : State) (g : Fin 800) (f : Dev → Dev) (h : tileRuns s.dev g.val = true) :
    ctlRun s g true f = .next { s with dev := f s.dev } := by simp [ctlRun, h]

/-- A guarded slot executes when bit 0 of its guard is 1. -/
theorem slotRun_runs (s : State) (g : Fin 800) (gd : Guard) (f : Dev → Dev) (h : tileRuns s.dev g.val = true)
    (k : guardOn (tile s.dev g.val).core gd = true) : slotRun s g gd true f = .next { s with dev := f s.dev } := by
  simp [slotRun, h, k]

/-- A lane slot executes when its guard enables a lane. -/
theorem laneRun_runs (s : State) (g : Fin 800) (gd : Guard) (f : Dev → Dev) (h : tileRuns s.dev g.val = true)
    (k : guardAny (tile s.dev g.val).core gd = true) : laneRun s g gd true f = .next { s with dev := f s.dev } := by
  simp [laneRun, h, k]

/-- A change of one tile changes that tile and nothing else of the block. -/
theorem updTile_only (d : Dev) (g : Nat) (f : Tile → Tile) : updTile d g f = setTile d g (tile (updTile d g f) g) := by
  simp only [tile_updTile]; rfl

theorem updCore_only (d : Dev) (g : Nat) (f : TileCore → TileCore) : updCore d g f = setTile d g (tile (updCore d g f) g) :=
  updTile_only d g _

theorem result_only (d : Dev) (g l : Nat) (r : Res) : result d g l r = setTile d g (tile (result d g l r) g) :=
  updCore_only d g _

@[simp] theorem setTile_setTile (d : Dev) (g : Nat) (t u : Tile) : setTile (setTile d g t) g u = setTile d g u := by
  simp [setTile]

@[simp] theorem updTile_updTile (d : Dev) (g : Nat) (f h : Tile → Tile) :
    updTile (updTile d g f) g h = updTile d g (fun t => h (f t)) := by
  simp only [updTile, tile_setTile, setTile_setTile]

@[simp] theorem updCore_updCore (d : Dev) (g : Nat) (f h : TileCore → TileCore) :
    updCore (updCore d g f) g h = updCore d g (fun c => h (f c)) := by
  simp only [updCore, updTile_updTile]

@[simp] theorem t0Read_core (t : Tile) (c : TileCore) (a n : Nat) : t0Read { t with core := c } a n = t0Read t a n := rfl

/-- A static-port read with no fault: the bytes, and one access counted on its bank (R100, R112). -/
theorem staticRead_ok (d : Dev) (g slot a n : Nat) (h : portFault (tile d g).core 0 a (roundUp n 64) = none)
    (k : readFault (tile d g).core a n = none) :
    staticRead d g slot a n = (some (t0Read (tile d g) a n), updCore d g (fun c => usePort c 0 a)) := by
  simp [staticRead, h, k]

/-- A static-port write with no fault. -/
theorem staticWrite_ok (d : Dev) (g slot a n : Nat) (put : Tile → Tile)
    (h : portFault (tile d g).core 0 a (roundUp n 64) = none) (k : writeFault (tile d g) a n = none) :
    staticWrite d g slot a n put = updTile (updCore d g (fun c => usePort c 0 a)) g put := by
  have k' : writeFault { tile d g with core := usePort (tile d g).core 0 a } a n = none := k
  simp [staticWrite, h, k']

@[simp] theorem inSpec_updCore (d : Dev) (g k : Nat) (f : TileCore → TileCore) : inSpec (updCore d g f) k = inSpec d k := by
  simp [inSpec]

@[simp] theorem inSpec_updTile (d : Dev) (g k : Nat) (f : Tile → Tile) : inSpec (updTile d g f) k = inSpec d k := by
  simp [inSpec]

@[simp] theorem inSpec_roundBeat (d : Dev) (g k : Nat) : inSpec (roundBeat d g).2 k = inSpec d k := by
  unfold roundBeat
  dsimp only
  split
  · exact inSpec_updCore d g k _
  · rfl

@[simp] theorem inSpec_monitorConv (d : Dev) (g tag k : Nat) (xs : List Word) (cs : List Conv) :
    inSpec (monitorConv d g tag xs cs) k = inSpec d k := by
  unfold monitorConv
  split
  · rfl
  · dsimp only
    split <;> simp

/-- A write that falls later and faults is suppressed: only its fault is due, in the beat of the access (R112, R113). -/
theorem lateWrite_fault (slot k a n : Nat) (data : List (Option Byte)) (sp : Bool) (c : TileCore) (f : Nat × Nat)
    (h : portFault c k a n = some f) :
    lateWrite slot k a n data sp c = { c with pend := c.pend ++ [⟨k + 1, .fault slot f.1 f.2 a⟩] } := by simp [lateWrite, h]

/-- One that does not takes its bank in that beat. -/
theorem lateWrite_ok (slot k a n : Nat) (data : List (Option Byte)) (sp : Bool) (c : TileCore) (h : portFault c k a n = none) :
    lateWrite slot k a n data sp c =
      { c with ports := c.ports ++ [(k, bankOf a)], pend := c.pend ++ [⟨k + 1, .t0 slot a data sp⟩] } := by
  simp [lateWrite, h, usePort]

/-- A port use in one beat is no fault in another. -/
theorem portFault_usePort (c : TileCore) (k j a b n : Nat) (h : j ≠ k) : portFault (usePort c k a) j b n = portFault c j b n := by
  simp [portFault, usePort, h]

/-! ### Owner commands and registers -/

theorem ownerOnly_owner (d : Dev) (i : Iface) (f : Dev → Dev) (h : isOwner d i = true) : ownerOnly d i f = f d := by
  simp [ownerOnly, h]

/-- From anyone but the owner a command changes nothing (R7). -/
theorem ownerOnly_other (d : Dev) (i : Iface) (f : Dev → Dev) (h : isOwner d i = false) : ownerOnly d i f = d := by
  simp [ownerOnly, h]

@[simp] theorem regGet_regPut (d : Dev) (off w : Nat) : regGet (regPut d off w) off = w % 2 ^ 32 := by
  simp [regGet, regPut]

theorem regGet_regPut_other (d : Dev) (off k w : Nat) (h : k ≠ off) : regGet (regPut d off w) k = regGet d k := by
  simp [regGet, regPut, mget_mset_other, h]

/-! ### Time -/

@[simp] theorem elapse_localNs (d : Dev) (ns : Nat) : (elapse d ns).clk.localNs = d.clk.localNs + ns := rfl

@[simp] theorem elapse_devtime (d : Dev) (ns : Nat) : (elapse d ns).clk.devtime = d.clk.devtime + BitVec.ofNat 64 ns := rfl

/-- The local time never falls, and reaches what it is carried to. -/
theorem untilLocal_reaches (d : Dev) (t : Nat) : t ≤ (untilLocal d t).clk.localNs ∧ d.clk.localNs ≤ (untilLocal d t).clk.localNs := by
  simp [untilLocal]; omega

/-! ### Free values -/

/-- A drawn value is below `2^n`, and only the counter moves. -/
theorem drawFree_spec (d : Dev) (n : Nat) : (drawFree d n).1 < 2 ^ n ∧ (drawFree d n).2 = { d with free := d.free + 1 } :=
  ⟨Nat.mod_lt _ (Nat.two_pow_pos n), rfl⟩

theorem drawBytes_spec (d : Dev) (k : Nat) : (drawBytes d k).1.length = k ∧ (drawBytes d k).2 = { d with free := d.free + k } := by
  simp [drawBytes]

/-! ### Records (R343, R344) -/

/-- A record takes the next sequence number, leaves its class, and asserts FAULT_N's pending bit when its class reaches
FN_MIN. -/
theorem recordAt_flt (d : Dev) (f : FSpec) (us : Nat) (late con : Bool) :
    (recordAt d f us late con).flt.seq = (d.flt.seq + 1) % 2 ^ 32
      ∧ (recordAt d f us late con).flt.pend = (d.flt.pend || decide (fnMin d ≤ f.cls))
      ∧ mget? (recordAt d f us late con).flt.ring (d.flt.seq % 256) = some
          { cls := f.cls, block := f.block, code := f.code, pairB := d.flt.activeB, contained := con, late := late,
            seq := d.flt.seq, devtime := d.clk.devtime, unit := f.unit % 2 ^ 16, scope := f.scope, action := actionOf f.cls,
            slot := f.slot, containUs := us, detail := f.detail % 2 ^ 64 } := by
  have key : (recordAt d f us late con).flt =
      { d.flt with
        ring := mset d.flt.ring (d.flt.seq % 256)
          { cls := f.cls, block := f.block, code := f.code, pairB := d.flt.activeB, contained := con, late := late,
            seq := d.flt.seq, devtime := d.clk.devtime, unit := f.unit % 2 ^ 16, scope := f.scope, action := actionOf f.cls,
            slot := f.slot, containUs := us, detail := f.detail % 2 ^ 64 }
        seq := (d.flt.seq + 1) % 2 ^ 32
        lost := if (mget? d.flt.ring (d.flt.seq % 256)).isSome then satAdd 16 d.flt.lost 1 else d.flt.lost
        pend := d.flt.pend || decide (fnMin d ≤ f.cls)
        maxClass := if d.flt.maxClass < f.cls then f.cls else d.flt.maxClass } := by
    unfold recordAt
    simp only [apply_ite Dev.flt, emit_flt, raiseOn_flt, ite_self]
  rw [key]
  exact ⟨rfl, rfl, mget?_mset_same _ _ _⟩

/-- The record of a fault of class 0 or 1. -/
theorem record_low (d : Dev) (f : FSpec) (h : f.cls ≤ 1) : record d f = recordAt d f 0 false false := by simp [record, h]

/-- The newest record of the ring is the fault reported. -/
theorem record_newest (d : Dev) (f : FSpec) :
    ∃ r, mget? (record d f).flt.ring (d.flt.seq % 256) = some r ∧ r.cls = f.cls ∧ r.block = f.block ∧ r.code = f.code
      ∧ r.seq = d.flt.seq ∧ r.slot = f.slot ∧ r.detail = f.detail % 2 ^ 64
      ∧ (record d f).flt.seq = (d.flt.seq + 1) % 2 ^ 32 := by
  unfold record
  split
  · have h := recordAt_flt d f 0 false false
    exact ⟨_, h.2.2, rfl, rfl, rfl, rfl, rfl, rfl, h.1⟩
  · have h := recordAt_flt (drawFree d 16).2 f ((drawFree d 16).1 % 11) false true
    exact ⟨_, h.2.2, rfl, rfl, rfl, rfl, rfl, rfl, h.1⟩

end Sys2Proof.Machine
end

