-- ==== Sys2Proof/Laws/Slots.lean ====
section
/-! SUPPORT. What the operations of a slot may change: each shared operation keeps the frame of its tile (`SlotFrame`). -/

namespace Sys2Proof.Safety

open Sys2Proof Sys2Proof.Machine

namespace SlotFrame

theorem refl (g : Nat) (d : Dev) : SlotFrame g d d := ⟨fun _ _ => rfl, rfl⟩

theorem trans {g : Nat} {a b c : Dev} (h : SlotFrame g a b) (k : SlotFrame g b c) : SlotFrame g a c := by
  refine ⟨fun i hi => (k.tiles i hi).trans (h.tiles i hi), ?_⟩
  have hb := h.rest
  have hc := k.rest
  rw [← hc] at hb
  exact hb

/-- A change of the tile itself. -/
theorem setTile (g : Nat) (d : Dev) (t : Tile) : SlotFrame g d (setTile d g t) :=
  ⟨fun k hk => tile_setTile_other d g k t hk, rfl⟩

theorem updTile (g : Nat) (d : Dev) (f : Tile → Tile) : SlotFrame g d (updTile d g f) := setTile g d _

theorem updCore (g : Nat) (d : Dev) (f : TileCore → TileCore) : SlotFrame g d (updCore d g f) := updTile g d _

theorem result (g : Nat) (d : Dev) (l : Nat) (r : Res) : SlotFrame g d (result d g l r) := updCore g d _

/-- A change of a scope. -/
theorem updScope (g : Nat) (d : Dev) (i : Nat) (f : Scope → Scope) : SlotFrame g d (updScope d i f) := by
  unfold Machine.updScope setScope
  (repeat' split) <;> exact ⟨fun _ _ => rfl, rfl⟩

theorem free (g : Nat) (d : Dev) (n : Nat) : SlotFrame g d { d with free := n } := ⟨fun _ _ => rfl, rfl⟩

theorem mapFault (g : Nat) (d : Dev) (slot r dt a : Nat) : SlotFrame g d (mapFault d g slot r dt a) := by
  unfold Machine.mapFault
  dsimp only
  split <;> exact trans (updTile g d _) (updScope g _ _ _)

theorem monitorNan (g : Nat) (d : Dev) (ws : List Word) : SlotFrame g d (monitorNan d g ws) := by
  unfold Machine.monitorNan
  split
  · exact refl g d
  · exact updCore g d _

theorem monitorConv (g : Nat) (d : Dev) (tag : Nat) (xs : List Word) (cs : List Conv) :
    SlotFrame g d (monitorConv d g tag xs cs) := by
  unfold Machine.monitorConv
  split
  · exact refl g d
  · dsimp only
    split
    · exact trans (updCore g d _) (updCore g _ _)
    · exact updCore g d _

theorem monitorScaleSat (g : Nat) (d : Dev) (n : Nat) : SlotFrame g d (monitorScaleSat d g n) := by
  unfold Machine.monitorScaleSat
  split
  · exact refl g d
  · exact updCore g d _

/-- A fold of framed changes. -/
theorem fold {α : Type} (g : Nat) (f : Dev → α → Dev) (h : ∀ d x, SlotFrame g d (f d x)) (l : List α) :
    ∀ d, SlotFrame g d (l.foldl f d) := by
  induction l with
  | nil => exact refl g
  | cons x l ih => exact fun d => trans (h d x) (ih _)

theorem blockAmax (g : Nat) (d : Dev) (tag : Nat) (bs : List (List Word)) : SlotFrame g d (blockAmax d g tag bs) := by
  unfold Machine.blockAmax
  split
  · exact refl g d
  · refine fold g _ ?_ bs d
    intro d ws
    dsimp only
    split
    · exact trans (mapFault g d _ _ _ _) (updCore g _ _)
    · split
      · exact trans (mapFault g d _ _ _ _) (updCore g _ _)
      · exact trans (updTile g d _) (updCore g _ _)

theorem roundBeat (g : Nat) (d : Dev) : SlotFrame g d (roundBeat d g).2 := by
  unfold Machine.roundBeat
  dsimp only
  split
  · dsimp only
    exact updCore g d _
  · exact refl g d

theorem release (g : Nat) (d : Dev) (lb : Nat) : SlotFrame g d (release d g lb) := by
  unfold Machine.release
  split
  · exact updTile g d _
  · exact result g d _ _

theorem releaseAt (g : Nat) (d : Dev) (rel : Bool) (a : Nat) : SlotFrame g d (releaseAt d g rel a) := by
  unfold Machine.releaseAt
  split
  · split
    · exact release g d _
    · exact refl g d
  · exact refl g d

theorem staticRead (g : Nat) (d : Dev) (slot a n : Nat) : SlotFrame g d (staticRead d g slot a n).2 := by
  unfold Machine.staticRead
  dsimp only
  split
  · exact mapFault g d _ _ _ _
  · split
    · exact trans (updCore g d _) (mapFault g _ _ _ _ _)
    · dsimp only
      exact updCore g d _

theorem staticRead_eq {g : Nat} {d e : Dev} {slot a n : Nat} {o : Option (List Byte)}
    (h : Machine.staticRead d g slot a n = (o, e)) : SlotFrame g d e := by
  have k := staticRead g d slot a n
  rw [h] at k
  exact k

theorem staticWrite (g : Nat) (d : Dev) (slot a n : Nat) (put : Tile → Tile) :
    SlotFrame g d (staticWrite d g slot a n put) := by
  unfold Machine.staticWrite
  split
  · exact mapFault g d _ _ _ _
  · dsimp only
    split
    · exact trans (updCore g d _) (mapFault g _ _ _ _ _)
    · exact trans (updCore g d _) (updTile g _ _)

theorem checkOne (g : Nat) (d : Dev) (lb : Nat) : SlotFrame g d (checkOne d g lb) := by
  unfold Machine.checkOne
  split
  · exact refl g d
  · exact updScope g d _ _

theorem resultP (g : Nat) (d : Dev) (l pd : Nat) (m v : Word64) : SlotFrame g d (resultP d g l pd m v) := by
  unfold Machine.resultP
  split
  · exact refl g d
  · exact result g d _ _

theorem statWrite (g : Nat) (d : Dev) (gd : Guard) (vd : Nat) (outs : List VReg) : SlotFrame g d (statWrite d g gd vd outs) := by
  unfold Machine.statWrite
  exact trans (monitorNan g d _) (fold g _ (fun d i => result g d _ _) _ _)

theorem macApply (g : Nat) (d : Dev) (w : WBuf) (f b r : Nat) (acc ref : Bool) (bs : List Byte) :
    SlotFrame g d (macApply d g w f b r acc ref bs) := by
  unfold Machine.macApply
  exact trans (updCore g d _) (monitorNan g _ _)

end SlotFrame

/-- Accesses none of which faults take their ports in turn and stay as planned (R106, R145). -/
theorem planPorts_free (slot : Nat) (c : TileCore) (k : Nat) (l : List (Nat × Nat × Nat))
    (h : ∀ i, (hi : i < l.length) → portFault c (k + i) l[i].2.1 (roundUp l[i].2.2 64) = none) :
    planPorts slot c k l
      = ({ c with ports := c.ports ++ (List.range l.length).map (fun i => (k + i, bankOf (l.getD i (0, 0, 0)).2.1)) }, l) := by
  induction l generalizing c k with
  | nil => simp [planPorts]
  | cons p l ih =>
    obtain ⟨part, a, n⟩ := p
    have h0 := h 0 (by simp)
    simp at h0
    have ht : ∀ i, (hi : i < l.length) → portFault (usePort c k a) (k + 1 + i) l[i].2.1 (roundUp l[i].2.2 64) = none := by
      intro i hi
      rw [portFault_usePort _ _ _ _ _ _ (by omega)]
      have := h (i + 1) (by simp; omega)
      simp at this
      rw [← this]; congr 1; omega
    simp only [planPorts, h0, ih _ _ ht]
    simp only [List.length_cons, List.range_succ_eq_map, List.map_cons, List.map_map, Prod.mk.injEq, and_true]
    simp [usePort, Function.comp_def, Nat.add_assoc, Nat.add_comm 1]

/-- The first access of a plan is marked exactly when it faults in its beat. -/
theorem planPorts_head (slot : Nat) (c : TileCore) (k part a n : Nat) (l : List (Nat × Nat × Nat)) :
    (planPorts slot c k ((part, a, n) :: l)).2.head?
      = some (if portFault c k a (roundUp n 64) = none then part else part + 4, a, n) := by
  cases h : portFault c k a (roundUp n 64) <;> simp [planPorts, h]

/-- A CTL slot that executes keeps the frame when its meaning does. -/
theorem ctlRun_frame (s t : State) (g : Fin 800) (ok : Bool) (f : Dev → Dev) (h : ∀ d, SlotFrame g.val d (f d))
    (e : ctlRun s g ok f = .next t) : SlotFrame g.val s.dev t.dev := by
  unfold ctlRun liftIf at e
  split at e
  · simp only [lift_eq, Host.Outcome.next.injEq] at e
    subst e
    dsimp only
    split
    · exact h _
    · exact SlotFrame.refl _ _
  · cases e

/-- A guarded slot keeps the frame when its meaning does. -/
theorem slotRun_frame (s t : State) (g : Fin 800) (gd : Guard) (ok : Bool) (f : Dev → Dev) (h : ∀ d, SlotFrame g.val d (f d))
    (e : slotRun s g gd ok f = .next t) : SlotFrame g.val s.dev t.dev := by
  unfold slotRun liftIf at e
  split at e
  · simp only [lift_eq, Host.Outcome.next.injEq] at e
    subst e
    dsimp only
    split
    · exact h _
    · exact SlotFrame.refl _ _
  · cases e

/-- A lane slot keeps the frame when its meaning does. -/
theorem laneRun_frame (s t : State) (g : Fin 800) (gd : Guard) (ok : Bool) (f : Dev → Dev) (h : ∀ d, SlotFrame g.val d (f d))
    (e : laneRun s g gd ok f = .next t) : SlotFrame g.val s.dev t.dev := by
  unfold laneRun liftIf at e
  split at e
  · simp only [lift_eq, Host.Outcome.next.injEq] at e
    subst e
    dsimp only
    split
    · exact h _
    · exact SlotFrame.refl _ _
  · cases e

end Sys2Proof.Safety
end

