-- ==== Sys2Proof/Laws/Beats.lean ====
section
/-! SUPPORT. What the end of a beat within a tile may change in the scopes and in the rest of the block: a tile changes itself, and of a
scope only the fault and the stall of its speculation. -/

namespace Sys2Proof.Machine

/-- What a tile's part of a beat keeps. -/
structure BeatKeeps (d e : Dev) : Prop where
  scopes : ∀ i, { scope e i with spec := (scope d i).spec, fault := (scope d i).fault } = scope d i
  specs : ∀ i, (scope d i).spec = none → (scope e i).spec = none
  rest : { e with tiles := d.tiles, sc0 := d.sc0, sc1 := d.sc1 } = d

namespace BeatKeeps

theorem refl (d : Dev) : BeatKeeps d d := ⟨fun _ => rfl, fun _ h => h, rfl⟩

theorem trans {a b c : Dev} (h : BeatKeeps a b) (k : BeatKeeps b c) : BeatKeeps a c := by
  refine ⟨fun i => ?_, fun i hi => k.specs i (h.specs i hi), ?_⟩
  · have h1 := h.scopes i
    have h2 := k.scopes i
    rw [← h2] at h1
    exact h1
  · have h1 := h.rest
    have h2 := k.rest
    rw [← h2] at h1
    exact h1

theorem setTile (d : Dev) (g : Nat) (t : Tile) : BeatKeeps d (setTile d g t) :=
  ⟨fun i => by simp, fun i h => by simpa using h, rfl⟩

theorem updTile (d : Dev) (g : Nat) (f : Tile → Tile) : BeatKeeps d (updTile d g f) := setTile d g _

theorem updCore (d : Dev) (g : Nat) (f : TileCore → TileCore) : BeatKeeps d (updCore d g f) := updTile d g _

/-- A change of a scope's fault and of the stall of its speculation. -/
theorem updScope (d : Dev) (i : Nat) (f : Scope → Scope) (h : ∀ x, { f x with spec := x.spec, fault := x.fault } = x)
    (k : ∀ x, x.spec = none → (f x).spec = none) : BeatKeeps d (updScope d i f) := by
  by_cases h0 : i = 0
  · subst h0
    refine ⟨fun j => ?_, fun j hj => ?_, rfl⟩
    · unfold Machine.updScope setScope scope
      (repeat' split) <;> first | rfl | exact h _ | omega
    · unfold Machine.updScope setScope scope at *
      revert hj
      (repeat' split) <;> intro hj <;> first | exact hj | exact k _ hj | omega
  · by_cases h1 : i = 1
    · subst h1
      refine ⟨fun j => ?_, fun j hj => ?_, rfl⟩
      · unfold Machine.updScope setScope scope
        (repeat' split) <;> first | rfl | exact h _ | omega
      · unfold Machine.updScope setScope scope at *
        revert hj
        (repeat' split) <;> intro hj <;> first | exact hj | exact k _ hj | omega
    · have : Machine.updScope d i f = d := by simp [Machine.updScope, setScope, h0, h1]
      rw [this]; exact refl d

theorem mapFault (d : Dev) (g slot r dt a : Nat) : BeatKeeps d (mapFault d g slot r dt a) := by
  unfold Machine.mapFault
  dsimp only
  split
  · refine trans (updTile d g _) (updScope _ _ _ (fun x => rfl) (fun x hx => ?_))
    simp [hx]
  · refine trans (updTile d g _) (updScope _ _ _ (fun x => ?_) (fun x hx => ?_))
    · unfold scopeFault
      (repeat' split) <;> rfl
    · unfold scopeFault
      (repeat' split) <;> exact hx

theorem fold {α : Type} (f : Dev → α → Dev) (h : ∀ d x, BeatKeeps d (f d x)) (l : List α) : ∀ d, BeatKeeps d (l.foldl f d) := by
  induction l with
  | nil => exact refl
  | cons x l ih => exact fun d => trans (h d x) (ih _)

theorem ldwStart (d : Dev) (g : Nat) : BeatKeeps d (ldwStart d g) := by
  unfold Machine.ldwStart
  dsimp only
  split
  · exact refl d
  · exact trans (updCore d g _) (mapFault _ _ _ _ _ _)
  · exact updCore d g _

theorem ldwBeat (d : Dev) (g : Nat) : BeatKeeps d (ldwBeat d g) := by
  unfold Machine.ldwBeat
  split
  · exact refl d
  · split
    · exact refl d
    · dsimp only
      split
      · exact updCore d g _
      · split
        · exact trans (mapFault _ _ _ _ _ _) (updCore _ g _)
        · exact updCore d g _

theorem sfuBeat (d : Dev) (g : Nat) : BeatKeeps d (sfuBeat d g) := by
  unfold Machine.sfuBeat
  refine fold _ (fun d p => ?_) _ d
  dsimp only
  split
  · exact updCore d g _
  · split
    · exact updCore d g _
    · split
      · exact trans (mapFault _ _ _ _ _ _) (updCore _ g _)
      · exact updCore d g _

theorem applyRes (d : Dev) (g : Nat) (r : Res) : BeatKeeps d (applyRes d g r) := by
  unfold Machine.applyRes
  split <;> try exact updCore d g _
  · exact mapFault _ _ _ _ _ _
  · split
    · exact mapFault _ _ _ _ _ _
    · exact updTile d g _

/-- Everything but what leaves the tile. -/
theorem tileEnd (d : Dev) (g : Nat) : BeatKeeps d (tileEnd d g) := by
  unfold Machine.tileEnd
  exact trans (ldwStart d g) (trans (ldwBeat _ g)
    (trans (sfuBeat _ g) (trans (updTile _ g _) (fold _ (fun d (p : PendRes) => applyRes d g p.res) _ _))))

/-- Every tile of a scope. -/
theorem tiles (d : Dev) (l : List Nat) : BeatKeeps d (l.foldl Machine.tileEnd d) := fold _ tileEnd l d

/-- A scope after a beat of its tiles: only its speculation and its fault may differ. -/
theorem scope_eq {d e : Dev} (h : BeatKeeps d e) (i : Nat) :
    scope e i = { scope d i with spec := (scope e i).spec, fault := (scope e i).fault } := by
  have k := h.scopes i
  generalize scope e i = y at k ⊢
  generalize scope d i = x at k ⊢
  cases x
  cases y
  simp only [Scope.mk.injEq] at k ⊢
  simp [k]

theorem regs {d e : Dev} (h : BeatKeeps d e) : e.regs = d.regs := by
  have k := congrArg Dev.regs h.rest
  exact k

end BeatKeeps

end Sys2Proof.Machine
end

