-- ==== Sys2Proof/Machine/Attention.lean ====
section
/-! DEFINITION. The formats of chapter 08 as images, the host and resident services share them: token positions and attention
sets (R155 to R157), the pattern descriptor (R158), the KV object and its pages and tags (R160 to R164), the partitions and merges of
a split item (R166 to R169), native verification (R170 to R174), and shards (R176, R177). No command reads them: the device neither
reads nor checks a descriptor while a job runs (R159), so they are functions of bytes and positions, beside the machine
(notes/assumptions/50.md). -/

namespace Sys2Proof.Machine

/-! ### The pattern descriptor (R158) -/

/-- A pattern descriptor (Table 8-1). `seqMode` is HEADMAP 1. -/
structure PatDesc where
  causal : Bool
  seqMode : Bool
  kvfmt : Nat
  dh : Nat
  nqh : Nat
  nkvh : Nat
  split : Nat
  hpt : Nat
  gt : Nat
  gh : Nat
  gw : Nat
  bt : Nat
  ft : Nat
  rh : Nat
  rw : Nat
  nglob : Nat
  scale : Word
  pos0 : Nat
  shard : Nat
  ndev : Nat
  rank : Nat
  globOff : Nat
  deriving DecidableEq, Repr

/-- The fields of Table 8-1. -/
def patFields (b : List Byte) : PatDesc :=
  { causal := bit (leAt b 1 1) 0, seqMode := leAt b 2 1 == 1, kvfmt := leAt b 3 1, dh := leAt b 4 2, nqh := leAt b 6 2
    nkvh := leAt b 8 2, split := leAt b 0xA 1, hpt := leAt b 0xB 1, gt := leAt b 0xC 4, gh := leAt b 0x10 4, gw := leAt b 0x14 4
    bt := leAt b 0x18 2, ft := leAt b 0x1A 2, rh := leAt b 0x1C 2, rw := leAt b 0x1E 2, nglob := leAt b 0x20 2
    scale := wordAt b 0x24, pos0 := leAt b 0x28 3, shard := leAt b 0x2C 4, ndev := leAt b 0x30 2, rank := leAt b 0x32 2
    globOff := leAt b 0x34 4 }

/-- The limits of Table 8-1 on the fields. -/
def patLimits (d : PatDesc) : Bool :=
  [1, 3, 4].contains d.kvfmt && [64, 128, 256].contains d.dh
  && 1 ≤ d.nqh && d.nqh ≤ 256 && 1 ≤ d.nkvh && d.nkvh ≤ d.nqh && d.nqh % d.nkvh == 0
  && (if d.seqMode then [2, 4, 8, 16, 32, 64].contains d.split && d.hpt == 1 else d.split == 1 && 1 ≤ d.hpt && d.hpt ≤ 8)
  && 1 ≤ d.gt && 1 ≤ d.gh && 1 ≤ d.gw && d.gt * d.gh * d.gw ≤ 2 ^ 24
  && !(d.causal && d.ft != 0)
  && (d.bt + d.ft + 1) * (2 * d.rh + 1) * (2 * d.rw + 1) ≤ 65536
  && d.nglob ≤ 4096
  && 0 < d.scale.toNat && d.scale.toNat < 0x7F800000
  && 1 ≤ d.shard && d.shard ≤ 2 ^ 24 && d.pos0 + d.shard ≤ d.gt * d.gh * d.gw
  && 1 ≤ d.ndev && d.rank < d.ndev && d.globOff % 64 == 0

/-- The descriptor at the start of some bytes; none where they describe no attention: a wrong VER, a reserved value or byte, or a
broken limit (R158). -/
def patDesc (b : List Byte) : Option PatDesc :=
  if leAt b 0 1 = 1 ∧ leAt b 1 1 < 2 ∧ leAt b 2 1 < 2 ∧ leAt b 0x22 2 = 0 ∧ leAt b 0x2B 1 = 0 ∧ leAt b 0x38 8 = 0
    ∧ patLimits (patFields b) = true then some (patFields b) else none

/-- Ascending order without repeats. -/
def rising : List Nat → Bool
  | a :: b :: r => a < b && rising (b :: r)
  | _ => true

/-- The global list of an object: positions in ascending order with no repeats, reserved bits 0. -/
def globList (b : List Byte) (d : PatDesc) : Option (List Nat) :=
  let l := (List.range d.nglob).map (fun i => leAt b (d.globOff + 4 * i) 4)
  if l.all (fun p => p < 2 ^ 24) && rising l then some l else none

/-! ### Positions and the attention set (R155 to R157) -/

/-- Position of the token at temporal index `t`, row `y` and column `x` (R155). -/
def tokenPos (d : PatDesc) (t y x : Nat) : Nat := (t * d.gh + y) * d.gw + x

/-- Temporal index of a position. -/
def posT (d : PatDesc) (p : Nat) : Nat := p / (d.gh * d.gw)

/-- Row of a position. -/
def posY (d : PatDesc) (p : Nat) : Nat := p / d.gw % d.gh

/-- Column of a position. -/
def posX (d : PatDesc) (p : Nat) : Nat := p % d.gw

/-- Whether two coordinates differ by at most `r`. -/
def within (r a b : Nat) : Bool := a ≤ b + r && b ≤ a + r

/-- The window W(q) but for presence: clipped at the edges of the grid by the positions themselves. -/
def inWindow (d : PatDesc) (q k : Nat) : Bool :=
  posT d q ≤ posT d k + d.bt && posT d k ≤ posT d q + d.ft
  && within d.rh (posY d k) (posY d q) && within d.rw (posX d k) (posX d q)

/-- Whether key `k` belongs to A(q): in the window and present by its slot's tag, or on the global list, whose entries are all
present (R163); and not in the future of a causal query. -/
def attends (d : PatDesc) (glob : List Nat) (present : Nat → Bool) (q k : Nat) : Bool :=
  (present k && inWindow d q k || glob.contains k) && !(d.causal && posT d q < posT d k)

/-- A(q) (R156): each key once. -/
def attentionSet (d : PatDesc) (glob : List Nat) (present : Nat → Bool) (q : Nat) : List Nat :=
  (List.range (d.gt * d.gh * d.gw)).filter (attends d glob present q)

/-- Head group of a query head (R157). -/
def headGroup (d : PatDesc) (qh : Nat) : Nat := qh * d.nkvh / d.nqh

/-! ### The KV object (R160 to R164) -/

/-- The header of a KV object (Table 8-2). -/
structure KvObj where
  desc : PatDesc
  nlayer : Nat
  nslot : Nat
  pageBytes : Nat
  archive : Bool
  pageArea : Nat
  globArea : Nat
  tagArea : Nat
  archHandle : Nat
  deriving DecidableEq, Repr

/-- Element width of KVFMT in bits. -/
def kvBits (f : Nat) : Nat := if f = 1 then 16 else 8

/-- The header at the start of an object's bytes (R160); none where a field breaks Table 8-2. -/
def kvObj (b : List Byte) : Option KvObj :=
  match patDesc b with
  | none => none
  | some d =>
    let o : KvObj :=
      { desc := d, nlayer := leAt b 0x40 4, nslot := leAt b 0x44 4, pageBytes := leAt b 0x48 4, archive := bit (leAt b 0x4C 4) 0
        pageArea := leAt b 0x50 8, globArea := leAt b 0x58 8, tagArea := leAt b 0x60 8, archHandle := leAt b 0x68 2 }
    if 1 ≤ o.nlayer ∧ o.nlayer ≤ 1024 ∧ 1 ≤ o.nslot ∧ o.nslot ≤ 2 ^ 18 ∧ o.pageBytes = 16 * d.dh * kvBits d.kvfmt
      ∧ leAt b 0x4C 4 < 2 ∧ o.pageArea % 65536 = 0 ∧ o.globArea % 65536 = 0 ∧ o.tagArea % 64 = 0
      ∧ (o.archive = false → o.archHandle = 0) ∧ leAt b 0x6A 150 = 0 then some o else none

/-- Byte of a page at which element (token `tok`, dimension `dim`) of K begins (R161). -/
def kElemAt (d : PatDesc) (tok dim : Nat) : Nat :=
  let s := kvBits d.kvfmt
  512 * s * (dim / 64) + (64 * tok + dim % 64) * s / 8

/-- The same of V: its slices follow those of K, and hold the tokens of a dimension together (R161). -/
def vElemAt (d : PatDesc) (tok dim : Nat) : Nat :=
  let s := kvBits d.kvfmt
  512 * s * (d.dh / 64 + dim / 64) + (64 * (dim % 64) + tok) * s / 8

/-- Slot of a logical page (R162). -/
def kvSlot (o : KvObj) (page : Nat) : Nat := page % o.nslot

/-- Place of a layer's and head group's slot among all of them. -/
def slotIndex (o : KvObj) (layer g slot : Nat) : Nat := (layer * o.desc.nkvh + g) * o.nslot + slot

/-- Byte offset of logical page `page` (R162). -/
def kvPageAt (o : KvObj) (layer g page : Nat) : Nat := o.pageArea + slotIndex o layer g (kvSlot o page) * o.pageBytes

/-- Byte offset of the global page that holds entry `i` of the global list, at token i mod 64 (R162). -/
def globPageAt (o : KvObj) (layer g i : Nat) : Nat :=
  o.globArea + ((layer * o.desc.nkvh + g) * ceilDiv o.desc.nglob 64 + i / 64) * o.pageBytes

/-- Slots that an operation needs when its queries span `span` pages (R162). -/
def slotsNeeded (d : PatDesc) (span : Nat) : Nat := ceilDiv ((d.bt + d.ft + 1) * d.gh * d.gw) 64 + 1 + span

/-- Byte offset of a slot's tag (R163). -/
def kvTagAt (o : KvObj) (layer g slot : Nat) : Nat := o.tagArea + slotIndex o layer g slot * 4

/-- Whether a tag shows the key at a position (Table 8-3, R163). -/
def tagShows (tag k : Nat) : Bool := bit tag 31 && fld tag 0 18 == k / 64 && k % 64 < fld tag 24 7

/-- Presence of the key at a position, from the bytes of its object (R163). -/
def keyPresent (b : List Byte) (o : KvObj) (layer g k : Nat) : Bool :=
  tagShows (leAt b (kvTagAt o layer g (kvSlot o (k / 64))) 4) k

/-- Byte offset in the archive object of an evicted page (R164). -/
def archiveAt (o : KvObj) (layer g page : Nat) : Nat := ((layer * o.desc.nkvh + g) * 2 ^ 18 + page) * o.pageBytes

/-- A(q) of a layer and head group, from the bytes of its object. -/
def cacheSet (b : List Byte) (o : KvObj) (glob : List Nat) (layer g q : Nat) : List Nat :=
  attentionSet o.desc glob (keyPresent b o layer g) q

/-! ### Work items, partitions and merges (R166 to R169) -/

/-- Where a query head runs in `HEAD`: the index of its tile among the operation's (Table 8-4). Which of the tiles takes which heads
is the image's; consecutive heads are a DESIGN CHOICE (notes/assumptions/50.md). -/
def headTile (d : PatDesc) (qh : Nat) : Nat := qh / d.hpt

/-- Where partition `j` of a work item runs in `SEQ`: an item has SPLIT tiles, its own (Table 8-4). DESIGN CHOICE
(notes/assumptions/50.md). -/
def seqTile (d : PatDesc) (item j : Nat) : Nat := item * d.split + j

/-- A page of a visiting sequence: a logical page of the window, or a global page. -/
inductive VisitPage where
  | window (page : Nat)
  | glob (page : Nat)
  deriving DecidableEq, Repr

/-- Whether key `k`, met in its window page, counts for query `q`. -/
def windowKey (d : PatDesc) (present : Nat → Bool) (q k : Nat) : Bool :=
  present k && inWindow d q k && !(d.causal && posT d q < posT d k)

/-- Whether key `k`, met in its global page, counts for query `q`: one that lies in the query's window is masked to −inf (R166). The
window holds present keys only (R156), so a listed key without a tag is not masked. -/
def globalKey (d : PatDesc) (present : Nat → Bool) (q k : Nat) : Bool :=
  !(present k && inWindow d q k) && !(d.causal && posT d q < posT d k)

/-- Logical pages that hold a key of the window of some query of an item, in ascending order. -/
def windowPages (d : PatDesc) (present : Nat → Bool) (queries : List Nat) : List Nat :=
  (List.range (ceilDiv (d.gt * d.gh * d.gw) 64)).filter (fun p => queries.any (fun q =>
    (List.range 64).any (fun i => windowKey d present q (64 * p + i))))

/-- The listed positions in global page `i` (R162). -/
def globKeys (glob : List Nat) (i : Nat) : List Nat := (glob.drop (64 * i)).take 64

/-- Global pages that hold a key of A(q) for some query of an item, in list order. -/
def globPages (d : PatDesc) (glob : List Nat) (present : Nat → Bool) (queries : List Nat) : List Nat :=
  (List.range (ceilDiv glob.length 64)).filter (fun i => queries.any (fun q => (globKeys glob i).any (attends d glob present q)))

/-- The visiting sequence of an item: the pages of the window, ascending, then the global pages. -/
def visitSequence (d : PatDesc) (glob : List Nat) (present : Nat → Bool) (queries : List Nat) : List VisitPage :=
  (windowPages d present queries).map .window ++ (globPages d glob present queries).map .glob

/-- The keys that a page of the sequence contributes to query `q`. -/
def pageKeys (d : PatDesc) (glob : List Nat) (present : Nat → Bool) (q : Nat) : VisitPage → List Nat
  | .window p => ((List.range 64).map (fun i => 64 * p + i)).filter (windowKey d present q)
  | .glob i => (globKeys glob i).filter (globalKey d present q)

/-- Pages of partition `j` of a visiting sequence of `n` pages (R167). -/
def partPages (n split j : Nat) : Nat := n / split + (if j < n % split then 1 else 0)

/-- Partition `j` of a visiting sequence: contiguous, in order (R167). -/
def partitionOf {α : Type} (l : List α) (split j : Nat) : List α :=
  (l.drop (j * (l.length / split) + min j (l.length % split))).take (partPages l.length split j)

/-- A partial state of one output dimension: running maximum, running sum, output not yet divided (R167). -/
structure SoftState where
  m : Word
  l : Word
  o : Word
  deriving DecidableEq, Repr

/-- The state of a partition that contributes no key. -/
def SoftState.empty : SoftState := ⟨ninf32, 0, 0⟩

/-- One key joined to a state by SMXU, O by the coefficients it gives: `x` is the key's score, `v` its value. How many keys an image takes
at once is its own (R157); one at a time is a DESIGN CHOICE (notes/assumptions/50.md). -/
def softStep (st : SoftState) (x v : Word) : SoftState :=
  let r := smxuLane st.m st.l x one32
  ⟨r.1, r.2.1, rnd32 (numAdd (numMul (dec32 st.o) (dec32 r.2.2.1)) (numMul (dec32 v) (dec32 r.2.2.2)))⟩

/-- The state (m, l, O) of a partition for query `q`, from the score and the value of each key (R167). -/
def partState (d : PatDesc) (glob : List Nat) (present : Nat → Bool) (q : Nat) (x v : Nat → Word) (pages : List VisitPage) : SoftState :=
  (pages.flatMap (pageKeys d glob present q)).foldl (fun st k => softStep st (x k) (v k)) SoftState.empty

/-- A full merge: SKMRG of the outputs and of the sums, and the MAX of the maxima last; the absorbing state is side a (R169). -/
def mergeState (a b : SoftState) : SoftState := ⟨fmax a.m b.m, skmrgLane a.l b.l a.m b.m, skmrgLane a.o b.o a.m b.m⟩

/-- One level of the tree: each even position absorbs the next. -/
def mergeLevel : List SoftState → List SoftState
  | a :: b :: r => mergeState a b :: mergeLevel r
  | l => l

/-- The tree of R167 over `2 ^ k` states. -/
def mergeTree : Nat → List SoftState → SoftState
  | 0, l => l.headD SoftState.empty
  | k + 1, l => mergeTree k (mergeLevel l)

/-- The output: +0 where the sum is 0, the product with the reciprocal set elsewhere (R157, R169). -/
def mergedOut (a : SoftState) : Word := if isZero32 a.l then 0 else fmul a.o (evalBuiltin 2 a.l)

/-- The output of a split item for query `q` in one dimension (R167, R169). -/
def splitOut (d : PatDesc) (glob : List Nat) (present : Nat → Bool) (queries : List Nat) (q : Nat) (x v : Nat → Word) : Word :=
  let pages := visitSequence d glob present queries
  mergedOut (mergeTree (Nat.log2 d.split)
    ((List.range d.split).map (fun j => partState d glob present q x v (partitionOf pages d.split j))))

/-! ### Native verification (R170 to R174) -/

/-- The candidate table (Table 8-6): the root, and the token and parent of each candidate, candidate 1 first. -/
structure CandTable where
  pRoot : Nat
  thresh : Bool
  tau : Word
  root : Nat
  cands : List (Nat × Nat)
  deriving DecidableEq, Repr

/-- The table at the start of some bytes (R170); none where a field breaks Table 8-6. -/
def candTable (b : List Byte) : Option CandTable :=
  let n := leAt b 4 1
  let t : CandTable :=
    { pRoot := leAt b 0 3, thresh := leAt b 5 1 == 1, tau := wordAt b 8, root := leAt b 0xC 4
      cands := (List.range n).map (fun i => (leAt b (0x10 + 8 * i) 4, leAt b (0x14 + 8 * i) 1)) }
  if leAt b 3 1 = 0 ∧ 1 ≤ n ∧ n ≤ 16 ∧ leAt b 5 1 < 2 ∧ leAt b 6 2 = 0 ∧ t.pRoot + 16 < 2 ^ 24
    ∧ (if t.thresh then 0 < t.tau.toNat ∧ t.tau.toNat ≤ one32.toNat else t.tau = 0)
    ∧ (∀ i < n, (t.cands.getD i (0, 0)).2 ≤ i ∧ leAt b (0x15 + 8 * i) 3 = 0) then some t else none

/-- PARENT(i), the root being its own. -/
def parentOf (t : CandTable) (i : Nat) : Nat := if i = 0 then 0 else (t.cands.getD (i - 1) (0, 0)).2

/-- TOKEN of a node. -/
def tokenOf (t : CandTable) (i : Nat) : Nat := if i = 0 then t.root else (t.cands.getD (i - 1) (0, 0)).1

/-- A node and its ancestors but for the root, nearest first; no path is longer than the 16 candidates. -/
def lineage (t : CandTable) : Nat → Nat → List Nat
  | 0, _ => []
  | n + 1, i => if i = 0 then [] else i :: lineage t n (parentOf t i)

/-- Depth of a node. -/
def candDepth (t : CandTable) (i : Nat) : Nat := (lineage t 16 i).length

/-- Position of a node. -/
def candPos (t : CandTable) (i : Nat) : Nat := t.pRoot + candDepth t i

/-- Whether node `i` attends to staged row `j` (R171): the root, its ancestors and itself. -/
def staged (t : CandTable) (i j : Nat) : Bool := j == 0 || (lineage t 16 i).contains j

/-- The keys of node `i` (R171): the cache keys of A(P_i), which lie before the root, and the staged rows that it sees. -/
def nodeKeys (d : PatDesc) (glob : List Nat) (present : Nat → Bool) (t : CandTable) (i : Nat) : List Nat × List Nat :=
  ((attentionSet d glob present (candPos t i)).filter (fun k => decide (k < t.pRoot)),
   (List.range (t.cands.length + 1)).filter (staged t i))

/-- Presence of a key to node `i` during verification (R156): named by its tag, or the position of a staged row that the node sees. -/
def presentTo (present : Nat → Bool) (t : CandTable) (i k : Nat) : Bool :=
  present k || (List.range (t.cands.length + 1)).any (fun j => staged t i j && candPos t j == k)

/-- Token of highest logit, ties to the lowest number (R172). NaN logits are below every number (DEDUCED, notes/assumptions/50.md). -/
def greedyToken (logits : List Word) : Nat :=
  ((List.range logits.length).foldl (fun best k =>
    let v := logits.getD k 0
    match best with
    | none => if isNan32 v then none else some k
    | some j => if !isNan32 v && numCmp (dec32 (logits.getD j 0)) (dec32 v) < 0 then some k else best) none).getD 0

/-- Whether candidate `i` is accepted (R172): every node of its line passes the test of its mode at its parent. -/
def accepted (t : CandTable) (pass : Nat → Bool) (i : Nat) : Bool := (lineage t 16 i).all pass

/-- The test of `GREEDY`, from the target model's token at each node. -/
def greedyPass (t : CandTable) (target : Nat → Nat) (i : Nat) : Bool := tokenOf t i == target (parentOf t i)

/-- log2 e in FP32. -/
def log2e32 : Word := 0x3FB8AA3B#32

/-- The soft maximum's share of the logit `x` among some, as R157 computes it over the logits scaled by log2 e: 2^(x − m) / l. -/
def softShare (logits : List Word) (x : Word) : Word :=
  let st := logits.foldl (fun st v => softStep st (fmul v log2e32) 0) SoftState.empty
  fmul (exp2 (fsub (fmul x log2e32) st.m)) (evalBuiltin 2 st.l)

/-- The test of `THRESH` (R172), over the logits at the node's parent; a NaN share passes no test. -/
def threshPass (t : CandTable) (logitsAt : Nat → List Word) (i : Nat) : Bool :=
  let logits := logitsAt (parentOf t i)
  let p := softShare logits (logits.getD (tokenOf t i) nan32)
  !isNan32 p && decide (0 ≤ numCmp (dec32 p) (dec32 t.tau))

/-- The test of the table's mode (R172). -/
def candPass (t : CandTable) (logitsAt : Nat → List Word) (i : Nat) : Bool :=
  if t.thresh then threshPass t logitsAt i else greedyPass t (fun j => greedyToken (logitsAt j)) i

/-- The chosen node (R173): the accepted candidate of greatest depth, lowest index first; the root when there is none. -/
def chosenNode (t : CandTable) (pass : Nat → Bool) : Nat :=
  (List.range t.cands.length).foldl (fun best k =>
    if accepted t pass (k + 1) && decide (candDepth t best < candDepth t (k + 1)) then k + 1 else best) 0

/-- The tokens that a step emits (R173): the path's, then the bonus token. -/
def emitted (t : CandTable) (pass : Nat → Bool) (target : Nat → Nat) : List Nat :=
  let n := chosenNode t pass
  ((lineage t 16 n).reverse).map (tokenOf t) ++ [target n]

/-- The verification record (Table 8-7), 16 bytes. -/
def verifyRecord (t : CandTable) (pass : Nat → Bool) (target : Nat → Nat) : List Byte :=
  let n := chosenNode t pass
  let mask := fun (l : List Nat) => (l.map (fun i => 2 ^ (i - 1))).sum
  let acc := ((List.range t.cands.length).map (fun k => k + 1)).filter (accepted t pass)
  leBytes 2 (mask acc) ++ leBytes 2 (mask (lineage t 16 n)) ++ leBytes 1 (candDepth t n) ++ leBytes 3 0
    ++ leBytes 4 (target n) ++ leBytes 3 (t.pRoot + candDepth t n + 1) ++ leBytes 1 0

/-- The staging rows that the commit keeps, with their positions, in depth order (R174). -/
def commitRows (t : CandTable) (pass : Nat → Bool) : List (Nat × Nat) :=
  (0 :: (lineage t 16 (chosenNode t pass)).reverse).map (fun i => (i, candPos t i))

/-- Bytes written over others from an offset. -/
def overBytes (b : List Byte) (off : Nat) (v : List Byte) : List Byte := b.take off ++ v ++ b.drop (off + v.length)

/-- A KV page with the keys and values of one token written, element by element (R161). -/
def pageWithRow (d : PatDesc) (pg : List Byte) (tok : Nat) (k v : List (List Byte)) : List Byte :=
  (List.range d.dh).foldl (fun p i => overBytes (overBytes p (kElemAt d tok i) (k.getD i [])) (vElemAt d tok i) (v.getD i [])) pg

/-- The logical pages that a commit rewrites (R174). -/
def commitPages (t : CandTable) (pass : Nat → Bool) : List Nat := ((commitRows t pass).map (fun r => r.2 / 64)).eraseDups

/-- An affected page after the commit: each kept row that falls in it, at its position, in depth order; `k` and `v` give the rows of
the staging area (R174). -/
def commitPage (d : PatDesc) (t : CandTable) (pass : Nat → Bool) (k v : Nat → List (List Byte)) (page : Nat) (pg : List Byte) : List Byte :=
  ((commitRows t pass).filter (fun r => r.2 / 64 == page)).foldl (fun p r => pageWithRow d p (r.2 % 64) (k r.1) (v r.1)) pg

/-- The tag of an affected page after the commit: valid, with TOKENS raised to its last written token (R174, Table 8-3). -/
def commitTag (t : CandTable) (pass : Nat → Bool) (page : Nat) : Nat :=
  2 ^ 31 + (((commitRows t pass).filter (fun r => r.2 / 64 == page)).map (fun r => r.2 % 64 + 1)).foldl max 0 * 2 ^ 24 + page

/-! ### Sequences across devices (R176, R177) -/

/-- Whether descriptors of successive ranks cover the positions from `at_` to the end of the grid (R176). -/
def shardsFrom : Nat → Nat → List PatDesc → Bool
  | _, _, [] => false
  | r, at_, d :: ds =>
    d.rank == r && d.pos0 == at_ && d.pos0 % (d.gh * d.gw) == 0 && d.pos0 % 64 == 0
    && (d.pos0 + d.shard) % (d.gh * d.gw) == 0 && (d.pos0 + d.shard) % 64 == 0
    && decide (max d.bt d.ft * (d.gh * d.gw) ≤ d.shard)
    && (if ds.isEmpty then d.pos0 + d.shard == d.gt * d.gh * d.gw else shardsFrom (r + 1) (d.pos0 + d.shard) ds)

/-- Whether two descriptors describe one operation: they agree in all but the shard, the rank and where the list lies. -/
def sameOperation (a b : PatDesc) : Bool :=
  { a with pos0 := b.pos0, shard := b.shard, rank := b.rank, globOff := b.globOff } == b

/-- Whether the descriptors of ranks 0 to NDEV − 1, in rank order, tile one sequence (R176). -/
def shardsTile (ds : List PatDesc) : Bool :=
  ds.all (fun d => d.ndev == ds.length && sameOperation d (ds.headD d)) && shardsFrom 0 0 ds

/-- Logical pages of the back halo: the last BT frames before the shard (R177). -/
def backHalo (d : PatDesc) : List Nat :=
  let lo := (d.pos0 - d.bt * (d.gh * d.gw)) / 64
  (List.range (ceilDiv d.pos0 64 - lo)).map (fun i => lo + i)

/-- Logical pages of the forward halo: the first FT frames after the shard (R177). -/
def forwardHalo (d : PatDesc) : List Nat :=
  let e := d.pos0 + d.shard
  let hi := min (e + d.ft * (d.gh * d.gw)) (d.gt * d.gh * d.gw)
  (List.range (ceilDiv hi 64 - e / 64)).map (fun i => e / 64 + i)

/-- Logical pages of the shard itself. -/
def shardPages (d : PatDesc) : List Nat := (List.range (d.shard / 64)).map (fun i => d.pos0 / 64 + i)

/-- The listed positions that a rank holds: its part of the all-gather of kind 2 (R177). -/
def shardGlobals (d : PatDesc) (glob : List Nat) : List Nat := glob.filter (fun p => decide (d.pos0 ≤ p) && decide (p < d.pos0 + d.shard))

/-- The global keys of every rank, gathered in rank order, which is list order (R177). -/
def gatheredGlobals (ds : List PatDesc) (glob : List Nat) : List Nat := ds.flatMap (fun d => shardGlobals d glob)

/-- The visiting sequence of a rank (R177): the back halo, the own shard and the forward halo in ascending page order, then the global
pages; pages without a key of A(q) are left out. -/
def shardVisit (d : PatDesc) (glob : List Nat) (present : Nat → Bool) (queries : List Nat) : List VisitPage :=
  ((backHalo d ++ shardPages d ++ forwardHalo d).filter (fun p => (windowPages d present queries).contains p)).map .window
    ++ (globPages d glob present queries).map .glob

end Sys2Proof.Machine
end

