-- ==== Sys2Proof/Machine/AttnReal.lean ====
section
/-! DEFINITION. The output of attention over exact numbers (R157), which the image's operations round. -/

namespace Sys2Proof.Machine

/-- The output of attention in one dimension, over exact numbers (R157): `keys` is A(q), `qv` and `kv` the query and the keys, `v` the
values in that dimension. -/
def AttnOutput (scale : ℝ) (dh : Nat) (keys : List Nat) (qv : Nat → ℝ) (kv : Nat → Nat → ℝ) (v : Nat → ℝ) (out : ℝ) : Prop :=
  (keys = [] → out = 0) ∧
  (keys ≠ [] → ∃ (x : Nat → ℝ) (m : ℝ), (∀ k ∈ keys, x k = scale * ((List.range dh).map (fun i => qv i * kv k i)).sum)
    ∧ (∀ k ∈ keys, x k ≤ m) ∧ (∃ k ∈ keys, x k = m)
    ∧ out * (keys.map (fun k => (2 : ℝ) ^ (x k - m))).sum = (keys.map (fun k => (2 : ℝ) ^ (x k - m) * v k)).sum)

end Sys2Proof.Machine
end

