-- ==== Sys2Proof/Machine/Layout.lean ====
section
/-! DEFINITION. The arrangement of the package and the levels of its outputs, as views of the state: engine blocks (R110), rates of the
MXU (R15), die-to-die links and hops (R10, R11, R14), lines and pseudo-channels (R223), balls (R422), and the level that each output
takes (R31, R33, R423). -/

namespace Sys2Proof.Machine

/-! ### Engine blocks (R110) -/

/-- Byte of element (m, k) in activation order, with `s` bits an element. -/
def actOrder (s m k : Nat) : Nat := (64 * m + k) * s / 8

/-- Byte of element (k, n) in weight order. -/
def weightOrder (s k n : Nat) : Nat := (64 * n + k) * s / 8

/-- Byte of element (m, n) as a DRN writes it: the activation order of the next layer. -/
def outputOrder (s m n : Nat) : Nat := (64 * m + n) * s / 8

/-- Byte of element (m, k) with SP = 1: two blocks adjacent in K, interleaved row by row. -/
def actOrderSp (s m k : Nat) : Nat := (128 * m + k) * s / 8

/-- Beats that a MAC of a pair takes (R15, R108): 2 where both operands have 16 bits. -/
def macBeatsOf (fmta : Nat) : Nat := if fmta = 1 || fmta = 2 then 2 else 1

/-- Multiply-accumulates per beat of a pair of formats (Table 1-4): R rows of KL positions by 64 columns over the beats of the MAC. A 16-bit
pair has no rate with 2:4 weights. -/
def macsPerBeat (fmta fmtw : Nat) (sp : Bool) : Option Nat :=
  if sp && macBeatsOf fmta == 2 then none
  else (pairRows fmta fmtw).map (fun r => r * (if sp then 128 else 64) * 64 / macBeatsOf fmta)

/-- CCLK in kHz at a divider (Table 1-5): 6 GHz by 4, 5 or 6. -/
def cclkKhz (div : Nat) : Nat := 6000000 / div

/-- Peak of the device in operations per millisecond at a divider (R16): the tile's rate for 800 tiles, two operations to a MAC. -/
def devicePeak (fmta fmtw : Nat) (sp : Bool) (div : Nat) : Option Nat :=
  (macsPerBeat fmta fmtw sp).map (fun r => r * 800 * 2 * cclkKhz div)

/-- Results per beat per tile of work outside the MXU (R16): the SFU's 16, the VPU's 64 lanes. -/
def offMxuPerBeat (sfu : Bool) : Nat := if sfu then 16 else 64

/-! ### Dies, links and hops (R10, R11, R14) -/

/-- A die of the package (Table 1-1). -/
inductive Die where
  | cd (d : Nat)
  | iod (n : Nat)
  | scd
  deriving DecidableEq, Repr

/-- The two dies that a module joins (R11). -/
def moduleEnds (m : Nat) : Die × Die :=
  if m < 40 then (.cd (m / 4), .iod (m % 4 / 2))
  else if m < 80 then (.cd (10 + (m - 40) / 4), .iod (2 + m % 4 / 2))
  else if m < 96 then
    let p := (m - 80) / 4
    if p = 3 then (.iod 0, .iod 3) else (.iod p, .iod (p + 1))
  else (.scd, .iod (m - 96))

/-- Compute die of a global tile. -/
def tileDie (g : Nat) : Nat := g / 40

/-- Hops between two tiles (Table 1-3): none within a die, 2 within a half, 3 across. -/
def tileHops (a b : Nat) : Nat := if tileDie a = tileDie b then 0 else if tileHalf a = tileHalf b then 2 else 3

/-- I/O die that owns a stack. -/
def stackIod (k : Nat) : Nat := k / 3

/-- Hops from a tile to a stack (Table 1-3). -/
def stackHops (g k : Nat) : Nat := if tileHalf g = stackIod k / 2 then 1 else 2

/-- Hops from a tile to the collector of completion tokens in the SCD (Table 1-3): through an I/O die. -/
def collectorHops : Nat := 2

/-- I/O die of a half that VIA names (R14, R90): 0 that of the host link, 1 that of the emulation ports. -/
def viaIod (half via : Nat) : Nat :=
  if half = 0 then (if via = 0 then 0 else 1) else (if via = 0 then 3 else 2)

/-- The dies that a send passes, first and last included (R14, R90). -/
def sendRoute (a b via : Nat) : List Die :=
  let u := viaIod (tileHalf a) via
  if tileDie a = tileDie b then [.cd (tileDie a)]
  else if tileHalf a = tileHalf b then [.cd (tileDie a), .iod u, .cd (tileDie b)]
  else [.cd (tileDie a), .iod u, .iod (viaIod (tileHalf b) via), .cd (tileDie b)]

/-- Fixed latency of a number of hops, in NCLK cycles (R13). -/
def hopNclk (h : Nat) : Nat := 24 * h

/-! ### Lines of T1 (R223) -/

/-- Pseudo-channel of a page's channel that line `j` of the page lies on. -/
def lineChannel (j : Nat) : Nat := j % 2

/-! ### Balls (R422) -/

/-- The letters that name rows, A first. -/
def rowLetters : List Char := ['A', 'B', 'C', 'D', 'E', 'F', 'G', 'H', 'J', 'K', 'L', 'M', 'N', 'P', 'T', 'U', 'V', 'W', 'Y', 'Z']

/-- Name of row `i`, 1 to 104. -/
def rowName (i : Nat) : List Char :=
  if i ≤ 20 then [rowLetters.getD (i - 1) 'A']
  else [rowLetters.getD ((i - 21) / 20) 'A', rowLetters.getD ((i - 21) % 20) 'A']

/-- Name of the ball in a row and a column: the row's letters, then the column's digits. -/
def ballName (i c : Nat) : List Char := rowName i ++ Nat.toDigits 10 c

/-- Whether a position of the grid holds a ball: 104 rows by 104 columns without the 4 by 4 block at each corner (R421). -/
def ballThere (i c : Nat) : Bool :=
  let edge (k : Nat) : Bool := decide (k ≤ 4) || decide (101 ≤ k)
  decide (1 ≤ i) && decide (i ≤ 104) && decide (1 ≤ c) && decide (c ≤ 104) && !(edge i && edge c)

/-- Regions of Table 20-2. -/
inductive BallRegion where
  | corePower | north | south | west | east
  deriving DecidableEq, Repr

/-- Region of a ball: rows A to L are 1 to 11, M to CZ 12 to 80, DA to ED 81 to 104. -/
def ballRegion (i c : Nat) : BallRegion :=
  if i < 12 then .north else if 80 < i then .south else if c < 24 then .west else if 81 < c then .east else .corePower

/-- Centre of a ball from the array's centre, in units of 0.45 mm: toward row ED, toward column 104. -/
def ballCentre (i c : Nat) : Int × Int := (2 * (i : Int) - 105, 2 * (c : Int) - 105)

/-! ### Outputs (R31, R33, R423, R424) -/

/-- The levels of Tables 20-3 and 20-4: not driven, low or high, D-PHY LP-00 or LP-11, or as a protocol of the pin has it. -/
inductive PinLevel where
  | highZ | low | high | lp00 | lp11 | protocol
  deriving DecidableEq, Repr

/-- The outputs of the device that Table 20-3 gives a level out of reset; SCL and SDA of a bus go together. -/
inductive OutPin where
  | faultN
  | empOk (n : Fin 16)
  | fsyncOut (n : Fin 8)
  | empLane (n : Fin 16)
  | empI2c (n : Fin 16)
  | rwTx (n : Fin 8)
  | hlTx (m : Fin 2)
  | xspi
  | mgtI2c
  | pmb
  | tdo (shift : Bool)
  | uartTx
  | devPresentN
  deriving DecidableEq, Repr

/-- FAULT_N is asserted (R344): from a fault of FN_MIN or above until PEND is cleared, which a class 5 fault prevents. -/
def faultAsserted (d : Dev) : Bool := d.flt.pend

/-- I/O die that drives an output (Table 1-1); none for those of the SCD. -/
def pinIod (p : OutPin) : Option Nat :=
  match p with
  | .empOk n => some (1 + n.val / 8)
  | .empLane n => some (1 + n.val / 8)
  | .empI2c n => some (1 + n.val / 8)
  | .fsyncOut n => some (1 + n.val / 4)
  | .rwTx n => some (n.val / 2)
  | .hlTx m => some (3 * m.val)
  | .faultN => none
  | .xspi => none
  | .mgtI2c => none
  | .pmb => none
  | .tdo _ => none
  | .uartTx => none
  | .devPresentN => none

/-- Whether an I/O die is out of reset: released at the PLL lock (Table 17-2 step 4), not lost, and in no partial reset. DEDUCED
(notes/assumptions/51.md). -/
def iodLive (d : Dev) (n : Nat) : Bool :=
  (d.clk.locked || d.boot.st == .halt) && !d.flt.retiredDies.contains (32 + n)
    && !(d.boot.partBusy && d.boot.partKind == 1 && d.boot.partIndex == 32 + n)

/-- Whether the domain that drives an output is in reset (R31, R358). -/
def pinInReset (d : Dev) (p : OutPin) : Bool :=
  d.boot.st == .reset || (match pinIod p with
    | some n => !iodLive d n
    | none => false)

/-- Level of an output by itself, boundary scan apart (R418): high-impedance while its domain is in reset, then as Table 20-3 has it. A
Reedway transmitter is on outside `DISABLED` and `ISOLATED`, a host link's while PERSTx_N is high; TDO is driven in Shift-DR and Shift-IR; a
console line is sent at its own time, so UART_TX shows its idle level. DEDUCED (notes/assumptions/51.md). -/
def pinLevel (d : Dev) (p : OutPin) : PinLevel :=
  if p = .devPresentN then .low
  else if p = .uartTx && d.boot.testHeld then .high
  else if pinInReset d p then .highZ
  else match p with
    | .faultN => if faultAsserted d then .low else .highZ
    | .empOk n => if (mget d.ports.emp n.val Emp.reset).ok then .high else .low
    | .fsyncOut n => if (mget d.ports.cap n.val Cap.reset).fso then .high else .low
    | .empLane n =>
      let e := mget d.ports.emp n.val Emp.reset
      -- the frame on air runs to its end after EN is cleared (R287)
      if e.enabled || e.phase == .active then .protocol else .lp11
    | .empI2c _ => .protocol
    | .rwTx n =>
      match (mget d.rw.ports n.val RwPort.reset).st with
      | .disabled | .isolated => .highZ
      | _ => .protocol
    | .hlTx m => if perstLow d m.val then .highZ else .protocol
    | .xspi => .protocol
    | .mgtI2c => .protocol
    | .pmb => .protocol
    | .tdo shift => if shift then .protocol else .highZ
    | .uartTx => .high
    | .devPresentN => .low

/-- Level that the board's resistors, or the bus's, give an output that nothing drives (Table 20-4); a SerDes lane has none. -/
def undrivenLevel (p : OutPin) : PinLevel :=
  match p with
  | .faultN => .high
  | .empOk _ => .low
  | .fsyncOut _ => .low
  | .empLane _ => .lp00
  | .empI2c _ => .high
  | .rwTx _ => .highZ
  | .hlTx _ => .highZ
  | .xspi => .high
  | .mgtI2c => .high
  | .pmb => .high
  | .tdo _ => .high
  | .uartTx => .high
  | .devPresentN => .low

/-- Level that the board sees at an output (R34, R424). -/
def boardSees (d : Dev) (p : OutPin) : PinLevel := if pinLevel d p = .highZ then undrivenLevel p else pinLevel d p

end Sys2Proof.Machine
end

