-- ==== Sys2Proof/Machine/Routing.lean ====
section
/-! DEFINITION. The formats and decisions of chapter 09 that images make with the operations of the tiles: block masks (R184, R187),
token-change skipping (R191, R192), expert routing (R194 to R197). The device reads none of these records by itself; they are functions
beside the machine (notes/assumptions/50.md). -/

namespace Sys2Proof.Machine

/-! ### Block masks (R184, R187) -/

/-- A block mask (Table 9-2): `attn` is KIND 1; `cells` are its bytes in row order. -/
structure BlockMask where
  attn : Bool
  nbr : Nat
  nbc : Nat
  row0 : Nat
  col0 : Nat
  cells : List Byte
  deriving DecidableEq, Repr

/-- The mask at the start of some bytes; none where its header breaks Table 9-2. -/
def blockMask (b : List Byte) : Option BlockMask :=
  let m : BlockMask :=
    { attn := leAt b 1 1 == 1, nbr := leAt b 4 4, nbc := leAt b 8 4, row0 := leAt b 0xC 4, col0 := leAt b 0x10 4, cells := b.drop 0x20 }
  if leAt b 0 1 = 1 ∧ leAt b 1 1 < 2 ∧ leAt b 2 2 = 0 ∧ 1 ≤ m.nbr ∧ m.nbr ≤ 2 ^ 18 ∧ 1 ≤ m.nbc ∧ m.nbc ≤ 2 ^ 18
    ∧ leAt b 0x14 12 = 0 then some m else none

/-- Whether a block is present: every block outside the array is (R184). -/
def blockPresent (m : BlockMask) (row col : Nat) : Bool :=
  if m.row0 ≤ row ∧ row < m.row0 + m.nbr ∧ m.col0 ≤ col ∧ col < m.col0 + m.nbc then
    byteAt m.cells ((row - m.row0) * m.nbc + (col - m.col0)) != 0
  else true

/-- Presence of the weight of logical row `k` and output column `n` under a `WEIGHT` mask: block row i is slice i of K, of `kl` logical
positions, block column j the columns 64j to 64j + 63 (R184). A mask of the other kind marks no weight absent. -/
def weightPresent (m : BlockMask) (kl k n : Nat) : Bool := m.attn || blockPresent m (k / kl) (n / 64)

/-- A weight under a mask: an absent block is all zero (R184). -/
def maskedWeight (m : BlockMask) (kl : Nat) (w : Nat → Nat → Word) (k n : Nat) : Word := if weightPresent m kl k n then w k n else 0

/-- Whether a mask may be applied at run time to block columns `cols`: each has a present block among rows `rows` (R186). -/
def maskUsable (m : BlockMask) (rows cols : List Nat) : Bool := cols.all (fun j => rows.any (fun i => blockPresent m i j))

/-- A′(q): the attention set without the keys of the pages that an `ATTN` mask names absent for the query's block row (R187). A mask of
the other kind narrows nothing. -/
def narrowedSet (m : BlockMask) (set : List Nat) (q : Nat) : List Nat :=
  if m.attn then set.filter (fun k => blockPresent m (q / 64) (k / 64)) else set

/-! ### Token-change skipping (R191, R192) -/

/-- The skip record (Table 9-3). -/
structure SkipRec where
  maxStale : Nat
  thr : Word
  ntok : Nat
  computed : Nat
  skipped : Nat
  deriving DecidableEq, Repr

/-- The record at the start of some bytes; none where a field breaks Table 9-3. -/
def skipRec (b : List Byte) : Option SkipRec :=
  let r : SkipRec := { maxStale := leAt b 1 1, thr := wordAt b 4, ntok := leAt b 8 4, computed := leAt b 0xC 4, skipped := leAt b 0x10 4 }
  if leAt b 0 1 = 1 ∧ leAt b 2 2 = 0 ∧ (r.thr.toNat < 0x7F800000 ∨ r.thr = 0x80000000#32) ∧ 1 ≤ r.ntok ∧ r.ntok ≤ 2 ^ 24
    ∧ leAt b 0x14 12 = 0 then some r else none

/-- The largest absolute difference of two latents, channel by channel, in FP32 (R192). -/
def latentDelta (new old : List Word) : Word :=
  ((List.range new.length).map (fun i => fabs (fsub (new.getD i 0) (old.getD i 0)))).foldl fmax 0

/-- Whether a token is recomputed (R192): `stale` is the number of passes, just before this one, that skipped it. -/
def recomputes (r : SkipRec) (first : Bool) (delta : Word) (stale : Nat) : Bool :=
  first || isNan32 delta || decide (0 < numCmp (dec32 delta) (dec32 r.thr)) || (r.maxStale != 0 && decide (r.maxStale ≤ stale))

/-! ### Expert routing (R194 to R197) -/

/-- Whether expert `i` ranks before expert `j`: the larger logit, NaN below every number, the lower index among equals (R194). -/
def ranksBefore (logits : List Word) (i j : Nat) : Bool :=
  let a := logits.getD i 0
  let b := logits.getD j 0
  match isNan32 a, isNan32 b with
  | true, true => decide (i < j)
  | true, false => false
  | false, true => true
  | false, false =>
    let c := numCmp (dec32 a) (dec32 b)
    decide (0 < c) || (decide (c = 0) && decide (i < j))

/-- An expert put into a list by rank. -/
def insertRank (logits : List Word) (i : Nat) : List Nat → List Nat
  | [] => [i]
  | j :: r => if ranksBefore logits i j then i :: j :: r else j :: insertRank logits i r

/-- The TOPK experts of a token in rank order, slot 0 first (R194). -/
def topExperts (logits : List Word) (topk : Nat) : List Nat :=
  ((List.range logits.length).foldl (fun l i => insertRank logits i l) []).take topk

/-- The gate modes of R195. -/
inductive GateMode where
  | softmaxTopk | softmaxAll | sigmoid
  deriving DecidableEq, Repr

/-- The logits that the gate of a selected expert is taken over (R195). -/
def gateLogits (mode : GateMode) (logits : List Word) (topk expert : Nat) : List Word :=
  match mode with
  | .softmaxTopk => (topExperts logits topk).map (fun i => logits.getD i 0)
  | .softmaxAll => logits
  | .sigmoid => [logits.getD expert 0]

/-- Whether the gate is a NaN: some logit that its mode uses is one (R195). -/
def gateNan (mode : GateMode) (logits : List Word) (topk expert : Nat) : Bool := (gateLogits mode logits topk expert).any isNan32

/-- The gate of a selected expert (R195): the soft maximum's share over the logits that the mode uses, or the sigmoid by its built-in
set; a NaN where one of those logits is a NaN. -/
def gateValue (mode : GateMode) (logits : List Word) (topk expert : Nat) : Word :=
  let x := logits.getD expert 0
  if gateNan mode logits topk expert then nan32
  else match mode with
    | .sigmoid => evalBuiltin 4 x
    | _ => softShare (gateLogits mode logits topk expert) x

/-- Whether expert `e` keeps the assignment of token `tok` of a group, given whether each token selects it (R196). -/
def keepsAssignment (selects : Nat → Bool) (cap tok : Nat) : Bool :=
  selects tok && decide (countIf (List.range tok) selects < cap)

/-- Assignments to an expert that a group of `n` tokens drops (R196). -/
def droppedAssignments (selects : Nat → Bool) (cap n : Nat) : Nat := countIf (List.range n) selects - cap

/-- The output of a token (R197): gate times expert output over the kept slots, added in ascending slot order; +0 with none. DEDUCED
(notes/assumptions/50.md). -/
def routedOut (kept : List (Word × Word)) : Word :=
  match kept with
  | [] => 0
  | (g, e) :: r => r.foldl (fun acc p => fadd acc (fmul p.1 p.2)) (fmul g e)

end Sys2Proof.Machine
end

