-- ==== Sys2Proof/Tests/Slice0.lean ====
section
/-! SUPPORT. Small tests of the model by itself: ill-formed commands that WellFormed refuses, one step of a command on a small
state, and for every statement a state and operands that meet the hypotheses of each of its clauses. -/

namespace Sys2Proof.Tests

-- one test after the other: tests elaborated at once would hold a thread, with its stack, each
set_option Elab.async false

open Sys2Proof Sys2Proof.Machine Sys2Proof.Safety

/-! ### Small states -/

def st (f : Dev → Dev) : State := ⟨f Dev.reset, []⟩

/-- The management controller owns a device in SERVICE. -/
def owned (d : Dev) : Dev := { d with boot := { d.boot with st := .service }, own := { d.own with st := .owned, owner := some .m } }

/-- A device job of 100 beats runs in scope 0. -/
def jobIn (x : Scope) (d : Dev) : Dev := { d with sc0 := { x with jobValid := true, kind := .device, phase := .run, staticBeats := 100 } }

/-- The same, with a core given to tile 0. -/
def coreIn (c : TileCore) : State := st (fun d => setTile (jobIn Scope.reset d) 0 { Tile.reset with core := c })

def vr (fmt : Fin 16) (vd va : Fin 32) : VR := { vd := vd, va := va, vb := 0, vc := 0, fmt := fmt, sat := false, wrap := false, tag := 0 }

def g0 : Guard := ⟨0, false⟩

/-! ### WellFormed refuses -/

theorem test_wf_check : wfInstr (.check 0 0 0 1 0 0) = false := by decide
theorem test_wf_arm : wfInstr (.arm 0 0 5 0 0) = false := by decide
theorem test_wf_arm_odd : wfInstr (.arm 0 0 0 0 1) = false := by decide
theorem test_wf_pset : wfInstr (.pset 0 1 6 0 0) = false := by decide
theorem test_wf_salu : wfInstr (.salu 0 13 0 0 0) = false := by decide
theorem test_wf_amov : wfInstr (.amov 0 0 3 0 0) = false ∧ wfInstr (.amov 0 0 0 63 0) = false := by decide
theorem test_wf_csrw : wfInstr (.csrw 0 1 0) = false := by decide
theorem test_wf_ldw : wfInstr (.ldw 0 g0 0xB false 0 0 0 false) = false := by decide
theorem test_wf_mac : wfInstr (.mac 0 g0 7 0 false false 0 0 false) = false := by decide
theorem test_wf_drn : wfInstr (.drn 0 g0 0 0xF false 0 0 0) = false ∧ wfInstr (.drn 0 g0 0 0 false 17 0 0) = false := by decide
theorem test_wf_cmp : wfInstr (.cmp 0 g0 (vr 8 1 0)) = false := by decide
theorem test_wf_cvi : wfInstr (.cvi 0 g0 (vr 7 0 0)) = false := by decide
theorem test_wf_cvo : wfInstr (.cvo 0 g0 (vr 0 0 0)) = false := by decide
theorem test_wf_stats : wfInstr (.wel 0 g0 (vr 0 30 0)) = false ∧ wfInstr (.wmrg 0 g0 (vr 0 30 0)) = false
    ∧ wfInstr (.smxu 0 g0 (vr 0 29 0)) = false ∧ wfInstr (.skmrg 0 g0 (vr 1 0 0)) = false := by decide
theorem test_wf_vld : wfInstr (.vld 0 g0 { vt := 0, aa := 0, off := 0, fmt := 7, sat := false, tag := 0, rel := false }) = false
    ∧ wfInstr (.vst 0 g0 { vt := 0, aa := 0, off := 0, fmt := 0, sat := false, tag := 17, rel := false }) = false := by decide
theorem test_wf_eng : wfInstr (.eng 0 g0 0 4 0 0) = false := by decide
theorem test_wf_rws : wfInstr (.rws 0 g0 0 0 0 0 3 0) = false := by decide
theorem test_wf_col : wfInstr (.col 0 g0 0 0 3 0 0 0) = false ∧ wfInstr (.col 0 g0 0 0 0 0xF 0 0) = false := by decide
theorem test_wf_red : wfInstr (.red 0 g0 0 0 0xF 0 0) = false := by decide
theorem test_wf_accepts : wfInstr (.salu 0 12 0 0 0) = true ∧ wfInstr (.skmrg 0 g0 (vr 0 31 0)) = true := by decide

/-! ### Hypotheses that are met: slots -/

theorem witness_ControlSlotsComplete : tileRuns (coreIn TileCore.reset).dev 799 = true ∧ wfSalu 12 = true ∧ wfAmov 2 63 = true
    ∧ wfCsrw 0 = true ∧ wfPset 5 = true ∧ wfCheck 3 63 63 63 = true ∧ wfArm 4 62 = true
    ∧ (lbuf (tile (coreIn TileCore.reset).dev 799).core 63).st = .free := by decide

theorem witness_VectorFloatComplete : tileRuns (coreIn TileCore.reset).dev 0 = true
    ∧ guardAny (tile (coreIn TileCore.reset).dev 0).core g0 = true := by decide

theorem witness_VectorIntegerComplete : tileRuns (coreIn TileCore.reset).dev 0 = true
    ∧ guardAny (tile (coreIn TileCore.reset).dev 0).core g0 = true ∧ guardOn (tile (coreIn TileCore.reset).dev 0).core g0 = true
    ∧ wfCmp (vr 7 31 0) = true ∧ wfFmtV 0xE = true ∧ wfCvo (vr 1 0 0) = true ∧ fmtBlock 1 = 0 ∧ wfCvo (vr 0xA 0 0) = true ∧ fmtBlock 0xA ≠ 0
    ∧ wfWel (vr 0 29 0) = true ∧ wfWmrg (vr 0 29 29) = true ∧ wfSmxu (vr 0 28 0) = true ∧ wfSkmrg (vr 0 31 0) = true := by decide

theorem witness_VectorMemoryComplete :
    let s := coreIn { TileCore.reset with a := [(1, 0x1FFF00#48)] }
    let m : VM := { vt := 31, aa := 1, off := 0, fmt := 0, sat := false, tag := 16, rel := true }
    tileRuns s.dev 0 = true ∧ guardAny (tile s.dev 0).core g0 = true ∧ wfVM m = true
    ∧ t0Addr (tile s.dev 0).core 1 0 = 0x1FFF00 ∧ portFault (tile s.dev 0).core 0 0x1FFF00 (roundUp (vmBytes 0) 64) = none
    ∧ readFault (tile s.dev 0).core 0x1FFF00 (vmBytes 0) = none ∧ writeFault (tile s.dev 0) 0x1FFF00 256 = none
    ∧ wfVM { m with fmt := 6 } = true ∧ portFault (tile s.dev 0).core 0 0x1FFF00 (roundUp (vmBytes 6) 64) = none
    ∧ writeFault (tile s.dev 0) 0x1FFF00 (vmBytes 6) = none := by decide

theorem witness_MatrixAndSfuComplete_sfu :
    let s := coreIn { TileCore.reset with sfu := [(3, ⟨true, true, 0, [], 0, []⟩)] }
    tileRuns s.dev 0 = true ∧ guardAny (tile s.dev 0).core g0 = true ∧ guardOn (tile s.dev 0).core g0 = true
    ∧ (sfuSlot (tile s.dev 0).core 3).loaded = true ∧ (sfuSlot (tile s.dev 0).core 3).wait = 0
    ∧ t0Addr (tile s.dev 0).core 0 0 = 0 ∧ 0 / 2 ^ 17 = (0 + 4159) / 2 ^ 17
    ∧ (∀ i, i < 9 → portFault (tile s.dev 0).core i (0 + 512 * i) (if i = 8 then 64 else 512) = none)
    ∧ (sfuSlot (tile s.dev 0).core 7).loaded = false ∧ 0x1FEFC0 / 2 ^ 17 = (0x1FEFC0 + 4159) / 2 ^ 17 := by decide

theorem witness_MatrixAndSfuComplete_table :
    tableOk (t0Read { Tile.reset with t0 := [(0, 1)] } 0 4160) = true ∧ tableOk (t0Read Tile.reset 0 4160) = false := by decide +kernel

theorem witness_MatrixAndSfuComplete_mxu :
    let w : WBuf := ⟨5, false, [], [], [], 0, []⟩
    let s := coreIn { TileCore.reset with wAct := some w, undrained := [(3, true)] }
    let c := (tile s.dev 0).core
    tileRuns s.dev 0 = true ∧ guardOn c g0 = true ∧ mxuBlocked c = false ∧ wfFmtw 5 = true
    ∧ c.wNew = none ∧ portFault c 0 0 512 = none ∧ ¬ (true = true ∧ ((5 : Fin 16) = 1 ∨ (5 : Fin 16) = 2)) ∧ wfFmta 5 = true ∧ macAccFault c 0 true = none
    ∧ (macActivate c 0).wAct = some w ∧ pairRows 5 w.fmt = some 1
    ∧ portFault c 0 0 (roundUp (1 * 64 * fmtBits 5 / 8) 64) = none ∧ readFault c 0 (1 * 64 * fmtBits 5 / 8) = none
    ∧ wfFmto 5 = true ∧ wfTag 16 = true ∧ portFault c 7 0 512 = none ∧ drnRows 5 = some 8 ∧ mget c.rp 3 0 = 0
    ∧ mget c.undrained 3 false = true := by decide

theorem witness_MemorySlotsComplete :
    let s := coreIn { TileCore.reset with s := [(1, 0x200000#32), (2, 64#32), (3, 0x80000001#32)] }
    let c := (tile s.dev 0).core
    let t := tile s.dev 0
    tileRuns s.dev 0 = true ∧ guardOn c g0 = true ∧ 0 < (rdS c 1).toNat ∧ (rdS c 1).toNat ≤ 2 ^ 21
    ∧ sourceFault c 0 (rdS c 2).toNat = none ∧ portFault c 0 0 512 = none ∧ readFault c 0 512 = none
    ∧ portFault (usePort c 0 0) 4 0x40000 512 = none ∧ portFault c 0 0 256 = none ∧ readFault c 0 256 = none
    ∧ portFault (usePort c 0 0) 4 0 (roundUp (4 * 0 + 256) 64 - 0) = none
    ∧ t.stopIssue = false ∧ t.psrc.length < 64 ∧ sourceFault c 0 (512 * blkBits 0) = none ∧ sourceFault c 0 (64 * atmBytes 3) = none
    ∧ sourceFault c 0 2048 = none ∧ wfEng 3 = true ∧ sourceFault c 0 64 = none
    ∧ 799 < scopeTiles (scope s.dev (scopeOf s.dev 0)).kind ∧ wfRws 2 = true ∧ wfCol 2 0xE = true ∧ wfFmto 0xE = true := by decide

theorem witness_CodecEngineIndex : (⟨.eng 1 15 0 [], 0, 0, 0, 0, false⟩ : Held).op = .eng 1 15 0 [] := by decide

theorem witness_DisabledSlotsChangeNothing : tileRuns State.reset.dev 799 = false
    ∧ guardAny (tile (coreIn TileCore.reset).dev 0).core ⟨0, true⟩ = false
    ∧ guardOn (tile (coreIn TileCore.reset).dev 0).core ⟨0, true⟩ = false ∧ wfInstr (.vpuAdd 799 g0 (vr 0 0 0)) = true
    ∧ wfFmtw 0xD = true ∧ wfFmta 6 = true ∧ wfFmto 0xE = true ∧ wfTag 16 = true := by decide

theorem witness_SlotsChangeOnlyTheirTile : exec (.nop 799) (coreIn TileCore.reset) = .next (coreIn TileCore.reset)
    ∧ (∃ t, exec (.vpuAdd 0 g0 (vr 0 0 0)) (coreIn TileCore.reset) = .next t) := ⟨rfl, _, rfl⟩

theorem witness_OutboundFaultsAndReleases :
    let s := coreIn { TileCore.reset with a := [(2, 64#48)], s := [(1, 0x200000#32), (2, 64#32)], lbs := [(0, ⟨.armed, 0, 64, 64, 0, .net⟩)] }
    let c := (tile s.dev 0).core
    let u := st (fun d => setTile (jobIn Scope.reset d) 0 { Tile.reset with psrc := List.replicate 64 ⟨0, 0, 0, false⟩ })
    let h : Held := ⟨.snd 1 2 0 [], 4, 0, 7, 0, true⟩
    let w : Held := ⟨.wr 1 0 [] none, 4, 0, 7, 0, false⟩
    tileRuns s.dev 0 = true ∧ guardOn c g0 = true ∧ (sourceFault c (t0Addr c 2 0) (rdS c 1).toNat).isSome = true
    ∧ (sourceFault c (t0Addr c 0 0) (rdS c 2).toNat).isSome = true
    ∧ tileRuns u.dev 0 = true ∧ sourceFault (tile u.dev 0).core 0 64 = none ∧ 64 ≤ (tile u.dev 0).psrc.length
    ∧ isSend h.op = true ∧ isSend w.op = false ∧ h.held = true ∧ w.held = false
    ∧ (∀ o ∈ [h, w, { w with held := true }], ∀ b : Bool,
        let d := setTile Dev.reset 799 { Tile.reset with issued := [o], stopIssue := b }
        (tile d 799).issued = [o] ∧ (tile d 799).stopIssue = b) := by decide

/-! ### Hypotheses that are met: the sequencer, jobs and dispatch -/

/-- A record, region and lane entry with the values that do not matter at 0. -/
def reg0 : Region := ⟨4, 9, true, true, false, false, 255, 0, 0, 0, [], []⟩

def ck0 : ScopeCk := ⟨4, 4, [], 0, [], [], []⟩

def spec0 : Spec := ⟨false, 0, false, ck0, 4, 0, none, none, none, false, false, [], 0, none, 0, []⟩

def rrun0 : RRun := ⟨0, ck0, 1, 4, 0, []⟩

def mf0 : MFault := ⟨false, 5, 0, 0, 4, 4, 0, 4, 0⟩

/-- A state whose scope 0 runs a device job, changed by `f`. -/
def inScope0 (f : Scope → Scope) (d : Dev) : Dev := let e := jobIn Scope.reset d; { e with sc0 := f e.sc0 }

def scSt (f : Scope → Scope) : State := st (inScope0 f)

def desc0 : Desc := ⟨[], false, 0, 1, 2, 0, 0, 0, 0, 0, 0, 0, 0, 0, 0⟩

def job0 : Job := ⟨desc0, 0, 0, 100, false, 0, 0, 0, true, false, none, none, false, false⟩

/-- A job in stream slot `k`. -/
def withJob (k : Nat) (j : Job) (d : Dev) : Dev := { d with sched := { d.sched with slots := [(k, j)] } }

theorem witness_BeatComplete : let s := st (jobIn Scope.reset)
    let x := scope s.dev 0
    (running x = true ∧ beatBlocked x = false ∧ x.regions = [] ∧ x.spec = none ∧ x.rrun = none ∧ x.reps = [] ∧ x.reds = [] ∧ x.sets = []
      ∧ prefetchDue s.dev 0 = false ∧ running (scope State.reset.dev 1) = false) ∧ (∀ g, (tile s.dev g).issued = []) :=
  ⟨by decide, fun _ => rfl⟩

theorem witness_ResultsBecomeReadable (i m : Nat) (v : Word64) :
    let c := (tile (coreIn { TileCore.reset with pend := [⟨1, .p i m v⟩] }).dev 0).core
    c.wIn = none ∧ c.wNew = none ∧ c.sfu = [] ∧ (tile (coreIn { TileCore.reset with pend := [⟨1, .p i m v⟩] }).dev 0).issued = []
    ∧ c.pend = [⟨1, .p i m v⟩] := ⟨rfl, rfl, rfl, rfl, rfl⟩

def slipping : State := st (fun d => setTile (inScope0 (fun x => { x with
  phase := .slip, slipAt := some 10, slipFrom := 7, jobCycles := 7,
  reps := [⟨10, 0, 3, true, some 9⟩, ⟨41, 0, 4, true, some 12⟩] }) d) 0
  { Tile.reset with core := { TileCore.reset with lbs := [(3, ⟨.ready, 0, 64, 64, 64, .net⟩)] } })

theorem witness_SlipsAndArrivalsComplete_slip : let x := scope slipping.dev 0
    scopeOf slipping.dev 0 = 0 ∧ (lbuf (tile slipping.dev 0).core 3).st = .ready
    ∧ x.phase = .slip ∧ x.slipAt = some 10 ∧ (∀ q ∈ x.reps, 10 ≤ q.use → q.use ≤ 41 → q.seen.isSome = true)
    ∧ lastSeen (x.reps.filter (fun q => decide (10 ≤ q.use) && decide (q.use ≤ 41))) = some (12, ⟨41, 0, 4, true, some 12⟩)
    ∧ eventBefore x 44 = false := by decide

def landing (f : Nat) (e : LBState) : State := st (fun d => setTile (inScope0 (fun x => { x with
  genFloor := f
  xfers := [⟨5, 799, 63, 0, none, [1, 2, 3, 4], 0, [], 0, 0, 0, 4, none, none, [], none, 0⟩] }) d) 799
  { Tile.reset with core := { TileCore.reset with lbs := [(63, ⟨e, 64, 64, 64, 60, .rwy⟩)] } })

theorem witness_SlipsAndArrivalsComplete_landing :
    let s := landing 0 .armed
    let x := scope s.dev 0
    let q : Xfer := ⟨5, 799, 63, 0, none, [1, 2, 3, 4], 0, [], 0, 0, 0, 4, none, none, [], none, 0⟩
    let e := lbuf (tile s.dev 799).core 63
    let u := landing 0 .ready
    let v := landing 1 .armed
    x.xfers.find? (fun k => k.id == 5) = some q ∧ genLive x 0 = true ∧ sendBlocked s.dev 0 q = false ∧ q.data ≠ [] ∧ q.owed = 0 ∧ q.blk = none
    ∧ e.st = .armed ∧ q.addr.getD (e.base + e.landed) + 4 ≤ e.base + e.len ∧ e.base ≤ 124 ∧ (124 : Nat) + 4 ≤ 2 ^ 21
    ∧ retained (tile s.dev 799) 124 4 = false
    ∧ (scope u.dev 0).xfers.find? (fun k => k.id == 5) = some q ∧ sendBlocked u.dev 0 q = false ∧ q.data.length ≤ 4
    ∧ (lbuf (tile u.dev 799).core 63).st ≠ .armed
    ∧ (scope v.dev 0).xfers.find? (fun k => k.id == 5) = some q ∧ genLive (scope v.dev 0) q.gen = false := by decide

theorem witness_SpeculationComplete_resolve :
    let x := scope (scSt (fun x => { x with regions := [reg0], spec := some { spec0 with due := some 0 } })).dev 0
    let y := scope (scSt (fun x => { x with phase := .squash, resume := 32 })).dev 0
    let z := scope (scSt (fun x => { x with phase := .replay, resume := 96 })).dev 0
    let w := scope (scSt (fun x => { x with phase := .specStall })).dev 0
    x.spec = some { spec0 with due := some 0 } ∧ x.sets = [] ∧ (0 : Nat) ≤ x.jobCycles ∧ x.regions[0]? = some reg0
    ∧ (scope (flushSets (scSt (fun x => { x with regions := [reg0], spec := some { spec0 with due := some 0 } })).dev 0) 0).spec
        = some { spec0 with due := some 0 }
    ∧ y.phase = .squash ∧ z.phase = .replay ∧ w.phase = .specStall ∧ w.spec = none ∧ w.fault = none
    ∧ y.phase ≠ .slip ∧ y.jobCycles ≤ 0 := by decide

/-- A check tail due on a region with `ovfT` 0, and an overflow count and a NaN count on tile 0. -/
def tail0 (ovf nan num : Nat) (strict : Bool) : State := st (fun d => setTile (inScope0 (fun x => { x with
  regions := [{ reg0 with nanStrict := strict, nanT := 5 }], spec := some { spec0 with tail := true, due := some 36 }, rrun := some { rrun0 with num := num },
  jobCycles := 36 }) d) 0 { Tile.reset with core := { TileCore.reset with ovf := ovf, nan := nan } })

theorem witness_SpeculationComplete_tail :
    (∀ p ∈ [(1, 0, 1, false), (0, 1, 2, true), (0, 0, 0, true), (1, 0, 2, false)],
      let s := tail0 p.1 p.2.1 p.2.2.1 p.2.2.2
      let x := scope s.dev 0
      x.spec = some { spec0 with tail := true, due := some 36 } ∧ x.rrun = some { rrun0 with num := p.2.2.1 }
      ∧ x.regions[0]? = some { reg0 with nanStrict := p.2.2.2, nanT := 5 } ∧ x.phase ≠ .slip ∧ (36 : Nat) ≤ x.jobCycles
      ∧ (scope (flushSets s.dev 0) 0).spec = x.spec ∧ (scope (flushSets s.dev 0) 0).rrun = x.rrun
      ∧ sumCount s.dev x.kind (fun c => c.ovf) = p.1 ∧ sumCount s.dev x.kind (fun c => c.nan) = p.2.1) := by decide

theorem witness_ScopeEventsComplete :
    let s := st (fun d => setTile (withJob 127 job0 (inScope0 (fun x => { x with
      slot := 127, jobCycles := 101, pos := 101, phase := .ending, fault := some mf0 }) d)) 799
      { Tile.reset with shadow := [(32767, ⟨List.replicate 64 0, false⟩)] })
    let u := scSt (fun x => { x with jobCycles := 5, pos := 4 })
    let x := scope s.dev 0
    mget? (tile s.dev 799).shadow 32767 = some ⟨List.replicate 64 0, false⟩ ∧ beyondQueue s.dev 799 0 = false
    ∧ x.jobValid = true ∧ x.spec = none ∧ x.phase = .ending
    ∧ x.jobCycles + x.skipped = x.pos + x.slipCycles + x.specCycles + x.replayCycles
    ∧ (scope u.dev 0).jobValid = true ∧ (scope u.dev 0).phase = .run
    ∧ (scope u.dev 0).jobCycles + 0 ≠ (scope u.dev 0).pos + 0
    ∧ x.overrun = false ∧ x.staticBeats + x.slipBudget + x.replayBudget < x.jobCycles + x.skipped
    ∧ mget? s.dev.sched.slots x.slot = some job0 ∧ job0.desc.be = false ∧ x.fault = some mf0 := by decide

theorem witness_ScopeEventsComplete_predicates :
    let p : PInFlight := ⟨255, true, 20, 4⟩
    let s := st (fun d => owned (inScope0 (fun x => { x with flight := [p], jobCycles := 20, gpreds := [(7, true)] }) d))
    let x := scope s.dev 0
    x.flight.find? (fun p => p.idx == 255) = some p ∧ p.due ≤ x.jobCycles ∧ mget? x.gpreds 255 = none
    ∧ isOwner s.dev .mgt = true ∧ running x = true
    ∧ isOwner s.dev .hl0 = false
    ∧ (let s := st (fun d => owned (inScope0 (fun x => { x with phase := .slip, gpreds := [(7, true)], sets := [(255, true)] }) d))
       let x := scope s.dev 0
       x.sets = [(255, true)] ∧ mget? x.gpreds 255 = none ∧ isOwner s.dev .mgt = true ∧ running x = false ∧ x.jobValid = true
       ∧ mget? x.gpreds 7 = some true ∧ (scope s.dev 1).jobValid = false ∧ running (scope s.dev 1) = false) := by decide

/-- Scope 0 with the head `e` of its global lane executed. -/
def lane0 (e : GEntry) (sp : Option Spec) : State := scSt (fun x => { x with glane := [e], pos := e.pos + 1, spec := sp })

theorem witness_LanesComplete_global : ∀ e ∈ [(⟨4, 1, 0⟩ : GEntry), ⟨4, 2, 0⟩, ⟨4, 3, 1⟩, ⟨4, 4, 8⟩, ⟨4, 5, 15⟩, ⟨4, 5, 16⟩],
    let x := scope (lane0 e none).dev 0
    let y := scope (lane0 e (some spec0)).dev 0
    x.jobValid = true ∧ x.glane = e :: [] ∧ e.pos < x.pos ∧ x.spec = none
    ∧ y.glane = e :: [] ∧ y.spec = some spec0 ∧ spec0.ck.pos ≤ e.pos := by decide

theorem witness_LanesComplete_directive : ∀ k : Fin 3,
    let w : List Byte := leBytes 4 (0xF8000000 + k.val * 2 ^ 24) ++ List.replicate 60 0
    let t : Tile := { Tile.reset with lane := [w] }
    laneWord t = some w ∧ t.core.fetch.ended = false ∧ t.core.fetch.restLeft = 0 ∧ directive w = some k.val := by decide

theorem witness_JobEndComplete :
    let s := scSt (fun x => { x with pos := 100, jobCycles := 100 })
    let u := scSt (fun x => { x with phase := .ending, tokens := [3], pos := 100, jobCycles := 100, endCycle := 100 })
    let v := scSt (fun x => { x with phase := .ending, tokens := List.range 800, pos := 100, jobCycles := 100, endCycle := 100 })
    let x := scope s.dev 0
    let y := scope u.dev 0
    let z := scope v.dev 0
    running x = true ∧ x.pos = x.staticBeats ∧ x.spec = none ∧ x.rrun = none ∧ x.glane = [] ∧ x.fault = none
    ∧ heldInOrder s.dev x.kind = []
    ∧ y.jobValid = true ∧ y.phase = .ending ∧ inScope y.kind 799 = true ∧ 799 ∉ y.tokens ∧ tileDrained u.dev 0 799 = true
    ∧ y.tokens.length < scopeTiles y.kind
    ∧ z.c4bad = false ∧ z.tokens.length = scopeTiles z.kind
    ∧ z.jobCycles + z.skipped = z.pos + z.slipCycles + z.specCycles + z.replayCycles := by decide +kernel

/-! ### Hypotheses that are met: the tier manager, the scheduler, images and pixel engines -/

def obj0 (cls : ObjClass) (n : Nat) : Obj := ⟨n, cls, false, false, 0xFFF, 0, 0, 0, [0], none, []⟩

def page0 (st : PageSt) : Page := ⟨st, 0, 0, 0, false, false, false, true, false, 0⟩

def withObj (h : Nat) (o : Obj) (d : Dev) : Dev := setObj d h o

def due0 : DueRec := ⟨63, List.replicate 32 0, none, 0, .served⟩

/-- In SERVICE, HL0 up: the CQ of pair 63 can be written. -/
def serving (d : Dev) : Dev := { owned d with hlk := { d.hlk with up0 := true } }

theorem witness_JobEndComplete_record :
    let s := st (fun d => { serving d with sched := { d.sched with due := [due0] } })
    s.dev.sched.due[0]? = some due0 ∧ schedOn s.dev = true ∧ cqFull s.dev 63 = false ∧ bit (qCtrl s.dev 63) 29 = false
    ∧ ringReach s.dev 63 false = true := by decide

def waiting0 : Job := { job0 with running := false }

def queued : State := st (fun d => let e := owned (withJob 8191 waiting0 d); { e with sched := { e.sched with plan := [8191] } })

theorem witness_DispatchComplete : schedOn queued.dev = true ∧ queued.dev.sched.running = none ∧ pick queued.dev = (some 8191, queued.dev)
    ∧ mget? queued.dev.sched.slots 8191 = some waiting0 ∧ scopesFor queued.dev waiting0.half ≠ []
    ∧ isOwner queued.dev .mgt = true ∧ queued.dev.sched.slots ≠ []
    ∧ (st owned).dev.sched.slots = [] ∧ true ≠ paired (st owned).dev ∧ false = paired (st owned).dev := by decide

theorem witness_JobEndComplete_waits :
    let r : DueRec := { due0 with slot := some 5 }
    let i : Issuer := ⟨0, 4, 0, 5, 1, 1⟩
    let s := st (fun d => { serving d with
      sched := { d.sched with due := [r] }, tmg := { d.tmg with waiters := [([], .wr i 1 0 [] none)] } })
    s.dev.sched.due[0]? = some r ∧ jobPerformed s.dev 5 = false ∧ jobPerformed (serving Dev.reset) 5 = true := by decide

theorem witness_JobEndComplete_ring :
    let s := st (fun d => withObj 1 (obj0 .resident 1) (regPut (regPut { serving d with sched := { d.sched with due := [due0] } } (qBase 63 + 0x10) (2 ^ 29))
      (qBase 63 + 0x0C) 1))
    bit (qCtrl s.dev 63) 29 = true ∧ cqFull s.dev 63 = false ∧ objOf s.dev (ringObj s.dev 63 8).1 = some (1, obj0 .resident 1)
    ∧ (ringObj s.dev 63 8).2 + 32 * (queue s.dev 63).cqTail + 32 ≤ 1 * pageSize := by decide

theorem witness_DispatchComplete_later :
    let s := st (fun d => let e := owned (withJob 7 { waiting0 with desc := { desc0 with release := 1000 } } d)
      { e with sched := { e.sched with plan := [7] } })
    s.dev.sched.running = none ∧ (pick s.dev).1 = none ∧ soonest s.dev = some 1000 ∧ (pick (untilDevtime s.dev 1000)).1 = some 7
    ∧ (withJob 7 job0 { Dev.reset with sched := { Dev.reset.sched with running := some 7 } }).sched.running.isSome = true := by decide

theorem witness_FillsAndPrefetchComplete_pages :
    let s := st (withObj 0xFFFF { obj0 .backed 1 with pages := [(0, page0 .filling)] })
    let u := st (withObj 1 { obj0 .backed 2 with pages := [(1, page0 .writeback)] })
    let v := st (withObj 1 { obj0 .backed 2 with pin := true, pages := [(1, page0 .writeback)] })
    obj? s.dev 0xFFFF = some { obj0 .backed 1 with pages := [(0, page0 .filling)] }
    ∧ (pageOf { obj0 .backed 1 with pages := [(0, page0 .filling)] } 0).st = .filling
    ∧ obj? u.dev 1 = some { obj0 .backed 2 with pages := [(1, page0 .writeback)] }
    ∧ goesFree u.dev { obj0 .backed 2 with pages := [(1, page0 .writeback)] } (page0 .writeback) = true
    ∧ obj? v.dev 1 = some { obj0 .backed 2 with pin := true, pages := [(1, page0 .writeback)] }
    ∧ goesFree v.dev { obj0 .backed 2 with pin := true, pages := [(1, page0 .writeback)] } (page0 .writeback) = false
    ∧ (page0 .writeback).dirty = 0 ∧ onRetired u.dev (page0 .writeback) = false := by decide

def pf0 (kind tile lb len : Nat) : PfEntry := ⟨64, kind, 1, tile, lb, 1, 1, 65536 - len, len, false, 0⟩

/-- Scope 0 with one prefetch entry for object 1 of class `cls`, whose buffer is ARMED. -/
def prefetching (cls : ObjClass) (e : PfEntry) : State := st (fun d => setTile (withObj 1 (obj0 cls 1) (inScope0 (fun x => { x with prefetch := [e] }) d)) 0
  { Tile.reset with core := { TileCore.reset with lbs := [(63, ⟨.armed, 0, 64, 64, 0, .t1⟩)] } })

theorem witness_FillsAndPrefetchComplete_prefetch :
    (∀ p ∈ [(ObjClass.resident, pf0 0 0xFFFF 0xFF 4096), (.backed, pf0 0 0xFFFF 0xFF 4096), (.resident, pf0 1 0 63 64), (.resident, pf0 1 0 62 64),
        (.backed, { pf0 0 0xFFFF 0xFF 64 with off := 65536 }), (.backed, { pf0 0 0xFFFF 0xFF 64 with need := 10000 })],
      let s := prefetching p.1 p.2
      let x := scope s.dev 0
      let e := p.2
      x.prefetch[0]? = some e ∧ x.jobValid = true ∧ x.jobEnded = false ∧ e.issued = false ∧ x.moves.length < 1024
      ∧ objOf s.dev (rebase s.dev 0 e.handle) = some (1, obj0 p.1 1)
      ∧ (e.need - 64 * leadOf s.dev e (pfClass 1 (obj0 p.1 1) e.off e) ≤ x.pos ↔ e.need ≠ 10000)
      ∧ (e.off + e.len ≤ 1 * pageSize ↔ e.off ≠ 65536)
      ∧ (missing 1 (obj0 p.1 1) e.off e.len = [] ↔ p.1 ≠ .backed)
      ∧ ((lbuf (tile s.dev (tileGlobal x.kind 0)).core e.lb).st = .armed ↔ e.lb = 63)) := by decide

theorem witness_FillsAndPrefetchComplete_order :
    let e := pf0 0 0xFFFF 0xFF 4096
    let s := st (inScope0 (fun x => { x with prefetch := [{ e with need := 100 }, e] }))
    let x := scope s.dev 0
    x.prefetch[1]? = some e ∧ objOf s.dev (rebase s.dev 0 e.handle) = none ∧ e.need - 64 * leadOf s.dev e 1 ≤ x.pos
    ∧ pfReady s.dev 0 e = true ∧ e.need < 100 := by decide

theorem witness_FillsAndPrefetchComplete_move :
    ∀ late : Bool,
    let m : PfMove := ⟨0, 1, [], none, 1, some 64, late⟩
    let s := scSt (fun x => { x with prefetch := [pf0 0 0xFFFF 0xFF 64], moves := [m], pos := 64 })
    let u : State := ⟨regPut s.dev 0x20030 (2 ^ 31), []⟩
    let x := scope s.dev 0
    x.prefetch[0]? = some (pf0 0 0xFFFF 0xFF 64) ∧ x.moves = [m] ∧ ¬ 64 < x.pos
    ∧ bit (leadCtrl s.dev) 31 = false ∧ bit (leadCtrl u.dev) 31 = true := by decide

theorem witness_PoolMovesAreAudited : let t := Dev.reset.tmg
    t.poolFree + t.poolMapped + t.poolTransit = t.poolSize ∧ (-1 : Int) + 1 + 0 = 0 ∧ 0 ≤ (t.poolFree : Int) + -1
    ∧ ((t.poolFree : Int) + 1).toNat + t.poolMapped + t.poolTransit ≠ t.poolSize := by decide

theorem witness_TierFailuresComplete :
    let q : Xfer := ⟨9, 0, 63, 0, none, [], 64, [pageKey 1 0], 1, 1, 0, 64, none, none, [], none, 0⟩
    let r : ChkRep := ⟨4, 0, 63, true, none⟩
    let s := scSt (fun x => { x with xfers := [q], reps := [r], phase := .slip, slipAt := some 4 })
    let u := st (fun d => withObj 1 { obj0 .backed 1 with pages := [(0, page0 .wanting)] } (inScope0 (fun x => { x with xfers := [q], genFloor := 1 }) d))
    let x := scope s.dev 0
    let i : Issuer := ⟨0, 4, 0, 0, 1, 1⟩
    let v := st (fun d => withObj 1 { obj0 .backed 1 with pages := [(0, page0 .wanting)] }
      (inScope0 (fun x => { x with genFloor := 1 }) { d with tmg := { d.tmg with waiters := [([pageKey 1 0], .wr i 1 0 [] none)] } }))
    x.jobValid = true ∧ x.xfers = [q] ∧ genLive x q.gen = true ∧ x.reps = [r] ∧ x.phase = .slip ∧ q.owed ≠ 0
    ∧ s.dev.tmg.waiters = [] ∧ engineFills s.dev 0 = [] ∧ q.wait.any (pageWants s.dev) = false ∧ r.tile = q.tile ∧ r.lb = q.lb ∧ r.seen = none
    ∧ genLive (scope u.dev 0) q.gen = false ∧ q.wait.any (pageWants u.dev) = true ∧ obj? s.dev 1 = none
    ∧ (scope v.dev 0).xfers = [] ∧ issuerLive v.dev i = true ∧ pageWants v.dev (pageKey 1 0) = true
    ∧ (scope (scSt id).dev 0).xfers = [] ∧ (scSt id).dev.tmg.waiters = [] ∧ engineFills (scSt id).dev 0 = [] := by decide

/-- An engine's command of the job waits for page 0 of object 1, which is in state `p`. -/
def engWaiting (p : PageSt) : State := st (fun d => setPxe (withObj 1 { obj0 .backed 1 with pages := [(0, page0 p)] }
  (inScope0 (fun x => { x with phase := .slip, reps := [⟨4, 0, 63, true, none⟩] }) d)) 0 ⟨[⟨0, 0, 0, 63, 0, 0, [], 0, 0⟩], [], [pageKey 1 0], none, none⟩)

theorem witness_TierFailuresComplete_engine : ∀ p ∈ [PageSt.wanting, .filling],
    let s := engWaiting p
    (scope s.dev 0).xfers = [] ∧ s.dev.tmg.waiters = [] ∧ engineFills s.dev 0 = [(⟨0, 0, 0, 63, 0, 0, [], 0, 0⟩, pageKey 1 0)]
    ∧ (pageWants s.dev (pageKey 1 0) = true ↔ p = .wanting) ∧ (scope s.dev 0).phase = .slip
    ∧ (scope s.dev 0).reps = [⟨4, 0, 63, true, none⟩] := by decide

/-- The owner's argument registers: 3 pages, RESIDENT, all stacks. -/
def creating : State := st (fun d => regPut (regPut (owned d) 0x20004 3) 0x20008 0xFFF)

theorem witness_TierCommandsComplete :
    let s := creating
    let o := obj0 .backed 2
    let u := st (fun d => owned (withObj 0xFFFF o d))
    isOwner s.dev .mgt = true ∧ s.dev.tmg.busy = false ∧ fld (regGet s.dev 0x20004) 0 25 = 3 ∧ fld (regGet s.dev 0x20008) 30 2 = 0
    ∧ runTaken s.dev 0xFFFF 3 = false ∧ 3 ≤ s.dev.tmg.poolFree
    ∧ isOwner u.dev .mgt = true ∧ obj? u.dev 0xFFFF = some o ∧ namedByJob u.dev 0xFFFF o = false ∧ o.cls = .backed
    ∧ (∀ p ∈ o.pages, p.2.st ≠ .writeback)
    ∧ ((List.range o.npages).filter (fun i => (pageOf o i).st == .unmapped)).length ≤ u.dev.tmg.poolFree := by decide

theorem witness_TierCommandsComplete_refused :
    let c := fun (np cw lo hi : Nat) => regPut (regPut (regPut (regPut (owned Dev.reset) 0x20004 np) 0x20008 cw) 0x2000C lo) 0x20010 hi
    let o := obj0 .resident 1
    let s := st (fun d => owned (withJob 0 { job0 with desc := { desc0 with image := 0xFFFF } } (withObj 0xFFFF o d)))
    let b := { obj0 .backed 2 with pages := [(1, page0 .writeback)] }
    argClass (3 * 2 ^ 30) = .peer ∧ argClass (2 ^ 30) = .backed ∧ fld (regGet (c 1 (3 * 2 ^ 30) (2 ^ 18) 0) 0x2000C) 18 14 ≠ 0
    ∧ fld (regGet (c 1 (3 * 2 ^ 30) 0 (2 ^ 16)) 0x20010) 16 16 ≠ 0 ∧ fld (regGet (c 1 (2 ^ 30) 1 0) 0x2000C) 0 16 ≠ 0
    ∧ 16777216 < fld (regGet (c 16777217 0 0 0) 0x20004) 0 25
    ∧ runTaken (c 65537 0 0 0) 0xFFFF 65537 = true ∧ (c 16777216 0 0 0).tmg.poolFree < 16777216
    ∧ isOwner s.dev .mgt = true ∧ runTaken s.dev 0xFFFF 1 = true ∧ namedByJob s.dev 0xFFFF o = true ∧ o.cls ≠ .backed ∧ obj? s.dev 1 = none
    ∧ obj? (withObj 2 b { Dev.reset with tmg := { Dev.reset.tmg with busy := true, poolFree := 0 } }) 2 = some b
    ∧ 0 < ((List.range b.npages).filter (fun i => (pageOf b i).st == .unmapped)).length := by decide

theorem witness_TierCommandsComplete_end :
    let s := st (fun d => { d with tmg := { d.tmg with busy := true, cmdErr := true } })
    s.dev.tmg.busy = true ∧ s.dev.tmg.cmdPages = [] := by decide

theorem witness_QueuesComplete :
    let s := st (fun d => regPut (owned d) (qBase 63 + 0x14) 0x00FF00FF)
    let u := st (fun d => regPut (owned d) (qBase 63 + 0x10) (2 ^ 31))
    bit (regGet s.dev 0x4014) 29 = false ∧ bit (regGet (regPut s.dev 0x4014 (2 ^ 29)) 0x4014) 29 = true ∧ 255 < sqSize s.dev 63 ∧ 255 < cqSize s.dev 63 ∧ sqSize s.dev 63 ≤ 256
    ∧ isOwner s.dev .mgt = true ∧ qEn s.dev 63 = false ∧ isOwner u.dev .mgt = true ∧ qEn u.dev 63 = true := by decide

/-- A level 1 image of one beat: no lane has words, and the global lane holds JOB_END. The CRCs are those of the bytes. -/
def image1 : List Byte :=
  leBytes 4 0x544E4843 ++ [1, 1, 2, 2, 0, 0] ++ leBytes 2 3 ++ leBytes 4 0 ++ leBytes 8 1 ++ leBytes 4 1 ++ leBytes 4 0 ++ leBytes 8 832
    ++ List.replicate 16 0 ++ leBytes 4 1448612094 ++ leBytes 4 0
    ++ leBytes 2 1 ++ leBytes 2 0 ++ leBytes 4 1266095834 ++ leBytes 4 2 ++ leBytes 4 640
    ++ leBytes 2 2 ++ leBytes 2 0 ++ leBytes 4 0 ++ leBytes 4 13 ++ leBytes 4 0
    ++ leBytes 2 3 ++ leBytes 2 0 ++ leBytes 4 1338878595 ++ leBytes 4 12 ++ leBytes 4 16
    ++ List.replicate 16 0 ++ List.replicate 640 0 ++ leBytes 6 1 ++ [6, 0] ++ leBytes 8 0 ++ List.replicate 48 0

/-- Object 1 of one page holds `bs`. -/
def holding (bs : List Byte) (d : Dev) : Dev :=
  let e := withObj 1 (obj0 .resident 1) d
  { e with tmg := { e.tmg with mem := memWrite [] (t1Key 1 0) bs } }

def validating (bs : List Byte) (dirty : Bool) : State :=
  st (fun d => let e := holding bs d; { e with imgs := { e.imgs with busy := true, cur := 1, dirty := dirty } })

/-- A number evaluated before it is used. -/
def forced (n : Nat) (k : Nat → Nat) : Nat := Nat.rec (k 0) (fun m _ => k (m + 1)) n

/-- The CRC of R69 with its register evaluated at every byte. -/
def crcQuick : List Byte → Nat → Nat
  | [], c => c
  | b :: r, c => forced (crcSteps 8 (c ^^^ b.toNat)) (crcQuick r)

theorem crcQuick_eq (bs : List Byte) : ∀ c, crcQuick bs c = bs.foldl (fun c b => crcSteps 8 (c ^^^ b.toNat)) c := by
  induction bs with
  | nil => exact fun _ => rfl
  | cons b r ih =>
    intro c
    have h : ∀ n, forced n (crcQuick r) = crcQuick r n := fun n => by cases n <;> rfl
    rw [crcQuick, h, ih, List.foldl_cons]

theorem crc32_quick (bs : List Byte) : crc32 bs = BitVec.ofNat 32 (crcQuick bs 0xFFFFFFFF ^^^ 0xFFFFFFFF) := by
  rw [crcQuick_eq, crc32]

theorem test_crcOk : crcOk image1 = true := by
  simp only [crcOk, crc32_quick]
  decide +kernel

/-- The image passes every check of Table 4-17. -/
theorem test_checkImage : checkImage image1 65536 [] = 0 := by
  rw [checkImage, test_crcOk]
  decide +kernel

theorem test_imageBytes : imageBytes (holding image1 Dev.reset) 1 (obj0 .resident 1) = image1 := by decide +kernel

theorem witness_ImagesComplete_done (bs : List Byte) :
    let s := validating bs false
    let o := obj0 .resident 1
    s.dev.imgs.busy = true ∧ objOf s.dev s.dev.imgs.cur = some (1, o) ∧ o.cls ≠ .far ∧ o.cls ≠ .peer
    ∧ spanBad o 0 (o.npages * pageSize) = false ∧ missing 1 o 0 (o.npages * pageSize) = [] ∧ s.dev.imgs.dirty = false
    ∧ s.dev.imgs.valid.length < 1024 := ⟨rfl, rfl, by decide, by decide, by decide, by decide, rfl, (by show 0 < 1024; decide)⟩

theorem witness_ImagesComplete_none :
    let s := st (fun d => { d with imgs := { d.imgs with busy := true } })
    s.dev.imgs.busy = true ∧ objOf s.dev s.dev.imgs.cur = none := by decide

theorem witness_ImagesComplete_commands :
    let s := st (fun d => owned { d with imgs := { d.imgs with valid := [1] } })
    let u := st (fun d => owned (withJob 0 job0 { d with imgs := { d.imgs with valid := [1] } }))
    let v := st (fun d => owned (withObj 0xFFFF (obj0 .resident 1) d))
    isOwner s.dev .mgt = true ∧ s.dev.imgs.busy = false ∧ 1 ∈ s.dev.imgs.valid ∧ 1 ∉ s.dev.imgs.invalPend ∧ imageNamed s.dev 1 = false
    ∧ imageNamed u.dev 1 = true ∧ 2 ∉ s.dev.imgs.valid ∧ objOf v.dev 0xFFFF = some (0xFFFF, obj0 .resident 1)
    ∧ missing 0xFFFF (obj0 .resident 1) 0 (1 * pageSize) = [] := by decide

/-- What the end of a validation meets beside success. -/
theorem witness_ImagesComplete_refused :
    let s := st (fun d => owned (withJob 0 job0 { d with imgs := { d.imgs with busy := true, valid := [1], invalPend := [1] } }))
    let u := validating [] true
    isOwner s.dev .mgt = true ∧ s.dev.imgs.busy = true ∧ 1 ∈ s.dev.imgs.valid ∧ 1 ∈ s.dev.imgs.invalPend ∧ imageNamed s.dev 1 = true
    ∧ spanBad { obj0 .resident 1 with pages := [(0, { page0 .mapped with poisoned := true })] } 0 65536 = true
    ∧ missing 1 (obj0 .backed 1) 0 (1 * pageSize) ≠ [] ∧ (obj0 .backed 1).cls ≠ .far ∧ spanBad (obj0 .backed 1) 0 65536 = false
    ∧ checkImage [] 65536 [] ≠ 0 ∧ u.dev.imgs.dirty = true ∧ u.dev.imgs.cur = 1 ∧ 1 ∉ u.dev.imgs.valid
    ∧ 1024 ≤ (List.range' 2 1024).length := by decide +kernel

/-- A best-effort descriptor of image 1. -/
def beDesc : List Byte := [1, 1] ++ leBytes 2 0 ++ leBytes 2 1 ++ List.replicate 58 0

/-- The owner holds a device on which SQ 63 has an entry and image 1, of zeros here, counts as validated. -/
def accepting : State := st (fun d =>
  let e := regPut (regPut (withObj 1 (obj0 .resident 1) (serving d)) (qBase 63 + 0x10) (2 ^ 31)) 0x8000 (2 ^ 31)
  let e := { e with imgs := { e.imgs with valid := [1] } }
  setQueue e 63 ⟨0, 1, 0, 0, false⟩)

theorem witness_QueuesComplete_accept : schedOn accepting.dev = true ∧ bit (regGet accepting.dev 0x8000) 31 = true
    ∧ nextSq accepting.dev = some 63 ∧ bit (qCtrl accepting.dev 63) 30 = false
    ∧ descFormOk (List.replicate 64 0) = false
    ∧ schedOn State.reset.dev = false ∧ law8 accepting.dev 0 = none
    ∧ (let d := regPut (regPut accepting.dev (qBase 63 + 0x10) (3 * 2 ^ 30)) (qBase 63 + 4) 1
       bit (qCtrl d 63) 30 = true ∧ (ringRead d 63).1 = some (t1Read d 1 0 64)
       ∧ (ringRead (regPut d (qBase 63 + 4) 2) 63).1 = none)
    ∧ (descOf beDesc 0).be = true ∧ freeSlot accepting.dev = some 0 ∧ accepting.dev.sched.planDirty = false
    ∧ refusalOf accepting.dev beDesc (descOf beDesc 0) = none := by decide +kernel

theorem witness_AbortComplete :
    let s := st (fun d => owned (withJob 8191 waiting0 d))
    let u := st (fun d => owned (withJob 8191 job0 (inScope0 (fun x => { x with slot := 8191 }) d)))
    isOwner s.dev .mgt = true ∧ mget? s.dev.sched.slots 8191 = some waiting0 ∧ waiting0.ended = false ∧ waiting0.running = false
    ∧ waiting0.half = false ∧ isOwner u.dev .mgt = true ∧ mget? u.dev.sched.slots 8191 = some job0 ∧ job0.ended = false
    ∧ job0.running = true ∧ u.dev.sc0.jobValid = true ∧ u.dev.sc0.slot = 8191 ∧ u.dev.sc0.kind = .device
    ∧ u.dev.sc1.jobValid = false := by decide

theorem witness_AbortComplete_paired :
    let j : Job := { job0 with half := true }
    let s := st (fun d => owned (withJob 8191 j (inScope0 (fun x => { x with slot := 8191, kind := .west })
      { d with sc1 := { d.sc1 with jobValid := true, slot := 8191, kind := .east } })))
    isOwner s.dev .mgt = true ∧ mget? s.dev.sched.slots 8191 = some j ∧ j.ended = false ∧ j.running = true ∧ j.half = true
    ∧ s.dev.sc0.jobValid = true ∧ s.dev.sc0.kind = .west ∧ s.dev.sc1.jobValid = true ∧ s.dev.sc1.slot = 8191 ∧ s.dev.sc1.kind = .east
    ∧ mget? s.dev.sched.slots 0 = none := by decide

/-- Block of operation `op`: 8 by 8 pixels for PATCHIFY, else one pixel, FP32, from object 1 at 0, to object 1 at 64. -/
def pxCmd (op cin cout : Nat) : EngCmd :=
  ⟨0, 0, 0, 63, 0, 0, leBytes 1 op ++ leBytes 3 0 ++ leBytes 2 1 ++ leBytes 2 1 ++ leBytes 8 0 ++ leBytes 8 64 ++ leBytes 2 (if op = 3 then 8 else 1)
    ++ leBytes 2 (if op = 3 then 8 else 1) ++ leBytes 4 128 ++ leBytes 1 cin ++ leBytes 1 cout ++ leBytes 1 (if op = 1 then 0xEE else 0) ++ List.replicate 29 0, 0, 0⟩

def pxSt (c : EngCmd) : State := st (fun d => setPxe (holding [1, 2, 3] d) 15 ⟨[c], [], [], none, none⟩)

/-- The parts of `PixelReady`. -/
theorem pixelReady_of (d : Dev) (n op frames : Nat) (c : EngCmd) (bs : List Byte)
    (h : (pxe d n).cur = none ∧ (pxe d n).queue = [c] ∧ (pxeBlk c.bytes).op = op ∧ pxeOk (pxeBlk c.bytes) = true
      ∧ engWaits d c.scope (pxeBlk c.bytes).src (pxeBlk c.bytes).srcOff (srcSpan (pxeBlk c.bytes) frames) = []
      ∧ engLines d c.scope (pxeBlk c.bytes).src (pxeBlk c.bytes).srcOff (srcSpan (pxeBlk c.bytes) frames) = .ok bs) :
    PixelReady d n op frames c [] bs := ⟨h.1, h.2.1, h.2.2.1, h.2.2.2.1, h.2.2.2.2.1, h.2.2.2.2.2⟩

theorem witness_PixelEnginesComplete : ∀ p ∈ [(1, 3, 3), (2, 3, 1), (3, 1, 1), (4, 1, 1), (5, 4, 32), (6, 3, 3), (7, 3, 3)],
    PixelReady (pxSt (pxCmd p.1 p.2.1 p.2.2)).dev 15 p.1 1 (pxCmd p.1 p.2.1 p.2.2) []
      (t1Read (pxSt (pxCmd p.1 p.2.1 p.2.2)).dev 1 0 (srcSpan (pxeBlk (pxCmd p.1 p.2.1 p.2.2).bytes) 1)) :=
  fun p hp => pixelReady_of _ _ _ _ _ _ (by revert p; decide +kernel)

theorem witness_PixelEnginesComplete_operands : patchOk 8 1 1 = true ∧ 8 % 8 = 0
    ∧ (let c := pxCmd 7 3 3
       let s := pxSt c
       leAt c.bytes 0 1 = 7 ∧ engWaits s.dev c.scope 1 0 (16 * 4096) = []
       ∧ engLines s.dev c.scope 1 0 (16 * 4) = .ok (t1Read s.dev 1 0 (16 * 4)))
    ∧ (let c := pxCmd 5 4 32
       let s := pxSt c
       engWaits s.dev c.scope 1 0 1152 = [] ∧ ceilDiv (32 * 3 * 3 * 4 * fmtBits 3) 8 = 1152
       ∧ engLines s.dev c.scope 1 0 1152 = .ok (t1Read s.dev 1 0 1152))
    ∧ pxeOk (pxeBlk (pxCmd 6 0 3).bytes) = false ∧ (pxe State.reset.dev 15).queue = []
    ∧ (let s := st (fun d => setPxe d 15 ⟨[], [], [], some (pxCmd 1 3 3), some [0, 0, 0, 0, 4, 0, 0, 0]⟩)
       (pxe s.dev 15).cur = some (pxCmd 1 3 3) ∧ (pxe s.dev 15).word = some [0, 0, 0, 0, 4, 0, 0, 0]) := by decide +kernel

/-! ### Hypotheses that are met: stacked memory, codec engines, emulation and capture ports -/

def stack0 : Stack := { Stack.reset with present := true }

def withStack (n : Nat) (x : Stack) (d : Dev) : Dev := setStack d n x

theorem witness_StacksComplete :
    let s := st (fun d => owned (withStack 11 stack0 d))
    let u := st (withStack 11 { stack0 with runLeft := 4, debt := 8 })
    let v := st (fun d => withStack 11 stack0 { d with hbm := { d.hbm with retireQ := [191] } })
    let w := st (fun d => withStack 11 { stack0 with debt := 7, winOpen := 9 } (inScope0 id d))
    let x := st (fun d => withStack 11 { stack0 with runLeft := 1, winPend := 9, retired := [15] } { d with hbm := { d.hbm with retiring := some 191 } })
    (stack s.dev 11).present = true ∧ (stack s.dev 11).runLeft = 0 ∧ freeRefresh s.dev 11 = true ∧ 15 ∉ (stack s.dev 11).retired
    ∧ govScope s.dev 11 = none ∧ govScope w.dev 11 = some 0 ∧ (stack (st (withStack 11 Stack.reset)).dev 11).present = false
    ∧ isOwner s.dev .mgt = true ∧ 191 ∉ s.dev.hbm.retireQ ∧ s.dev.hbm.retiring = none
    ∧ (stack u.dev 11).present = true ∧ (stack u.dev 11).runLeft ≠ 0 ∧ (stack u.dev 11).winPend = 0 ∧ (stack x.dev 11).winPend = 9
    ∧ (stack x.dev 11).runLeft ≠ 0 ∧ 15 ∈ (stack x.dev 11).retired ∧ x.dev.hbm.retiring = some 191
    ∧ v.dev.hbm.retiring = none ∧ v.dev.hbm.retireQ = (11 * 16 + 15) :: [] ∧ (stack v.dev 11).adds = [] := by decide

theorem witness_StacksComplete_forced : ∀ o : Fin 2,
    let w := st (fun d => withStack 11 { stack0 with debt := 7, windowed := true, winOpen := 9 * o.val } (inScope0 id d))
    (stack w.dev 11).present = true ∧ (stack w.dev 11).runLeft = 0 ∧ freeRefresh w.dev 11 = false ∧ min 8 ((stack w.dev 11).debt + 1) = 8
    ∧ (winIsOpen w.dev 11 = true ↔ o = 1) := by decide

theorem witness_StacksComplete_waits :
    let a : Machine.Add := ⟨⟨0, 4, 0, 5, 0, 1⟩, 1, 0, 2, [1, 0, 0, 0], 0⟩
    let o := { obj0 .resident 1 with pages := [(0, { page0 .mapped with ch := 191 })] }
    let s := st (fun d => withStack 11 { stack0 with adds := [a] } (withObj 1 o { d with hbm := { d.hbm with retireQ := [191] } }))
    (stack s.dev 11).adds = [a] ∧ obj? s.dev 1 = some o ∧ (pageOf o 0).ch = 11 * 16 + 15 ∧ pagesOn s.dev 191 ≠ []
    ∧ pagesOn State.reset.dev 191 = [] := by decide

def add0 (afmt off : Nat) : Machine.Add := ⟨⟨0, 4, 0, 0, 0, 1⟩, 1, off, afmt, [1, 0, 0, 0], 63⟩

/-- Two integer adds that do not meet, and a third that meets the first; page 0 of object 1 is poisoned when `bad`. -/
def intAdds (bad : Bool) : State := st (fun d => withObj 1 { obj0 .resident 1 with pages := [(0, { page0 .mapped with poisoned := bad })] }
  (withStack 11 { stack0 with adds := [add0 2 0, add0 3 4, add0 3 2], accepted := 3 } d))

@[irreducible] def marks5 : FMap Nat := (List.range 800).map (fun g => (g, 5))

/-- An FP32 add of beat 4 that every tile's watermark has passed. -/
def fpAdds : State := st (fun d =>
  let e := withStack 11 { stack0 with adds := [add0 0 0] } (inScope0 id d)
  { e with hbm := { e.hbm with marks := marks5 } })

theorem mget_marks (v : Nat) : ∀ n k g, k ≤ g → g < k + n → mget? ((List.range' k n).map (fun g => (g, v))) g = some v
  | 0, k, g, h1, h2 => absurd h2 (by omega)
  | n + 1, k, g, h1, h2 => by
    rw [List.range'_succ, List.map_cons, mget?]
    by_cases h : g = k
    · subst h; simp
    · rw [if_neg (by omega), if_neg h]
      exact mget_marks v n (k + 1) g (by omega) (by omega)

theorem mget_range (n i : Nat) (h : i < n) : mget ((List.range n).map (fun g => (g, 5))) i 0 = 5 := by
  rw [mget, List.range_eq_range', mget_marks 5 n 0 i (Nat.zero_le i) (by omega), Option.getD_some]

theorem marks5_eq : marks5 = (List.range 800).map (fun g => (g, 5)) := by unfold marks5; rfl

theorem mget_marks5 (i : Nat) (hi : i < 800) : mget marks5 i 0 = 5 := marks5_eq ▸ mget_range 800 i hi

theorem ready_of_marks (d : Dev) (hk : (scope d 0).kind = .device) (hm : d.hbm.marks = marks5) :
    addReady d [add0 0 0] 0 (add0 0 0) = true := by
  have h : watermarked d (add0 0 0) = true := by
    rw [watermarked, Bool.or_eq_true]
    refine Or.inr (List.all_eq_true.mpr fun i hi => ?_)
    rw [show (add0 0 0).by_.scope = 0 from rfl, hk] at hi ⊢
    rw [hm, show tileGlobal .device i = i from rfl, mget_marks5 i (List.mem_range.mp hi)]
    decide
  rw [addReady, if_neg (by decide), h]
  decide

theorem witness_MemoryAddsComplete_fp : (stack fpAdds.dev 11).adds = [add0 0 0] ∧ (stack fpAdds.dev 11).runLeft = 0
    ∧ issuerLive fpAdds.dev (add0 0 0).by_ = true ∧ addReady fpAdds.dev [add0 0 0] 0 (add0 0 0) = true :=
  ⟨rfl, rfl, by decide, ready_of_marks _ rfl rfl⟩

theorem witness_MemoryAddsComplete :
    let s := intAdds false
    let adds := (stack s.dev 11).adds
    let o := { obj0 .resident 1 with pages := [(0, { page0 .mapped with poisoned := true })] }
    adds[1]? = some (add0 3 4) ∧ (∀ b ∈ adds.take 1, addInt b.afmt = true → addsMeet (add0 3 4) b = false) ∧ (stack s.dev 11).runLeft = 0
    ∧ adds[2]? = some (add0 3 2) ∧ addReady s.dev adds 2 (add0 3 2) = false
    ∧ (stack s.dev 11).accepted = ((stack s.dev 11).applied + (stack s.dev 11).adds.length) % 2 ^ 64
    ∧ (stack fpAdds.dev 11).accepted ≠ ((stack fpAdds.dev 11).applied + (stack fpAdds.dev 11).adds.length) % 2 ^ 64
    ∧ spanBad (obj0 .resident 1) 4 (atmBytes 3) = false ∧ obj? (intAdds true).dev 1 = some o ∧ spanBad o 4 (atmBytes 3) = true
    ∧ obj? fpAdds.dev 1 = none := by decide

/-- A block of parameters of 16 by 16 pictures of 8 bits at level 1: rate control mode, NUM and TIME_SCALE, rate, CPB size, delay. -/
def codecPrm (enc : Bool) (rc num scale rate cpb delay : Nat) : List Byte :=
  [1, 1, 30, 0] ++ leBytes 2 16 ++ leBytes 2 16 ++ [8, BitVec.ofNat 8 rc] ++ (if enc then [0, 0, 0, 0, 0, 1] else List.replicate 6 0)
    ++ leBytes 4 num ++ leBytes 4 scale ++ leBytes 4 rate ++ leBytes 4 cpb ++ leBytes 4 delay ++ List.replicate 92 0

/-- Object 1: a pool table of one buffer of pitch 64 at 4096, and a parameter block at 64. -/
def codecObj (b : List Byte) : List Byte :=
  leBytes 2 1 ++ leBytes 2 0 ++ leBytes 8 4096 ++ leBytes 4 64 ++ List.replicate 48 0 ++ b

/-- A codec command of context 31: output, parameter or source object 1, offsets and lengths. -/
def vceCmd (op off srcOff len buf : Nat) : EngCmd :=
  ⟨0, 0, 0, 63, 0, 0, [BitVec.ofNat 8 op, 1, 31, 0] ++ leBytes 2 1 ++ leBytes 2 1 ++ leBytes 8 off ++ leBytes 4 len ++ leBytes 4 buf
    ++ leBytes 8 srcOff ++ leBytes 4 64 ++ List.replicate 28 0, 0, 0⟩

/-- Engine 15 with pool table 1 and its contexts in object 2, of 32 pages. -/
def codec (b : List Byte) (v : Vce) : State := st (fun d =>
  setVce (regPut (regPut (withObj 2 (obj0 .resident 32) (holding (codecObj b) d)) (vceBase 15 + 4) 2) (vceBase 15 + 8) 0x00010001) 15 v)

def vceWith (c : EngCmd) : Vce := { Vce.reset with queue := [c] }

def readOk (r : SrcRead) : Bool := match r with
  | .ok _ => true
  | _ => false

/-- The parts of `CodecReady`. -/
theorem codecReady_of (d : Dev) (n op : Nat) (c : EngCmd)
    (h : (vce d n).cur = none ∧ (vce d n).queue = c :: [] ∧ (vce d n).faulted = false ∧ leAt c.bytes 0 1 = op ∧ leAt c.bytes 1 1 = 1
      ∧ ctxObject d n ≠ 0 ∧ engWaits d 2 (ctxObject d n) (65536 * leAt c.bytes 2 1) 65536 = []
      ∧ readOk (engLines d 2 (ctxObject d n) (65536 * leAt c.bytes 2 1) 65536) = true) : CodecReady d n op c [] := by
  refine ⟨h.1, h.2.1, h.2.2.1, h.2.2.2.1, h.2.2.2.2.1, h.2.2.2.2.2.1, h.2.2.2.2.2.2.1, ?_⟩
  have hr := h.2.2.2.2.2.2.2
  generalize engLines d 2 (ctxObject d n) (65536 * leAt c.bytes 2 1) 65536 = r at hr ⊢
  cases r with
  | ok b => exact ⟨b, rfl⟩
  | _ => cases hr

def encCtx : VCtx := ⟨.enc, codecPrm true 0 0 0 0 0 0, [], 0, 0, [], [], 0⟩

/-- Context 31 decodes, and the pictures of `q` wait for output. -/
def decCtx (q : List Nat) : VCtx := ⟨.dec, codecPrm false 0 0 0 0 0 0, q, 0, 0, [], [], 0⟩

/-- Engine 15 with each command of a context in front. -/
theorem witness_Codec_ready : ∀ p ∈ [(1, vceCmd 1 0 64 0 0), (2, vceCmd 2 0 64 0 0), (3, vceCmd 3 0 0 64 0), (4, vceCmd 4 0 0 0 0),
    (5, vceCmd 5 256 0 65280 0), (6, vceCmd 6 0 0 0 1023), (7, vceCmd 7 0 0 0 0)],
    CodecReady (codec (codecPrm false 0 0 0 0 0 0) { vceWith p.2 with ctxs := [(31, if p.1 = 5 then encCtx else decCtx [])] }).dev 15 p.1 p.2 [] :=
  fun p hp => codecReady_of _ _ _ _ (by revert p; decide +kernel)

theorem witness_CodecControlComplete_config :
    ∀ p ∈ [(1, codecPrm false 0 0 0 0 0 0), (2, codecPrm true 2 1 1 6400 3200 45000), (2, codecPrm true 1 1 1 64 16 0), (1, []), (2, [])],
      let c := vceCmd p.1 0 64 0 0
      let s := codec p.2 (vceWith c)
      engWaits s.dev c.scope (leAt c.bytes 6 2) (leAt c.bytes 0x18 8) 128 = []
      ∧ engLines s.dev c.scope (leAt c.bytes 6 2) (leAt c.bytes 0x18 8) 128 = .ok (p.2 ++ List.replicate (128 - p.2.length) 0) := by decide +kernel

theorem witness_CodecControlComplete_blocks :
    decFormOk (codecPrm false 0 0 0 0 0 0) = true ∧ decSupported (codecPrm false 0 0 0 0 0 0) = true
    ∧ encFormOk (codecPrm true 2 1 1 6400 3200 45000) = true ∧ encSupported (codecPrm true 2 1 1 6400 3200 45000) = true
    ∧ rateOk (codecPrm true 2 1 1 6400 3200 45000) = true
    ∧ encFormOk (codecPrm true 1 1 1 64 16 0) = true ∧ encSupported (codecPrm true 1 1 1 64 16 0) = true
    ∧ prmRc (codecPrm true 1 1 1 64 16 0) ≠ 0 ∧ rateOk (codecPrm true 1 1 1 64 16 0) = false := by decide +kernel

theorem witness_CodecControlComplete_refused :
    decFormOk (List.replicate 128 0) = false ∧ encFormOk (List.replicate 128 0) = false
    ∧ decFormOk (codecPrm false 0 0 0 0 0 0) = true
    ∧ (let b := [1, 4] ++ (codecPrm false 0 0 0 0 0 0).drop 2
       decFormOk b = true ∧ decSupported b = false)
    ∧ (let b := [1, 4] ++ (codecPrm true 0 0 0 0 0 0).drop 2
       encFormOk b = true ∧ encSupported b = false) := by decide +kernel

theorem witness_CodecControlComplete_drain :
    let c := vceCmd 4 0 0 0 0
    let bufs := [(0, (⟨.shortTerm, false, 31, 2⟩ : VBuf)), (1, ⟨.shortTerm, false, 31, 1⟩)]
    let s := codec [] { vceWith c with ctxs := [(31, decCtx [0, 1])], bufs := bufs }
    let u := codec [] { vceWith c with ctxs := [(31, decCtx [])] }
    ctxOf (vce s.dev 15) 31 .dec = some (decCtx [0, 1]) ∧ nextOut bufs [0, 1] = some 1
    ∧ ctxOf (vce u.dev 15) 31 .dec = some (decCtx []) ∧ ctxOf (vceWith c) 31 .dec = none := by decide +kernel

theorem witness_CodecPicturesComplete :
    ∀ p ∈ [(vceCmd 3 0 0 64 0, decCtx [], CtxDir.dec, 64), (vceCmd 5 256 0 65280 0, encCtx, .enc, 64 * 23 + 16)],
      let c := p.1
      let s := codec [] { vceWith c with ctxs := [(31, p.2.1)] }
      let v := vce s.dev 15
      ctxOf v 31 p.2.2.1 = some p.2.1 ∧ engWaits s.dev 0 1 0 p.2.2.2 = [] ∧ engLines s.dev 0 1 0 p.2.2.2 = .ok (t1Read s.dev 1 0 p.2.2.2)
      ∧ (nalUnits (t1Read s.dev 1 0 64) none).any (fun u => nalType u == 33) = false
      ∧ takeBuf s.dev 15 v = some 0 ∧ engWaits s.dev 2 1 0 16 = [] ∧ engRead s.dev 2 1 0 16 = .ok (t1Read s.dev 1 0 16)
      ∧ poolPlace (t1Read s.dev 1 0 16) = (1, 4096, 64) ∧ bufFits s.dev p.2.1.params (1, 4096, 64) = true
      ∧ bufFits s.dev p.2.1.params (1, 65535, 64) = false
      ∧ (engStoreLines s.dev 2 1 4096 [] matches .ok _) ∧ engWaits s.dev 2 1 4096 (picSpan p.2.1.params 16 16 64) = []
      ∧ engHeld s.dev 2 1 4096 (picSpan p.2.1.params 16 16 64) = false
      ∧ takeBuf s.dev 15 { v with bufs := [(0, ⟨.current, false, 31, 0⟩)] } = none ∧ ctxOf (vceWith c) 31 p.2.2.1 = none := by decide +kernel

theorem witness_CodecPicturesComplete_encode :
    let c := vceCmd 5 256 0 65280 0
    let s := codec [] { vceWith c with ctxs := [(31, encCtx)] }
    picSpan encCtx.params (prmW encCtx.params) (prmH encCtx.params) (leAt c.bytes 0x20 4) = 64 * 23 + 16
    ∧ objOf s.dev (rebase s.dev c.scope (leAt c.bytes 4 2)) = some (1, obj0 .resident 1) ∧ leAt c.bytes 8 8 % 64 = 0
    ∧ leAt c.bytes 8 8 + leAt c.bytes 0x10 4 = 1 * pageSize ∧ (∀ q ∈ s.dev.hbm.stk, q.2.runLeft = 0) := by decide +kernel

/-- An access unit whose sequence parameter set no context of 16 by 16 pictures takes. -/
theorem witness_CodecPicturesComplete_refused :
    (nalUnits ([0, 0, 1, 0x42, 1] ++ List.replicate 59 0xFF) none).any
      (fun u => nalType u == 33 && !spsOk (codecPrm false 0 0 0 0 0 0) (spsOf (u.drop 2))) = true := by decide +kernel

theorem witness_CodecRelease :
    let c := vceCmd 6 0 0 0 1023
    let s := codec [] { vceWith c with bufs := [(1023, ⟨.shortTerm, true, 31, 0⟩)] }
    leAt c.bytes 0x14 4 = 1023 ∧ (vbuf (vce s.dev 15).bufs 1023).hold = true ∧ (vbuf (vceWith c).bufs 1023).hold = false := by
  decide +kernel

theorem witness_CodecControlComplete_ends :
    let c := vceCmd 7 0 0 0 0
    let bad : EngCmd := { c with lb := 0x3F, bytes := [7, 0, 31, 0] ++ List.replicate 60 0 }
    let s := codec [] { Vce.reset with cur := some c, word := some (vceWord (vceStatus 0 0)), after := some ([], []) }
    let v := vce s.dev 15
    let u := codec [] { vceWith bad with bufs := [(0, ⟨.current, false, 31, 0⟩)] }
    let w := codec [] { Vce.reset with bufs := [(0, ⟨.current, false, 31, 0⟩), (1, ⟨.unused, true, 31, 0⟩)] }
    let sum := fun (d : Dev) => vceFree d 15 (vce d 15) + vceProducer (vce d 15) + vceConsumer (vce d 15)
    v.cur = some c ∧ v.word = some (vceWord (vceStatus 0 0)) ∧ v.after = some ([], [])
    ∧ (vce u.dev 15).cur = none ∧ (vce u.dev 15).queue = bad :: [] ∧ (vce u.dev 15).faulted = false ∧ leAt bad.bytes 1 1 ≠ 1
    ∧ sum u.dev = vcePool u.dev 15 ∧ sum w.dev ≠ vcePool w.dev 15 ∧ isOwner (owned u.dev) .mgt = true ∧ ctxObject State.reset.dev 15 = 0 := by
  decide +kernel

/-- Port 15: 16 by 2 pixels of RAW8, the slowest link and the shortest lines and blanking that R287 lets pass. -/
def empDev (expDelay period : Nat) (sync : Bool) (e : Emp) (d : Dev) : Dev :=
  let b := empBase 15
  let o := owned (holding (leBytes 2 1 ++ leBytes 2 0 ++ leBytes 8 64 ++ leBytes 4 64) d)
  setEmp (regPut (regPut (regPut (regPut (regPut (regPut (regPut o b (flag sync * 2 ^ 29 + expDelay * 2 ^ 27)) (b + 8) (16 * 2 ^ 16 + 2))
    (b + 0xC) (4 * 2 ^ 29 + 4)) (b + 0x10) period) (b + 0x14) 80) (b + 0x18) (0x2A * 2 ^ 24)) (b + 0x28) (2 ^ 16 + 1)) 15 e

def emp0 : Emp := { Emp.reset with enabled := true, primary := 0, secValid := false }

theorem witness_EmulationEnableComplete :
    let s := st (empDev 1 2100 false Emp.reset)
    let u := st (empDev 1 2099 false Emp.reset)
    let v := st (empDev 1 2100 false emp0)
    isOwner s.dev .mgt = true ∧ (emp s.dev 15).enabled = false ∧ empCheck s.dev 15 (empCfg s.dev 15) = 0
    ∧ empCheck u.dev 15 (empCfg u.dev 15) = 2 ∧ (emp v.dev 15).enabled = true := by decide +kernel

def commit0 : Commit := ⟨0, 0, 0, false, 0, 0, 0, 0, none, none, 0, 0, 0, 0, 0, 0⟩

def sent0 : Sent := ⟨0, commit0, none, [], 0, 0, 0, 0, false, false⟩

theorem witness_EmulationFramesComplete :
    let s := st (fun d => let e := empDev 1 2100 false { emp0 with phase := .waiting } d; { e with ports := { e.ports with safeIn := true } })
    let u := st (empDev 1 2100 false { emp0 with phase := .active, frame := some 65535, onAir := some sent0 })
    let v := st (empDev 1 2100 true { emp0 with phase := .waiting, fsLocal := 7 })
    let w := st (empDev 1 2100 true { emp0 with phase := .active, frame := some 0 })
    frameDue s.dev 15 = true ∧ s.dev.ports.safeIn = true ∧ frameDue w.dev 15 = false
    ∧ (emp u.dev 15).phase = .active ∧ (emp u.dev 15).frame = some 65535 ∧ (emp u.dev 15).onAir = some sent0 ∧ (emp v.dev 15).phase ≠ .active
    ∧ (emp v.dev 15).enabled = true ∧ (empCfg v.dev 15).sync = true ∧ (emp v.dev 15).edge = none ∧ (emp v.dev 15).phase = .waiting
    ∧ startFrom v.dev 15 ≤ v.dev.clk.localNs + 7 ∧ ¬ startFrom v.dev 15 ≤ v.dev.clk.localNs + 6 ∧ (emp v.dev 15).frame = none
    ∧ (emp w.dev 15).edge = none ∧ (emp w.dev 15).phase ≠ .waiting ∧ (emp w.dev 15).phase ≠ .blank ∧ (emp w.dev 15).frame.isSome = true
    ∧ (let d := empDev 1 2100 false { emp0 with bufs0 := [(1, .cons)] } Dev.reset
       countIf (List.range (empPool d 15 0)) (fun i => (mget? (emp d 15).bufs0 i).isNone) + 1 ≠ empPool d 15 0
       ∧ countIf (List.range (empPool d 15 1)) (fun i => (mget? (emp d 15).bufs1 i).isNone) + 0 = empPool d 15 1) := by
  decide +kernel

/-- A port command: OP, byte 2, flags, buffer, ARRIVE_AT, frame. -/
def empCmd (op b2 fl buf at_ frame : Nat) : EngCmd :=
  ⟨0, 0, 8191, 63, 0, 0, [BitVec.ofNat 8 op, BitVec.ofNat 8 b2, BitVec.ofNat 8 b2, BitVec.ofNat 8 fl] ++ leBytes 2 buf ++ leBytes 2 0
    ++ leBytes 8 at_ ++ List.replicate 12 0 ++ leBytes 4 frame ++ List.replicate 32 0, 0, 0⟩

theorem witness_EmulationCommandsComplete :
    ∀ p ∈ [(1, empCmd 1 4 0 0 0 0, EBufSt.free), (2, empCmd 2 0 2 0 5 0, .prod 8191), (3, empCmd 3 0 0 0 0 0, .prod 8191),
        (4, empCmd 4 0 0 0 0 0, .free)],
      let c := p.2.1
      let s := st (empDev 1 2100 false { emp0 with cmds := [c], bufs0 := [(0, p.2.2)], tickets := [⟨0, 1, 0, 0⟩] })
      let e := emp s.dev 15
      empFront e p.1 = some c ∧ empCmdOk c.bytes = true ∧ e.enabled = true ∧ badEpoch e c = false
      ∧ (ebuf e (cmdSide c) 0 = p.2.2) ∧ (leAt c.bytes 2 1 = 0 ∨ p.1 = 1) ∧ 0 < empPool s.dev 15 (cmdSide c)
      ∧ (p.1 = 1 → ((List.range (empPool s.dev 15 0)).filter (fun i => ebuf e 0 i == .free)).take 4 ≠ [])
      ∧ leAt c.bytes 0x1C 4 ≠ 0xFFFFFFFF ∧ e.tickets.find? (fun t => t.frame == leAt c.bytes 0x1C 4) = some ⟨0, 1, 0, 0⟩ := by decide +kernel

/-- Commands that are answered with another status: no free buffer, an overlay with no base, a buffer that is not held, a frame to come and one
that has passed, a reserved field, a port without EN, an epoch to come. -/
theorem witness_EmulationCommandsComplete_refused :
    let port := fun (e : Emp) => emp (st (empDev 1 2100 false e)).dev 15
    let e := port { emp0 with bufs0 := [(0, .prod 8191)], tickets := [⟨7, 1, 0, 0⟩] }
    ((List.range 1).filter (fun i => ebuf e 0 i == .free)).take 4 = []
    ∧ leAt (empCmd 2 1 0 0 0 0).bytes 2 1 ≠ 0 ∧ e.commits = [] ∧ ebuf e 0 0 = .prod 8191 ∧ ebuf e 0 1 ≠ .prod 8191
    ∧ e.tickets.find? (fun t => t.frame == 8) = none ∧ (e.tickets.getLast?.map (fun t => t.frame)).getD 0 < 8
    ∧ e.tickets.find? (fun t => t.frame == 6) = none ∧ 6 ≤ (e.tickets.getLast?.map (fun t => t.frame)).getD 0
    ∧ empCmdOk (empCmd 1 5 0 0 0 0).bytes = false ∧ empFront (port { emp0 with enabled := false, cmds := [empCmd 1 4 0 0 0 0] }) 1 ≠ none
    ∧ badEpoch e { empCmd 1 4 0 0 0 0 with stamp := 1 } = true ∧ empFront e 1 = none := by decide +kernel

theorem witness_EmulationCommandsComplete_events :
    let s := st (empDev 1 2100 false { emp0 with commits := [{ commit0 with arriveAt := some 5 }] })
    let u := st (empDev 1 2100 false emp0)
    nextArrival (emp s.dev 15) = some (5, { commit0 with arriveAt := some 5 }) ∧ nextArrival (emp u.dev 15) = none
    ∧ isOwner u.dev .mgt = true ∧ (emp u.dev 15).enabled = true ∧ paired u.dev = false ∧ 0 < empPool u.dev 15 0
    ∧ ebuf (emp u.dev 15) 0 0 = .free ∧ sideQueued (emp u.dev 15) 0 < 16 := by decide +kernel

theorem witness_EmulationFramesComplete_verify :
    let c := commit0
    let p : VPass := ⟨0, 0, 0, none⟩
    let s := st (empDev 1 2100 false { emp0 with commits := [c], tickets := [⟨0, 1, 0, 0⟩] })
    let u := st (empDev 1 2100 false { emp0 with commits := [c], tickets := [⟨0, 1, 0, 0⟩], pass := some p })
    let e := emp u.dev 15
    (emp s.dev 15).enabled = true ∧ (emp s.dev 15).pass = none ∧ firstPass (emp s.dev 15) = some (0, p)
    ∧ e.pass = some p ∧ p.buf1 = none ∧ e.commits.find? (fun c => c.side == p.side && c.buf == p.buf0 && c.layer == 0) = some c
    ∧ ticketFor e p.frame = some ⟨0, 1, 0, 0⟩ ∧ commitEntry u.dev 15 c = some (1, 64, 64, 0)
    ∧ passReads u.dev (empCfg u.dev 15) (1, 64, 64, 0) false = ([], false)
    ∧ (passReads u.dev (empCfg u.dev 15) (3, 64, 64, 0) false).2 = true ∧ commitEntry u.dev 15 { c with side := 1 } = none
    ∧ (let d := withObj 4 (obj0 .backed 1) u.dev
       (passReads d (empCfg d 15) (4, 64, 64, 0) false).1 ≠ [] ∧ commitEntry (regPut d (empBase 15 + 0x28) (2 ^ 16 + 4)) 15 c ≠ none)
    ∧ ticketFor e 1 = none ∧ (emp State.reset.dev 15).enabled = false := by decide +kernel

theorem witness_EmulationTargetsComplete :
    let s := st (fun d => regPut (empDev 1 2100 false { emp0 with rt := [(0, ⟨0xFFFF, 9, 0, 0, true⟩)], dispute := true } d)
      (empBase 15 + 0x80) (2 ^ 31 + 2 ^ 16))
    let e := emp s.dev 15
    rtFind s.dev 15 e 0xFFFF = some 0 ∧ (rtEntry e 0).wr = true ∧ rtFind s.dev 15 e 0xFFFE = none ∧ bit (empReg s.dev 14 0x80) 31 = false
    ∧ (rtEntry { e with rt := [(0, ⟨0xFFFF, 9, 0, 0, false⟩)] } 0).wr = false
    ∧ bit (empReg s.dev 15 0x80) 31 = true ∧ e.dyn = none ∧ isOwner s.dev .mgt = true ∧ e.dispute = true ∧ (emp s.dev 14).dispute = false := by
  decide +kernel

/-- Capture port 7: 16 by 2 pixels of RAW8, a pool of one buffer, FSYNC_OUT every 20,000 ns. -/
def capDev (c : Cap) (d : Dev) : Dev :=
  let b := capBase 7
  setCap (regPut (regPut (regPut (regPut (owned d) b (2 ^ 29 + 0x2A * 2 ^ 19)) (b + 4) (16 * 2 ^ 16 + 2)) (b + 8) (2 ^ 16 + 1)) (b + 0x18) 20000) 7 c

def cap0 : Cap := { Cap.reset with enabled := true }

def cframe0 : CFrame := ⟨some 0, 0, 0, 1, [0], false, false, 0⟩

theorem witness_CaptureComplete_frames :
    let s := st (capDev cap0)
    let u := st (capDev { cap0 with bufs := [(0, .filling)] })
    let v := st (capDev { cap0 with cur := some cframe0, bufs := [(0, .filling)] })
    (cap s.dev 7).enabled = true ∧ (cap s.dev 7).cur = none ∧ (cap State.reset.dev 7).enabled = false
    ∧ capClose s.dev 7 true = s.dev ∧ capClose u.dev 7 true = u.dev ∧ ((0 : Fin 4).val = fld (capReg v.dev 7 0) 27 2 ∧ (0x2A : Fin 64).val = capDt v.dev 7)
    ∧ ¬ ((1 : Fin 4).val = fld (capReg v.dev 7 0) 27 2) ∧ capH v.dev 7 ≤ 2 ∧ { cframe0 with buf := none }.buf = none
    ∧ (List.range (capPool s.dev 7)).find? (fun i => (mget? (cap s.dev 7).bufs i).isNone) = some 0
    ∧ (cap u.dev 7).enabled = true ∧ (cap u.dev 7).cur = none
    ∧ (List.range (capPool u.dev 7)).find? (fun i => (mget? (cap u.dev 7).bufs i).isNone) = none
    ∧ (cap v.dev 7).enabled = true ∧ (cap v.dev 7).cur = some cframe0 ∧ cframe0.buf = some 0 ∧ dtDepth (capDt v.dev 7) ≠ 0
    ∧ cframe0.next < capH v.dev 7 ∧ (List.replicate 16 (0 : Byte)).length = lineBytes (capDt v.dev 7) (capW v.dev 7) := by decide

theorem witness_CaptureComplete_ports :
    let take : EngCmd := ⟨0, 0, 8191, 63, 0, 0, [1, 0, 1, 0] ++ List.replicate 60 0, 0, 0⟩
    let ret : EngCmd := ⟨0, 0, 8191, 63, 0, 0, [2, 0, 0, 0] ++ List.replicate 60 0, 0, 0⟩
    let s := st (capDev { cap0 with cmds := [take] })
    let u := st (capDev { cap0 with cmds := [ret], bufs := [(0, .complete false false 0 0 (.taken 8191 false) .waiting)], queue := [0] })
    let v := st (capDev { cap0 with takes := [take], bufs := [(0, .complete true false 0 0 .waiting .waiting)], queue := [0], fso := true })
    let c := cap v.dev 7
    let p := fsoTimes s.dev 7
    isOwner s.dev .mgt = true ∧ (cap s.dev 7).takes = [] ∧ (cap s.dev 7).cur = none
    ∧ (cap s.dev 7).cmds = take :: [] ∧ leAt take.bytes 2 1 < 2 ∧ leAt take.bytes 3 1 = 0 ∧ leAt take.bytes 6 58 = 0
    ∧ (cap s.dev 7).enabled = true ∧ leAt take.bytes 0 1 = 1
    ∧ (cap u.dev 7).cmds = ret :: [] ∧ leAt ret.bytes 0 1 = 2
    ∧ takenBy (sideTake (mget (cap u.dev 7).bufs (leAt ret.bytes 4 2) .filling) (cmdSide ret)) = true
    ∧ c.takes.find? (fun x => (oldestFor c (cmdSide x)).isSome) = some take ∧ oldestFor c (cmdSide take) = some 0
    ∧ mget? c.bufs 0 = some (.complete true false 0 0 .waiting .waiting) ∧ c.fso = true
    ∧ bit (capReg s.dev 7 0) 29 = true ∧ (cap s.dev 7).fso = false ∧ 2 * p.2.2 ≤ p.1 ∧ 0 < p.1 := by decide +kernel

/-! ### Hypotheses that are met: Reedway -/

/-- Port 7 with control word `ctrl`; port 6 is UP and the two form ring 0. -/
def rwDev (ctrl : Nat) (x : RwPort) (d : Dev) : Dev :=
  setRw (setRw (regPut (regPut (owned d) (rwBase 7) ctrl) 0x68010 (2 ^ 31 + 7 * 8 + 6)) 6 { RwPort.reset with st := .up }) 7 x

def rwp (st : PortSt) : RwPort := { RwPort.reset with st := st }

theorem witness_ReedwayPortsComplete :
    let s := st (rwDev 0 (rwp .disabled))
    let f := st (rwDev (2 ^ 31 + 2 ^ 30) (rwp .failed))
    let t := st (rwDev (2 ^ 31 + 2 ^ 29 + 0x3FFFF) { rwp .training with identOk := true })
    let u := st (rwDev (2 ^ 31) { rwp .up with joinWait := true })
    isOwner s.dev .mgt = true ∧ bit (rwCtrl s.dev 7) 31 = false ∧ bit (rwCtrl s.dev 7) 24 = false
    ∧ isOwner f.dev .mgt = true ∧ (rwPort f.dev 7).st = .failed ∧ (rwPort f.dev 7).wrapping = false ∧ bit (rwCtrl f.dev 7) 31 = true
    ∧ bit (rwCtrl f.dev 7) 24 = false ∧ bit (rwCtrl f.dev 7) 30 = true
    ∧ (rwPort t.dev 7).st = .training ∧ rwgId t.dev = 0 ∧ (1 : BitVec 18).toNat ≠ rwgId t.dev ∧ fld (rwCtrl t.dev 7) 0 18 = 0x3FFFF
    ∧ (rwPort t.dev 7).identOk = true ∧ bit (rwCtrl t.dev 7) 29 = true ∧ (rwPort t.dev 7).wrapping = false
    ∧ (rwPort u.dev 7).st = .up ∧ (rwPort u.dev 7).joinWait = true
    ∧ ringMate t.dev 7 = some 6 ∧ ringMate State.reset.dev 7 = none ∧ bit (rwCtrl f.dev 7) 29 = false ∧ bit (rwCtrl s.dev 7) 30 = false
    ∧ (∀ b : Bool, let x := rwPort (rwDev (2 ^ 31) { rwp .isolated with barred := b, alone := b } Dev.reset) 7
        x.st = .isolated ∧ x.barred = b ∧ x.alone = b ∧ bit (rwCtrl (rwDev (2 ^ 31) x Dev.reset) 7) 31 = true)
    ∧ (let x := rwPort (rwDev 0 { rwp .training with identOk := true, wrapping := true } Dev.reset) 7
       x.st = .training ∧ x.identOk = true ∧ x.wrapping = true)
    ∧ (∀ v ∈ [(2 : Nat) ^ 31, 2 ^ 31 + 2 ^ 28], bit v 24 = false ∧ bit v 31 = true ∧ (bit v 28 = true ↔ v ≠ 2 ^ 31)) := by decide

/-- A packet of version 1 for this device, with its trailer. -/
def pkt (ty : BitVec 5) (len : BitVec 16) (ret wrap : Bool) (payload : List Byte) : Pkt :=
  let p : Pkt := ⟨1, ty, len, 0, ret, wrap, false, 0, 0, 5, 0, 0, 9, 0, 1, 1, 0, payload, 0⟩
  { p with trailer := pktTrailer p }

theorem pkt_sealed (ty : BitVec 5) (len : BitVec 16) (ret wrap : Bool) (bs : List Byte) :
    pktTrailer (pkt ty len ret wrap bs) = (pkt ty len ret wrap bs).trailer := rfl

theorem witness_ReedwayPacketsComplete :
    let s := st (fun d => rwDev (2 ^ 31) (rwp .up) (withObj 1 (obj0 .resident 1) d))
    let w := pkt 1 0 false true []
    let z : Pkt := { pkt 7 0 false false [] with ver := 2 }
    (rwPort s.dev 7).st = .up ∧ pktKnown z = false ∧ pktLocal z = false ∧ pktLocal { z with ver := 1, ty := 0x10 } = true ∧ w.ver = 1 ∧ w.wrap = true ∧ 1 ≤ w.ty.toNat ∧ w.ty.toNat ≤ 6 ∧ ringMate s.dev 7 = some 6
    ∧ w.wrapTo.toNat ≠ rwgId s.dev ∧ portUp s.dev 6 = true
    ∧ (∀ ty ∈ [(1 : BitVec 5), 2, 3, 4, 5, 6],
        let p := pkt ty 1 false false []
        p.ver = 1 ∧ p.wrap = false ∧ p.dst.toNat = rwgId s.dev ∧ p.ret = false ∧ p.payload = [] ∧ p.ty = ty)
    ∧ (let p := { pkt 1 0 false true [] with wrapTo := BitVec.ofNat 18 (rwgId s.dev), replay := true }
       pktKnown p = true ∧ p.wrapTo.toNat = rwgId s.dev ∧ ((rwPort s.dev 6).rxSeq + 4095 - p.lseq.toNat) % 4096 = 4095
       ∧ ((rwPort s.dev 6).rxSeq + 4095 - ({ p with lseq := 4095 } : Pkt).lseq.toNat) % 4096 = 0)
    ∧ (let p := { pkt 1 0 false false [] with dst := 1 }
       p.dst.toNat ≠ rwgId s.dev ∧ pktTrailer { p with dst := 0 } ≠ ({ p with trailer := 0 } : Pkt).trailer ∧ objOf s.dev 2 = none
       ∧ accessOk (obj0 .resident 1) 64 65536 false = false ∧ missing 1 (obj0 .backed 1) 0 64 ≠ []
       ∧ spanBad { obj0 .resident 1 with pages := [(0, { page0 .mapped with lost := true })] } 0 64 = true)
    ∧ (rwPort s.dev 5).st ≠ .up ∧ State.reset.dev.boot.st ≠ .service ∧ portUp (rwDev 0 (rwp .up) Dev.reset) 5 = false
    ∧ (let e := rwDev 0 (rwp .up) Dev.reset
       colTake e (pkt 5 0 false false []) = none ∧ ((expireEarly e).rw.early.map (fun q => q.p.payload.length)).sum + 0 ≤ 2 ^ 22)
    ∧ (pkt 4 0 true false []).ret = true ∧ s.dev.boot.st = .service
    ∧ objOf s.dev (pkt 1 0 false false []).word.toNat = some (1, obj0 .resident 1)
    ∧ accessOk (obj0 .resident 1) 0 0 true = true ∧ accessOk (obj0 .resident 1) 0 65536 false = true
    ∧ missing 1 (obj0 .resident 1) 0 65536 = [] ∧ spanBad (obj0 .resident 1) 0 65536 = false := by decide +kernel

theorem witness_ReedwayPacketsComplete_coll :
    let s := st (fun d =>
      let e := rwDev (2 ^ 31) (rwp .up) d
      { e with rw := { e.rw with cols := [⟨1, 0, 0, 0, 0, 0, 2, 0, 0, 0, 63, 0, [], []⟩] } })
    (colTake s.dev (pkt 5 0 false false [])).isSome = true := by decide

theorem witness_ReedwayUpkeepComplete :
    let p : Pool := ⟨512, 511, 1, 0, 0, 0⟩
    let r : Reclaim := ⟨4095, [0, 0, 0, 0, 0], [0, 0, 0, 0, 0]⟩
    let s := st (fun d => regPut (rwDev (2 ^ 31 + 2 ^ 27) { rwp .up with pools := [(4, p)], t1 := some 0, mine := some r } d) 0x68020 15)
    let u := st (fun d => regPut (rwDev 0 (rwp .failed) d) 0x68020 15)
    let x := rwPort s.dev 7
    x.st = .up ∧ (pool x 4).avail + 1 ≤ (pool x 4).granted ∧ (∀ i < 5, poolSound (pool x i) = true)
    ∧ (∀ i < 5, (pool x i).received = [0, 0, 0, 0, 0].getD i 0 ∧ ((pool x i).received + 2 ^ 32 - (pool x i).freed) % 2 ^ 32 ≤ (pool x i).granted)
    ∧ bit (rwCtrl s.dev 7) 27 = true ∧ x.t1 = some 0 ∧ bit (rwgTime s.dev) 31 = false ∧ timePort s.dev = some 7
    ∧ x.mine = some r ∧ (∀ i < 5, poolSound (pool x i) = true ∧ cdiff (pool x i).sent (r.received.getD i 0) ≤ (pool x i).granted
        ∧ cdiff (r.received.getD i 0) (r.freed.getD i 0) ≤ (pool x i).granted ∧ cdiff (r.freed.getD i 0) (pool x i).returned ≤ (pool x i).granted)
    ∧ bit (rwgTime u.dev) 3 = true ∧ timePort u.dev = none ∧ (pool x 4).granted < (pool x 4).avail + 2 ∧ (rwPort u.dev 7).st ≠ .up
    ∧ poolSound ⟨512, 513, 0, 0, 0, 0⟩ = false ∧ (pool x 4).received ≠ [0, 0, 0, 0, 1].getD 4 0 ∧ (rwPort u.dev 7).t1 = none
    ∧ (rwPort u.dev 7).mine = none ∧ bit (rwCtrl u.dev 7) 27 = false ∧ bit (rwgTime State.reset.dev) 3 = false
    ∧ s.dev.rw.cols[0]? = none ∧ mget? s.dev.rw.routes 0 = none ∧ bit (regGet s.dev 0x68008) 31 = false
    ∧ ((((16 : Int) - 0) - (0 - 16)) / 2).natAbs ≤ 16 ∧ 16 < ((((18 : Int) - 0) - (0 - 16)) / 2).natAbs
    -- an offset of 1,000 and of 1,001 ns
    ∧ ((((2000 : Int) - 0) - (0 - 0)) / 2).natAbs ≤ 1000 ∧ 1000 < ((((2002 : Int) - 0) - (0 - 0)) / 2).natAbs := by decide

theorem witness_ReedwayUpkeepComplete_tables :
    let s := st (fun d =>
      let e := regPut (owned d) 0x68008 (2 ^ 31)
      { e with rw := { e.rw with routes := [(4095, ⟨true, 7, 6, 0x3FFFF, 18, 0, 0, false⟩)]
                                 cols := [⟨1, 0, 0, 0, 0, 0, 2, 0, 0, 0, 63, 0, [], []⟩] } })
    isOwner s.dev .mgt = true ∧ mget? s.dev.rw.routes 4095 = some ⟨true, 7, 6, 0x3FFFF, 18, 0, 0, false⟩
    ∧ bit (regGet s.dev 0x68008) 31 = true ∧ s.dev.rw.cols[0]?.isSome = true := by decide

/-! ### Hypotheses that are met: faults, reset, boot, ownership, update -/

theorem witness_FaultReportsContained : State.reset.dev.boot.st ≠ .reset ∧ dieValid 35 = true ∧ dieValid 19 = true
    ∧ Struck.module 99 ≠ .critical ∧ (∀ n < 8, (rwPort State.reset.dev n).st ≠ .up)
    ∧ (st (fun d => { d with boot := { d.boot with st := .reset } })).dev.boot.st = .reset ∧ dieValid 20 = false
    ∧ (pxe State.reset.dev 15).cur = none := by decide

def fenced0 (h : Nat) (d : Dev) : Dev := setFenced d h true

theorem witness_FencingComplete :
    let s := st (fun d => fenced0 1 (owned d))
    let u := st (fun d => { d with flt := { d.flt with selftest := some 1 } })
    fenced s.dev 1 = true ∧ isOwner s.dev .mgt = true ∧ fenced s.dev 0 = false ∧ s.dev.sched.running = none ∧ s.dev.flt.secValid = false
    ∧ dieValid 35 = true ∧ s.dev.flt.retiredModules.contains 99 = false ∧ s.dev.flt.unfenceBusy = false
    ∧ fenceTarget 1 35 = true ∧ fenceTarget 2 99 = true ∧ u.dev.flt.selftest = some 1
    ∧ fenceTarget 0 2 = false ∧ fenceTarget 2 100 = false ∧ fenceTarget 3 0 = false ∧ fenceTarget 1 20 = false := by decide

/-- A job runs in both halves, or in one, and half 1 has ended or not. -/
theorem witness_FencingComplete_jobs : ∀ p ∈ [(true, false), (true, true), (false, false)],
    let j : Job := { job0 with half := p.1, eastEnd := if p.2 then some ⟨.served, 0, [], 0, 0, 0, 0, 0, 0, 0, 0⟩ else none }
    let s := st (fun d => let e := withJob 8191 j (inScope0 (fun x => { x with slot := 8191, kind := if p.1 then .west else .device }) d)
      { e with sched := { e.sched with running := some 8191 } })
    s.dev.sched.running = some 8191 ∧ mget? s.dev.sched.slots 8191 = some j ∧ j.half = p.1
    ∧ (scope s.dev 0).jobValid = true ∧ (scope s.dev 0).slot = 8191 ∧ (scope s.dev 1).jobValid = false
    ∧ (j.eastEnd ≠ none ↔ p.2 = true) := by decide

theorem witness_FencingComplete_token :
    let d := { Dev.reset with flt := { Dev.reset.flt with secValid := true, deferred := some 0, retiredModules := [99] } }
    d.flt.secValid = true ∧ fenced (fenced0 1 d) 1 = true ∧ fenced d 1 = false ∧ d.flt.retiredModules.contains 99 = true := by decide

theorem witness_TokenAndDisputesComplete :
    let s := st owned
    let u := st (fun d => { owned d with flt := { d.flt with dispute := true, acks := [0] } })
    let v := st (fun d => { owned d with flt := { d.flt with dispute := true } })
    fenced s.dev 1 = false ∧ s.dev.flt.dispute = false ∧ (0 : Fin 3).val = roleOf s.dev 1 ∧ (1 : Fin 3).val ≠ roleOf s.dev 1
    ∧ u.dev.flt.dispute = true ∧ fenced u.dev 1 = false ∧ u.dev.flt.acks.contains 1 = false ∧ u.dev.flt.acks.contains (1 - 1) = true
    ∧ u.dev.flt.acks = 0 :: [] ∧ v.dev.flt.acks.contains 1 = false ∧ fenced v.dev 0 = false ∧ v.dev.flt.acks.contains 0 = false
    ∧ s.dev.flt.redundant = true ∧ isOwner s.dev .mgt = true ∧ s.dev.flt.halt = false
    ∧ (let w := fenced0 1 (v.dev)
       fenced w 1 = true ∧ w.flt.acks = [] ∧ w.flt.dispute = true)
    ∧ (let d := fenceHalf (afterTimer u.dev .dispute 20000) 1 3 (faultCode 3 0x15 0x13)
       d.flt.primary = 0 ∧ d.flt.secValid = false)
    ∧ (let d := { s.dev with flt := { s.dev.flt with redundant := false, activeB := true } }
       d.flt.redundant = false ∧ true = d.flt.activeB ∧ false ≠ d.flt.activeB) := by decide

theorem witness_ResetsComplete :
    let s := st owned
    let u := st (fun d => { d with boot := { d.boot with partBusy := true, partKind := 2 } })
    let v := st (fun d => { d with boot := { d.boot with partBusy := true, partKind := 3, partIndex := 99 } })
    let w := st (fun d => fenced0 1 { d with boot := { d.boot with partBusy := true, partKind := 0, partIndex := 1 } })
    let p := st (fun d => { d with boot := { d.boot with perstMode := 1 }, pins := { d.pins with perst1 := true }, bk := { d.bk with powered := false } })
    State.reset.dev.boot.st = .load ∧ isOwner s.dev .mgt = true ∧ s.dev.boot.partBusy = false
    ∧ partTarget 0 1 = true ∧ partTarget 1 35 = true ∧ partTarget 2 39 = true ∧ partTarget 3 129 = true
    ∧ u.dev.boot.partBusy = true ∧ u.dev.boot.partKind = 2 ∧ v.dev.boot.partKind = 3 ∧ v.dev.boot.partIndex < 100
    ∧ w.dev.boot.partKind = 0 ∧ fenced w.dev w.dev.boot.partIndex = true
    ∧ p.dev.boot.perstMode = 1 ∧ ({ p.dev.pins with perst0 := true } : Pins).perst1 = true ∧ s.dev.boot.perstMode ≠ 1
    ∧ p.dev.bk.powered = false ∧ State.reset.dev.bk.powered = true ∧ partTarget 0 2 = false ∧ fenced s.dev 0 = false
    ∧ (deviceReset s.dev 1).boot.st = .reset ∧ (deviceReset s.dev 1).boot.sources ≠ [] ∧ s.dev.boot.st ≠ .load
    ∧ (∀ k ∈ [1, 2, 3, 4, 5], let d := { s.dev with boot := { s.dev.boot with updBusy := true, updOp := k } }
        d.boot.updBusy = true ∧ d.boot.updResult = 0 ∧ d.boot.updOp = k) := by decide

def opt0 (gen : Nat) : OptBlock := ⟨true, 1, 0, gen, []⟩

/-- The smallest Kindling: KEYS of no key, and a SIGNATURE. The CRCs are those of the bytes. -/
def kindling1 : List Byte :=
  leBytes 4 0x4C444E4B ++ [1, 2, 2, 2] ++ leBytes 4 256 ++ leBytes 4 747470182 ++ List.replicate 48 0
    ++ leBytes 2 3 ++ leBytes 2 0 ++ leBytes 4 0 ++ leBytes 4 2 ++ leBytes 4 0
    ++ leBytes 2 8 ++ leBytes 2 0 ++ leBytes 4 2365619475 ++ leBytes 4 2 ++ leBytes 4 112
    ++ List.replicate 32 0 ++ [0, 1] ++ List.replicate 126 0

theorem test_kindCrc : kindCrc kindling1 = true := by
  simp only [kindCrc, crc32_quick]
  decide +kernel

/-- Whether a signature is valid is a free value (notes/assumptions/11.md): where the fuses hold key 0 and it verifies, so does this slot. -/
theorem kindling1_verifies (k : List Byte) (hk : Config.fuseKey 0 = some k) (hs : ∀ m g, Config.ecdsaOk m g k = true) (opt : Nat) :
    kindCode kindling1 opt = 0 := by
  have h8 : (kindSects kindling1).find? (fun s => s.ty == 8) = some ⟨8, 0, 2365619475, 128, 112⟩ := by decide +kernel
  have hq : leAt (slice kindling1 128 112) 0 1 = 0 := by decide +kernel
  have hr : ((112 : Nat) == 112 && 128 + 128 == kindLen kindling1 && leNat (slice kindling1 (128 + 112) 16) == 0
      && decide (leAt (slice kindling1 128 112) 0 1 ≤ 3) && leAt (slice kindling1 128 112) 1 1 == 1) = true := by decide +kernel
  have hS : kindSigned kindling1 = true := by
    simp only [kindSigned, h8, hq, hk, hs, Bool.and_true]
    exact hq ▸ hr
  have h1 : (!kindHeader kindling1 || decide (kindling1.length < kindLen kindling1)) = false := by decide +kernel
  have h2 : (!(decide (leAt kindling1 5 1 ≤ 2) && decide (2 ≤ leAt kindling1 6 1))) = false := by decide +kernel
  have h3 : kindLayout kindling1 = true ∧ kindReserved kindling1 = true ∧ regInits kindling1 = [] := by decide +kernel
  have h4 : kindInitOk kindling1 opt = true := by rw [kindInitOk, h3.2.2]; rfl
  simp only [kindCode, h1, h2, h3.1, h3.2.1, h4, test_kindCrc, hS]
  rfl

/-- LOAD before the PLL locks, the options loaded, with `a` and `b` in the slots. -/
def loading (a b : List Byte) : State := st (fun d =>
  { d with boot := { d.boot with shadowValid := true }, nvm := { d.nvm with slotA := a, slotB := b } })

theorem slotA_chosen (b : List Byte) (hb : ∀ opt, kindCode b opt = 0) :
    let s := loading b []
    let d := { s.dev with clk := { s.dev.clk with locked := true, refclk := true }, bk := { s.dev.bk with jptr := jAddr s.dev.nvm } }
    let e := (jNow d).retired.foldl restoreRetired { d with nvm := jSync d.nvm }
    s.dev.clk.locked = false ∧ s.dev.boot.shadowValid = true ∧ s.dev.boot.st = .load ∧ e.boot.st ≠ .recovery
      ∧ chooseSlot e = (some 0, e) := by
  have h : ∀ d : Dev, d.nvm = { Nvm.reset with slotA := b } → chooseSlot d = (some 0, d) := by
    intro d h1
    have h3 : jNow d = JState.reset := by rw [jNow, h1]; rfl
    have h4 : verifySlot d 0 = true := by rw [verifySlot, slotBytes, if_pos rfl, h1, hb]; rfl
    simp [chooseSlot, h3, JState.reset, h4]
  exact ⟨rfl, rfl, rfl, (by show DevState.load ≠ .recovery; decide), h _ rfl⟩

theorem witness_BootComplete_lock (k : List Byte) (hk : Config.fuseKey 0 = some k) (hs : ∀ m g, Config.ecdsaOk m g k = true) :
    let s := loading kindling1 []
    let d := { s.dev with clk := { s.dev.clk with locked := true, refclk := true }, bk := { s.dev.bk with jptr := jAddr s.dev.nvm } }
    let e := (jNow d).retired.foldl restoreRetired { d with nvm := jSync d.nvm }
    s.dev.clk.locked = false ∧ s.dev.boot.shadowValid = true ∧ s.dev.boot.st = .load ∧ e.boot.st ≠ .recovery ∧ chooseSlot e = (some 0, e) :=
  slotA_chosen kindling1 (kindling1_verifies k hk hs)

/-- A journal of `rs` in both mirrors. -/
def journal (rs : List JRec) (n : Nvm) : Nvm :=
  let m : JMirror := ⟨(List.range rs.length).zipWith (fun i r => ⟨i, r, true⟩) rs, [], 0⟩
  { n with jm0 := m, jm1 := m }

theorem witness_BootComplete :
    let s := st (fun d => { d with boot := { d.boot with st := .reset }, bk := { d.bk with torn := 2 }
                                   nvm := { d.nvm with trimValid := true, opt0 := opt0 0, opt1 := opt0 1 } })
    let u := loading [] []
    let e := { u.dev with clk := { u.dev.clk with locked := true, refclk := true }, bk := { u.dev.bk with jptr := jAddr u.dev.nvm } }
    let e := { e with nvm := jSync e.nvm }
    let v := st (fun d => { d with boot := { d.boot with chosen := true } })
    let w := st (fun d => { d with boot := { d.boot with st := .selftest } })
    s.dev.boot.st = .reset ∧ s.dev.boot.testHeld = false ∧ 3 ∉ s.dev.boot.sources ∧ 6 ∉ s.dev.boot.sources ∧ s.dev.bk.torn < 3
    ∧ s.dev.nvm.trimValid = true ∧ s.dev.nvm.opt0.valid = true ∧ s.dev.nvm.opt1.valid = true
    ∧ s.dev.nvm.opt0.gen < s.dev.nvm.opt1.gen ∧ State.reset.dev.nvm.opt0.valid = false
    ∧ u.dev.clk.locked = false ∧ u.dev.boot.shadowValid = true ∧ (jNow e).retired.foldl restoreRetired e = e
    ∧ e.boot.st ≠ .recovery ∧ chooseSlot e = (none, e)
    ∧ v.dev.boot.st = .load ∧ v.dev.boot.chosen = true ∧ applyKindling v.dev (slotBytes v.dev v.dev.boot.slot) = some v.dev
    ∧ w.dev.boot.st = .selftest ∧ w.dev.flt.retiredDies = [] ∧ w.dev.hbm.retireQ = []
    ∧ (jNow { u.dev with nvm := journal [.activate 1] u.dev.nvm }).pending = some 1
    ∧ (jNow { u.dev with nvm := journal [.activate 1, .bootTry 1, .bootTry 1, .bootTry 1] u.dev.nvm }).tries = 3 := by decide

theorem witness_OwnershipComplete :
    let s := st (fun d => { d with own := { d.own with claimTerm := [(.m, 1)] } })
    let u := st (fun d => { owned d with own := { (owned d).own with claimTerm := [(.m, 1)], pend := [(.h, 7)] } })
    let v := st (fun d => { d with own := { d.own with electing := true, pend := [(.h, 7), (.f, 7)] } })
    s.dev.boot.st ≠ .reset ∧ s.dev.own.st = .noOwner ∧ s.dev.own.term < claimTermOf s.dev (masterOf .mgt)
    ∧ u.dev.own.st = .owned ∧ u.dev.own.electing = false ∧ u.dev.own.standing = false ∧ u.dev.own.owner = some (masterOf .mgt)
    ∧ u.dev.own.term < claimTermOf u.dev (masterOf .mgt)
    ∧ s.dev.own.st ≠ .dispute ∧ claimTermOf s.dev (masterOf .hl0) ≤ s.dev.own.term
    ∧ v.dev.own.electing = true ∧ winner v.dev.own = some (.h, 7)
    ∧ masterNo 1 = some .h ∧ ofMaster u.dev.own.pend .h = some 7 ∧ masterNo 0 = none ∧ ofMaster u.dev.own.pend .f = none
    ∧ u.dev.flt.redundant = true ∧ winner s.dev.own = none ∧ s.dev.own.electing = false
    ∧ (let d := { u.dev with own := { u.dev.own with st := .dispute } }
       d.own.st = .dispute ∧ claimValid d (claimTermOf d .m) = true)
    ∧ (let d := { u.dev with own := { u.dev.own with standing := true, owner := some .f } }
       d.own.st = .owned ∧ d.own.electing = false ∧ d.own.standing = true ∧ d.own.owner ≠ some (masterOf .mgt))
    ∧ State.reset.dev.boot.st ≠ .reset ∧ (deviceReset s.dev 1).boot.st = .reset := by decide

/-- The owner of a device in SERVICE; object 1 holds the Kindling. -/
def updating (busy : Bool) (op : Nat) (f : Dev → Dev) : State := st (fun d =>
  let e := owned (holding kindling1 d)
  f { e with boot := { e.boot with updBusy := busy, updOp := op, updHandle := 1 } })

/-- A command that its state has already answered. -/
def busyOf (d : Dev) : Dev := { d with boot := { d.boot with updBusy := true, updResult := 1 } }

theorem witness_UpdateComplete :
    let s := updating false 0 id
    let a := updating false 0 (fun d => { d with boot := { d.boot with verifiedB := true } })
    let c := updating false 0 (fun d => { d with boot := { d.boot with slot := 1 }, nvm := journal [.activate 1] d.nvm })
    let n := updating true 1 (fun d => { d with nvm := journal [.erase 1] d.nvm })
    let o := updating true 5 (fun d => { d with nvm := { d.nvm with opt0 := opt0 0 } })
    isOwner s.dev .mgt = true ∧ s.dev.boot.updBusy = false ∧ downloadBlocked s.dev 1 = 0 ∧ objHere s.dev 1 64 = some (1, [])
    ∧ slotVerified a.dev (inactiveSlot a.dev) = true ∧ c.dev.boot.st = .service ∧ (jNow c.dev).pending = some c.dev.boot.slot
    ∧ n.dev.boot.updBusy = true ∧ n.dev.boot.updResult = 0 ∧ n.dev.boot.updOp = 1 ∧ objOf n.dev n.dev.boot.updHandle = some (1, obj0 .resident 1)
    ∧ missing 1 (obj0 .resident 1) 0 256 = [] ∧ kindHeader (t1Read n.dev 1 0 64) = true ∧ kindLen (t1Read n.dev 1 0 64) = 256
    ∧ slotBytes n.dev (inactiveSlot n.dev) = [] ∧ eraseMark n.dev (inactiveSlot n.dev) = true ∧ spanBad (obj0 .resident 1) 0 256 = false
    ∧ o.dev.boot.updOp = 5 ∧ objHere o.dev o.dev.boot.updHandle 64 = some (1, []) ∧ o.dev.nvm.opt0.valid = true ∧ o.dev.nvm.opt1.valid = false
    ∧ objHere s.dev 2 64 = none ∧ objHere (withObj 2 (obj0 .backed 1) s.dev) 2 64 = some (2, [pageKey 2 0])
    ∧ kindHeader (t1Read s.dev 2 0 64) = false ∧ (busyOf s.dev).boot.updResult ≠ 0 := by
  decide +kernel

theorem witness_UpdateComplete_verify (k : List Byte) (hk : Config.fuseKey 0 = some k) (hs : ∀ m g, Config.ecdsaOk m g k = true) :
    let s := updating true 2 (fun d => { d with nvm := { d.nvm with slotB := kindling1 } })
    s.dev.boot.updBusy = true ∧ s.dev.boot.updResult = 0 ∧ s.dev.boot.updOp = 2
    ∧ kindCode (slotBytes s.dev (inactiveSlot s.dev)) s.dev.boot.powerClassOpt = 0 :=
  ⟨rfl, rfl, rfl, kindling1_verifies k hk hs _⟩

/-! ### Hypotheses that are met: power, links, management, registers, the machine -/

/-- Every rail of Table 18-4 is named by the slot of its number, and a die reads 106 °C. -/
def railed : State := st (fun d =>
  let e := (List.range 33).foldl (fun d k => regPut d (0x6040 + 4 * k) (2 ^ 31 + k)) d
  { e with clk := { e.clk with locked := true }, pwr := { e.pwr with temps := [(0, 106)] } })

theorem witness_PowerComplete :
    let s := railed
    let u := st (fun d => { d with pwr := { d.pwr with want := some 1, brake := true } })
    s.dev.clk.locked = true ∧ tjNow s.dev < 110 ∧ hbmMax s.dev ≤ 105 ∧ s.dev.pwr.brake = false ∧ s.dev.pwr.brakeHold ≤ 100
    ∧ railMissing s.dev = false ∧ stepNow s.dev < 2 ∧ tjHigh s.dev ≤ tjNow s.dev
    ∧ u.dev.pwr.want = some 1 ∧ u.dev.pwr.brake = true ∧ u.dev.boot.st ≠ .reset
    ∧ differing [(55, 115)] = [] ∧ [(53, 115)].find? (fun p => isTrip p.1 && decide (115 ≤ p.2)) = some (53, 115)
    ∧ (∀ p ∈ [(53, 114), (55, 120)], isTrip p.1 = true → p.2 < 115) := by decide +kernel

/-- The governor at step 1 and 40 °C whose dwell has run `ran` microseconds, and whose samples are `ss`. -/
def governed (ran : Nat) (ss : List Nat) : Dev :=
  let d := railed.dev
  { d with clk := { d.clk with step := 1 }, pwr := { d.pwr with temps := [(0, 40)], dwell := some ran, samples := ss } }

theorem witness_PowerComplete_dwell : ∀ ran ∈ [9899, 9900],
    let d := governed ran []
    let p := devicePower d []
    railMissing d = false ∧ stepNow d = 1 ∧ fastestStep d ≤ 1 ∧ tjNow d < tjHigh d ∧ hbmMax d ≤ 105 ∧ d.pwr.brakeHold ≤ 100
    ∧ ¬ 110 * classLimit (classNow d) < 100 * p ∧ ¬ classLimit (classNow d) < meanPower (p :: d.pwr.samples) ∧ upOk d p = true
    ∧ (upDwell d ≤ ran + 100 ↔ ran = 9900) := by decide +kernel

theorem witness_PowerComplete_steps :
    let d := governed 0 [2 ^ 40]
    let b := { d with clk := { d.clk with step := 2 }, pwr := { d.pwr with brake := true } }
    classLimit (classNow d) < meanPower (devicePower d [] :: d.pwr.samples) ∧ stepNow d < 2 ∧ b.pwr.brake = true ∧ ¬ stepNow b < 2
    ∧ railTrips 0 705 = true ∧ railTrips 20 846 = true ∧ railTrips 25 700 = true ∧ railTrips 29 1905 = true ∧ railTrips 0 706 = false
    ∧ upOk b (devicePower b []) = true ∧ stepNow b = 2
    ∧ (let c := regPut { d with pwr := { d.pwr with samples := [] } } 0x4004 0x09676200
       fastestStep c = 1 ∧ upOk c (devicePower c []) = false)
    ∧ maySleep (withJob 0 job0 (owned Dev.reset)) = false
    ∧ State.reset.dev.clk.locked = false ∧ (deviceReset (owned Dev.reset) 1).boot.st = .reset := by decide +kernel

theorem witness_PowerComplete_sleep :
    let s := st owned
    let u := st (fun d => { owned d with pwr := { d.pwr with entering := true } })
    let v := st (fun d => { owned d with boot := { d.boot with st := .sleep } })
    let w := st (fun d => { owned d with boot := { d.boot with st := .sleep }, pwr := { d.pwr with waking := true } })
    isOwner s.dev .mgt = true ∧ maySleep s.dev = true ∧ u.dev.pwr.entering = true ∧ u.dev.boot.st = .service
    ∧ isOwner v.dev .mgt = true ∧ v.dev.boot.st = .sleep ∧ v.dev.pwr.entering = false ∧ w.dev.boot.st = .sleep ∧ w.dev.pwr.waking = true := by
  decide

theorem witness_HostLinksComplete :
    let s := st (fun d => { d with clk := { d.clk with locked := true } })
    let u := st (fun d => regPut { owned d with hlk := { d.hlk with up0 := true, up1 := true, cxl0 := true, cxl1 := true, serve := 2 ^ 63 } }
      0x70000 (2 ^ 31 + 2 ^ 30))
    let v := st (fun d => { d with hlk := { d.hlk with move := some ⟨0, [63]⟩ } })
    linkUp s.dev 1 = false ∧ perstLow s.dev 1 = false ∧ s.dev.clk.locked = true
    ∧ linkUp u.dev 0 = true ∧ linkUp u.dev 1 = true ∧ bit (regGet u.dev 0x70000) 31 = true ∧ u.dev.hlk.move = none
    ∧ u.dev.hlk.cxl0 = true ∧ isOwner u.dev .mgt = true ∧ pairsOn u.dev 1 = [63] ∧ awayPairs u.dev = 63 :: []
    ∧ bit (regGet u.dev 0x70000) 30 = true ∧ (awayPairs u.dev).filter (fun q => servingLink u.dev q == 1 - 0) = 63 :: []
    ∧ v.dev.hlk.move = some ⟨0, [63]⟩ ∧ (∀ q ∈ [63], servingLink v.dev q = 0)
    ∧ awayPairs s.dev = [] ∧ u.dev.hlk.cxl1 = true ∧ linkUp (st (fun d => { d with hlk := { d.hlk with up1 := true } })).dev 1 = true
    ∧ linkUp s.dev 0 = false ∧ bit (regGet (regPut s.dev 0x70000 0) 0x70000) 30 = false := by decide

theorem witness_HostLinksComplete_window :
    let s := st (fun d => regPut (withObj 1 (obj0 .resident 1) { owned d with hlk := { d.hlk with up0 := true, ptmOut := some 0 } })
      0x70020 (2 ^ 31 + 1))
    linkUp s.dev 0 = true ∧ bar0Open s.dev = true ∧ winSpan s.dev 61440 4096 = some (1, obj0 .resident 1, 61440)
    ∧ missing 1 (obj0 .resident 1) 61440 4096 = [] ∧ ptmLink s.dev = some 0 ∧ s.dev.hlk.ptmOut = some 0
    ∧ (timeOffset 0 2002 0 0).natAbs = 1001 ∧ (timeOffset 0 2000 0 0).natAbs = 1000
    ∧ (timeOffset 0 32 0 0).natAbs = 16 ∧ (timeOffset 0 34 0 0).natAbs = 17 ∧ winSpan s.dev 65535 2 = none ∧ ptmLink State.reset.dev = none
    ∧ missing 1 (obj0 .backed 1) 0 64 ≠ [] ∧ obj? s.dev 2 = none
    ∧ bit (regGet (regPut s.dev 0x70000 (2 ^ 29)) 0x70000) 29 = true ∧ bit (rwgTime s.dev) 3 = false := by decide

theorem witness_ServicePortsComplete :
    let s := st (fun d => regPut (regPut d 0x6000 (2 ^ 31)) 0x6008 (2 ^ 31))
    let u := st (fun d => { owned d with clk := { d.clk with locked := true }, pins := { d.pins with rstLow := true, jtagEn := true } })
    let v := st (fun d => { d with mgt := { d.mgt with xfer := some ⟨true, true, 47, 0x96, 0⟩ } })
    let w := st (fun d => { d with mgt := { d.mgt with xfer := some ⟨false, false, 47, 0x96, 0xFF⟩ } })
    carriesMsg .mgt = true ∧ carriesMsg .rwy = true ∧ s.dev.boot.st ≠ .reset ∧ neverLate 0x70000 = false
    ∧ bit (regGet s.dev 0x6000) 31 = true ∧ s.dev.mgt.daValid = false ∧ bit (regGet s.dev 0x6008) 31 = true
    ∧ u.dev.clk.locked = true ∧ isOwner u.dev .mgt = true ∧ u.dev.mgt.xfer = none ∧ fld (47 * 2 ^ 16) 16 6 < 48
    ∧ v.dev.mgt.xfer = some ⟨true, true, 47, 0x96, 0⟩ ∧ w.dev.mgt.xfer = some ⟨false, false, 47, 0x96, 0xFF⟩
    ∧ u.dev.pins.rstLow = true ∧ u.dev.pins.jtagEn = true := by decide

theorem witness_WrongSizeAccess : reaches (st owned).dev .mgt = true ∧ (64 : Fin 65).val ≠ 4 ∧ (0xFFFFFF : BitVec 24).toNat % 4 ≠ 0 := by decide

theorem witness_PairCapture : reaches (st owned).dev .mgt = true ∧ isLo 0x3008 = true ∧ 0x3008 % 4 = 0
    ∧ (regView (st owned).dev .mgt 0x3008).isSome = true ∧ isLo 0x300C = false ∧ (regView (st owned).dev .mgt 0x300C).isSome = true
    ∧ (st owned).dev.boot.st ≠ .reset := by decide

theorem witness_RegisterAccess : reaches (st owned).dev .mgt = true ∧ isOwner (st owned).dev .mgt = true
    ∧ maskLow 0x6014 = some 0xFFFF ∧ (regView (st owned).dev .mgt 0x6014).isSome = true
    ∧ reaches (st (fun d => { owned d with hlk := { d.hlk with up0 := true } })).dev .hl0 = true ∧ isOwner (st owned).dev .hl0 = false
    ∧ (regView (st owned).dev .hl0 0x6014).isSome = true ∧ openWrite 0x6014 0 = false
    ∧ regView (st owned).dev .mgt 0xFFFFFC = none ∧ isLo 0x6014 = false ∧ isLo 0x6010 = false := by decide

theorem witness_StepRunsFront (c : Instr) : (⟨Dev.reset, [c]⟩ : State).pending = c :: [] := rfl

theorem witness_IdleClock :
    let s := st (fun d => { d with clk := { d.clk with locked := true, phase := 2 } })
    State.reset.pending = [] ∧ State.reset.dev.boot.st ≠ .reset ∧ State.reset.dev.clk.slew = 0 ∧ State.reset.dev.clk.locked = false
    ∧ s.dev.clk.locked = true ∧ s.dev.clk.phase = 2
    ∧ (st (fun d => { d with boot := { d.boot with st := .reset } })).dev.boot.st = .reset := by decide

theorem witness_EveryCommandAnswers : wfInstr (.beat 0) = true ∧ wfInstr (.eng 0 g0 0 4 0 0) = false := by decide

theorem witness_NeverStops : QueueReady ⟨Dev.reset, [.nop 799, .beat 0]⟩ := by
  intro c hc
  simp only [List.mem_cons, List.not_mem_nil, or_false] at hc
  obtain rfl | rfl := hc <;> rfl

theorem witness_T1Writes :
    let s := st (withObj 0xFFFF (obj0 .backed 1))
    Memory.wf s.dev.tmg.mem = true ∧ obj? s.dev 0xFFFF = some (obj0 .backed 1) ∧ jobNames s.dev 0xFFFF (obj0 .backed 1) = false := by decide

/-! ### Worked examples of the spec -/

/-- Table 3-3: frozen at 10,000, the report seen ready at 10,162. -/
theorem test_slip :
    let x := scope (slipRestart (st (fun d => setTile (inScope0 (fun x => { x with
      phase := .slip, slipAt := some 10000, slipFrom := 10000, jobCycles := 10000, pos := 10000,
      reps := [⟨10000, 85, 7, true, some 10162⟩] }) d) 85
      { Tile.reset with core := { TileCore.reset with lbs := [(7, ⟨.ready, 0, 64, 64, 64, .t1⟩)] } })).dev 0) 0
    x.slipCycles = 194 ∧ x.jobCycles = 10194 ∧ x.pos = 10000 ∧ x.slipEvents = 1 ∧ x.lastTile = 85 ∧ x.lastLb = 7
    ∧ x.phase = .run := by decide

/-- Table 3-5: the resolution in cycle 50,316 squashes, and position 52,000 is entered 32 cycles later. -/
def squashed : State := scSt (fun x => { x with
  jobCycles := 50316, pos := 50316, regions := [{ reg0 with s := 50000, e := 51999 }],
  spec := some { spec0 with ck := { ck0 with pos := 50000, cycle := 50000 }, startCycle := 50000, due := some 50316 } })

theorem test_squash :
    let d := resolveSquash squashed.dev 0 { spec0 with ck := { ck0 with pos := 50000, cycle := 50000 }, startCycle := 50000, due := some 50316 } 50316
    let x := scope d 0
    x.phase = .squash ∧ x.resume = 50348 ∧ x.skipped = 2000 ∧ x.pos = 52000 ∧ x.specCycles = 316 := by decide

theorem test_replay :
    let rr : RRun := { rrun0 with ck := { ck0 with pos := 120000, cycle := 120000 }, num := 0, startCycle := 120000 }
    let r : Region := { reg0 with s := 120000, e := 123999 }
    let s := scSt (fun x => { x with jobCycles := 124032, pos := 124032, regions := [r], rrun := some rr })
    let x := scope (replayNow s.dev 0 spec0 rr r 124032) 0
    x.phase = .replay ∧ x.resume = 124128 ∧ x.replayCycles = 4032 ∧ x.pos = 120000
    ∧ x.rrun.map (fun q => q.num) = some 1 := by decide

/-- The sticky step of R131: 2^40 plus 2^16 and a product of 2^-18, of -2^-18, and of none. -/
def acc40 (p : List Machine.Num) : Word := rnd32 (numAdd (dec32 0x53800000) (macGroup (.fin false 65536 1 :: p)))

theorem test_sticky : acc40 [.fin false 1 262144] = 0x53800001 ∧ acc40 [.fin true 1 262144] = 0x53800000
    ∧ acc40 [] = 0x53800000 := by decide

/-- The D4 block of chapter 6, replayed with a divisor of 1.75. -/
theorem test_d4 :
    (convert 7 .rne true (.fin false 7 4) (.fin false 10 1)).code = 0x7
    ∧ (convert 7 .rne true (.fin false 7 4) (.fin false 35 8)).code = 0x4
    ∧ (convert 7 .rne true (.fin false 7 4) (.fin true 49 8)).code = 0xE := by decide

theorem test_d4_scales : newScaleExp 7 10 1 = 1 ∧ roundUpUE5M3 (.fin false 10 12) = (0x76, false) := by decide

/-- Two states merged: {0, 2, 2, 4} with {4, 6}. -/
theorem test_wmrg : wmrgLane ⟨0x40800000, 0x40000000, 0x41000000⟩ ⟨0x40000000, 0x40A00000, 0x40000000⟩
    = ⟨0x40C00000, 0x40400000, 0x41B00000⟩ := by decide

/-- Table 10-4. -/
def lead10 (est : Nat) : Nat :=
  let d := regPut Dev.reset 0x20030 (2 ^ 26 + 256)
  leadOf (setEst d 1 est) ⟨40000, 1, 0, 0, 0, 16, 48, 0, 0, false, 0⟩ 1

theorem test_lead : [2000, 2550, 2775].map lead10 = [36, 44, 48] := by decide

theorem test_estimate : estNext 2000 3100 1 = 2550 ∧ estNext 2550 3000 1 = 2775 ∧ estNext 2775 2900 1 = 2837 := by decide

/-- R292: E_R 8.0, with E_A 10.0 and 40.0, on a port of 12 bits with BLACK 256. -/
theorem test_exposure :
    trimOf 0x2C 0x41200000 0x41000000 = ⟨0x3FA00000, true, true, false⟩
    ∧ trimOf 0x2C 0x42200000 0x41000000 = ⟨0x40800000, true, false, true⟩
    ∧ clampComp 12 (trimComp 0x3FA00000 256 1000) = (1186, false)
    ∧ clampComp 12 (trimComp 0x3FA00000 256 3600) = (4095, true) := by decide

/-- Chapter 9: nibble 0xD of group 5 of column 3, and the two codes in byte 101. -/
def sparse : WBuf :=
  ⟨7, true, List.replicate 101 0 ++ [0xB1], [], List.replicate 50 0 ++ [0xD0], 0x3F800000, []⟩

theorem test_sparse : weightPos sparse 10 3 = some 21 ∧ weightPos sparse 11 3 = some 23
    ∧ weightElem sparse 10 3 = .fin false 1 2 ∧ weightElem sparse 11 3 = .fin true 3 2
    ∧ weightPos sparse 12 3 = none := by decide

/-- The check value of CRC-32 over the nine digits. -/
theorem test_crc : crc32 [0x31, 0x32, 0x33, 0x34, 0x35, 0x36, 0x37, 0x38, 0x39] = 0xCBF43926 := by
  rw [crc32_quick]
  decide

/-- R388: an empty queue passes a cycle, of 40 ns before the PLL locks and of 3, 3 and 2 ns after. -/
def clocked (p : Nat) : State := st (fun d => { d with
  boot := { d.boot with st := .service }, clk := { d.clk with locked := true, phase := p, devtime := 100 } })

theorem test_tick : [0, 1, 2].map (fun p => (tick (clocked p).dev).clk.devtime) = [103, 103, 102] := by decide

/-- Terms decide an election, and of equal terms H stands before F before M (R376). -/
theorem test_election :
    winner { Dev.reset.own with pend := setMaster (setMaster (setMaster [] .m 7) .f 7) .h 6 } = some (.f, 7) := by decide

theorem test_wrong_size :
    ((badAccess (owned Dev.reset) 0x200).flt.ring.map (fun p => (p.2.cls, p.2.block, p.2.code))) = [(0, 0x16, 1)] := by decide


/-! ### Formats beside the machine (worked examples of chapters 08, 09 and 20) -/

/-- Table 8-5: the four-partition merge. -/
theorem test_merge_table_8_5 :
    mergeTree 2 [⟨0x40800000#32, 0x40400000#32, 0x40A00000#32⟩, ⟨0x40000000#32, 0x41000000#32, 0x40800000#32⟩,
      ⟨0x40A00000#32, 0x3F800000#32, 0x40000000#32⟩, SoftState.empty]
      = ⟨0x40A00000#32, 0x40600000#32, 0x40A00000#32⟩ := by decide

/-- The four candidates of Table 8-8. -/
def cands88 : CandTable := ⟨1000, false, 0, 88, [(17, 0), (903, 1), (42, 0), (511, 3)]⟩

/-- The targets of Table 8-8. -/
def targets88 (i : Nat) : Nat := [42, 903, 7, 511, 260].getD i 0

/-- The record and the tokens of the four-candidate step. -/
theorem test_verification_step :
    verifyRecord cands88 (greedyPass cands88 targets88) targets88
      = leBytes 2 0xC ++ leBytes 2 0xC ++ leBytes 4 2 ++ leBytes 4 260 ++ leBytes 4 1003
    ∧ emitted cands88 (greedyPass cands88 targets88) targets88 = [42, 511, 260]
    ∧ commitRows cands88 (greedyPass cands88 targets88) = [(0, 1000), (3, 1001), (4, 1002)] := by decide

/-- Table 8-9: what row 4 sees. -/
theorem test_staged_rows : (List.range 5).map (staged cands88 4) = [true, false, false, true, true] := by decide

/-- The capacity example: 32 of 192 tokens select the expert, CAP = 24. -/
theorem test_capacity : droppedAssignments (fun t => decide (t < 9) || decide (128 ≤ t && t < 151)) 24 192 = 8 := by decide

/-- A NaN logit ranks below −inf, and equal logits by index. -/
theorem test_expert_ranks : topExperts [nan32, ninf32, 0x3F800000#32, 0x3F800000#32] 4 = [2, 3, 1, 0] := by decide

/-- Ball BV lies in row 57, and the last row is ED. -/
theorem test_ball_rows : ballName 57 88 = ['B', 'V', '8', '8'] ∧ rowName 104 = ['E', 'D'] ∧ ballRegion 57 88 = .east
    ∧ ballCentre 57 88 = (9, 71) := by decide

/-- Outputs in SERVICE with a class 3 fault pending, and in RESET. -/
theorem test_output_levels :
    let d := record { Dev.reset with boot := { Boot.reset with st := .service }, clk := { Clk.reset with locked := true } } (fspec 3 0x11 0x0A)
    pinLevel d .faultN = .low ∧ pinLevel d (.empOk 0) = .low ∧ pinLevel d (.rwTx 0) = .highZ
    ∧ pinLevel (deviceReset d 1) .faultN = .highZ := by decide

end Sys2Proof.Tests
end

section
/-! What a record of a low class, and with it an access of the wrong size (R3), leaves unchanged. -/

namespace Sys2Proof.Machine

open Sys2Proof

/-! ### Records -/

/-- A vector raised on either link moves no pair to another link. -/
@[simp] theorem raiseOn_serve (d : Dev) (link vec : Nat) : (raiseOn d link vec).hlk.serve = d.hlk.serve := by
  unfold raiseOn
  simp only [apply_ite Dev.hlk, apply_ite Hlk.serve, emit_hlk, ite_self]

@[simp] theorem recordAt_serve (d : Dev) (f : FSpec) (us : Nat) (late con : Bool) :
    (recordAt d f us late con).hlk.serve = d.hlk.serve := by
  unfold recordAt
  simp only [apply_ite Dev.hlk, apply_ite Hlk.serve, emit_hlk, raiseOn_serve, ite_self]

/-- Only a record of class 3 or above goes to the crash log. -/
theorem recordAt_bk_low (d : Dev) (f : FSpec) (us : Nat) (late con : Bool) (h : f.cls < 3) :
    (recordAt d f us late con).bk = d.bk := by
  unfold recordAt
  simp only [apply_ite Dev.bk, emit_bk, raiseOn_bk, ite_self, if_neg (Nat.not_le.mpr h)]

/-- A record of class 0 or 1 changes nothing but the collector, pending vectors and what leaves the device. -/
theorem record_low_frame (d : Dev) (f : FSpec) (h : f.cls ≤ 1) :
    { record d f with flt := d.flt, out := d.out, hlk := d.hlk } = d := by
  have hbk := recordAt_bk_low d f 0 false false (Nat.lt_of_le_of_lt h (by decide))
  obtain ⟨a, b, c, e, hshape⟩ := recordAt_shape d f 0 false false
  obtain rfl : b = d.bk := by simpa only [hshape] using hbk
  rw [record_low d f h, hshape]

theorem record_low_serve (d : Dev) (f : FSpec) (h : f.cls ≤ 1) : (record d f).hlk.serve = d.hlk.serve := by
  rw [record_low d f h, recordAt_serve]

/-! ### The record of R3 -/

@[simp] theorem badAccess_regs (d : Dev) (off : Nat) : (badAccess d off).regs = d.regs := record_regs _ _

theorem badAccess_frame (d : Dev) (off : Nat) : { badAccess d off with flt := d.flt, out := d.out, hlk := d.hlk } = d :=
  record_low_frame d _ (Nat.zero_le 1)

@[simp] theorem badAccess_serve (d : Dev) (off : Nat) : (badAccess d off).hlk.serve = d.hlk.serve :=
  record_low_serve d _ (Nat.zero_le 1)

/-- The newest record names the rule broken and carries the offset. -/
theorem badAccess_newest (d : Dev) (off : BitVec 24) :
    ∃ r, mget? (badAccess d off.toNat).flt.ring (d.flt.seq % 256) = some r
      ∧ r.cls = 0 ∧ r.block = 0x16 ∧ r.code = 0x01 ∧ r.detail = off.toNat := by
  obtain ⟨r, hring, hcls, hblock, hcode, -, -, hdetail, -⟩ := record_newest d { fspec 0 0x16 0x01 with detail := off.toNat }
  have hfits : off.toNat % 2 ^ 64 = off.toNat := Nat.mod_eq_of_lt (Nat.lt_trans off.isLt (by decide))
  exact ⟨r, hring, hcls, hblock, hcode, hdetail.trans hfits⟩

/-! ### ACCESS_WRONG_SIZE -/

/-- The device after an access of the wrong size: the record, and the 0 that a read gets back. -/
def afterWrongSize (d : Dev) (src : Iface) (off : BitVec 24) (wr : Bool) : Dev :=
  if wr then badAccess d off.toNat else emit (badAccess d off.toNat) (.rdata src off.toNat 0)

/-- No effect without a way to the device, nor of an aligned word. -/
theorem exec_accessWrongSize_idle (s : State) (src : Iface) (off : BitVec 24) (n : Fin 65) (wr : Bool)
    (h : reaches s.dev src = false ∨ (n.val = 4 ∧ off.toNat % 4 = 0)) :
    exec (.accessWrongSize src off n wr) s = .next s := by
  change execAccessWrongSize src off n wr s = .next s
  have hidle : (!reaches s.dev src || (n.val == 4 && off.toNat % 4 == 0)) = true := by simpa using h
  simp only [execAccessWrongSize, lift, if_pos hidle]

theorem exec_accessWrongSize_answer (s : State) (src : Iface) (off : BitVec 24) (n : Fin 65) (wr : Bool)
    (hreach : reaches s.dev src = true) (hsize : n.val ≠ 4 ∨ off.toNat % 4 ≠ 0) :
    exec (.accessWrongSize src off n wr) s = .next { s with dev := afterWrongSize s.dev src off wr } := by
  change execAccessWrongSize src off n wr s = _
  have hacts : ¬ (!reaches s.dev src || (n.val == 4 && off.toNat % 4 == 0)) = true := by
    simpa [hreach, imp_iff_not_or] using hsize
  simp only [execAccessWrongSize, lift, if_neg hacts, afterWrongSize]

@[simp] theorem afterWrongSize_regs (d : Dev) (src : Iface) (off : BitVec 24) (wr : Bool) :
    (afterWrongSize d src off wr).regs = d.regs := by
  cases wr <;> exact badAccess_regs d off.toNat

@[simp] theorem afterWrongSize_flt (d : Dev) (src : Iface) (off : BitVec 24) (wr : Bool) :
    (afterWrongSize d src off wr).flt = (badAccess d off.toNat).flt := by
  cases wr <;> rfl

@[simp] theorem afterWrongSize_serve (d : Dev) (src : Iface) (off : BitVec 24) (wr : Bool) :
    (afterWrongSize d src off wr).hlk.serve = d.hlk.serve := by
  cases wr <;> exact badAccess_serve d off.toNat

theorem afterWrongSize_frame (d : Dev) (src : Iface) (off : BitVec 24) (wr : Bool) :
    { afterWrongSize d src off wr with flt := d.flt, out := d.out, hlk := d.hlk } = d := by
  cases wr <;> exact badAccess_frame d off.toNat

/-- A read of the wrong size gets 0 back. -/
theorem afterWrongSize_read (d : Dev) (src : Iface) (off : BitVec 24) :
    (afterWrongSize d src off false).out.getLast? = some (.rdata src off.toNat 0) :=
  List.getLast?_concat

end Sys2Proof.Machine

namespace Sys2Proof.Proofs

open Sys2Proof Sys2Proof.Machine

/-- Settles O51: an access that R2 does not allow leaves the record of R3 and, if a read, answers 0; all else is the frame of a
class 0 record. -/
theorem wrongSizeAccess : Obligations.WrongSizeAccess := by
  intro s src off n wr
  refine ⟨exec_accessWrongSize_idle s src off n wr, fun hreach hsize => ?_⟩
  obtain ⟨r, hring, hrecord⟩ := badAccess_newest s.dev off
  refine ⟨_, r, exec_accessWrongSize_answer s src off n wr hreach hsize, rfl, afterWrongSize_regs .., afterWrongSize_frame ..,
    afterWrongSize_serve .., ?_, (afterWrongSize_flt ..).symm ▸ hring, hrecord⟩
  rintro rfl
  exact afterWrongSize_read s.dev src off

end Sys2Proof.Proofs
end

section
/-! What a codec engine does with a command: the command reaches its queue (R269, R270), the front command runs (R270 to R272) and leaves
its word and buffers until its completion (R271), and RELEASE (R275). -/

namespace Sys2Proof.Machine

open Sys2Proof Sys2Proof.Safety

/-! ### Sparse maps -/

@[simp] theorem mget?_mdel_same {α : Type} (m : FMap α) (n : Nat) : mget? (mdel m n) n = none := by
  induction m with
  | nil => rfl
  | cons p r ih =>
    obtain ⟨k, v⟩ := p
    by_cases hk : k = n
    · simpa [mdel, hk] using ih
    · have hkeep : mdel ((k, v) :: r) n = (k, v) :: mdel r n := by simp [mdel, hk]
      rw [hkeep, mget?, ih, if_neg (Ne.symm hk), ite_self]

/-! ### Engines and buffers -/

@[simp] theorem vce_setVce_same (d : Dev) (n : Nat) (v : Vce) : vce (setVce d n v) n = v := mget_mset_same ..

theorem vce_setVce_other (d : Dev) (n k : Nat) (v : Vce) (h : k ≠ n) : vce (setVce d n v) k = vce d k :=
  mget_mset_other _ _ _ _ _ h

@[simp] theorem setVce_setVce (d : Dev) (n : Nat) (v w : Vce) : setVce (setVce d n v) n w = setVce d n w := by
  simp only [setVce, mset_mset]

theorem setVce_frame (d : Dev) (n : Nat) (v : Vce) : { setVce d n v with vce := d.vce } = d := rfl

theorem setVbuf_free (bs : FMap VBuf) (i : Nat) {b : VBuf} (hmark : b.mark = .unused) (hhold : b.hold = false) :
    setVbuf bs i b = mdel bs i := by
  simp [setVbuf, hmark, hhold]

theorem setVbuf_marked (bs : FMap VBuf) (i : Nat) {b : VBuf} (hmark : b.mark ≠ .unused) : setVbuf bs i b = mset bs i b := by
  simp [setVbuf, hmark]

/-- A buffer without its hold bit is listed only while it is marked. -/
theorem mget?_setVbuf_released (bs : FMap VBuf) (i : Nat) {b : VBuf} (hhold : b.hold = false) :
    mget? (setVbuf bs i b) i = if b.mark = .unused then none else some b := by
  split
  · next hmark => rw [setVbuf_free bs i hmark hhold, mget?_mdel_same]
  · next hmark => rw [setVbuf_marked bs i hmark, mget?_mset_same]

theorem mget?_setVbuf_released_eq_none (bs : FMap VBuf) (i : Nat) {b : VBuf} (hhold : b.hold = false) :
    mget? (setVbuf bs i b) i = none ↔ b.mark = .unused := by
  simp [mget?_setVbuf_released bs i hhold]

/-- A buffer without its hold bit reads back with it clear and the mark it was given, whether it is listed or not. -/
theorem vbuf_setVbuf_released (bs : FMap VBuf) (i : Nat) {b : VBuf} (hhold : b.hold = false) :
    (vbuf (setVbuf bs i b) i).hold = false ∧ (vbuf (setVbuf bs i b) i).mark = b.mark := by
  rw [vbuf, mget, mget?_setVbuf_released bs i hhold]
  split
  · next hmark => exact ⟨rfl, hmark.symm⟩
  · exact ⟨hhold, rfl⟩

/-! ### Commands that reach an engine (R269, R270) -/

/-- The command in the form in which tile `g` sends it: its scope and job, and the issue that it came from. -/
def engCmdOf (d : Dev) (g : Nat) (o : Held) (lb : Nat) (cmd : List Byte) : EngCmd :=
  let x := scope d (scopeOf d g)
  ⟨scopeOf d g, g, x.slot, lb, o.gen, o.src, cmd, mget d.flt.supEpoch (flag (x.kind == .east)) 0, o.rm⟩

theorem performOut_eng (d : Dev) (g : Nat) (o : Held) {kind index lb : Nat} {cmd : List Byte} (h : o.op = .eng kind index lb cmd) :
    performOut d g o = engineArrive d g kind (engineIndex (scope d (scopeOf d g)).kind kind index) (engCmdOf d g o lb cmd) := by
  simp only [performOut, h, engCmdOf]

theorem engineIndex_codec (k : ScopeKind) (i : Nat) : engineIndex k 1 i = if k = .east then (i + 8) % 16 else i := by
  simp [engineIndex]

/-- The engine takes from the commands that wait as many as its queue of 32 has room for. -/
theorem vceRefill_setVce (d : Dev) (n : Nat) (v : Vce) :
    vceRefill (setVce d n v) n = setVce d n { v with
      queue := v.queue ++ v.wait.take (32 - v.queue.length), wait := v.wait.drop (32 - v.queue.length) } := by
  simp only [vceRefill, setVce, mget_mset_same, mset_mset]

theorem engineArrive_codec (d : Dev) (g n : Nat) (c : EngCmd) :
    engineArrive d g 1 n c = setVce d n { vce d n with
      queue := (vce d n).queue ++ ((vce d n).wait ++ [c]).take (32 - (vce d n).queue.length)
      wait := ((vce d n).wait ++ [c]).drop (32 - (vce d n).queue.length) } :=
  vceRefill_setVce d n { vce d n with wait := (vce d n).wait ++ [c] }

/-- Filling a queue `q` up to `m` places from those that wait cuts the two, in a row, at place `m` (or at the end of `q`, past it). -/
theorem append_take_sub_length {α : Type} (q w : List α) (m : Nat) : q ++ w.take (m - q.length) = (q ++ w).take (max m q.length) := by
  have hroom : max m q.length - q.length = m - q.length := by omega
  rw [List.take_append, List.take_of_length_le (Nat.le_max_right ..), hroom]

theorem drop_sub_length {α : Type} (q w : List α) (m : Nat) : w.drop (m - q.length) = (q ++ w).drop (max m q.length) := by
  have hroom : max m q.length - q.length = m - q.length := by omega
  rw [List.drop_append, List.drop_eq_nil_of_le (Nat.le_max_right ..), hroom, List.nil_append]

/-! ### The front command (R270 to R272) -/

@[simp] theorem touch_vce (d : Dev) (h off len : Nat) : (touch d h off len).vce = d.vce := by
  unfold touch
  split
  · rfl
  · split <;> rfl

@[simp] theorem engTouch_vce (d : Dev) (si handle off n : Nat) : (engTouch d si handle off n).vce = d.vce := by
  unfold engTouch
  dsimp only
  split
  · exact touch_vce ..
  · rfl

/-- Reading the context dates pages and changes no engine. -/
@[simp] theorem vce_ctxRead (d : Dev) (n k : Nat) (c : EngCmd) : vce (ctxRead d n c) k = vce d k :=
  congrArg (mget · k Vce.reset) (engTouch_vce ..)

theorem vceFront_ready {d : Dev} {n op : Nat} {c : EngCmd} {rest : List EngCmd} (h : CodecReady d n op c rest) :
    vceFront (vce d n) op = some (c, rest) := by
  simp [vceFront, h.cur, h.queue, h.alive, h.op, h.ver]

/-- An engine that is ready runs its front command on what reading the context leaves. -/
theorem vceRun_ready {d : Dev} {n op : Nat} {c : EngCmd} {rest : List EngCmd} (h : CodecReady d n op c rest)
    (f : Dev → EngCmd → List EngCmd → Dev) : vceRun d n op f = f (ctxRead d n c) c rest := by
  obtain ⟨b, hread⟩ := h.read
  simp [vceRun, vceFront_ready h, h.ctx, h.there, hread, ctxRead]

theorem vceEnd_eq_codecLeaves (d : Dev) (n : Nat) (c : EngCmd) (rest : List EngCmd) (cur : FMap VBuf) (w : VceWord) (ctxs : FMap VCtx)
    (bufs : FMap VBuf) : vceEnd d n c rest cur w ctxs bufs = codecLeaves d n c rest w ctxs bufs cur :=
  vceRefill_setVce ..

theorem vceStop_eq_codecLeaves (d : Dev) (n : Nat) (c : EngCmd) (rest : List EngCmd) (st : Nat) :
    vceStop d n c rest st = codecLeaves d n c rest (vceStatus st (ctxWaiting (vce d n) (leAt c.bytes 2 1))) (vce d n).ctxs (vce d n).bufs
      (vce d n).bufs :=
  vceEnd_eq_codecLeaves ..

/-! ### RELEASE (R275) -/

theorem vceRelease_held (d : Dev) (n : Nat) (c : EngCmd) (rest : List EngCmd)
    (h : (vbuf (vce d n).bufs (leAt c.bytes 0x14 4)).hold = true) :
    vceRelease d n c rest = codecLeaves d n c rest (vceStatus 0 (ctxWaiting (vce d n) (leAt c.bytes 2 1))) (vce d n).ctxs
      (setVbuf (vce d n).bufs (leAt c.bytes 0x14 4) { vbuf (vce d n).bufs (leAt c.bytes 0x14 4) with hold := false }) (vce d n).bufs := by
  simp only [vceRelease, if_pos h, vceEnd_eq_codecLeaves]

theorem vceRelease_notHeld (d : Dev) (n : Nat) (c : EngCmd) (rest : List EngCmd)
    (h : (vbuf (vce d n).bufs (leAt c.bytes 0x14 4)).hold = false) :
    vceRelease d n c rest = record (codecLeaves d n c rest (vceStatus 7 (ctxWaiting (vce d n) (leAt c.bytes 2 1))) (vce d n).ctxs
      (vce d n).bufs (vce d n).bufs) { fspec 0 0x0D 0x02 with unit := n, detail := leAt c.bytes 0x14 4 } := by
  simp only [vceRelease, h, Bool.false_eq_true, if_false, vceStop_eq_codecLeaves]

theorem exec_vceRelease_ready {s : State} {n : Fin 16} {c : EngCmd} {rest : List EngCmd} (h : CodecReady s.dev n.val 6 c rest) :
    exec (.vceRelease n) s = .next { s with dev := vceRelease (ctxRead s.dev n.val c) n.val c rest } := by
  change execVceRelease n s = _
  rw [execVceRelease, lift_eq, vceRun_ready h]

end Sys2Proof.Machine

namespace Sys2Proof.Proofs

open Sys2Proof Sys2Proof.Machine Sys2Proof.Safety

/-- Settles O9: the command arrives at the engine that `engineIndex` names, which fills its queue from those that wait. -/
theorem codecEngineIndex : Obligations.CodecEngineIndex := by
  intro d g o i lb cmd hop x n e v
  let q := engCmdOf d g o lb cmd
  have he : e = setVce d n { v with
      queue := (v.queue ++ (v.wait ++ [q])).take (max 32 v.queue.length)
      wait := (v.queue ++ (v.wait ++ [q])).drop (max 32 v.queue.length) } :=
    calc e = engineArrive d g 1 (engineIndex x.kind 1 i.val) q := performOut_eng d g o hop
      _ = engineArrive d g 1 n q := by rw [engineIndex_codec]
      _ = _ := by rw [engineArrive_codec, append_take_sub_length, drop_sub_length]; rfl
  rw [he]
  exact ⟨⟨q, rfl, rfl, rfl, rfl, vce_setVce_same ..⟩, fun k hk => vce_setVce_other d n k _ hk, setVce_frame ..⟩

/-- Settles O32: an engine that is ready runs RELEASE after its context is read, and whether the buffer is held decides how it ends. -/
theorem codecRelease : Obligations.CodecRelease := by
  intro s n c rest hready v i b waiting ends
  rw [exec_vceRelease_ready hready]
  refine ⟨fun hheld => ?_, fun hfree => ?_⟩
  · have hrel : ({ b with hold := false } : VBuf).hold = false := rfl
    obtain ⟨hhold, hmark⟩ := vbuf_setVbuf_released v.bufs i hrel
    refine ⟨_, ?_, rfl, hhold, hmark, mget?_setVbuf_released_eq_none v.bufs i hrel, fun m => ?_⟩
    · rw [vceRelease_held _ _ _ _ (by simpa using hheld), vce_ctxRead]
    · exact (mget?_setVbuf_released_eq_none m i rfl).mpr rfl
  · rw [vceRelease_notHeld _ _ _ _ (by simpa using hfree), vce_ctxRead]

end Sys2Proof.Proofs
end

section
/-! The queue, the idle clock and the reset state: what a step does with the front command or an idle cycle (R388), and what the block holds
right after reset. -/

namespace Sys2Proof.Machine

open Sys2Proof Sys2Proof.Safety

/-! ### The idle clock (R331, R388) -/

theorem step_cons {s : State} {c : Instr} {rest : List Instr} (h : s.pending = c :: rest) :
    step s = exec c { s with pending := rest } := by
  rw [step, h]

theorem step_idle {s : State} (h : s.pending = []) : step s = .next { s with dev := tick s.dev } := by
  rw [step, h]

/-- While RESET lasts only the local time moves. -/
theorem tick_reset {d : Dev} (h : d.boot.st = .reset) : tick d = { d with clk := { d.clk with localNs := d.clk.localNs + 40 } } := by
  rw [tick, if_pos h]

theorem tick_runs {d : Dev} (h : d.boot.st ≠ .reset) :
    tick d = { d with clk := { d.clk with
      localNs := d.clk.localNs + tickNs d.clk
      devtime := d.clk.devtime + BitVec.ofInt 64 ((tickNs d.clk : Int) + slewStep d.clk (tickNs d.clk))
      slew := d.clk.slew - slewStep d.clk (tickNs d.clk)
      phase := if d.clk.locked = true then (d.clk.phase + 1) % 3 else 0 } } := by
  rw [tick, if_neg h]
  cases d.clk.locked <;> rfl

theorem tickNs_eq (c : Clk) : tickNs c = if c.locked = false then 40 else if c.phase = 2 then 2 else 3 := by
  cases h : c.locked <;> simp [tickNs, h]

theorem slewStep_eq (c : Clk) (n : Nat) :
    slewStep c n = if c.slew = 0 ∨ c.localNs / 5000 = (c.localNs + n) / 5000 then 0 else if 0 < c.slew then 1 else -1 := by
  simp [slewStep]

/-- A source that finds the device out of RESET, or in a RESET that nothing holds, resets it (R355). -/
theorem deviceReset_fresh {d : Dev} (c : Nat) (h : d.boot.st ≠ .reset ∨ d.boot.sources = []) :
    deviceReset d c = { resetDev (allOkLow d) with
      bk := { (resetDev (allOkLow d)).bk with count := (resetDev (allOkLow d)).bk.count + 1, cause := c }
      boot := { (resetDev (allOkLow d)).boot with st := .reset, sources := [c] } } := by
  have hfree : ¬ (decide (d.boot.st = .reset) && !d.boot.sources.isEmpty) = true := by
    rcases h with h | h <;> simp [h]
  rw [deviceReset, if_neg hfree]

theorem deviceReset_devtime {d : Dev} (c : Nat) (h : d.boot.st ≠ .reset ∨ d.boot.sources = []) :
    (deviceReset d c).clk.devtime = 0 := by
  rw [deviceReset_fresh c h]
  rfl

/-! ### The reset state -/

theorem regGet_reset (off : Nat) : regGet Dev.reset off = (regReset off).toNat := rfl

theorem tile_reset (g : Nat) : tile Dev.reset g = Tile.reset := rfl

theorem empReg_reset : ∀ n < 16, empReg Dev.reset n 0 = 0x10040000 ∧ empReg Dev.reset n 0xC = 0x44040000
    ∧ empReg Dev.reset n 0x1C = 0x3F800000 := by
  decide

theorem capReg_reset : ∀ n < 8, capReg Dev.reset n 0x14 = 0x03E8000A := by
  decide

/-! ### SALU (Table 4-6) -/

theorem toInt_ite_le_min (a b : Word) : (if a.toInt ≤ b.toInt then a else b).toInt = min a.toInt b.toInt := by
  split <;> omega

theorem toInt_ite_le_max (a b : Word) : (if a.toInt ≤ b.toInt then b else a).toInt = max a.toInt b.toInt := by
  split <;> omega

theorem toNat_ite_le_min (a b : Word) : (if a.toNat ≤ b.toNat then a else b).toNat = min a.toNat b.toNat := by
  split <;> omega

theorem toNat_ite_le_max (a b : Word) : (if a.toNat ≤ b.toNat then b else a).toNat = max a.toNat b.toNat := by
  split <;> omega

end Sys2Proof.Machine

namespace Sys2Proof.Proofs

open Sys2Proof Sys2Proof.Machine Sys2Proof.Safety

/-- Settles O2: the extremes are the choice by the order of the operands; the rest is what the definition says. -/
theorem scalarFunctions : Obligations.ScalarFunctions := fun a b =>
  ⟨rfl, rfl, rfl, rfl, rfl, rfl, rfl, BitVec.toInt_sshiftRight, rfl, toInt_ite_le_min a b, toInt_ite_le_max a b, toNat_ite_le_min a b,
    toNat_ite_le_max a b⟩

/-- Settles O54: a step is the front command on the block with the rest of the queue, by definition. -/
theorem stepRunsFront : Obligations.StepRunsFront := fun _ _ _ h => step_cons h

/-- Settles O55: an idle step is a tick, whose length and slew are those of R388. -/
theorem idleClock : Obligations.IdleClock := by
  refine ⟨fun s hidle hst => ?_, fun d c h => deviceReset_devtime c h, fun s hidle hst => ?_⟩
  · simp only [step_idle hidle, tick_runs hst, slewStep_eq, tickNs_eq]
  · exact ⟨_, step_idle hidle, by rw [tick_reset hst]⟩

/-- Settles O57: each field at its reset value, the registers of the ports for each port. -/
theorem resetState : Obligations.ResetState := by
  refine ⟨fun c hc => absurd hc List.not_mem_nil, rfl, rfl, rfl, rfl, rfl, rfl, rfl, rfl, rfl, rfl, rfl, rfl, ?_, ?_, ?_, ?_, empReg_reset,
    capReg_reset, fun g _ => ⟨rfl, rfl⟩⟩ <;> decide

end Sys2Proof.Proofs
end

section
/-! Every command answers: one that holds no reserved encoding gives a next state with the queue as it was, any other is refused, so a run of
well-formed commands never stops. -/

namespace Sys2Proof.Machine

open Sys2Proof Sys2Proof.Safety

/-- The two answers that an outcome of a command on `s` can be: a next state with the queue of `s` where `ok` holds, the refusal where it does
not. -/
def Answers (s : State) (ok : Bool) (o : Out3) : Prop :=
  (ok = true → ∃ d, o = .next { s with dev := d }) ∧ (ok = false → o = .refused .reservedOperand)

theorem answers_next (s : State) (d : Dev) : Answers s true (.next { s with dev := d }) :=
  ⟨fun _ => ⟨d, rfl⟩, fun h => absurd h (by decide)⟩

theorem answers_lift (s : State) (f : Dev → Dev) : Answers s true (lift s f) := answers_next s _

theorem answers_liftIf (s : State) (ok : Bool) (f : Dev → Dev) : Answers s ok (liftIf s ok f) := by
  cases ok
  · exact ⟨fun h => absurd h (by decide), fun _ => rfl⟩
  · exact answers_lift s f

theorem exec_answers (c : Instr) (s : State) : Answers s (wfInstr c) (exec c s) := by
  cases c <;> dsimp only [wfInstr, exec]
  all_goals first | exact answers_lift s _ | exact answers_liftIf s _ _

/-- A command that answers leaves the queue as it was. -/
theorem exec_next_pending {c : Instr} {s t : State} (h : exec c s = .next t) : t.pending = s.pending := by
  obtain ⟨hok, hbad⟩ := exec_answers c s
  cases hwf : wfInstr c
  · rw [hbad hwf] at h
    cases h
  · obtain ⟨d, hd⟩ := hok hwf
    rw [hd] at h
    cases h
    rfl

/-- A step from a queue of well-formed commands answers, with the front command gone. -/
theorem step_answers {s : State} (h : QueueReady s) : ∃ d, step s = .next { dev := d, pending := s.pending.tail } := by
  cases hq : s.pending with
  | nil => exact ⟨_, by rw [step_idle hq, hq]; rfl⟩
  | cons c rest =>
    obtain ⟨d, hd⟩ := (exec_answers c { s with pending := rest }).1 (h c (by simp [hq]))
    exact ⟨d, (step_cons hq).trans hd⟩

end Sys2Proof.Machine

namespace Sys2Proof.Proofs

open Sys2Proof Sys2Proof.Machine Sys2Proof.Safety

/-- Settles O56: by cases on the command, each of which is a change of the block, with a test of its operands or without. -/
theorem everyCommandAnswers : Obligations.EveryCommandAnswers := exec_answers

/-- Settles O58: the front command is well formed and so answers, and what remains of the queue was well formed before. -/
theorem neverStops : Obligations.NeverStops := by
  intro s hs
  obtain ⟨d, hd⟩ := step_answers hs
  refine ⟨⟨_, hd⟩, fun t ht => ?_⟩
  cases hd.symm.trans ht
  exact ⟨fun c hc => hs c (List.mem_of_mem_tail hc), rfl⟩

end Sys2Proof.Proofs
end

section
/-! The frame of the slots that stay in their tile (R37, R78, R112): each meaning keeps `SlotFrame`, by the frames of the operations it is made
of. -/

namespace Sys2Proof.Safety

open Sys2Proof Sys2Proof.Machine

/-- What a slot of tile `g` keeps whatever its operands, guard and faults: the frame of its tile. -/
def KeepsFrame (g : Nat) (s : State) (o : Out3) : Prop := ∀ t, o = .next t → SlotFrame g s.dev t.dev

section
variable {s : State} {g : Fin 800} {gd : Guard}

/-! ### CTL -/

theorem execNop_frame : KeepsFrame g s (execNop g s) := by
  intro t e
  cases e
  exact SlotFrame.refl ..

theorem execCheck_frame {n : Fin 4} {la lb lc ld : Fin 64} : KeepsFrame g s (execCheck g n la lb lc ld s) := fun t e =>
  ctlRun_frame s t g _ _ (fun d => SlotFrame.fold g _ (fun d i => SlotFrame.checkOne g d i) _ d) e

theorem execArm_frame {lb : Fin 64} {src : Fin 8} {sa sb : Fin 64} : KeepsFrame g s (execArm g lb src sa sb s) := by
  refine fun t e => ctlRun_frame s t g _ _ (fun d => ?_) e
  dsimp only
  split
  · split
    · exact (SlotFrame.updCore ..).trans (SlotFrame.result ..)
    · exact SlotFrame.updCore ..
  · exact SlotFrame.mapFault ..

theorem execPsend_frame {p : Fin 16} {k : Fin 256} : KeepsFrame g s (execPsend g p k s) := fun t e =>
  ctlRun_frame s t g _ _ (fun _ => SlotFrame.updScope ..) e

theorem execPset_frame {pd cond : Fin 16} {sa sb : Fin 64} : KeepsFrame g s (execPset g pd cond sa sb s) := fun t e =>
  ctlRun_frame s t g _ _ (fun _ => SlotFrame.resultP ..) e

theorem execPlog_frame {pd pa pb : Fin 16} {fn : Fin 4} : KeepsFrame g s (execPlog g pd pa pb fn s) := fun t e =>
  ctlRun_frame s t g _ _ (fun _ => SlotFrame.resultP ..) e

theorem execSalu_frame {fn : Fin 16} {sd sa sb : Fin 64} : KeepsFrame g s (execSalu g fn sd sa sb s) := fun t e =>
  ctlRun_frame s t g _ _ (fun _ => SlotFrame.result ..) e

theorem execSli_frame {sd : Fin 64} {hi : Bool} {imm : BitVec 16} : KeepsFrame g s (execSli g sd hi imm s) := fun t e =>
  ctlRun_frame s t g _ _ (fun _ => SlotFrame.result ..) e

theorem execAmov_frame {ad : Fin 16} {fn : Fin 4} {sa : Fin 64} {imm : BitVec 14} : KeepsFrame g s (execAmov g ad fn sa imm s) := fun t e =>
  ctlRun_frame s t g _ _ (fun _ => SlotFrame.result ..) e

theorem execCsrw_frame {csr : Fin 16} {sa : Fin 64} : KeepsFrame g s (execCsrw g csr sa s) := fun t e =>
  ctlRun_frame s t g _ _ (fun _ => SlotFrame.result ..) e

/-! ### VPU -/

/-- An operation that writes one register lane by lane. -/
theorem vpuOp_frame {r : VR} {ok : Bool} {l : Nat} {fp : Bool} {f : VReg → VReg → VReg → VReg} :
    KeepsFrame g s (vpuOp g gd r s ok l fp f) := by
  refine fun t e => laneRun_frame s t g gd _ _ (fun d => ?_) e
  dsimp only
  split
  · exact (SlotFrame.monitorNan ..).trans (SlotFrame.result ..)
  · exact SlotFrame.result ..

theorem execCmp_frame {r : VR} : KeepsFrame g s (execCmp g gd r s) := fun t e =>
  laneRun_frame s t g gd _ _ (fun _ => SlotFrame.resultP ..) e

theorem execSel_frame {r : VR} : KeepsFrame g s (execSel g gd r s) := fun t e =>
  ctlRun_frame s t g _ _ (fun _ => SlotFrame.result ..) e

theorem cvoBlockRun_frame (d : Dev) (g : Nat) (r : VR) : SlotFrame g d (cvoBlockRun d g r) :=
  ((((SlotFrame.roundBeat ..).trans (SlotFrame.monitorConv ..)).trans (SlotFrame.monitorScaleSat ..)).trans
    (SlotFrame.blockAmax ..)).trans (SlotFrame.result ..)

theorem cvoLanesRun_frame (d : Dev) (g : Nat) (gd : Guard) (r : VR) : SlotFrame g d (cvoLanesRun d g gd r) :=
  ((SlotFrame.roundBeat ..).trans (SlotFrame.monitorConv ..)).trans (SlotFrame.result ..)

theorem execCvo_frame {r : VR} : KeepsFrame g s (execCvo g gd r s) := by
  intro t e
  unfold execCvo liftIf at e
  split at e
  · simp only [lift_eq, Host.Outcome.next.injEq] at e
    subst e
    dsimp only
    split
    · exact SlotFrame.refl ..
    · split
      · split
        · exact cvoBlockRun_frame ..
        · exact SlotFrame.refl ..
      · split
        · exact cvoLanesRun_frame ..
        · exact SlotFrame.refl ..
  · cases e

theorem execWel_frame {r : VR} : KeepsFrame g s (execWel g gd r s) := fun t e =>
  laneRun_frame s t g gd _ _ (fun _ => SlotFrame.statWrite ..) e

theorem execWmrg_frame {r : VR} : KeepsFrame g s (execWmrg g gd r s) := fun t e =>
  laneRun_frame s t g gd _ _ (fun _ => SlotFrame.statWrite ..) e

theorem execSmxu_frame {r : VR} : KeepsFrame g s (execSmxu g gd r s) := fun t e =>
  laneRun_frame s t g gd _ _ (fun _ => SlotFrame.statWrite ..) e

theorem execSkmrg_frame {r : VR} : KeepsFrame g s (execSkmrg g gd r s) := fun t e =>
  laneRun_frame s t g gd _ _ (fun _ => SlotFrame.statWrite ..) e

theorem execVld_frame {m : VM} : KeepsFrame g s (execVld g gd m s) := by
  refine fun t e => laneRun_frame s t g gd _ _ (fun d => ?_) e
  dsimp only
  split
  next hread => exact (SlotFrame.staticRead_eq hread).trans (SlotFrame.result ..)
  next hread =>
    refine (SlotFrame.staticRead_eq hread).trans ?_
    split
    · exact (SlotFrame.result ..).trans (SlotFrame.releaseAt ..)
    · exact ((SlotFrame.monitorNan ..).trans (SlotFrame.result ..)).trans (SlotFrame.releaseAt ..)

theorem execVst_frame {m : VM} : KeepsFrame g s (execVst g gd m s) := by
  refine fun t e => laneRun_frame s t g gd _ _ (fun d => ?_) e
  dsimp only
  split
  · exact SlotFrame.staticWrite ..
  · exact ((SlotFrame.roundBeat ..).trans (SlotFrame.monitorConv ..)).trans (SlotFrame.staticWrite ..)

/-! ### MXU -/

theorem execLdw_frame {fmtw : Fin 16} {sp : Bool} {aa : Fin 16} {off : BitVec 16} {sc : Fin 16} {rel : Bool} :
    KeepsFrame g s (execLdw g gd fmtw sp aa off sc rel s) := by
  refine fun t e => slotRun_frame s t g gd _ _ (fun d => ?_) e
  dsimp only
  split
  · exact SlotFrame.mapFault ..
  · split
    · exact SlotFrame.mapFault ..
    · split
      · exact SlotFrame.mapFault ..
      · split
        · exact (SlotFrame.updCore ..).trans (SlotFrame.releaseAt ..)
        · exact SlotFrame.updCore ..

theorem execMac_frame {fmta : Fin 16} {acc : Fin 4} {accum ref : Bool} {aa : Fin 16} {off : BitVec 16} {rel : Bool} :
    KeepsFrame g s (execMac g gd fmta acc accum ref aa off rel s) := by
  refine fun t e => slotRun_frame s t g gd _ _ (fun d => ?_) e
  dsimp only
  split
  · exact SlotFrame.mapFault ..
  · split
    · exact SlotFrame.mapFault ..
    · split
      · exact SlotFrame.mapFault ..
      · split
        · exact SlotFrame.mapFault ..
        · split
          · exact ((SlotFrame.staticRead ..).trans (SlotFrame.updCore ..)).trans (SlotFrame.macApply ..)
          · exact (((SlotFrame.staticRead ..).trans (SlotFrame.updCore ..)).trans (SlotFrame.macApply ..)).trans (SlotFrame.releaseAt ..)

theorem execDrn_frame {acc : Fin 4} {fmto : Fin 16} {sat : Bool} {tag : Fin 32} {aa : Fin 16} {off : BitVec 16} :
    KeepsFrame g s (execDrn g gd acc fmto sat tag aa off s) := by
  refine fun t e => slotRun_frame s t g gd _ _ (fun d => ?_) e
  dsimp only
  split
  · exact SlotFrame.mapFault ..
  · split
    · exact SlotFrame.mapFault ..
    · exact ((SlotFrame.roundBeat ..).trans (SlotFrame.monitorConv ..)).trans (SlotFrame.updCore ..)

theorem execZac_frame {acc : Fin 4} : KeepsFrame g s (execZac g gd acc s) := by
  refine fun t e => slotRun_frame s t g gd _ _ (fun d => ?_) e
  split
  · exact SlotFrame.mapFault ..
  · exact SlotFrame.updCore ..

/-! ### SFU -/

theorem execEvalTs_frame {ts : Fin 4} {vd va : Fin 32} {q : Fin 4} : KeepsFrame g s (execEvalTs g gd ts vd va q s) := by
  refine fun t e => laneRun_frame s t g gd _ _ (fun d => ?_) e
  dsimp only
  split
  · exact SlotFrame.mapFault ..
  · split
    · exact SlotFrame.refl ..
    · exact (SlotFrame.monitorNan ..).trans (SlotFrame.result ..)

theorem execTld_frame {ts : Fin 4} {aa : Fin 16} {off : BitVec 16} : KeepsFrame g s (execTld g gd ts aa off s) := by
  refine fun t e => slotRun_frame s t g gd _ _ (fun d => ?_) e
  dsimp only
  split
  · exact SlotFrame.mapFault ..
  · split
    · exact SlotFrame.mapFault ..
    · exact SlotFrame.updCore ..

theorem execTsel_frame {ts : Fin 4} {k : Fin 8} : KeepsFrame g s (execTsel g gd ts k s) := fun t e =>
  slotRun_frame s t g gd _ _ (fun _ => SlotFrame.updCore ..) e

/-! ### GTH and CMPT -/

theorem execGth_frame {aa ab : Fin 16} {vi : Fin 32} {sn : Fin 64} : KeepsFrame g s (execGth g gd aa ab vi sn s) := by
  refine fun t e => slotRun_frame s t g gd _ _ (fun d => ?_) e
  dsimp only
  split
  next hread => exact SlotFrame.staticRead_eq hread
  next hread => exact (SlotFrame.staticRead_eq hread).trans (SlotFrame.updCore ..)

theorem execCmpt_frame {aa ab : Fin 16} {vi : Fin 32} {sn : Fin 64} : KeepsFrame g s (execCmpt g gd aa ab vi sn s) := by
  refine fun t e => slotRun_frame s t g gd _ _ (fun d => ?_) e
  dsimp only
  split
  next hread => exact SlotFrame.staticRead_eq hread
  next hread => exact (SlotFrame.staticRead_eq hread).trans (SlotFrame.updCore ..)

/-- The no-operation and the operations of the VPU. -/
theorem exec_vpu_frame (s : State) (g : Fin 800) (gd : Guard) (r : VR) (m : VM) :
    ∀ i ∈ [Instr.nop g, .vpuAdd g gd r, .vpuSub g gd r, .vpuMul g gd r, .fma g gd r, .fms g gd r, .vpuMin g gd r, .vpuMax g gd r,
        .abs g gd r, .neg g gd r, .cmp g gd r, .vpuIntAdd g gd r, .vpuIntSub g gd r, .vpuIntMul g gd r, .vpuAnd g gd r,
        .vpuOr g gd r, .vpuXor g gd r, .vpuShl g gd r, .vpuShr g gd r, .vpuSra g gd r, .vpuIntMin g gd r, .vpuIntMax g gd r,
        .cvi g gd r, .cvo g gd r, .mov g gd r, .bcast g gd r, .sel g gd r, .perm g gd r, .slide g gd r, .rsum g gd r,
        .rmax g gd r, .rmin g gd r, .wel g gd r, .wmrg g gd r, .smxu g gd r, .skmrg g gd r, .vld g gd m, .vst g gd m],
      KeepsFrame g s (exec i s) := by
  simp only [List.forall_mem_cons]
  dsimp only [exec, execVpuAdd, execVpuSub, execVpuMul, execFma, execFms, execVpuMin, execVpuMax, execAbs, execNeg, execVpuIntAdd,
    execVpuIntSub, execVpuIntMul, execVpuAnd, execVpuOr, execVpuXor, execVpuShl, execVpuShr, execVpuSra, execVpuIntMin, execVpuIntMax,
    execCvi, execMov, execBcast, execPerm, execSlide, execRsum, execRmax, execRmin]
  refine ⟨execNop_frame, vpuOp_frame, vpuOp_frame, vpuOp_frame, vpuOp_frame, vpuOp_frame, vpuOp_frame, vpuOp_frame, vpuOp_frame,
    vpuOp_frame, execCmp_frame, ?_⟩
  refine ⟨vpuOp_frame, vpuOp_frame, vpuOp_frame, vpuOp_frame, vpuOp_frame, vpuOp_frame, vpuOp_frame, vpuOp_frame, vpuOp_frame,
    vpuOp_frame, vpuOp_frame, ?_⟩
  refine ⟨vpuOp_frame, execCvo_frame, vpuOp_frame, vpuOp_frame, execSel_frame, vpuOp_frame, vpuOp_frame, ?_⟩
  exact ⟨vpuOp_frame, vpuOp_frame, vpuOp_frame, execWel_frame, execWmrg_frame, execSmxu_frame, execSkmrg_frame, execVld_frame,
    execVst_frame, fun _ h => absurd h List.not_mem_nil⟩

end

end Sys2Proof.Safety

namespace Sys2Proof.Proofs

open Sys2Proof Sys2Proof.Machine Sys2Proof.Safety

/-- Settles O11: by cases on the slot, each of whose meanings keeps the frame of its tile. -/
theorem slotsChangeOnlyTheirTile : Obligations.SlotsChangeOnlyTheirTile := by
  intro s t g gd r m i hi e
  refine ⟨exec_next_pending e, ?_⟩
  obtain hvpu | hi := hi
  · exact exec_vpu_frame s g gd r m i hvpu t e
  rcases hi with ⟨_, _, _, _, _, rfl⟩ | ⟨_, _, _, _, rfl⟩ | ⟨_, _, rfl⟩ | ⟨_, _, _, _, rfl⟩ | ⟨_, _, _, _, rfl⟩ | ⟨_, _, _, _, rfl⟩
    | ⟨_, _, _, rfl⟩ | ⟨_, _, _, _, rfl⟩ | ⟨_, _, rfl⟩ | ⟨_, _, _, _, _, _, rfl⟩ | ⟨_, _, _, _, _, _, _, rfl⟩ | ⟨_, _, _, _, _, _, rfl⟩
    | ⟨_, rfl⟩ | ⟨_, _, _, _, rfl⟩ | ⟨_, _, _, rfl⟩ | ⟨_, _, rfl⟩ | ⟨_, _, _, _, rfl⟩ | ⟨_, _, _, _, rfl⟩ <;> dsimp only [exec] at e
  · exact execCheck_frame t e
  · exact execArm_frame t e
  · exact execPsend_frame t e
  · exact execPset_frame t e
  · exact execPlog_frame t e
  · exact execSalu_frame t e
  · exact execSli_frame t e
  · exact execAmov_frame t e
  · exact execCsrw_frame t e
  · exact execLdw_frame t e
  · exact execMac_frame t e
  · exact execDrn_frame t e
  · exact execZac_frame t e
  · exact execEvalTs_frame t e
  · exact execTld_frame t e
  · exact execTsel_frame t e
  · exact execGth_frame t e
  · exact execCmpt_frame t e

end Sys2Proof.Proofs
end

section
/-! Writes to T1 and dropped pages (R98, chapter 10): what they leave of each byte, and that the listing stays canonical. -/

namespace Sys2Proof.Machine

open Sys2Proof Sys2Proof.Safety

theorem memGet_filter_from (p : Nat × Byte → Bool) (keep : Nat → Bool) (hp : ∀ k v, p (k, v) = keep k) (m : List (Nat × Byte)) :
    ∀ lo a, memWfFrom lo m = true → memGet (m.filter p) a = if keep a = true then memGet m a else 0 := by
  induction m with
  | nil => intro lo a _; simp [memGet]
  | cons q r ih =>
    obtain ⟨k, v⟩ := q
    intro lo a hw
    obtain ⟨-, -, hr⟩ := memWfFrom_cons.1 hw
    have hbelow : a < k → memGet r a = 0 := fun h => memGet_below r (k + 1) a hr (by omega)
    have hat : a = k → memGet r a = 0 := fun h => memGet_below r (k + 1) a hr (by omega)
    rw [List.filter_cons, hp]
    split
    · next hk =>
      rw [memGet, memGet, ih _ a hr]
      rcases Nat.lt_trichotomy a k with h | h | h
      · simp [h]
      · subst h; simp [hk]
      · simp [Nat.not_lt.2 (Nat.le_of_lt h), Nat.ne_of_gt h]
    · next hk =>
      rw [memGet, ih _ a hr]
      rcases Nat.lt_trichotomy a k with h | h | h
      · simp [h, hbelow h]
      · subst h; simp [hk]
      · simp [Nat.not_lt.2 (Nat.le_of_lt h), Nat.ne_of_gt h]

/-- A read after a span is made zero. -/
theorem memGet_memZero (m : List (Nat × Byte)) (a n c : Nat) (h : Memory.wf m = true) :
    memGet (memZero m a n) c = if a ≤ c ∧ c < a + n then 0 else memGet m c := by
  rw [memZero, memGet_filter_from _ (fun k => decide (k < a) || decide (a + n ≤ k)) (fun _ _ => rfl) m 0 c h]
  by_cases hin : a ≤ c ∧ c < a + n
  · rw [if_pos hin, if_neg (by simp; omega)]
  · rw [if_neg hin, if_pos (by simp; omega)]

@[simp] theorem touch_mem (d : Dev) (h off len : Nat) : (touch d h off len).tmg.mem = d.tmg.mem := by
  unfold touch
  split
  · rfl
  · split <;> rfl

/-- A dated object is still an object. -/
theorem obj?_touch_isSome {d : Dev} {h : Nat} {o : Obj} (ho : obj? d h = some o) (off len : Nat) :
    ∃ o', obj? (touch d h off len) h = some o' := by
  simp only [touch, ho]
  split
  · exact ⟨_, mget?_mset_same ..⟩
  · exact ⟨o, ho⟩

theorem t1Put_mem {d : Dev} {h : Nat} {o : Obj} (ho : obj? d h = some o) (off : Nat) (bs : List Byte) :
    (t1Put d h off bs).tmg.mem = memWrite d.tmg.mem (t1Key h off) bs := by
  simp only [t1Put, ho]

theorem t1Write_none {d : Dev} {h : Nat} (ho : obj? d h = none) (off : Nat) (bs : List Byte) : t1Write d h off bs = d := by
  simp only [t1Write, ho]

theorem t1Write_named {d : Dev} {h : Nat} {o : Obj} (ho : obj? d h = some o) (hj : jobNames d h o = true) (off : Nat) (bs : List Byte) :
    t1Write d h off bs = discarded d 0x08 h := by
  simp only [t1Write, ho, hj, if_true]

theorem t1Write_mem {d : Dev} {h : Nat} {o : Obj} (ho : obj? d h = some o) (hj : jobNames d h o = false) (off : Nat) (bs : List Byte) :
    (t1Write d h off bs).tmg.mem = memWrite d.tmg.mem (t1Key h off) bs := by
  obtain ⟨o', ho'⟩ := obj?_touch_isSome ho off bs.length
  have hput : t1Write d h off bs = t1Put (touchImage (touch d h off bs.length) h o) h off bs := by
    simp only [t1Write, ho, hj, Bool.false_eq_true, if_false]
  have himg : obj? (touchImage (touch d h off bs.length) h o) h = some o' := ho'
  rw [hput, t1Put_mem himg, touchImage, touch_mem]

theorem dropPage_none {d : Dev} {h : Nat} (ho : obj? d h = none) (i : Nat) : dropPage d h i = d := by
  simp only [dropPage, ho]

theorem dropPage_mem {d : Dev} {h : Nat} {o : Obj} (ho : obj? d h = some o) (i : Nat) :
    (dropPage d h i).tmg.mem = memZero d.tmg.mem (t1Key h (i * pageSize)) pageSize := by
  simp only [dropPage, ho]

end Sys2Proof.Machine

namespace Sys2Proof.Proofs

open Sys2Proof Sys2Proof.Machine Sys2Proof.Safety

/-- Settles O59: a write is `memWrite` and a drop `memZero` on T1, of which a read of each byte and the canonical form are known. -/
theorem t1Writes : Obligations.T1Writes := by
  intro d h off
  refine ⟨fun hnone => ⟨t1Write_none hnone off, dropPage_none hnone⟩, fun o ho hwf => ⟨fun bs hj => t1Write_named ho hj off bs, ?_, ?_⟩⟩
  · intro bs hj
    rw [t1Write_mem ho hj]
    exact ⟨memWrite_wf bs _ _ hwf, fun a => memGet_memWrite bs _ _ a hwf⟩
  · intro i
    rw [dropPage_mem ho]
    exact ⟨memZero_wf _ _ _ hwf, fun a => memGet_memZero _ _ _ a hwf⟩

end Sys2Proof.Proofs
end

section
/-! Slots of a running tile, one equation per way that a slot runs (R78), and of a slot that does not execute. -/

namespace Sys2Proof.Machine

open Sys2Proof Sys2Proof.Safety

section
variable {s : State} {g : Fin 800} {gd : Guard} {ok : Bool} {f : Dev → Dev}

theorem liftIf_ok (hok : ok = true) : liftIf s ok f = .next { s with dev := f s.dev } := by
  subst hok
  rfl

theorem ctlRun_wf (h : tileRuns s.dev g.val = true) (hok : ok = true) : ctlRun s g ok f = .next { s with dev := f s.dev } := by
  subst hok
  exact ctlRun_runs s g f h

theorem slotRun_wf (h : tileRuns s.dev g.val = true) (hon : guardOn (tile s.dev g.val).core gd = true) (hok : ok = true) :
    slotRun s g gd ok f = .next { s with dev := f s.dev } := by
  subst hok
  exact slotRun_runs s g gd f h hon

theorem laneRun_wf (h : tileRuns s.dev g.val = true) (hany : guardAny (tile s.dev g.val).core gd = true) (hok : ok = true) :
    laneRun s g gd ok f = .next { s with dev := f s.dev } := by
  subst hok
  exact laneRun_runs s g gd f h hany

/-- A CTL slot of a tile that does not run changes nothing. -/
theorem ctlRun_off (h : tileRuns s.dev g.val = false) (hok : ok = true) : ctlRun s g ok f = .next s := by
  simp [ctlRun, h, hok]

/-- A guarded slot of a tile that does not run, or whose guard is off, changes nothing. -/
theorem slotRun_off (h : tileRuns s.dev g.val = false ∨ guardOn (tile s.dev g.val).core gd = false) (hok : ok = true) :
    slotRun s g gd ok f = .next s := by
  rcases h with h | h <;> simp [slotRun, h, hok]

/-- A lane slot of a tile that does not run, or whose guard enables no lane, changes nothing. -/
theorem laneRun_off (h : tileRuns s.dev g.val = false ∨ guardAny (tile s.dev g.val).core gd = false) (hok : ok = true) :
    laneRun s g gd ok f = .next s := by
  rcases h with h | h <;> simp [laneRun, h, hok]

/-- A guard whose bit 0 is 1 enables a lane. -/
theorem guardAny_of_guardOn {c : TileCore} (h : guardOn c gd = true) : guardAny c gd = true := by
  have hne : guardMask c gd.pg.val gd.pn ≠ 0 := by
    intro hz
    rw [guardOn, hz] at h
    exact absurd h (by decide)
  simpa [guardAny] using hne

end

/-! ### VPU operations that write one register lane by lane -/

section
variable {s : State} {g : Fin 800} {gd : Guard} {r : VR} {ok : Bool} {l : Nat} {f : VReg → VReg → VReg → VReg} {out : VReg}

/-- FP32 lanes, which the monitors see (R154). -/
theorem vpuOp_fp (h : tileRuns s.dev g.val = true) (hany : guardAny (tile s.dev g.val).core gd = true) (hok : ok = true)
    (hout : f (rdV (tile s.dev g.val).core r.va.val) (rdV (tile s.dev g.val).core r.vb.val) (rdV (tile s.dev g.val).core r.vc.val) = out) :
    vpuOp g gd r s ok l true f = .next { s with
      dev := result (monitorNan s.dev g.val (enabled (guardMask (tile s.dev g.val).core gd.pg.val gd.pn) out)) g.val l
        (.v r.vd.val (guardMask (tile s.dev g.val).core gd.pg.val gd.pn) out) } := by
  subst hout
  exact laneRun_wf h hany hok

/-- Lanes that the monitors do not see. -/
theorem vpuOp_int (h : tileRuns s.dev g.val = true) (hany : guardAny (tile s.dev g.val).core gd = true)
    (hout : f (rdV (tile s.dev g.val).core r.va.val) (rdV (tile s.dev g.val).core r.vb.val) (rdV (tile s.dev g.val).core r.vc.val) = out) :
    vpuOp g gd r s true l false f = .next { s with
      dev := result s.dev g.val l (.v r.vd.val (guardMask (tile s.dev g.val).core gd.pg.val gd.pn) out) } := by
  subst hout
  exact laneRun_wf h hany rfl

end

end Sys2Proof.Machine

namespace Sys2Proof.Proofs

open Sys2Proof Sys2Proof.Machine Sys2Proof.Safety

/-- Settles O3: each operation runs as one that writes FP32 lanes. -/
theorem vectorFloatComplete : Obligations.VectorFloatComplete := by
  intro s g gd r h hany c a b m
  simp only [List.forall_mem_cons]
  dsimp only [exec, execVpuAdd, execVpuSub, execVpuMul, execVpuMin, execVpuMax, execFma, execFms, execAbs, execNeg, execRsum, execRmax,
    execRmin]
  refine ⟨⟨vpuOp_fp h hany rfl rfl, vpuOp_fp h hany rfl rfl, vpuOp_fp h hany rfl rfl, vpuOp_fp h hany rfl rfl, vpuOp_fp h hany rfl rfl, ?_⟩,
    ⟨vpuOp_fp h hany rfl rfl, vpuOp_fp h hany rfl rfl, ?_⟩, ⟨vpuOp_fp h hany rfl rfl, vpuOp_fp h hany rfl rfl, ?_⟩,
    ⟨vpuOp_fp h hany rfl rfl, vpuOp_fp h hany rfl rfl, vpuOp_fp h hany rfl rfl, ?_⟩⟩ <;> exact fun _ hp => absurd hp List.not_mem_nil

/-- Integer operations, moves and CMP of a running tile. -/
theorem vectorInteger_moves (s : State) (g : Fin 800) (gd : Guard) (r : VR) (h : tileRuns s.dev g.val = true)
    (hany : guardAny (tile s.dev g.val).core gd = true) : 
    (∀ p ∈ [(Instr.vpuIntAdd, iadd r.wrap), (Instr.vpuIntSub, isub r.wrap), (Instr.vpuIntMul, imul r.wrap),
        (Instr.vpuAnd, fun x y => x &&& y), (Instr.vpuOr, fun x y => x ||| y), (Instr.vpuXor, fun x y => x ^^^ y),
        (Instr.vpuShl, ishl), (Instr.vpuShr, ishr), (Instr.vpuSra, isra), (Instr.vpuIntMin, imin), (Instr.vpuIntMax, imax)],
      exec (p.1 g gd r) s = .next { s with
        dev := result s.dev g.val 4 (.v r.vd.val (guardMask (tile s.dev g.val).core gd.pg.val gd.pn)
          (vec (fun k => p.2 (lane (rdV (tile s.dev g.val).core r.va.val) k) (lane (rdV (tile s.dev g.val).core r.vb.val) k)))) }) := by
  simp only [List.forall_mem_cons]
  dsimp only [exec, execVpuIntAdd, execVpuIntSub, execVpuIntMul, execVpuAnd, execVpuOr, execVpuXor, execVpuShl, execVpuShr, execVpuSra,
    execVpuIntMin, execVpuIntMax]
  exact ⟨vpuOp_int h hany rfl, vpuOp_int h hany rfl, vpuOp_int h hany rfl, vpuOp_int h hany rfl, vpuOp_int h hany rfl,
    vpuOp_int h hany rfl, vpuOp_int h hany rfl, vpuOp_int h hany rfl, vpuOp_int h hany rfl, vpuOp_int h hany rfl, vpuOp_int h hany rfl,
    fun _ hp => absurd hp List.not_mem_nil⟩


/-- Settles O4: each operation runs as one that writes lanes, a predicate or consecutive registers. -/
theorem vectorIntegerComplete : Obligations.VectorIntegerComplete := by
  refine ⟨fun s g gd r h => ⟨?_, fun hany => ⟨vectorInteger_moves s g gd r h hany, ?_⟩⟩,
    fun s g gd r h hany => ?_⟩
  · dsimp only [exec, execSel]
    exact ctlRun_wf h rfl
  · dsimp only [exec, execMov, execBcast, execPerm, execSlide, execCmp]
    refine ⟨vpuOp_int h hany rfl, vpuOp_int h hany rfl, vpuOp_int h hany rfl, vpuOp_int h hany rfl, fun hwf => ?_⟩
    rw [laneRun_wf h hany hwf]
    by_cases hp0 : r.vd.val % 16 = 0
    · simp only [if_pos hp0]
    · simp only [if_neg hp0]
      rfl
  · dsimp only [exec, execCvi, execCvo, execWel, execWmrg, execSmxu, execSkmrg]
    refine ⟨fun hwf => vpuOp_fp h hany hwf rfl, fun hwf hblk => ?_, fun hwf hblk hon => ?_, fun hwf => ?_, fun hwf => ?_, fun hwf => ?_,
      fun hwf => ?_⟩
    · simp [liftIf_ok hwf, h, hany, hblk]
    · simp [liftIf_ok hwf, h, hon, hblk]
    · rw [laneRun_wf h hany hwf]
      simp only [List.map_map, Function.comp_def]
    · rw [laneRun_wf h hany hwf]
      simp only [List.map_map, Function.comp_def]
    · rw [laneRun_wf h hany hwf]
      simp only [List.map_map, Function.comp_def]
    · exact laneRun_wf h hany hwf

end Sys2Proof.Proofs
end

section
/-! Slots that do not execute (R78), and the CTL slot (R41, R42, R49, R83, Table 4-6). -/

namespace Sys2Proof.Machine

open Sys2Proof Sys2Proof.Safety

section
variable {s : State} {g : Fin 800} {gd : Guard}

theorem vpuOp_off {r : VR} {ok : Bool} {l : Nat} {fp : Bool} {f : VReg → VReg → VReg → VReg}
    (h : tileRuns s.dev g.val = false ∨ guardAny (tile s.dev g.val).core gd = false) (hok : ok = true) :
    vpuOp g gd r s ok l fp f = .next s := laneRun_off h hok

theorem guardOn_off (h : guardAny (tile s.dev g.val).core gd = false) : guardOn (tile s.dev g.val).core gd = false := by
  rw [← Bool.not_eq_true] at h ⊢
  exact fun hon => h (guardAny_of_guardOn hon)

theorem execCvo_off {r : VR} (h : tileRuns s.dev g.val = false ∨ guardAny (tile s.dev g.val).core gd = false) (hwf : wfCvo r = true) :
    execCvo g gd r s = .next s := by
  rcases h with h | h
  · simp [execCvo, liftIf_ok hwf, h]
  · simp [execCvo, liftIf_ok hwf, h, guardOn_off h]

/-- The operations of the VPU that take a guard, off. -/
theorem exec_vpu_off (r : VR) (h : tileRuns s.dev g.val = false ∨ guardAny (tile s.dev g.val).core gd = false) :
    ∀ i ∈ [Instr.vpuAdd, Instr.vpuSub, Instr.vpuMul, Instr.fma, Instr.fms, Instr.vpuMin, Instr.vpuMax,
          Instr.abs, Instr.neg, Instr.cmp, Instr.vpuIntAdd, Instr.vpuIntSub, Instr.vpuIntMul, Instr.vpuAnd, Instr.vpuOr,
          Instr.vpuXor, Instr.vpuShl, Instr.vpuShr, Instr.vpuSra, Instr.vpuIntMin, Instr.vpuIntMax, Instr.cvi, Instr.cvo, Instr.mov,
          Instr.bcast, Instr.perm, Instr.slide, Instr.rsum, Instr.rmax, Instr.rmin, Instr.wel, Instr.wmrg,
          Instr.smxu, Instr.skmrg],
          wfInstr (i g gd r) = true → exec (i g gd r) s = .next s := by
  simp only [List.forall_mem_cons]
  dsimp only [wfInstr, exec, execVpuAdd, execVpuSub, execVpuMul, execFma, execFms, execVpuMin, execVpuMax, execAbs, execNeg, execVpuIntAdd,
    execVpuIntSub, execVpuIntMul, execVpuAnd, execVpuOr, execVpuXor, execVpuShl, execVpuShr, execVpuSra, execVpuIntMin, execVpuIntMax,
    execCvi, execMov, execBcast, execPerm, execSlide, execRsum, execRmax, execRmin, execCmp, execWel, execWmrg, execSmxu, execSkmrg]
  refine ⟨vpuOp_off h, vpuOp_off h, vpuOp_off h, vpuOp_off h, vpuOp_off h, vpuOp_off h, vpuOp_off h, vpuOp_off h, vpuOp_off h,
    laneRun_off h, ?_⟩
  refine ⟨vpuOp_off h, vpuOp_off h, vpuOp_off h, vpuOp_off h, vpuOp_off h, vpuOp_off h, vpuOp_off h, vpuOp_off h, vpuOp_off h,
    vpuOp_off h, vpuOp_off h, ?_⟩
  refine ⟨vpuOp_off h, execCvo_off h, vpuOp_off h, vpuOp_off h, vpuOp_off h, vpuOp_off h, vpuOp_off h, vpuOp_off h, vpuOp_off h, ?_⟩
  exact ⟨laneRun_off h, laneRun_off h, laneRun_off h, laneRun_off h, fun _ hi => absurd hi List.not_mem_nil⟩

end

/-! ### Scopes -/

@[simp] theorem setScope_setScope (d : Dev) (i : Nat) (x y : Scope) : setScope (setScope d i x) i y = setScope d i y := by
  unfold setScope
  (repeat' split) <;> rfl

@[simp] theorem setScope_self (d : Dev) (i : Nat) : setScope d i (scope d i) = d := by
  unfold setScope scope
  (repeat' split) <;> rfl

theorem updScope_updScope (d : Dev) (i : Nat) (f h : Scope → Scope) : updScope (updScope d i f) i h = updScope d i (fun x => h (f x)) := by
  by_cases hi : i < 2
  · simp only [updScope, scope_setScope d i _ hi, setScope_setScope]
  · have h0 : i ≠ 0 := by omega
    have h1 : i ≠ 1 := by omega
    simp only [updScope, setScope, if_neg h0, if_neg h1]

/-- A change of a scope that keeps its job and kind moves no tile to another register set (R36). -/
theorem scopeOf_updScope (d : Dev) (i g : Nat) (f : Scope → Scope) (hj : ∀ x, (f x).jobValid = x.jobValid)
    (hk : ∀ x, (f x).kind = x.kind) : scopeOf (updScope d i f) g = scopeOf d g := by
  by_cases h0 : i = 0
  · subst h0
    simp only [scopeOf, updScope, setScope, scope, if_true, hj, hk]
  · have hsc0 : (updScope d i f).sc0 = d.sc0 := by
      unfold updScope setScope
      (repeat' split) <;> first | rfl | contradiction
    simp only [scopeOf, hsc0]

/-! ### CTL -/

/-- The reports of a CHECK of some buffers of tile `g`: each that is not READY, for use 32 positions later (R45). -/
def checkReports (c : TileCore) (g : Nat) (l : List Nat) (x : Scope) : Scope :=
  { x with reps := x.reps ++ (l.filter (fun i => (lbuf c i).st != .ready)).map (fun i => ⟨x.pos + 32, g, i, false, none⟩) }

theorem checkOne_eq (d : Dev) (g i : Nat) : checkOne d g i = updScope d (scopeOf d g) (checkReports (tile d g).core g [i]) := by
  unfold checkOne
  split
  · next h =>
    have hnone : ∀ x, checkReports (tile d g).core g [i] x = x := fun x => by simp [checkReports, h]
    rw [updScope, hnone, setScope_self]
  · next h =>
    congr 1
    funext x
    simp [checkReports, h]

theorem checkReports_append (c : TileCore) (g : Nat) (l k : List Nat) (x : Scope) :
    checkReports c g k (checkReports c g l x) = checkReports c g (l ++ k) x := by
  simp [checkReports]

theorem checkOne_fold (g : Nat) (l : List Nat) (d : Dev) :
    l.foldl (fun d i => checkOne d g i) d = updScope d (scopeOf d g) (checkReports (tile d g).core g l) := by
  induction l using List.reverseRecOn with
  | nil =>
    have hnone : ∀ x, checkReports (tile d g).core g [] x = x := fun x => by simp [checkReports]
    rw [List.foldl_nil, updScope, hnone, setScope_self]
  | append_singleton l i ih =>
    rw [List.foldl_append, List.foldl_cons, List.foldl_nil, ih, checkOne_eq, tile_updScope,
      scopeOf_updScope d _ _ (checkReports (tile d g).core g l) (fun _ => rfl) (fun _ => rfl), updScope_updScope]
    simp only [checkReports_append]

theorem amovVal_eq (c : TileCore) (ad : Nat) (fn : Fin 4) (sa : Nat) (imm : BitVec 14) : amovVal c ad fn.val sa imm =
    if fn = 0 then (rdS c (sa + 1)).extractLsb' 0 16 ++ rdS c sa
    else if fn = 1 then rdA c ad + (rdS c sa).signExtend 48
    else rdA c ad + BitVec.ofInt 48 (imm.toInt * 64) := by
  fin_cases fn <;> rfl

theorem resultP_zero (d : Dev) (g l : Nat) (m v : Word64) : resultP d g l 0 m v = d := rfl

theorem resultP_pos (d : Dev) (g l : Nat) {pd : Nat} (m v : Word64) (h : pd ≠ 0) : resultP d g l pd m v = result d g l (.p pd m v) :=
  if_neg h

/-- A predicate written in all its lanes by a CTL slot: P0 discards it. -/
theorem ctlRun_resultP {s : State} {g : Fin 800} {pd : Fin 16} {ok : Bool} {v : Dev → Word64} {w : Word64}
    (h : tileRuns s.dev g.val = true) (hok : ok = true) (hv : v s.dev = w) :
    ctlRun s g ok (fun d => resultP d g.val 1 pd.val (BitVec.allOnes 64) (v d)) = .next (
      if pd = 0 then s else { s with dev := result s.dev g.val 1 (.p pd.val (BitVec.allOnes 64) w) }) := by
  rw [ctlRun_wf h hok, hv]
  by_cases hp : pd = 0
  · subst hp
    rfl
  · rw [if_neg hp, resultP_pos _ _ _ _ _ (fun h0 => hp (Fin.ext h0))]

end Sys2Proof.Machine

namespace Sys2Proof.Proofs

open Sys2Proof Sys2Proof.Machine Sys2Proof.Safety

/-- Settles O10: by cases on the family, each of which executes under its guard in a tile that runs. -/
theorem disabledSlotsChangeNothing : Obligations.DisabledSlotsChangeNothing := by
  intro s g gd
  refine ⟨fun h r m => ⟨exec_vpu_off r h, fun hwf => ⟨laneRun_off h hwf, laneRun_off h hwf⟩, ?_⟩,
    fun h => ?_, fun h i hwf hi => ?_⟩
  · dsimp only [exec, execEvalTs]
    exact fun _ _ _ _ => laneRun_off h rfl
  · dsimp only [exec, execLdw, execMac, execDrn, execZac, execTld, execTsel, execRd, execWr, execCpy, execAtm, execNrw, execGth, execCmpt,
      execEng, execSnd, execRws, execCol, execRed]
    exact ⟨fun _ _ _ _ _ _ => slotRun_off h, fun _ _ _ _ _ _ _ => slotRun_off h,
      fun _ _ _ _ _ _ hf ht => slotRun_off h (by rw [hf, ht]; rfl), fun _ => slotRun_off h rfl, fun _ _ _ => slotRun_off h rfl,
      fun _ _ => slotRun_off h rfl, fun _ _ _ _ _ => slotRun_off h rfl, fun _ _ _ _ => slotRun_off h rfl,
      fun _ _ _ _ _ => slotRun_off h rfl, fun _ _ _ _ => slotRun_off h rfl, fun _ _ _ _ _ => slotRun_off h rfl,
      fun _ _ _ _ => ⟨slotRun_off h rfl, slotRun_off h rfl⟩, fun _ _ _ _ => slotRun_off h, fun _ _ _ _ _ => slotRun_off h rfl,
      fun _ _ _ _ _ _ => slotRun_off h, fun _ _ _ _ _ _ => slotRun_off h, fun _ _ _ _ _ => slotRun_off h⟩
  · rcases hi with ⟨_, rfl⟩ | ⟨_, _, _, _, _, rfl⟩ | ⟨_, _, _, _, rfl⟩ | ⟨_, _, rfl⟩ | ⟨_, _, _, _, rfl⟩ | ⟨_, _, _, _, rfl⟩
      | ⟨_, _, _, _, rfl⟩ | ⟨_, _, _, rfl⟩ | ⟨_, _, _, _, rfl⟩ | ⟨_, _, rfl⟩ <;>
      (dsimp only [exec, wfInstr] at hwf ⊢; exact ctlRun_off h hwf)

/-- Settles O1: a CTL slot of a running tile executes; CHECK by the reports of its buffers in turn. -/
theorem controlSlotsComplete : Obligations.ControlSlotsComplete := by
  refine ⟨fun s g h => ?_, fun s g h => ?_⟩
  · dsimp only [exec, execNop, execSalu, execSli, execAmov, execCsrw, execPset, execPlog]
    refine ⟨rfl, fun _ _ _ _ hwf => ctlRun_wf h hwf, fun _ _ => ctlRun_wf h rfl, fun _ _ => ctlRun_wf h rfl, fun ad fn sa imm hwf => ?_,
      fun _ _ hwf => ctlRun_wf h hwf, fun pd cond sa sb hwf => ctlRun_resultP h hwf rfl, fun pd pa pb fn => ctlRun_resultP h rfl ?_⟩
    · simp only [ctlRun_wf h hwf, amovVal_eq]
    · fin_cases fn <;> rfl
  · dsimp only [exec, execCheck, execArm, execPsend]
    refine ⟨fun n la lb lc ld hwf => ⟨_, ctlRun_wf h hwf, rfl, ?_, ?_⟩, fun lb src sa sb hwf hfree => ⟨_, ctlRun_wf h hwf, rfl, ?_, ?_⟩,
      fun p idx => ⟨_, ctlRun_wf h rfl, rfl, updScope_tiles .., ?_⟩⟩
    · rw [checkOne_fold, updScope_tiles]
    · rw [checkOne_fold, scope_updScope_of]
      rfl
    · simp only [hfree, if_true]
      split <;> simp [lbuf, later]
    · simp only [hfree, if_true]
      split <;> simp [later]
    · rw [scope_updScope_of]
      rfl

end Sys2Proof.Proofs
end

section
/-! VLD and VST (R79, R100, R124, R129). -/

namespace Sys2Proof.Machine

open Sys2Proof Sys2Proof.Safety

/-- VLD of a span that faults nothing. -/
theorem execVld_ok {s : State} {g : Fin 800} {gd : Guard} {m : VM} (h : tileRuns s.dev g.val = true)
    (hany : guardAny (tile s.dev g.val).core gd = true) (hwf : wfVM m = true)
    (hport : portFault (tile s.dev g.val).core 0 (t0Addr (tile s.dev g.val).core m.aa.val m.off.toNat) (roundUp (vmBytes m.fmt.val) 64) = none)
    (hread : readFault (tile s.dev g.val).core (t0Addr (tile s.dev g.val).core m.aa.val m.off.toNat) (vmBytes m.fmt.val) = none) :
    let c := (tile s.dev g.val).core
    let a := t0Addr c m.aa.val m.off.toNat
    let f := m.fmt.val
    let mask := guardMask c gd.pg.val gd.pn
    let out := vec (fun k => widen f (elemAt (t0Read (tile s.dev g.val) a (vmBytes f)) (fmtBits f) k))
    let d := updCore s.dev g.val (fun c => usePort c 0 a)
    execVld g gd m s = .next { s with
      dev := releaseAt (result (if f = 0 then d else monitorNan d g.val (enabled mask out)) g.val 3 (.v m.vt.val mask out)) g.val m.rel a } := by
  simp only [execVld, laneRun_wf h hany hwf, staticRead_ok _ _ _ _ _ hport hread]
  rfl

/-- VST of FMT 0: the lanes' bits go as they are. -/
theorem execVst_bits {s : State} {g : Fin 800} {gd : Guard} {m : VM} (h : tileRuns s.dev g.val = true)
    (hany : guardAny (tile s.dev g.val).core gd = true) (hwf : wfVM m = true) (hf : m.fmt.val = 0) :
    execVst g gd m s = .next { s with
      dev := staticWrite s.dev g.val 2 (t0Addr (tile s.dev g.val).core m.aa.val m.off.toNat) 256 (fun t =>
        t0Write t (inSpec s.dev g.val) (t0Addr (tile s.dev g.val).core m.aa.val m.off.toNat)
          (mergeElems 32 (guardMask (tile s.dev g.val).core gd.pg.val gd.pn)
            (t0Read t (t0Addr (tile s.dev g.val).core m.aa.val m.off.toNat) 256)
            ((List.range 64).map (fun k => (lane (rdV (tile s.dev g.val).core m.vt.val) k).toNat)))) } := by
  simp only [execVst, laneRun_wf h hany hwf, hf, if_true, List.map_map, Function.comp_def]
  rfl

end Sys2Proof.Machine

namespace Sys2Proof.Proofs

open Sys2Proof Sys2Proof.Machine Sys2Proof.Safety

/-- Settles O5: a VLD is a read of the port and a VST a write, each rewritten by its equation. -/
theorem vectorMemoryComplete : Obligations.VectorMemoryComplete := by
  intro s g gd m h hany hwf c a f mask hport
  refine ⟨fun hread => execVld_ok h hany hwf hport hread, fun hf hwrite => ?_, fun hf hwrite => ?_⟩
  · have hport' : portFault (tile s.dev g.val).core 0 a (roundUp 256 64) = none := by
      rw [← hport, show f = 0 from hf]
      rfl
    refine (execVst_bits h hany hwf hf).trans ?_
    rw [staticWrite_ok _ _ _ _ _ _ hport' hwrite]
  · have hf' : ¬ m.fmt.val = 0 := hf
    dsimp only [exec]
    simp only [execVst, laneRun_wf h hany hwf, if_neg hf', inSpec_monitorConv, inSpec_roundBeat]
    rfl

end Sys2Proof.Proofs
end

section
/-! The SFU slot (R87, R145 to R148) and the MXU slot (R104 to R109). -/

namespace Sys2Proof.Machine

open Sys2Proof Sys2Proof.Safety

/-! ### SFU -/

section
variable {s : State} {g : Fin 800} {gd : Guard}

theorem execEvalTs_wait {ts : Fin 4} {vd va : Fin 32} {q : Fin 4} (h : tileRuns s.dev g.val = true)
    (hany : guardAny (tile s.dev g.val).core gd = true)
    (hslot : (sfuSlot (tile s.dev g.val).core ts.val).loaded = false ∨ (sfuSlot (tile s.dev g.val).core ts.val).wait ≠ 0) :
    execEvalTs g gd ts vd va q s = .next { s with dev := mapFault s.dev g.val 3 mfSfuTable ts.val 0 } := by
  rw [execEvalTs, laneRun_wf h hany rfl]
  rcases hslot with hslot | hslot <;> simp [hslot]

theorem execEvalTs_ready {ts : Fin 4} {vd va : Fin 32} {q : Fin 4} (h : tileRuns s.dev g.val = true)
    (hany : guardAny (tile s.dev g.val).core gd = true) (hload : (sfuSlot (tile s.dev g.val).core ts.val).loaded = true)
    (hwait : (sfuSlot (tile s.dev g.val).core ts.val).wait = 0) :
    let c := (tile s.dev g.val).core
    let sl := sfuSlot c ts.val
    let sel : Word64 := guardMask c gd.pg.val gd.pn &&& BitVec.ofNat 64 (0xFFFF * 2 ^ (16 * q.val))
    let out := vec (fun k => if sel.getLsbD k
      then evalSlotLane sl (parseTable sl.payload) (lane (rdV c va.val) k) (Config.evalFree sl.payload (lane (rdV c va.val) k)) else 0)
    execEvalTs g gd ts vd va q s = .next (if sel = 0 then s else { s with
      dev := result (monitorNan s.dev g.val (enabled sel out)) g.val 8 (.v vd.val sel out) }) := by
  intro c sl sel out
  have hcond : (!sl.loaded || sl.wait != 0) = false := by
    simp [sl, c, hload, hwait]
  rw [execEvalTs, laneRun_wf h hany rfl]
  dsimp only
  rw [if_neg (by simpa using hcond)]
  by_cases hsel : sel = 0
  · rw [if_pos hsel]
    exact congrArg (fun d => Host.Outcome.next { s with dev := d }) (if_pos hsel)
  · rw [if_neg hsel]
    exact congrArg (fun d => Host.Outcome.next { s with dev := d }) (if_neg hsel)

/-- The nine accesses of a TLD, none of which faults. -/
theorem planPorts_tld {c : TileCore} {a : Nat} (hports : ∀ i, i < 9 → portFault c i (a + 512 * i) (if i = 8 then 64 else 512) = none) :
    planPorts 3 c 0 ((List.range 9).map (fun i => (0, a + 512 * i, if i = 8 then 64 else 512)))
      = ({ c with ports := c.ports ++ (List.range 9).map (fun i => (i, bankOf (a + 512 * i))) },
          (List.range 9).map (fun i => (0, a + 512 * i, if i = 8 then 64 else 512))) := by
  rw [planPorts_free]
  · rfl
  · intro i hi
    have hi9 : i < 9 := by simpa using hi
    have hround : roundUp (if i = 8 then 64 else 512) 64 = if i = 8 then 64 else 512 := by
      split <;> rfl
    simpa [hround] using hports i hi9

/-- The tile's core after a TLD whose accesses begin at `a`, none of which faults: its slot and its nine accesses. -/
def tldCore (ts a : Nat) (c : TileCore) : TileCore :=
  { c with ports := c.ports ++ (List.range 9).map (fun i => (i, bankOf (a + 512 * i)))
           sfu := mset c.sfu ts ⟨true, false, 0, [], 64, (List.range 9).map (fun i => (a + 512 * i, if i = 8 then 64 else 512, false))⟩ }

/-- The tile's core after a TSEL. -/
def tselCore (ts set : Nat) (c : TileCore) : TileCore := { c with sfu := mset c.sfu ts ⟨true, true, set, [], 64, []⟩ }

theorem execTld_ok {ts : Fin 4} {aa : Fin 16} {off : BitVec 16} (h : tileRuns s.dev g.val = true)
    (hon : guardOn (tile s.dev g.val).core gd = true) :
    let c := (tile s.dev g.val).core
    let a := t0Addr c aa.val off.toNat
    a / 2 ^ 17 = (a + 4159) / 2 ^ 17 →
    (∀ i, i < 9 → portFault c i (a + 512 * i) (if i = 8 then 64 else 512) = none) →
    tableOk (t0Read (tile s.dev g.val) a 4160) = true →
    execTld g gd ts aa off s = .next { s with dev := updCore s.dev g.val (tldCore ts.val a) } := by
  intro c a hbank hports hok
  rw [execTld, slotRun_wf h hon rfl]
  dsimp only
  rw [if_neg (by simp [c, a] at hbank ⊢; omega), if_neg (by simp [c, a] at hok ⊢; simp [hok]), planPorts_tld hports]
  rfl

theorem execTsel_ok {ts : Fin 4} {set : Fin 8} (h : tileRuns s.dev g.val = true) (hon : guardOn (tile s.dev g.val).core gd = true) :
    execTsel g gd ts set s = .next { s with dev := updCore s.dev g.val (tselCore ts.val set.val) } := slotRun_wf h hon rfl

theorem execTld_badTable {ts : Fin 4} {aa : Fin 16} {off : BitVec 16} (h : tileRuns s.dev g.val = true)
    (hon : guardOn (tile s.dev g.val).core gd = true) :
    let a := t0Addr (tile s.dev g.val).core aa.val off.toNat
    a / 2 ^ 17 = (a + 4159) / 2 ^ 17 → a + 4160 ≤ 2 ^ 21 → tableOk (t0Read (tile s.dev g.val) a 4160) = false →
    execTld g gd ts aa off s = .next { s with dev := mapFault s.dev g.val 3 mfSfuTable ts.val a } := by
  intro a hbank hwin hbad
  rw [execTld, slotRun_wf h hon rfl]
  dsimp only
  rw [if_neg (by simp [a] at hbank ⊢; omega), if_pos (by simp [a] at hbad hwin ⊢; simp [hbad, hwin])]

/-! ### MXU -/

/-- A listed format fills the first access of its load (Table 5-2). -/
theorem ldwPlan_head {f : Fin 16} (hf : wfFmtw f = true) (sp : Bool) (base sbase : Nat) :
    ∃ l, ldwPlan f.val sp base sbase = (0, base, 512) :: l := by
  fin_cases f <;> first | exact absurd hf (by decide) | exact ⟨_, rfl⟩

theorem execLdw_ok {fmtw : Fin 16} {sp : Bool} {aa : Fin 16} {off : BitVec 16} {sc : Fin 16} {rel : Bool}
    (h : tileRuns s.dev g.val = true) (hon : guardOn (tile s.dev g.val).core gd = true)
    (hfree : mxuBlocked (tile s.dev g.val).core = false) (hwf : wfFmtw fmtw = true) (hnew : (tile s.dev g.val).core.wNew = none)
    (hpair : ¬ (sp = true ∧ (fmtw = 1 ∨ fmtw = 2))) :
    let c := (tile s.dev g.val).core
    let base := t0Addr c aa.val off.toNat
    let q := planPorts 1 c 0 (ldwPlan fmtw.val sp base (t0Addr c sc.val 0))
    let d := updCore s.dev g.val (fun _ => { q.1 with wNew := some ⟨fmtw.val, sp, [], [], [], 0, q.2⟩ })
    execLdw g gd fmtw sp aa off sc rel s = .next { s with
      dev := if portFault c 0 base 512 = none then releaseAt d g.val rel base else d } := by
  intro c base q d
  have hpair' : (sp && (fmtw.val == 1 || fmtw.val == 2)) = false := by
    rw [← Bool.not_eq_true]
    simpa [Fin.ext_iff] using hpair
  have hhead : q.2.head?.map (fun p => decide (p.1 < 4)) = some (decide (portFault c 0 base 512 = none)) := by
    obtain ⟨l, hl⟩ := ldwPlan_head hwf sp base (t0Addr c sc.val 0)
    have hround : roundUp 512 64 = 512 := rfl
    simp only [q, hl, planPorts_head, hround]
    split <;> simp [*]
  rw [execLdw, slotRun_wf h hon hwf]
  dsimp only
  rw [if_neg (by simp [hfree]), if_neg (by simp [hnew]), if_neg (by simp [hpair']), hhead]
  by_cases hport : portFault c 0 base 512 = none
  · rw [if_pos hport]
    simp only [hport, decide_true, Option.getD_some, if_true]
    rfl
  · rw [if_neg hport]
    simp only [hport, decide_false, Option.getD_some, Bool.false_eq_true, if_false]
    rfl

theorem execMac_ok {fmta : Fin 16} {acc : Fin 4} {accum ref : Bool} {aa : Fin 16} {off : BitVec 16} {rel : Bool} {w : WBuf} {r : Nat}
    (h : tileRuns s.dev g.val = true) (hon : guardOn (tile s.dev g.val).core gd = true)
    (hfree : mxuBlocked (tile s.dev g.val).core = false) (hwf : wfFmta fmta = true)
    (hacc : macAccFault (tile s.dev g.val).core acc.val accum = none) (hw : (macActivate (tile s.dev g.val).core acc.val).wAct = some w)
    (hr : pairRows fmta.val w.fmt = some r) :
    let c := (tile s.dev g.val).core
    let a := t0Addr c aa.val off.toNat
    let n := r * (if w.sp then 128 else 64) * fmtBits fmta.val / 8
    portFault c 0 a (roundUp n 64) = none → readFault c a n = none →
    execMac g gd fmta acc accum ref aa off rel s = .next { s with
      dev := releaseAt (macApply (updCore (updCore s.dev g.val (fun c => usePort c 0 a)) g.val (fun c =>
        macActivate c acc.val)) g.val w fmta.val acc.val r accum ref (t0Read (tile s.dev g.val) a n)) g.val rel a } := by
  intro c a n hport hread
  simp only [c, a, n] at hport hread
  simp only [execMac, slotRun_wf h hon hwf, hacc, hfree, Bool.false_eq_true, if_false, hw, hr, staticRead_ok _ _ _ _ _ hport hread]
  rfl

/-- A DRN that faults nothing now writes in its eighth beat, or faults then. -/
theorem execDrn_ok {acc : Fin 4} {fmto : Fin 16} {sat : Bool} {tag : Fin 32} {aa : Fin 16} {off : BitVec 16} {n : Nat}
    {late : TileCore → TileCore} (h : tileRuns s.dev g.val = true) (hon : guardOn (tile s.dev g.val).core gd = true)
    (hfree : mxuBlocked (tile s.dev g.val).core = false) (hf : wfFmto fmto = true) (ht : wfTag tag = true)
    (hrows : drnRows fmto.val = some n) (hrp : mget (tile s.dev g.val).core.rp acc.val 0 = 0)
    (hund : mget (tile s.dev g.val).core.undrained acc.val false = true) :
    let c := (tile s.dev g.val).core
    let a := t0Addr c aa.val off.toNat
    let dp := mget c.dp acc.val 0
    let xs := ((List.range n).map (fun i => mget c.accVis (acc.val * 64 + (dp + i) % 64) zeroVec)).flatten
    let rb := roundBeat s.dev g.val
    let cs := (List.range xs.length).map (fun k =>
      convert fmto.val (rb.1 k) sat (latchOf s.dev g.val tag.val) (dec32 (xs.getD k 0)))
    let data := (packLanes (fmtBits fmto.val) (cs.map (fun x => x.code))).map some
    (∀ c, lateWrite 1 7 a 512 data (inSpec s.dev g.val)
      { c with dp := mset c.dp acc.val ((dp + n) % 64)
               undrained := if 64 ≤ dp + n then mset c.undrained acc.val false else c.undrained } = late c) →
    execDrn g gd acc fmto sat tag aa off s = .next { s with
      dev := updCore (monitorConv rb.2 g.val tag.val xs cs) g.val late } := by
  intro c a dp xs rb cs data hlate
  rw [← funext hlate]
  have hacc : drnAccFault (tile s.dev g.val).core acc.val fmto.val = none := by
    simp [drnAccFault, hrows, hrp, hund]
  simp only [execDrn, slotRun_wf h hon (show (wfFmto fmto && wfTag tag) = true by simp [hf, ht]), hacc, hfree, Bool.false_eq_true,
    if_false, hrows, Option.getD_some, inSpec_monitorConv, inSpec_roundBeat]
  rfl

/-- A key that a filter takes out is listed no more. -/
theorem mget?_filter_out {α : Type} (m : FMap α) (n : Nat) (p : Nat × α → Bool) (h : ∀ v, p (n, v) = false) :
    mget? (m.filter p) n = none := by
  induction m with
  | nil => rfl
  | cons q r ih =>
    obtain ⟨k, v⟩ := q
    rw [List.filter_cons]
    split
    · next hp =>
      have hk : n ≠ k := by
        rintro rfl
        rw [h v] at hp
        cases hp
      rw [mget?, ih, if_neg hk, ite_self]
    · exact ih

/-- The tile's core after a ZAC. -/
def zacCore (b : Nat) (c : TileCore) : TileCore :=
  { c with acc := c.acc.filter (fun p => p.1 / 64 != b), rp := mset c.rp b 0, dp := mset c.dp b 0, undrained := mset c.undrained b false
           pend := c.pend ++ [⟨4, .accZero b⟩] }

theorem execZac_ok {acc : Fin 4} (h : tileRuns s.dev g.val = true) (hon : guardOn (tile s.dev g.val).core gd = true)
    (hfree : mxuBlocked (tile s.dev g.val).core = false) :
    execZac g gd acc s = .next { s with dev := updCore s.dev g.val (zacCore acc.val) } := by
  simp only [execZac, slotRun_wf h hon rfl, hfree, Bool.false_eq_true, if_false]
  rfl

end

end Sys2Proof.Machine

namespace Sys2Proof.Proofs

open Sys2Proof Sys2Proof.Machine Sys2Proof.Safety

/-- Settles O6: each operation of the two slots by its own equation, under the guard of a running tile. -/
theorem matrixAndSfuComplete : Obligations.MatrixAndSfuComplete := by
  refine ⟨fun s g gd h => ⟨fun ts vd va q hany hload hwait => ?_, fun ts vd va q hany hslot => ?_, fun ts set hon => ?_,
    fun ts aa off hon hbank hports hok => ?_, fun ts aa off hon hbank hwin hbad => ?_⟩, fun s g gd h hon hfree =>
    ⟨fun fmtw sp aa off sc rel hwf hnew hpair => ?_, fun fmta acc accum ref aa off rel w r hwf hacc hw hr hport hread => ?_,
      fun acc fmto sat tag aa off n hf ht hrows hrp hund => ?_, fun acc => ?_⟩⟩
  · exact execEvalTs_ready h hany hload hwait
  · exact execEvalTs_wait h hany hslot
  · refine ⟨{ s with dev := updCore s.dev g.val (tselCore ts.val set.val) }, execTsel_ok h hon, rfl, ?_, updCore_only s.dev g.val _⟩
    simp only [tile_updCore, sfuSlot, tselCore, mget_mset_same]
  · refine ⟨{ s with dev := updCore s.dev g.val (tldCore ts.val _) }, execTld_ok h hon hbank hports hok, rfl, updCore_only s.dev g.val _,
      ?_, ?_⟩
    · simp only [tile_updCore, sfuSlot, tldCore, mget_mset_same]
    · simp only [tile_updCore, tldCore]
  · exact execTld_badTable h hon hbank hwin hbad
  · dsimp only [exec]
    exact execLdw_ok h hon hfree hwf hnew hpair
  · exact execMac_ok h hon hfree hwf hacc hw hr hport hread
  · refine execDrn_ok h hon hfree hf ht hrows hrp hund fun c => ?_
    have hport (und : FMap Bool) (dp : FMap Nat) (a : Nat) : portFault { c with dp := dp, undrained := und } 7 a 512 = portFault c 7 a 512 :=
      rfl
    simp only [lateWrite, hport]
    cases portFault c 7 _ 512 <;> rfl
  · refine ⟨{ s with dev := updCore s.dev g.val (zacCore acc.val) }, execZac_ok h hon hfree, rfl, updCore_only s.dev g.val _,
      fun row hrow => ?_, ?_⟩
    · have hbank : (acc.val * 64 + row) / 64 = acc.val := by omega
      simp only [tile_updCore, zacCore, mget]
      rw [mget?_filter_out _ _ _ (fun v => by simp [hbank])]
      rfl
    · simp [zacCore]

end Sys2Proof.Proofs
end

section
/-! The LSU and NET slots (R88, R89): reads and moves, gathers and compaction within T0 (R188, R189), and operations that leave the tile (R52, R58,
R102, R112). -/

namespace Sys2Proof.Machine

open Sys2Proof Sys2Proof.Safety

/-! ### Bit fields -/

theorem fld_eq (v lo n : Nat) : fld v lo n = v / 2 ^ lo % 2 ^ n := by
  rw [fld, Nat.shiftRight_eq_div_pow]

theorem fld_zero (v n : Nat) : fld v 0 n = v % 2 ^ n := by
  rw [fld_eq, Nat.pow_zero, Nat.div_one]

/-- A field cut to a bound. -/
theorem min_fld_zero (v n m : Nat) : Nat.min (fld v 0 n) m = min (v % 2 ^ n) m := by
  rw [fld_zero]

/-! ### Writes into a list by place -/

@[simp] theorem length_listUpd {α : Type} (l : List α) (f : α → α) : ∀ i, (listUpd l i f).length = l.length := by
  induction l with
  | nil => intro i; rfl
  | cons x xs ih =>
    intro i
    cases i with
    | zero => rfl
    | succ i => exact congrArg (· + 1) (ih i)

theorem getD_listUpd {α : Type} (d : α) (f : α → α) (l : List α) : ∀ i p, (listUpd l i f).getD p d =
    if p = i ∧ p < l.length then f (l.getD p d) else l.getD p d := by
  induction l with
  | nil => intro i p; simp [listUpd]
  | cons x xs ih =>
    intro i p
    cases i with
    | zero => cases p <;> simp [listUpd]
    | succ i =>
      cases p with
      | zero => simp [listUpd]
      | succ p => simpa [listUpd] using ih i p

theorem getD_replicate_self {α : Type} (d : α) (n p : Nat) : (List.replicate n d).getD p d = d := by
  rw [List.getD_eq_getElem?_getD, List.getElem?_replicate]
  split <;> rfl

/-- The values that `w` gives for some places, put there. -/
def putAt {α : Type} (w : Nat → α) (places : List Nat) (o : List α) : List α :=
  places.foldl (fun o p => listUpd o p (fun _ => w p)) o

@[simp] theorem length_putAt {α : Type} (w : Nat → α) (places : List Nat) : ∀ o, (putAt w places o).length = o.length := by
  induction places with
  | nil => intro o; rfl
  | cons p ps ih => exact fun o => (ih _).trans (length_listUpd ..)

theorem getD_putAt {α : Type} (w : Nat → α) (d : α) (p : Nat) (places : List Nat) : ∀ o, (putAt w places o).getD p d =
    if p ∈ places ∧ p < o.length then w p else o.getD p d := by
  induction places with
  | nil => intro o; simp [putAt]
  | cons q qs ih =>
    intro o
    have hstep : putAt w (q :: qs) o = putAt w qs (listUpd o q (fun _ => w q)) := rfl
    rw [hstep, ih, getD_listUpd, length_listUpd]
    by_cases hp : p = q
    · subst hp
      by_cases hl : p < o.length <;> simp [hl]
    · simp [hp]

/-! ### GTH and CMPT (R188, R189) -/

section
variable (slot k a n : Nat) (data : List (Option Byte)) (sp : Bool) (c : TileCore)

@[simp] theorem lateWrite_cur : (lateWrite slot k a n data sp c).cur = c.cur := by
  unfold lateWrite
  split <;> rfl

@[simp] theorem lateWrite_cmptDrop : (lateWrite slot k a n data sp c).cmptDrop = c.cmptDrop := by
  unfold lateWrite
  split <;> rfl

/-- One entry is added to what the tile still has to do: the write, or its fault. -/
theorem lateWrite_pend : (lateWrite slot k a n data sp c).pend = c.pend ++ [match portFault c k a n with
    | some f => (⟨k + 1, .fault slot f.1 f.2 a⟩ : PendRes)
    | none => ⟨k + 1, .t0 slot a data sp⟩] := by
  unfold lateWrite
  split <;> simp [*]

end

/-- Place in the span from `lo` of byte `j` of the `i`-th element that a CMPT keeps, `old` elements being there already. -/
def cmptPlace (old lo i j : Nat) : Nat := 4 * (old + i) - lo + j

/-- The byte that belongs at a place of that span, `kept` being the lanes kept in order. -/
def cmptByte (src : List Byte) (kept : List Nat) (old lo p : Nat) : Option Byte :=
  some (byteAt src (4 * kept.getD ((p + lo - 4 * old) / 4) 0 + (p + lo - 4 * old) % 4))

theorem cmptByte_place (src : List Byte) (kept : List Nat) {old lo i j : Nat} (hlo : lo ≤ 4 * old) (hj : j < 4) :
    cmptByte src kept old lo (cmptPlace old lo i j) = some (byteAt src (4 * kept.getD i 0 + j)) := by
  have hi : (cmptPlace old lo i j + lo - 4 * old) / 4 = i := by
    unfold cmptPlace
    omega
  have hj' : (cmptPlace old lo i j + lo - 4 * old) % 4 = j := by
    unfold cmptPlace
    omega
  rw [cmptByte, hi, hj']

/-- The places that some elements take. -/
def cmptPlaces (old lo : Nat) (out : List Nat) : List Nat := out.flatMap (fun i => (List.range 4).map (cmptPlace old lo i))

theorem mem_cmptPlaces {old lo p : Nat} {out : List Nat} : p ∈ cmptPlaces old lo out ↔ ∃ i ∈ out, ∃ j < 4, p = cmptPlace old lo i j := by
  simp [cmptPlaces, eq_comm]

/-- The bytes that a CMPT puts into its span, element after element. -/
theorem cmptData_eq (src : List Byte) (kept : List Nat) {old lo : Nat} (hlo : lo ≤ 4 * old) (out : List Nat) (o : List (Option Byte)) :
    out.foldl (fun o i => (List.range 4).foldl (fun o j =>
      listUpd o (4 * (old + i) - lo + j) (fun _ => some (byteAt src (4 * kept.getD i 0 + j)))) o) o
      = putAt (cmptByte src kept old lo) (cmptPlaces old lo out) o := by
  rw [putAt, cmptPlaces, List.foldl_flatMap]
  congr 1
  funext o i
  rw [List.foldl_map]
  refine List.foldl_ext _ _ _ fun o j hj => ?_
  rw [cmptByte_place src kept hlo (List.mem_range.1 hj)]
  rfl

section
variable {s : State} {g : Fin 800} {gd : Guard}

theorem execGth_ok {aa ab : Fin 16} {vi : Fin 32} {sn : Fin 64} (h : tileRuns s.dev g.val = true)
    (hon : guardOn (tile s.dev g.val).core gd = true) :
    let c := (tile s.dev g.val).core
    let src := t0Addr c ab.val 0
    let w := (rdS c sn.val).toNat
    portFault c 0 src 512 = none → readFault c src 512 = none →
    execGth g gd aa ab vi sn s = .next { s with
      dev := updCore (updCore s.dev g.val (fun c => usePort c 0 src)) g.val (fun d => lateWrite 4 4 (t0Addr c aa.val 0) 512
        (gthWrite (t0Read (tile s.dev g.val) src 512) (rdV d vi.val) (min (w % 128) 64) (2 ^ (w / 256 % 4)))
        (inSpec s.dev g.val) d) } := by
  intro c src w hport hread
  simp only [c, src] at hport hread
  simp only [execGth, slotRun_wf h hon rfl, staticRead_ok _ _ _ _ _ (show portFault _ 0 _ (roundUp 512 64) = none from hport) hread,
    inSpec_updCore, min_fld_zero]
  simp only [fld_eq, Nat.reducePow]
  rfl

/-- What a CMPT leaves of its tile's core. -/
def cmptCore (cur : Nat) (e : Nat × Nat) (drop a span : Nat) (data : List (Option Byte)) (sp : Bool) (c : TileCore) : TileCore :=
  lateWrite 4 4 a span data sp { c with cur := mset c.cur cur e, cmptDrop := satAdd 32 c.cmptDrop drop }

theorem execCmpt_ok {aa ab : Fin 16} {vi : Fin 32} {sn : Fin 64} (h : tileRuns s.dev g.val = true)
    (hon : guardOn (tile s.dev g.val).core gd = true) :
    let c := (tile s.dev g.val).core
    let src := t0Addr c ab.val 0
    let w := (rdS c sn.val).toNat
    let cur := w / 2 ^ 16 % 16
    let old := if w.testBit 31 then (0, 0) else mget c.cur cur (0, 0)
    let b := min (w % 2 ^ 16) 32768
    let kept := (List.range 64).filter (fun k => lane (rdV c vi.val) k != 0)
    let n := kept.length
    let lo := 4 * old.1 / 64 * 64
    let span := roundUp (4 * old.1 + 256) 64 - lo
    portFault c 0 src 256 = none → readFault c src 256 = none →
    execCmpt g gd aa ab vi sn s = .next { s with
      dev := updCore (updCore s.dev g.val (fun c => usePort c 0 src)) g.val (cmptCore cur (min b (old.1 + n), satAdd 32 old.2 (old.1 + n - b))
        (old.1 + n - b) (t0Addr c aa.val 0 + lo) span
        (putAt (cmptByte (t0Read (tile s.dev g.val) src 256) kept old.1 lo)
          (cmptPlaces old.1 lo ((List.range n).filter (fun i => decide (old.1 + i < b)))) (List.replicate span none))
        (inSpec s.dev g.val)) } := by
  intro c src w cur old b kept n lo span hport hread
  have hlo : lo ≤ 4 * old.1 := Nat.div_mul_le_self ..
  rw [← cmptData_eq _ _ hlo]
  simp only [c, src] at hport hread
  simp only [execCmpt, slotRun_wf h hon rfl, staticRead_ok _ _ _ _ _ (show portFault _ 0 _ (roundUp 256 64) = none from hport) hread,
    inSpec_updCore, min_fld_zero]
  simp only [fld_eq, Nat.reducePow]
  rfl

/-- The counts, the late write and the bytes of a CMPT whose read does not fault. -/
theorem execCmpt_facts {aa ab : Fin 16} {vi : Fin 32} {sn : Fin 64} (h : tileRuns s.dev g.val = true)
    (hon : guardOn (tile s.dev g.val).core gd = true) :
    let c := (tile s.dev g.val).core
    let src := t0Addr c ab.val 0
    let w := (rdS c sn.val).toNat
    let cur := w / 2 ^ 16 % 16
    let old := if w.testBit 31 then (0, 0) else mget c.cur cur (0, 0)
    let b := min (w % 2 ^ 16) 32768
    let kept := (List.range 64).filter (fun k => lane (rdV c vi.val) k != 0)
    let n := kept.length
    let lo := 4 * old.1 / 64 * 64
    let span := roundUp (4 * old.1 + 256) 64 - lo
    let a := t0Addr c aa.val 0 + lo
    portFault c 0 src 256 = none → readFault c src 256 = none →
    ∃ (t : State) (data : List (Option Byte)), exec (.cmpt g gd aa ab vi sn) s = .next t ∧ t.pending = s.pending
      ∧ t.dev = setTile s.dev g.val (tile t.dev g.val)
      ∧ mget (tile t.dev g.val).core.cur cur (0, 0) = (min b (old.1 + n), satAdd 32 old.2 (old.1 + n - b))
      ∧ (∀ k, k ≠ cur → mget (tile t.dev g.val).core.cur k (0, 0) = mget c.cur k (0, 0))
      ∧ (tile t.dev g.val).core.cmptDrop = satAdd 32 c.cmptDrop (old.1 + n - b)
      ∧ data.length = span
      ∧ (∀ i j, i < n → old.1 + i < b → j < 4 → data.getD (4 * (old.1 + i) - lo + j) none
          = some (byteAt (t0Read (tile s.dev g.val) src 256) (4 * kept.getD i 0 + j)))
      ∧ (∀ p, (∀ i j, i < n → old.1 + i < b → j < 4 → p ≠ 4 * (old.1 + i) - lo + j) → data.getD p none = none)
      ∧ (tile t.dev g.val).core.pend = c.pend ++ [match portFault (usePort c 0 src) 4 a span with
          | some f => (⟨5, .fault 4 f.1 f.2 a⟩ : PendRes)
          | none => ⟨5, .t0 4 a data (inSpec s.dev g.val)⟩] := by
  intro c src w cur old b kept n lo span a hport hread
  have hlo : lo ≤ 4 * old.1 := Nat.div_mul_le_self ..
  have hn : n ≤ 64 := (List.length_filter_le ..).trans (List.length_range).le
  have hspan : 4 * old.1 + 256 - lo ≤ span := by
    simp only [span, roundUp]
    omega
  have hexec : exec (.cmpt g gd aa ab vi sn) s = _ := execCmpt_ok h hon hport hread
  rw [updCore_updCore] at hexec
  refine ⟨_, putAt (cmptByte (t0Read (tile s.dev g.val) src 256) kept old.1 lo)
    (cmptPlaces old.1 lo ((List.range n).filter (fun i => decide (old.1 + i < b)))) (List.replicate span none), hexec, rfl, ?_, ?_,
    fun k hk => ?_, ?_, length_putAt .. |>.trans List.length_replicate, fun i j hi hb hj => ?_,
    fun p hp => ?_, ?_⟩
  · dsimp only
    exact updCore_only ..
  · simp only [tile_updCore, cmptCore, lateWrite_cur]
    exact mget_mset_same ..
  · simp only [tile_updCore, cmptCore, lateWrite_cur, usePort]
    exact mget_mset_other _ _ _ _ _ hk
  · simp only [tile_updCore, cmptCore, lateWrite_cmptDrop]
    rfl
  · refine (getD_putAt ..).trans ((if_pos ⟨?_, ?_⟩).trans (cmptByte_place _ _ hlo hj))
    · exact mem_cmptPlaces.2 ⟨i, List.mem_filter.2 ⟨List.mem_range.2 hi, decide_eq_true hb⟩, j, hj, rfl⟩
    · rw [List.length_replicate]
      have : i < n := hi
      omega
  · refine (getD_putAt ..).trans ((if_neg ?_).trans (getD_replicate_self ..))
    rintro ⟨hmem, -⟩
    obtain ⟨i, hi, j, hj, rfl⟩ := mem_cmptPlaces.1 hmem
    obtain ⟨hi, hb⟩ := List.mem_filter.1 hi
    exact hp i j (List.mem_range.1 hi) (of_decide_eq_true hb) hj rfl
  · simp only [tile_updCore, cmptCore, lateWrite_pend]
    rfl

/-! ### Operations that leave the tile -/

theorem outbound_sourceFault {d : Dev} {g slot a n : Nat} {mk : List Byte → OutOp} {f : Nat × Nat}
    (h : sourceFault (tile d g).core a n = some f) : outbound d g slot a n mk = mapFault d g slot f.1 f.2 a := by
  simp only [outbound, h]

theorem outbound_full {d : Dev} {g slot a n : Nat} {mk : List Byte → OutOp} (h : sourceFault (tile d g).core a n = none)
    (hfull : 64 ≤ (tile d g).psrc.length) : outbound d g slot a n mk = mapFault d g slot mfPendingFull 0 a := by
  simp only [outbound, h, if_pos hfull]

/-- An operation that its source or a full table suppresses is a mapping fault. -/
theorem suppressed_outbound (s : State) (g slot a n : Nat) (mk : List Byte → OutOp) :
    (∀ f, sourceFault (tile s.dev g).core a n = some f →
        ({ s with dev := outbound s.dev g slot a n mk } : State) = { s with dev := mapFault s.dev g slot f.1 f.2 a })
      ∧ (sourceFault (tile s.dev g).core a n = none → 64 ≤ (tile s.dev g).psrc.length →
        ({ s with dev := outbound s.dev g slot a n mk } : State) = { s with dev := mapFault s.dev g slot mfPendingFull 0 a }) :=
  ⟨fun _ hf => by rw [outbound_sourceFault hf], fun hsrc hfull => by rw [outbound_full hsrc hfull]⟩

section
variable {s : State} {g : Fin 800} {gd : Guard} (h : tileRuns s.dev g.val = true) (hon : guardOn (tile s.dev g.val).core gd = true)
include h hon

theorem execWr_runs (aa ab : Fin 16) (sn : Fin 64) (blk : Bool) :
    let c := (tile s.dev g.val).core
    let w := (rdS c sn.val).toNat
    exec (.wr g gd aa ab sn blk) s = .next { s with
      dev := outbound s.dev g.val 4 (t0Addr c ab.val 0) (if blk then 512 * blkBits w else w)
        (fun bs => .wr (objHandle c aa.val) (objOff c aa.val) bs (if blk then some w else none)) } := by
  intro c
  have hexec : exec (.wr g gd aa ab sn blk) s = execWr g gd aa ab sn blk s := rfl
  rw [hexec, execWr, slotRun_wf h hon rfl]

theorem execAtm_runs (aa ab : Fin 16) (vi : Fin 32) (afmt : Fin 4) :
    let c := (tile s.dev g.val).core
    exec (.atm g gd aa ab vi afmt) s = .next { s with
      dev := outbound s.dev g.val 4 (t0Addr c ab.val 0) (64 * atmBytes afmt.val)
        (fun bs => .atm (objHandle c aa.val) (objOff c aa.val) (laneIdx c vi.val) (pieces (atmBytes afmt.val) bs) afmt.val) } := by
  intro c
  have hexec : exec (.atm g gd aa ab vi afmt) s = execAtm g gd aa ab vi afmt s := rfl
  rw [hexec, execAtm, slotRun_wf h hon rfl]

theorem execScatter_runs (aa ab : Fin 16) (vi : Fin 32) (lb : Fin 64) :
    let c := (tile s.dev g.val).core
    exec (.nrw g gd aa ab vi true lb) s = .next { s with
      dev := outbound s.dev g.val 4 (t0Addr c ab.val 0) 2048
        (fun bs => .nrw (objHandle c aa.val) (objOff c aa.val) (laneIdx c vi.val) (pieces 32 bs)) } := by
  intro c
  have hexec : exec (.nrw g gd aa ab vi true lb) s = execNrw g gd aa ab vi true lb s := rfl
  rw [hexec, execNrw, slotRun_wf h hon rfl, if_pos rfl]

theorem execEng_runs (aa kind index : Fin 16) (lb : Fin 64) (hwf : wfEng kind = true) :
    exec (.eng g gd aa kind index lb) s = .next { s with
      dev := outbound s.dev g.val 4 (t0Addr (tile s.dev g.val).core aa.val 0) 64 (fun bs => .eng kind.val index.val lb.val bs) } := by
  have hexec : exec (.eng g gd aa kind index lb) s = execEng g gd aa kind index lb s := rfl
  rw [hexec, execEng, slotRun_wf h hon hwf]

theorem execSnd_runs (dst : Fin 1024) (via : Bool) (aa : Fin 16) (lb sn : Fin 64) :
    let c := (tile s.dev g.val).core
    exec (.snd g gd dst via aa lb sn) s = .next { s with
      dev := outbound s.dev g.val 5 (t0Addr c aa.val 0) (rdS c sn.val).toNat (fun bs => .snd dst.val lb.val (flag via) bs) } := by
  intro c
  have hexec : exec (.snd g gd dst via aa lb sn) s = execSnd g gd dst via aa lb sn s := rfl
  rw [hexec, execSnd, slotRun_wf h hon rfl]

theorem execRws_runs (aa ab : Fin 16) (sn sd : Fin 64) (vc : Fin 4) (sb : Fin 64) (hwf : wfRws vc = true) :
    let c := (tile s.dev g.val).core
    exec (.rws g gd aa ab sn sd vc sb) s = .next { s with
      dev := outbound s.dev g.val 5 (t0Addr c aa.val 0) (rdS c sn.val).toNat (fun bs => .rws (fld (rdS c sd.val).toNat 0 18)
        (objHandle c ab.val) (objOff c ab.val) bs vc.val (fld (rdS c sb.val).toNat 0 20)) } := by
  intro c
  have hexec : exec (.rws g gd aa ab sn sd vc sb) s = execRws g gd aa ab sn sd vc sb s := rfl
  rw [hexec, execRws, slotRun_wf h hon hwf]

theorem execCol_runs (aa : Fin 16) (sn : Fin 64) (kind : Fin 8) (fmt : Fin 16) (group : Fin 4096) (lb : Fin 64)
    (hwf : wfCol kind fmt = true) :
    let c := (tile s.dev g.val).core
    exec (.col g gd aa sn kind fmt group lb) s = .next { s with
      dev := outbound s.dev g.val 5 (t0Addr c aa.val 0) (rdS c sn.val).toNat (fun bs => .col kind.val fmt.val group.val lb.val bs) } := by
  intro c
  have hexec : exec (.col g gd aa sn kind fmt group lb) s = execCol g gd aa sn kind fmt group lb s := rfl
  rw [hexec, execCol, slotRun_wf h hon hwf]

theorem execRed_runs (aa : Fin 16) (sn : Fin 64) (fmt : Fin 16) (lb : Fin 64) (root : Fin 1024) (hwf : wfFmto fmt = true) :
    let c := (tile s.dev g.val).core
    exec (.red g gd aa sn fmt lb root) s = .next { s with
      dev := outbound s.dev g.val 5 (t0Addr c aa.val 0) (rdS c sn.val).toNat (fun bs => .red fmt.val lb.val root.val bs) } := by
  intro c
  have hexec : exec (.red g gd aa sn fmt lb root) s = execRed g gd aa sn fmt lb root s := rfl
  rw [hexec, execRed, slotRun_wf h hon hwf]

end

/-- An operation whose source faults nothing leaves its tile, with room in the pending-source table and, where it is held, in the hold queue. -/
theorem leaves_of_outbound {i : Instr} {slot a n : Nat} {send : Bool} {mk : List Byte → OutOp} (hsend : ∀ bs, isSend (mk bs) = send)
    (hexec : exec i s = .next { s with dev := outbound s.dev g.val slot a n mk }) (hsrc : sourceFault (tile s.dev g.val).core a n = none)
    (hroom : (tile s.dev g.val).psrc.length < 64) : Leaves s g.val i a n send mk := by
  intro hhold
  rw [hexec]
  have hheld : (if isSend (mk (t0Read (tile s.dev g.val) a n)) = true then inSpec s.dev g.val else holding s.dev g.val)
      = (specOpen (scope s.dev (scopeOf s.dev g.val)) || (!send && (scope s.dev (scopeOf s.dev g.val)).rrun.isSome)) := by
    rw [hsend]
    cases send <;> simp [inSpec, holding]
  have hqueue : ¬ ((specOpen (scope s.dev (scopeOf s.dev g.val)) || (!send && (scope s.dev (scopeOf s.dev g.val)).rrun.isSome))
      && !isSend (mk (t0Read (tile s.dev g.val) a n)) && !inSpec s.dev g.val && decide (64 ≤ holdCount (tile s.dev g.val))) = true := by
    rw [hsend]
    simp only [Bool.and_eq_true, Bool.not_eq_true', decide_eq_true_eq, not_and, not_le, and_imp]
    exact hhold
  simp only [outbound, hsrc, if_neg (Nat.not_le.2 hroom), hheld, if_neg hqueue]
  rfl

end

end Sys2Proof.Machine

namespace Sys2Proof.Proofs

open Sys2Proof Sys2Proof.Machine Sys2Proof.Safety

/-- Settles O7: reads and moves by what they take and write, the outbound ones by the entry that they leave. -/
theorem memorySlotsComplete : Obligations.MemorySlotsComplete := by
  refine ⟨fun s g gd h hon => ⟨fun aa ab lb sn blk => ?_, fun aa ab vi lb => ?_, fun aa ab sn rel lb hsrc => ?_,
    fun aa ab vi sn hport hread => ?_, fun aa ab vi sn hport hread => ?_⟩, fun s g gd h hon hroom =>
    ⟨fun aa ab sn blk hsrc => ?_, fun aa ab vi afmt hsrc => ?_, fun aa ab vi lb hsrc => ?_, fun aa kind index lb hwf hsrc => ?_,
      fun dst via aa lb sn hsrc => ?_, fun aa ab sn sd vc sb hwf hsrc => ?_, fun aa sn kind fmt group lb hwf hsrc => ?_,
      fun aa sn fmt lb root hwf hsrc => ?_⟩⟩
  · dsimp only [exec]
    rw [execRd, slotRun_wf h hon rfl]
    cases blk <;> simp
  · dsimp only [exec]
    rw [execNrw, slotRun_wf h hon rfl]
    simp
  · dsimp only [exec]
    simp only [execCpy, slotRun_wf h hon rfl, hsrc]
  · dsimp only [exec]
    exact execGth_ok h hon hport hread
  · exact execCmpt_facts h hon hport hread
  · exact leaves_of_outbound (fun _ => rfl) (execWr_runs h hon aa ab sn blk) hsrc hroom
  · exact leaves_of_outbound (fun _ => rfl) (execAtm_runs h hon aa ab vi afmt) hsrc hroom
  · exact leaves_of_outbound (fun _ => rfl) (execScatter_runs h hon aa ab vi lb) hsrc hroom
  · exact leaves_of_outbound (fun _ => rfl) (execEng_runs h hon aa kind index lb hwf) hsrc hroom
  · exact leaves_of_outbound (fun _ => rfl) (execSnd_runs h hon dst via aa lb sn) hsrc hroom
  · exact leaves_of_outbound (fun _ => rfl) (execRws_runs h hon aa ab sn sd vc sb hwf) hsrc hroom
  · exact leaves_of_outbound (fun _ => rfl) (execCol_runs h hon aa sn kind fmt group lb hwf) hsrc hroom
  · exact leaves_of_outbound (fun _ => rfl) (execRed_runs h hon aa sn fmt lb root hwf) hsrc hroom

/-- Settles O8: the fault is found before the operation is built, and an operation is let go, held or dropped as its tile's beat ends. -/
theorem outboundFaultsAndReleases : Obligations.OutboundFaultsAndReleases := by
  refine ⟨fun s g gd h hon => ?_, fun d g o ho => ⟨fun hrun hheld => ?_, fun hrun hheld hsend => ?_, fun hrun hheld hsend => ?_, fun hstop => ?_⟩⟩
  · refine ⟨fun aa ab sn => ⟨_, execWr_runs h hon aa ab sn false, suppressed_outbound ..⟩,
      fun aa ab vi afmt => ⟨_, execAtm_runs h hon aa ab vi afmt, suppressed_outbound ..⟩,
      fun aa ab vi lb => ⟨_, execScatter_runs h hon aa ab vi lb, suppressed_outbound ..⟩,
      fun aa kind index lb hwf => ⟨_, execEng_runs h hon aa kind index lb hwf, suppressed_outbound ..⟩,
      fun dst via aa lb sn => ⟨_, execSnd_runs h hon dst via aa lb sn, suppressed_outbound ..⟩,
      fun aa ab sn sd vc sb hwf => ⟨_, execRws_runs h hon aa ab sn sd vc sb hwf, suppressed_outbound ..⟩,
      fun aa sn kind fmt group lb hwf => ⟨_, execCol_runs h hon aa sn kind fmt group lb hwf, suppressed_outbound ..⟩,
      fun aa sn fmt lb root hwf => ⟨_, execRed_runs h hon aa sn fmt lb root hwf, suppressed_outbound ..⟩⟩
  · simp [issueBeat, ho, hrun, issueOne, hheld]
  · simp [issueBeat, ho, hrun, issueOne, hheld, hsend, updTile]
  · simp [issueBeat, ho, hrun, issueOne, hheld, hsend, updTile]
  · simp only [issueBeat, ho, hstop, if_true]
    simp [bne, BEq.beq]

end Sys2Proof.Proofs
end

section
/-! Accesses to the control space (R2 to R9): what a read answers, what it keeps for a pair's upper word, and what a write does. -/

namespace Sys2Proof.Machine

open Sys2Proof Sys2Proof.Safety

/-! ### What a master's capture registers hold (R8) -/

theorem captured_capture_same (d : Dev) (q : Master) (lo : Nat) (v : Word) : captured (capture d q lo v) q lo = some v := by
  have hnone : (d.capt.filter (fun c => !(c.1 == q && c.2.1 == lo))).find? (fun c => c.1 == q && c.2.1 == lo) = none := by
    simp [List.find?_eq_none]
    grind
  simp only [captured, capture, List.find?_append, hnone, Option.none_or]
  simp

theorem captured_capture_other (d : Dev) {q q' : Master} {lo lo' : Nat} (v : Word) (h : q' ≠ q ∨ lo' ≠ lo) :
    captured (capture d q lo v) q' lo' = captured d q' lo' := by
  have hne : ¬ (q = q' ∧ lo = lo') := by grind
  have hfind : (d.capt.filter (fun c => !(c.1 == q && c.2.1 == lo))).find? (fun c => c.1 == q' && c.2.1 == lo')
      = d.capt.find? (fun c => c.1 == q' && c.2.1 == lo') := by
    rw [List.find?_filter]
    congr 1
    funext c
    grind
  simp only [captured, capture, List.find?_append, hfind]
  simp [hne]

/-! ### Reads (R2, R3, R6, R8, R9) -/

section
variable {d : Dev} {src : Iface} {off : Nat}

theorem regRead_none (ha : off % 4 = 0) (h : regView d src off = none) : regRead d src off = (0, d) := by
  simp [regRead, ha, h]

theorem regRead_lo {v : Nat} (ha : off % 4 = 0) (h : regView d src off = some v) (hlo : isLo off = true) :
    regRead d src off = (BitVec.ofNat 32 v, capture d (masterOf src) off (BitVec.ofNat 32 ((regView d src (off + 4)).getD 0))) := by
  simp [regRead, ha, h, hlo]

theorem regRead_hi {v : Nat} (ha : off % 4 = 0) (h : regView d src (off + 4) = some v) (hlo : isLo off = true) (hhi : isLo (off + 4) = false) :
    regRead d src (off + 4) = ((captured d (masterOf src) off).getD (BitVec.ofNat 32 v), d) := by
  simp [regRead, ha, h, hlo, hhi]

theorem regRead_single {v : Nat} (ha : off % 4 = 0) (h : regView d src off = some v) (hlo : isLo off = false)
    (hhi : off < 4 ∨ isLo (off - 4) = false) : regRead d src off = (BitVec.ofNat 32 v, readClear d off) := by
  have hpair : ¬ (4 ≤ off ∧ isLo (off - 4) = true) := by grind
  simp [regRead, ha, h, hlo, hpair]

theorem readOut_unreached (h : reaches d src = false) : readOut d src off = d := by simp [readOut, h]

theorem readOut_reached (h : reaches d src = true) :
    readOut d src off = emit (regRead d src off).2 (.rdata src off (regRead d src off).1) := by
  simp [readOut, h]

/-! ### Writes (R4, R7, R379) -/

theorem regWrite_misaligned {w : Nat} (h : off % 4 ≠ 0) : regWrite d src off w = badAccess d off := by simp [regWrite, h]

theorem regWrite_unassigned {w : Nat} (ha : off % 4 = 0) (h : regView d src off = none) : regWrite d src off w = discarded d 0x16 off := by
  simp [regWrite, ha, h]

/-- The writes that do not ask for the owner in `regWrite`: doorbells, the client's selection, the claim's term and OWN_CMD. -/
def SharedWrite (off : Nat) : Prop := (0x9000 ≤ off ∧ off < 0x9200) ∨ off = 0x8020 ∨ off = 0x1008 ∨ off = 0x100C

theorem regWrite_private {v w : Nat} (ha : off % 4 = 0) (h : regView d src off = some v) (hs : ¬ SharedWrite off) :
    regWrite d src off w = if isOwner d src then ownWrite d src off w else d := by
  simp only [SharedWrite, not_or] at hs
  obtain ⟨hdb, hsel, hterm, hcmd⟩ := hs
  simp [regWrite, ha, h, hdb, hsel, hterm, hcmd]

theorem regWrite_sqDoorbell {v w : Nat} (ha : off % 8 = 0) (h : regView d src off = some v) (hlo : 0x9000 ≤ off) (hhi : off < 0x9200) :
    regWrite d src off w = sqDoorbell d ((off - 0x9000) / 8) (w % 65536) := by
  have ha' : off % 4 = 0 := by omega
  simp [regWrite, ha', ha, h, hlo, hhi]

theorem regWrite_cqDoorbell {v w : Nat} (ha : off % 4 = 0) (ha8 : off % 8 ≠ 0) (h : regView d src off = some v) (hlo : 0x9000 ≤ off)
    (hhi : off < 0x9200) : regWrite d src off w = cqDoorbell d ((off - 0x9000) / 8) (w % 65536) := by
  simp [regWrite, ha, ha8, h, hlo, hhi]

/-- A register that only holds bits is none of those whose write acts. -/
theorem ownWrite_held {m w : Nat} (h : maskLow off = some m) : ownWrite d src off w = regPut d off (keep w m) := by
  unfold ownWrite
  split
  case h_14 => rw [h]
  all_goals exact nomatch h

theorem maskLow_private {m : Nat} (h : maskLow off = some m) : ¬ SharedWrite off := by
  unfold maskLow at h
  split at h
  case h_12 =>
    split at h
    next hr =>
      simp only [Bool.and_eq_true, decide_eq_true_eq] at hr
      unfold SharedWrite
      omega
    next => exact nomatch h
  all_goals
    unfold SharedWrite
    decide

theorem exec_registerWrite_reached {s : State} {src : Iface} {off : BitVec 24} (h : reaches s.dev src = true) (w : Word) :
    exec (.registerWrite src off w) s = .next { s with dev := regWrite s.dev src off.toNat w.toNat } := by
  have hexec : exec (.registerWrite src off w) s = execRegisterWrite src off w s := rfl
  rw [hexec, execRegisterWrite, lift_eq, if_pos h]

theorem exec_unassignedAccess_none {s : State} {src : Iface} {off : BitVec 24} (h : reaches s.dev src = true)
    (hv : regView s.dev src off.toNat = none) (wr : Bool) : exec (.unassignedAccess src off wr) s = .next { s with
      dev := if wr then regWrite s.dev src off.toNat 0 else readOut s.dev src off.toNat } := by
  have hexec : exec (.unassignedAccess src off wr) s = execUnassignedAccess src off wr s := rfl
  rw [hexec, execUnassignedAccess, lift_eq]
  simp [h, hv]

end

end Sys2Proof.Machine

namespace Sys2Proof.Proofs

open Sys2Proof Sys2Proof.Machine Sys2Proof.Safety

/-- Settles O52: by the words that are kept per master, a read of the one half setting what the other gives. -/
theorem pairCapture : Obligations.PairCapture := by
  refine ⟨fun s src off hno => ?_, fun s src off v hreach ha hlo hv => ?_, fun s src lo v hreach ha hlo hhi hlt hv => ?_, fun d c q lo h => ?_⟩
  · dsimp only [exec, execPairLoRead]
    rw [lift_eq, readOut_unreached hno]
  · refine ⟨{ s with
      dev := emit (capture s.dev (masterOf src) off.toNat (BitVec.ofNat 32 ((regView s.dev src (off.toNat + 4)).getD 0)))
        (.rdata src off.toNat (BitVec.ofNat 32 v)) }, ?_, rfl, rfl, captured_capture_same .., fun q lo h => captured_capture_other _ _ h, rfl⟩
    dsimp only [exec, execPairLoRead]
    rw [lift_eq, readOut_reached hreach, regRead_lo ha hv hlo]
  · have hoff : (BitVec.ofNat 24 (lo + 4)).toNat = lo + 4 := Nat.mod_eq_of_lt hlt
    dsimp only [exec, execPairLoRead]
    rw [lift_eq, readOut_reached hreach, hoff, regRead_hi ha hv hlo hhi]
  · rw [deviceReset_fresh c h]
    rfl

/-- Settles O53: by the kind of register that the offset names and the master that writes. -/
theorem registerAccess : Obligations.RegisterAccess := by
  intro s src off a
  refine ⟨fun hno w wr i hi => ?_, fun hreach => ⟨fun w ha => ?_, fun wr v hv => ?_, fun ha => ⟨fun w v hv => ?_, fun hv => ⟨?_, fun w => ?_, ?_⟩,
    fun v hv hlo hhi => ?_⟩⟩⟩
  · simp only [List.mem_cons, List.not_mem_nil, or_false] at hi
    rcases hi with rfl | rfl | rfl
    · simp [exec, execRegisterWrite, hno]
    · simp [exec, execUnassignedAccess, hno]
    · simp [exec, execReadClear, readOut_unreached hno]
  · rw [exec_registerWrite_reached hreach, regWrite_misaligned ha]
    rfl
  · have hassigned : (!reaches s.dev src || (regView s.dev src off.toNat).isSome) = true := by simp [show regView s.dev src off.toNat = _ from hv]
    simp only [exec, execUnassignedAccess, lift_eq, hassigned, if_true]
  · intro does shared
    simp only [does]
    rw [exec_registerWrite_reached hreach]
    refine ⟨fun hown hs => ?_, fun m hm hown => ?_, fun hown hs => ?_, fun hlo hhi ha8 => ?_, fun hlo hhi ha8 => ?_, fun h => ?_, fun h => ?_,
      fun h => ?_⟩
    · rw [regWrite_private ha hv hs, if_pos hown]
    · rw [regWrite_private ha hv (maskLow_private hm), if_pos hown, ownWrite_held hm]
    · rw [regWrite_private ha hv hs, hown, if_neg Bool.false_ne_true]
    · rw [regWrite_sqDoorbell ha8 hv hlo hhi]
    · rw [regWrite_cqDoorbell ha ha8 hv hlo hhi]
    all_goals
      rw [h] at hv
      rw [show off.toNat = _ from h]
      simp [regWrite, hv]
  · rw [exec_unassignedAccess_none hreach hv, if_neg Bool.false_ne_true, readOut_reached hreach, regRead_none ha hv]
  · rw [exec_registerWrite_reached hreach, regWrite_unassigned ha hv]
  · obtain ⟨r, hring, hcls, hblock, hcode, -, -, hdetail, -⟩ := record_newest s.dev { fspec 0 0x16 0x02 with detail := a }
    refine ⟨{ s with dev := discarded s.dev 0x16 a }, r, ?_, rfl, discarded_regs .., hring, hcls, hblock, hcode, hdetail.trans ?_⟩
    · rw [exec_unassignedAccess_none hreach hv, if_pos rfl, regWrite_unassigned ha hv]
    · exact Nat.mod_eq_of_lt (off.isLt.trans (by decide))
  · dsimp only [exec, execReadClear]
    rw [lift_eq, readOut_reached hreach, regRead_single ha hv hlo hhi]

end Sys2Proof.Proofs
end

section
/-! The beat of a scope (R37, R81): what a tile's part of it leaves of the operations about to leave, what becomes readable, and a beat in which
the sequencer has nothing else to do. -/

namespace Sys2Proof.Machine

open Sys2Proof Sys2Proof.Safety

/-! ### What a tile is about to send stays as it is while its beat closes -/

structure KeepsIssued (d e : Dev) : Prop where
  issued : ∀ k, (tile e k).issued = (tile d k).issued

namespace KeepsIssued

theorem refl (d : Dev) : KeepsIssued d d := ⟨fun _ => rfl⟩

theorem trans {a b c : Dev} (h : KeepsIssued a b) (k : KeepsIssued b c) : KeepsIssued a c :=
  ⟨fun i => (k.issued i).trans (h.issued i)⟩

theorem updTile (d : Dev) (g : Nat) (f : Tile → Tile) (h : (f (tile d g)).issued = (tile d g).issued) : KeepsIssued d (updTile d g f) := by
  refine ⟨fun k => ?_⟩
  by_cases hk : k = g
  · rw [hk, tile_updTile, h]
  · rw [tile_updTile_other _ _ _ _ hk]

theorem updCore (d : Dev) (g : Nat) (f : TileCore → TileCore) : KeepsIssued d (updCore d g f) := updTile d g _ rfl

theorem updScope (d : Dev) (i : Nat) (f : Scope → Scope) : KeepsIssued d (updScope d i f) :=
  ⟨fun _ => by rw [tile_updScope]⟩

theorem mapFault (d : Dev) (g slot r dt a : Nat) : KeepsIssued d (mapFault d g slot r dt a) := by
  unfold Machine.mapFault
  dsimp only
  split <;> exact (updTile d g _ rfl).trans (updScope _ _ _)

theorem fold {α : Type} (f : Dev → α → Dev) (h : ∀ d x, KeepsIssued d (f d x)) (l : List α) : ∀ d, KeepsIssued d (l.foldl f d) := by
  induction l with
  | nil => exact refl
  | cons x l ih => exact fun d => (h d x).trans (ih _)

theorem ldwStart (d : Dev) (g : Nat) : KeepsIssued d (ldwStart d g) := by
  unfold Machine.ldwStart
  dsimp only
  split
  · exact refl d
  · exact (updCore d g _).trans (mapFault ..)
  · exact updCore d g _

theorem ldwBeat (d : Dev) (g : Nat) : KeepsIssued d (ldwBeat d g) := by
  unfold Machine.ldwBeat
  split
  · exact refl d
  split
  · exact refl d
  dsimp only
  split
  · exact updCore d g _
  split
  · exact (mapFault ..).trans (updCore ..)
  · exact updCore d g _

theorem sfuBeat (d : Dev) (g : Nat) : KeepsIssued d (sfuBeat d g) := by
  unfold Machine.sfuBeat
  refine fold _ (fun d p => ?_) _ d
  dsimp only
  split
  · exact updCore d g _
  split
  · exact updCore d g _
  split
  · exact (mapFault ..).trans (updCore ..)
  · exact updCore d g _

end KeepsIssued

@[simp] theorem takeDirectives_issued (k : Nat) : ∀ t, (takeDirectives k t).issued = t.issued := by
  induction k with
  | zero => exact fun _ => rfl
  | succ k ih =>
    intro t
    rw [takeDirectives]
    split
    · exact ih _
    · rfl

@[simp] theorem fetchBeat_issued (t : Tile) : (fetchBeat t).issued = t.issued := by
  unfold fetchBeat
  dsimp only
  (repeat' split) <;> exact takeDirectives_issued 6 t

theorem t0PutHome_issued (t : Tile) (a : Nat) (b : Byte) : (t0PutHome t a b).issued = t.issued := by
  unfold t0PutHome
  dsimp only
  split <;> rfl

theorem t0PutSpec_issued (t : Tile) (a : Nat) (b : Byte) : (t0PutSpec t a b).issued = t.issued := by
  unfold t0PutSpec
  dsimp only
  (repeat' split) <;> rfl

/-- The bytes of a late write, put one after the other. -/
theorem lateBytes_issued (sp : Bool) (a : Nat) (data : List (Option Byte)) (l : List Nat) : ∀ t : Tile, (l.foldl (fun t i =>
    match data.getD i none with
    | some b => if sp then t0PutSpec t (a + i) b else t0PutHome t (a + i) b
    | none => t) t).issued = t.issued := by
  induction l with
  | nil => exact fun _ => rfl
  | cons i l ih =>
    intro t
    refine (ih _).trans ?_
    dsimp only
    cases data.getD i none <;> cases sp
    · rfl
    · rfl
    · exact t0PutHome_issued ..
    · exact t0PutSpec_issued ..

namespace KeepsIssued

theorem applyRes (d : Dev) (g : Nat) (r : Res) : KeepsIssued d (applyRes d g r) := by
  unfold Machine.applyRes
  split
  case h_11 slot a data sp =>
    split
    · exact mapFault ..
    · exact updTile d g _ (lateBytes_issued sp a data _ _)
  case h_10 => exact mapFault ..
  all_goals exact updCore d g _

theorem tileEnd (d : Dev) (g : Nat) : KeepsIssued d (tileEnd d g) := by
  unfold Machine.tileEnd
  refine (ldwStart d g).trans ((ldwBeat _ g).trans ((sfuBeat _ g).trans ((updTile _ g _ ?_).trans
    (fold _ (fun d (p : PendRes) => applyRes d g p.res) _ _))))
  rw [fetchBeat_issued]

end KeepsIssued

/-! ### Tiles with nothing about to leave -/

/-- The operations of a beat leave none of their tile's registers changed. -/
theorem issueBeat_core {d : Dev} {g : Nat} (h : (tile d g).issued = []) : (tile (issueBeat d g) g).core = (tile d g).core := by
  simp only [issueBeat, h]
  split <;> simp

theorem tileBeat_keeps {d : Dev} {g : Nat} (h : (tile d g).issued = []) : BeatKeeps d (tileBeat d g) ∧ KeepsIssued d (tileBeat d g) := by
  have hend : (tile (tileEnd d g) g).issued = [] := ((KeepsIssued.tileEnd d g).issued g).trans h
  have hset : ∃ t : Tile, t.issued = [] ∧ tileBeat d g = setTile (tileEnd d g) g t := by
    simp only [tileBeat, issueBeat, hend]
    split
    · exact ⟨_, rfl, rfl⟩
    · exact ⟨_, rfl, rfl⟩
  obtain ⟨t, ht, heq⟩ := hset
  rw [heq]
  refine ⟨(BeatKeeps.tileEnd d g).trans (BeatKeeps.setTile ..), (KeepsIssued.tileEnd d g).trans ⟨fun k => ?_⟩⟩
  by_cases hk : k = g
  · rw [hk, tile_setTile, ht, hend]
  · rw [tile_setTile_other _ _ _ _ hk]

/-- The tiles of a beat, one after the other, when none is about to send. -/
theorem tileBeats_keep (l : List Nat) : ∀ d, (∀ g ∈ l, (tile d g).issued = []) → BeatKeeps d (l.foldl tileBeat d) := by
  induction l with
  | nil => exact fun d _ => BeatKeeps.refl d
  | cons g l ih =>
    intro d h
    obtain ⟨hkeep, hissued⟩ := tileBeat_keeps (h g List.mem_cons_self)
    exact hkeep.trans (ih _ fun k hk => (hissued.issued k).trans (h k (List.mem_cons_of_mem g hk)))

/-! ### The sequencer with nothing to do -/

theorem updScope_fixed {d : Dev} {i : Nat} {f : Scope → Scope} (h : f (scope d i) = scope d i) : updScope d i f = d := by
  rw [updScope, h, setScope_self]

theorem decide256_nil {x : Scope} (near : Nat) (h : x.regions = []) : decide256 x near = x := by simp [decide256, h]

theorem redSettle_nil {d : Dev} {si : Nat} (h : (scope d si).reds = []) : redSettle d si = d := by
  have hsame : { scope d si with reds := [] } = scope d si := by rw [← h]
  simp only [redSettle, h, List.map_nil, List.eraseDups_nil, List.foldl_nil]
  exact updScope_fixed hsame

theorem flushSets_nil {d : Dev} {si : Nat} (h : (scope d si).sets = []) : flushSets d si = d := by
  have hsame : { scope d si with sets := [] } = scope d si := by rw [← h]
  simp only [flushSets, h, List.foldl_nil, hsame, setScope_self]

theorem stallDue_noSpec {d : Dev} {x : Scope} (h : x.spec = none) : stallDue d x = false := by simp [stallDue, h]

theorem arrive_noRegion {d : Dev} {si : Nat} (hregions : (scope d si).regions = []) (hspec : (scope d si).spec = none)
    (hrrun : (scope d si).rrun = none) (k : Nat) : arrive k d si = d := by
  cases k with
  | zero => rfl
  | succ k => simp [arrive, hrrun, mustStall, hspec, regionStart, hregions]

theorem enter_noRegion {d : Dev} {si : Nat} (hregions : (scope d si).regions = []) (hspec : (scope d si).spec = none)
    (hrrun : (scope d si).rrun = none) (hreps : (scope d si).reps = []) : enter d si = d := by
  have htail : tailOver (scope d si) = false := by simp [tailOver, hspec]
  rw [enter, htail, if_neg Bool.false_ne_true, arrive_noRegion hregions hspec hrrun]
  exact updScope_fixed (by simp [freezeHere, hreps])

theorem beat_plain {d : Dev} {sc : Fin 2} (hvalid : (scope d sc.val).jobValid = true) (hregions : (scope d sc.val).regions = [])
    (hspec : (scope d sc.val).spec = none) (hrrun : (scope d sc.val).rrun = none) (hreps : (scope d sc.val).reps = [])
    (hreds : (scope d sc.val).reds = []) (hsets : (scope d sc.val).sets = [])
    (hissued : ∀ g ∈ tilesOf d (scope d sc.val).kind, (tile d g).issued = []) :
    beat d sc.val = updScope ((tilesOf d (scope d sc.val).kind).foldl tileBeat d) sc.val countBeat := by
  have hkeep := tileBeats_keep _ d hissued
  have hx := hkeep.scope_eq sc.val
  have hspec' := hkeep.specs sc.val hspec
  have hdec : updScope d sc.val (fun x => decide256 x 256) = d := updScope_fixed (decide256_nil 256 hregions)
  simp only [beat, hdec]
  generalize (tilesOf d (scope d sc.val).kind).foldl tileBeat d = e at hx hspec' ⊢
  have hred : redSettle e sc.val = e := redSettle_nil (by rw [hx, hreds])
  have hvalid' : (scope e sc.val).jobValid = true := by rw [hx, hvalid]
  have hcount : scope (updScope e sc.val countBeat) sc.val = countBeat (scope e sc.val) := scope_updScope_fin ..
  have hflush : flushSets (updScope e sc.val countBeat) sc.val = updScope e sc.val countBeat := by
    apply flushSets_nil
    rw [hcount, hx]
    exact hsets
  have hnospec : (countBeat (scope e sc.val)).spec = none := by rw [countBeat, hspec', Option.map_none]
  simp only [hred, hvalid', hflush, hcount, stallDue_noSpec hnospec, Bool.false_and, Bool.not_true, Bool.false_eq_true, if_false]
  refine enter_noRegion ?_ ?_ ?_ ?_ <;> rw [hcount]
  · rw [hx]
    exact hregions
  · exact hnospec
  · rw [hx]
    exact hrrun
  · rw [hx]
    exact hreps

end Sys2Proof.Machine

namespace Sys2Proof.Proofs

open Sys2Proof Sys2Proof.Machine Sys2Proof.Safety

/-- Settles O12: a beat that nothing blocks is its bundle and then the end of each tile. -/
theorem beatComplete : Obligations.BeatComplete := by
  intro s sc x
  refine ⟨fun hrun hblocked hprefetch => ⟨?_, fun hregions hspec hrrun hreps hreds hsets hissued => ?_⟩, fun hidle => ?_⟩
  · have hbeat : (running (scope s.dev sc.val) && !beatBlocked (scope s.dev sc.val) && !prefetchDue s.dev sc.val) = true := by
      simp [show running (scope s.dev sc.val) = _ from hrun, show beatBlocked (scope s.dev sc.val) = _ from hblocked, hprefetch]
    dsimp only [exec, execBeat]
    rw [lift_eq, if_pos hbeat]
  · simp only [running, Bool.and_eq_true, beq_iff_eq] at hrun
    obtain ⟨⟨hvalid, hphase⟩, -⟩ := hrun
    have hkeep := tileBeats_keep _ s.dev hissued
    intro e
    have he : e = updScope ((tilesOf s.dev x.kind).foldl tileBeat s.dev) sc.val countBeat :=
      beat_plain hvalid hregions hspec hrrun hreps hreds hsets hissued
    have hscope : scope e sc.val = countBeat (scope ((tilesOf s.dev x.kind).foldl tileBeat s.dev) sc.val) := by
      rw [he, scope_updScope_fin]
    rw [hkeep.scope_eq sc.val] at hscope
    refine ⟨he, ?_, ?_, ?_, ?_, ?_, fun k hk => ?_⟩
    · rw [hscope]
      rfl
    · rw [hscope]
      rfl
    · rw [hscope]
      rfl
    · rw [hscope]
      exact hphase
    · rw [he, updScope_regs, hkeep.regs]
    · have hk' : scope e k = scope ((tilesOf s.dev x.kind).foldl tileBeat s.dev) k := by
        rw [he, updScope, scope_setScope_other _ _ _ _ hk]
      rw [hk', hkeep.scope_eq k]
      exact ⟨rfl, rfl⟩
  · have hno : ¬ (running (scope s.dev sc.val) && !beatBlocked (scope s.dev sc.val) && !prefetchDue s.dev sc.val) = true := by
      rcases hidle with h | h | h
      · simp [show running (scope s.dev sc.val) = _ from h]
      · simp [show beatBlocked (scope s.dev sc.val) = _ from h]
      · simp [h]
    dsimp only [exec, execBeat]
    rw [lift_eq, if_neg hno]

end Sys2Proof.Proofs
end

section
/-! When a result becomes readable (R81): the end of a beat in a tile with one result pending. -/

namespace Sys2Proof.Machine

open Sys2Proof Sys2Proof.Safety

/-! ### The fetcher moves alone -/

theorem takeDirectives_core (k : Nat) : ∀ t, (takeDirectives k t).core = { t.core with fetch := (takeDirectives k t).core.fetch } := by
  induction k with
  | zero => exact fun _ => rfl
  | succ k ih =>
    intro t
    rw [takeDirectives]
    split
    · rw [ih]
    · rfl

theorem fetchBeat_core (t : Tile) : (fetchBeat t).core = { t.core with fetch := (fetchBeat t).core.fetch } := by
  unfold fetchBeat
  dsimp only
  (repeat' split)
  · exact takeDirectives_core 6 t
  · dsimp only
    rw [takeDirectives_core 6 t]
  · dsimp only
    rw [takeDirectives_core 6 t]

/-! ### A beat closes -/

/-- A tile whose pending results have come one beat nearer. -/
def closedTile (t : Tile) : Tile := fetchBeat { t with core := { t.core with
  pend := (t.core.pend.filter (fun p => decide (1 < p.rem))).map (fun p => { p with rem := p.rem - 1 })
  ports := (t.core.ports.filter (fun p => p.1 != 0)).map (fun p => (p.1 - 1, p.2))
  stepped := false } }

section
variable (t : Tile)

theorem closedTile_core : (closedTile t).core = { t.core with
    pend := (t.core.pend.filter (fun p => decide (1 < p.rem))).map (fun p => { p with rem := p.rem - 1 })
    ports := (t.core.ports.filter (fun p => p.1 != 0)).map (fun p => (p.1 - 1, p.2))
    stepped := false, fetch := (closedTile t).core.fetch } := fetchBeat_core _

@[simp] theorem closedTile_s : (closedTile t).core.s = t.core.s := by rw [closedTile_core]
@[simp] theorem closedTile_a : (closedTile t).core.a = t.core.a := by rw [closedTile_core]
@[simp] theorem closedTile_p : (closedTile t).core.p = t.core.p := by rw [closedTile_core]
@[simp] theorem closedTile_v : (closedTile t).core.v = t.core.v := by rw [closedTile_core]
@[simp] theorem closedTile_pend : (closedTile t).core.pend =
    (t.core.pend.filter (fun p => decide (1 < p.rem))).map (fun p => { p with rem := p.rem - 1 }) := by rw [closedTile_core]

end

theorem tileBeat_core {d : Dev} {g : Nat} (hissued : (tile d g).issued = []) : (tile (tileBeat d g) g).core = (tile (tileEnd d g) g).core :=
  issueBeat_core (((KeepsIssued.tileEnd d g).issued g).trans hissued)

section
variable {d : Dev} {g : Nat} (hin : (tile d g).core.wIn = none) (hnew : (tile d g).core.wNew = none) (hsfu : (tile d g).core.sfu = [])
include hin hnew hsfu

/-- With no load of weights or of a table under way, only pending results and the fetcher move. -/
theorem tileEnd_noLoads : tileEnd d g = ((tile d g).core.pend.filter (fun p => decide (p.rem ≤ 1))).foldl (fun d p => applyRes d g p.res)
    (updTile d g closedTile) := by
  have hstart : ldwStart d g = d := by simp only [ldwStart, hnew]
  have hbeat : ldwBeat d g = d := by simp only [ldwBeat, hin]
  have htables : sfuBeat d g = d := by simp only [sfuBeat, hsfu, List.foldl_nil]
  simp only [tileEnd, hstart, hbeat, htables]
  rfl

/-- A single result that is due takes effect. -/
theorem tileBeat_due {r : Res} (hissued : (tile d g).issued = []) (hp : (tile d g).core.pend = [⟨1, r⟩]) :
    (tile (tileBeat d g) g).core = (tile (applyRes (updTile d g closedTile) g r) g).core := by
  rw [tileBeat_core hissued, tileEnd_noLoads hin hnew hsfu, hp]
  rfl

/-- A single result that is not due waits. -/
theorem tileBeat_waits {n : Nat} {r : Res} (hissued : (tile d g).issued = []) (hn : 1 ≤ n) (hp : (tile d g).core.pend = [⟨n + 1, r⟩]) :
    (tile (tileBeat d g) g).core = (closedTile (tile d g)).core := by
  have hlater : ¬ n + 1 ≤ 1 := by omega
  rw [tileBeat_core hissued, tileEnd_noLoads hin hnew hsfu, hp]
  simp [hlater]

end

end Sys2Proof.Machine

namespace Sys2Proof.Proofs

open Sys2Proof Sys2Proof.Machine Sys2Proof.Safety

/-- Settles O13: by the one pending result, whose count decides whether it takes effect. -/
theorem resultsBecomeReadable : Obligations.ResultsBecomeReadable := by
  intro d g n c e c' hin hnew hsfu hissued
  have hdue : ∀ r, c.pend = [⟨1, r⟩] → c' = _ := fun r => tileBeat_due hin hnew hsfu hissued
  refine ⟨fun i v hp => ?_, fun i v hp => ?_, fun i m v hi hp => ?_, fun i m v hp => ?_, fun r hn hp => ?_⟩
  · rw [hdue _ hp]
    simp only [applyRes, tile_updCore, tile_updTile, closedTile_s, closedTile_a, closedTile_p, closedTile_v, rdS]
    exact ⟨mget_mset_same .., fun k hk => mget_mset_other _ _ _ _ _ hk, rfl, rfl, rfl⟩
  · rw [hdue _ hp]
    simp only [applyRes, tile_updCore, tile_updTile, closedTile_s, closedTile_a, closedTile_p, closedTile_v, rdA]
    exact ⟨mget_mset_same .., fun k hk => mget_mset_other _ _ _ _ _ hk, rfl, rfl, rfl⟩
  · rw [hdue _ hp]
    simp only [applyRes, tile_updCore, tile_updTile, closedTile_s, closedTile_a, closedTile_p, closedTile_v, rdP, if_neg hi]
    refine ⟨mget_mset_same .., fun k hk => ?_, rfl, rfl, rfl⟩
    rw [mget_mset_other _ _ _ _ _ hk]
  · rw [hdue _ hp]
    simp only [applyRes, tile_updCore, tile_updTile, closedTile_s, closedTile_a, closedTile_p, closedTile_v, rdV]
    exact ⟨mget_mset_same .., fun k hk => mget_mset_other _ _ _ _ _ hk, rfl, rfl, rfl⟩
  · have hcore : c' = _ := tileBeat_waits hin hnew hsfu hissued hn hp
    rw [hcore, closedTile_s, closedTile_a, closedTile_p, closedTile_v, closedTile_pend, show (tile d g).core.pend = _ from hp]
    refine ⟨?_, rfl, rfl, rfl, rfl⟩
    have hlate : 1 < n + 1 := Nat.lt_succ_of_le hn
    simp [hlate]

end Sys2Proof.Proofs
end

section
/-! Slips and the arrival of bytes at landing buffers (R41, R44 to R47, R58). -/

namespace Sys2Proof.Machine

open Sys2Proof Sys2Proof.Safety

/-- What an event of the sequencer leaves, when what it does to the block is known. -/
theorem exists_lift {s : State} {f : Dev → Dev} {e : Dev} {P : State → Prop} (h : f s.dev = e) (hp : P { s with dev := e }) :
    ∃ t, lift s f = .next t ∧ t.pending = s.pending ∧ P t :=
  ⟨{ s with dev := e }, by rw [lift_eq, h], rfl, hp⟩

/-! ### Bytes written to T0 -/

@[simp] theorem t0PutHome_core (t : Tile) (a : Nat) (b : Byte) : (t0PutHome t a b).core = t.core := by
  unfold t0PutHome
  dsimp only
  split <;> rfl

@[simp] theorem t0PutSpec_core (t : Tile) (a : Nat) (b : Byte) : (t0PutSpec t a b).core = t.core := by
  unfold t0PutSpec
  dsimp only
  (repeat' split) <;> rfl

@[simp] theorem t0Write_core (sp : Bool) (bs : List Byte) : ∀ (t : Tile) (a : Nat), (t0Write t sp a bs).core = t.core := by
  induction bs with
  | nil => exact fun _ _ => rfl
  | cons b bs ih =>
    intro t a
    rw [t0Write, ih]
    split
    · exact t0PutSpec_core ..
    · exact t0PutHome_core ..

/-! ### Bytes of a transfer (R41, R44, R58) -/

section
variable {d : Dev} {g lb : Nat}

/-- What lands in an armed entry, within it and the window, over nothing that is retained. -/
theorem land_armed {gen addr : Nat} {bs : List Byte} (harmed : (lbuf (tile d g).core lb).st = .armed)
    (hlo : (lbuf (tile d g).core lb).base ≤ addr) (hhi : addr + bs.length ≤ (lbuf (tile d g).core lb).base + (lbuf (tile d g).core lb).len)
    (hwin : addr + bs.length ≤ 2 ^ 21) (hret : retained (tile d g) addr bs.length = false) :
    land d g lb gen addr bs = updTile d g (fun t =>
      let t := t0Write t false addr bs
      let log := if t.ck.isSome || t.rck.isSome then t.landLog ++ [(lb, gen, bs.length)] else []
      { t with core := countLanded t.core lb bs.length, landLog := log }) := by
  have harmed' : ((lbuf (tile d g).core lb).st != .armed) = false := by simp [harmed]
  simp only [land, harmed', Nat.not_lt.2 hlo, Nat.not_lt.2 hhi, Nat.not_lt.2 hwin, hret, decide_false, Bool.or_self, Bool.false_eq_true, if_false]

theorem land_notArmed {gen addr : Nat} {bs : List Byte} (h : (lbuf (tile d g).core lb).st ≠ .armed) :
    land d g lb gen addr bs = mapFault d g 6 mfLbState lb addr := by
  have h' : ((lbuf (tile d g).core lb).st != .armed) = true := by simp [h]
  rw [land, if_pos h']

theorem lbuf_countLanded {c : TileCore} (n : Nat) (harmed : (lbuf c lb).st = .armed) : lbuf (countLanded c lb n) lb =
    { lbuf c lb with landed := (lbuf c lb).landed + n
                     st := if (lbuf c lb).expected ≤ (lbuf c lb).landed + n then .ready else .armed } := by
  rw [countLanded, if_pos harmed]
  exact mget_mset_same ..

end

section
variable {d : Dev} {si id n : Nat} {data : List Byte} {q : Xfer} (hfind : (scope d si).xfers.find? (fun k => k.id == id) = some q)
include hfind

theorem arrival_discarded {bad : Bool} (hdead : genLive (scope d si) q.gen = false) : arrival d si id n data bad
    = updTile (updScope d si (fun x => { x with xfers := x.xfers.filter (fun u => u.id != id) })) q.tile
      (fun t => { t with stale := satAdd 16 t.stale 1 }) := by
  simp [arrival, hfind, hdead]

/-- What is left of the scope's transfers once `bs` have been taken from one. -/
def afterArrival (d : Dev) (si id : Nat) (u : Xfer) : Dev :=
  if u.data.isEmpty && u.owed == 0 then updScope d si (fun x => { x with xfers := x.xfers.filter (fun u => u.id != id) })
  else updScope d si (fun x => { x with xfers := x.xfers.map (fun v => if v.id = id then u else v) })

omit hfind in
@[simp] theorem tile_afterArrival (u : Xfer) (g : Nat) : tile (afterArrival d si id u) g = tile d g := by
  unfold afterArrival
  split <;> exact tile_updScope ..

/-- A live transfer that holds its own bytes lands the next of them. -/
theorem arrival_lands (hlive : genLive (scope d si) q.gen = true) (hfree : sendBlocked d si q = false) (howed : q.owed = 0) (hblk : q.blk = none)
    (hne : q.data.take n ≠ []) : arrival d si id n data false =
      land (afterArrival d si id (xferAfter q (q.data.take n).length)) q.tile q.lb q.gen
        (q.addr.getD ((lbuf (tile d q.tile).core q.lb).base + (lbuf (tile d q.tile).core q.lb).landed)) (q.data.take n) := by
  have hsupply : ∀ far : Bool, (if far = true then xferSupply q data else q) = q := by
    intro far
    simp [xferSupply, howed]
  simp only [arrival, hfind, hlive, hfree, hsupply, hblk, Bool.not_true, Bool.false_eq_true, if_false, Option.isSome_none, Bool.false_and,
    List.isEmpty_eq_false_iff.2 hne]
  rw [← afterArrival, tile_afterArrival]

end

/-! ### The end of a slip (R45, R47) -/

theorem slipRestart_ends {d : Dev} {si u y : Nat} {r : ChkRep} (hphase : (scope d si).phase = .slip) (hat : (scope d si).slipAt = some u)
    (hseen : ∀ q ∈ (scope d si).reps, u ≤ q.use → q.use ≤ u + 31 → q.seen.isSome = true)
    (hlast : lastSeen ((scope d si).reps.filter (fun q => decide (u ≤ q.use) && decide (q.use ≤ u + 31))) = some (y, r))
    (hfirst : eventBefore (scope d si) (max (scope d si).slipFrom y + 32) = false) :
    slipRestart d si = setScope d si (dropReps (countSlip
      { scope d si with phase := .run, slipAt := none, slipEvents := satAdd 32 (scope d si).slipEvents 1
                        lastCause := slipCause (lbuf (tile d r.tile).core r.lb).cls, lastTile := r.tile, lastLb := r.lb }
      (max (scope d si).slipFrom y + 32 - (scope d si).slipFrom)) u) := by
  have hall : ((scope d si).phase == .slip && ((scope d si).reps.filter (fun q => decide (u ≤ q.use) && decide (q.use ≤ u + 31))).all
      (fun q => q.seen.isSome)) = true := by
    simp only [hphase, Bool.and_eq_true, beq_self_eq_true, true_and, List.all_eq_true, List.mem_filter, decide_eq_true_eq]
    exact fun q hq => hseen q hq.1 hq.2.1 hq.2.2
  simp only [slipRestart, hat, hall, hlast, if_true, show eventBefore (scope d si) (Nat.max _ y + 32) = false from hfirst,
    Bool.false_eq_true, if_false]

end Sys2Proof.Machine

namespace Sys2Proof.Proofs

open Sys2Proof Sys2Proof.Machine Sys2Proof.Safety

/-- Settles O14: each event by its own equation on the reports and entries of its tile. -/
theorem slipsAndArrivalsComplete : Obligations.SlipsAndArrivalsComplete := by
  intro s sc x
  refine ⟨rfl, fun g lb y hscope hready => ?_, fun u y r hphase hat hseen hlast hfirst => ?_,
    fun id n data q hfind hlive hfree howed hblk hn hne harmed hlo hhi hwin hret => ?_,
    fun id n data q hfind hlive hfree howed hblk hne hn hna => ?_, fun id n data bad q hfind hdead => ?_⟩
  · dsimp only [exec, execReadyObserved]
    rw [lift_eq, if_pos hready, hscope]
    rfl
  · dsimp only [exec, execSlipRestart]
    refine exists_lift (slipRestart_ends hphase hat hseen hlast hfirst) ⟨?_, ?_⟩
    · exact setScope_tiles ..
    · dsimp only
      rw [scope_setScope_fin]
      refine ⟨rfl, rfl, rfl, rfl, rfl, rfl, rfl, rfl, rfl, fun q hq => ?_⟩
      simp only [dropReps, countSlip, List.mem_filter, Bool.not_eq_true', Bool.and_eq_false_iff, decide_eq_false_iff_not] at hq
      omega
  · have hlen : (q.data.take n).length = min n q.data.length := List.length_take
    have htake : q.data.take n ≠ [] := by
      simp only [ne_eq, List.take_eq_nil_iff, not_or]
      exact ⟨hn.ne', hne⟩
    have hland := arrival_lands (data := data) hfind hlive hfree howed hblk htake
    rw [land_armed (by rw [tile_afterArrival]; exact harmed) (by rw [tile_afterArrival]; exact hlo)
      (by rw [tile_afterArrival, hlen]; exact hhi) (by rw [hlen]; exact hwin) (by rw [tile_afterArrival, hlen]; exact hret)] at hland
    dsimp only [exec, execLandingArrival]
    refine exists_lift hland ⟨?_, ?_⟩
    · simp only [tile_updTile, tile_afterArrival, t0Write_core, lbuf_countLanded _ harmed, hlen]
    · simp only [tile_updTile, tile_afterArrival]
  · have htake : q.data.take n = q.data := List.take_of_length_le hn
    have hland := arrival_lands (data := data) hfind hlive hfree howed hblk (htake.symm ▸ hne)
    rw [land_notArmed (by rw [tile_afterArrival]; exact hna), htake] at hland
    dsimp only [exec, execLandingArrival]
    rw [lift_eq, hland]
    simp [afterArrival, xferAfter, howed]
  · dsimp only [exec, execLandingArrival]
    rw [lift_eq, arrival_discarded hfind hdead]

end Sys2Proof.Proofs
end

section
/-! What fault records leave as it was (R343, R344), and what the end of a scope's job leaves as it was (R65, R261 to R263). -/

namespace Sys2Proof.Machine

open Sys2Proof Sys2Proof.Safety

/-! ### The ring of the collector (R343) -/

/-- At most `n` records were taken between two states: the ring keeps every place that they did not take. -/
structure RingGrows (n : Nat) (d e : Dev) : Prop where
  grows : ∃ k ≤ n, e.flt.seq % 256 = (d.flt.seq + k) % 256 ∧
    ∀ j, (∀ i < k, j ≠ (d.flt.seq + i) % 256) → mget? e.flt.ring j = mget? d.flt.ring j

namespace RingGrows

theorem of_eq {d e : Dev} (hring : e.flt.ring = d.flt.ring) (hseq : e.flt.seq = d.flt.seq) : RingGrows 0 d e :=
  ⟨0, le_rfl, by rw [hseq, Nat.add_zero], fun _ _ => by rw [hring]⟩

theorem refl (d : Dev) : RingGrows 0 d d := of_eq rfl rfl

theorem trans {m n : Nat} {a b c : Dev} (h : RingGrows m a b) (k : RingGrows n b c) : RingGrows (m + n) a c := by
  obtain ⟨p, hp, hseq, hring⟩ := h.grows
  obtain ⟨q, hq, hseq', hring'⟩ := k.grows
  refine ⟨p + q, Nat.add_le_add hp hq, by omega, fun j hj => ?_⟩
  rw [hring' j fun i hi => ?_, hring j fun i hi => hj i (by omega)]
  have := hj (p + i) (by omega)
  omega

theorem mono {m n : Nat} {d e : Dev} (h : RingGrows m d e) (hmn : m ≤ n) : RingGrows n d e := by
  obtain ⟨k, hk, hseq, hring⟩ := h.grows
  exact ⟨k, hk.trans hmn, hseq, hring⟩

theorem fold {α : Type} (f : Dev → α → Dev) (h : ∀ d x, RingGrows 1 d (f d x)) (l : List α) : ∀ d, RingGrows l.length d (l.foldl f d) := by
  induction l with
  | nil => exact refl
  | cons x l ih => exact fun d => ((h d x).trans (ih _)).mono (by rw [List.length_cons, Nat.add_comm])

end RingGrows

/-! ### Records -/

/-- What a vector raised on a link leaves. -/
theorem raiseOn_hlk (d : Dev) (link vec : Nat) :
    { (raiseOn d link vec).hlk with pba0 := d.hlk.pba0, pba1 := d.hlk.pba1 } = d.hlk := by
  unfold raiseOn
  dsimp only
  (repeat' split) <;> rfl

/-- The collector after a record: one place of its ring, and its counts. -/
theorem recordAt_ring (d : Dev) (f : FSpec) (us : Nat) (late con : Bool) :
    ∃ r n p m, (recordAt d f us late con).flt = { d.flt with
      ring := mset d.flt.ring (d.flt.seq % 256) r, seq := (d.flt.seq + 1) % 2 ^ 32, lost := n, pend := p, maxClass := m } := by
  unfold recordAt
  simp only [apply_ite Dev.flt, emit_flt, raiseOn_flt, ite_self]
  exact ⟨_, _, _, _, rfl⟩

/-- Between two states only records were taken, `n` of them at most. -/
structure RecordsOnly (n : Nat) (d e : Dev) : Prop where
  ring : RingGrows n d e
  flt : { e.flt with ring := d.flt.ring, seq := d.flt.seq, lost := d.flt.lost, pend := d.flt.pend, maxClass := d.flt.maxClass } = d.flt
  bk : { e.bk with clog := d.bk.clog } = d.bk
  hlk : { e.hlk with pba0 := d.hlk.pba0, pba1 := d.hlk.pba1 } = d.hlk
  rest : { e with flt := d.flt, bk := d.bk, hlk := d.hlk, out := d.out, free := d.free } = d

namespace RecordsOnly

theorem refl (d : Dev) : RecordsOnly 0 d d := ⟨.refl d, rfl, rfl, rfl, rfl⟩

theorem trans {m n : Nat} {a b c : Dev} (h : RecordsOnly m a b) (k : RecordsOnly n b c) : RecordsOnly (m + n) a c := by
  refine ⟨h.ring.trans k.ring, ?_, ?_, ?_, ?_⟩
  · have hb := h.flt
    rw [← k.flt] at hb
    exact hb
  · have hb := h.bk
    rw [← k.bk] at hb
    exact hb
  · have hb := h.hlk
    rw [← k.hlk] at hb
    exact hb
  · have hb := h.rest
    rw [← k.rest] at hb
    exact hb

theorem mono {m n : Nat} {d e : Dev} (h : RecordsOnly m d e) (hmn : m ≤ n) : RecordsOnly n d e := { h with ring := h.ring.mono hmn }

theorem fold {α : Type} (f : Dev → α → Dev) (h : ∀ d x, RecordsOnly 1 d (f d x)) (l : List α) : ∀ d, RecordsOnly l.length d (l.foldl f d) := by
  induction l with
  | nil => exact refl
  | cons x l ih => exact fun d => ((h d x).trans (ih _)).mono (by rw [List.length_cons, Nat.add_comm])

end RecordsOnly

theorem recordAt_bk (d : Dev) (f : FSpec) (us : Nat) (late con : Bool) :
    { (recordAt d f us late con).bk with clog := d.bk.clog } = d.bk := by
  unfold recordAt
  simp only [apply_ite Dev.bk, emit_bk, raiseOn_bk, ite_self]
  split <;> rfl

theorem recordAt_hlk (d : Dev) (f : FSpec) (us : Nat) (late con : Bool) :
    { (recordAt d f us late con).hlk with pba0 := d.hlk.pba0, pba1 := d.hlk.pba1 } = d.hlk := by
  have htwo : ∀ e : Dev, e.hlk = d.hlk → ∀ v, { (raiseOn (raiseOn e 0 v) 1 v).hlk with pba0 := d.hlk.pba0, pba1 := d.hlk.pba1 } = d.hlk := by
    intro e he v
    have h1 := raiseOn_hlk e 0 v
    have h2 := raiseOn_hlk (raiseOn e 0 v) 1 v
    rw [← h2, he] at h1
    exact h1
  unfold recordAt
  dsimp only
  generalize hd2 : (if 3 ≤ f.cls then _ else _ : Dev) = d2
  have h2 : d2.hlk = d.hlk := by subst hd2; split <;> rfl
  generalize hd3 : (if (_ && _) = true then raiseOn _ _ _ else d2 : Dev) = d3
  have h3 : { d3.hlk with pba0 := d.hlk.pba0, pba1 := d.hlk.pba1 } = d.hlk := by
    subst hd3
    split
    · exact htwo d2 h2 _
    · rw [h2]
  split <;> exact h3

theorem recordAt_only (d : Dev) (f : FSpec) (us : Nat) (late con : Bool) : RecordsOnly 1 d (recordAt d f us late con) := by
  obtain ⟨r, n, p, m, hflt⟩ := recordAt_ring d f us late con
  refine ⟨⟨1, le_rfl, ?_, fun j hj => ?_⟩, ?_, recordAt_bk .., recordAt_hlk .., ?_⟩
  · rw [hflt]
    dsimp only
    omega
  · rw [hflt]
    exact mget?_mset_other _ _ _ _ (hj 0 Nat.one_pos)
  · rw [hflt]
  · obtain ⟨a, b, c, e, hshape⟩ := recordAt_shape d f us late con
    rw [hshape]

theorem record_only (d : Dev) (f : FSpec) : RecordsOnly 1 d (record d f) := by
  unfold record
  split
  · exact recordAt_only ..
  · have h := recordAt_only (drawFree d 16).2 f ((drawFree d 16).1 % 11) false true
    exact ⟨⟨h.ring.grows⟩, h.flt, h.bk, h.hlk, congrArg (fun e => { e with free := d.free }) h.rest⟩

/-- A record is still there after fewer than 256 more. -/
theorem newest_kept {d e : Dev} {f : FSpec} {n : Nat} (h : RingGrows n (record d f) e) (hn : n < 256) :
    ∃ r, mget? e.flt.ring (d.flt.seq % 256) = some r ∧ r.cls = f.cls ∧ r.block = f.block ∧ r.code = f.code
      ∧ r.seq = d.flt.seq ∧ r.slot = f.slot ∧ r.detail = f.detail % 2 ^ 64 := by
  obtain ⟨r, hring, hcls, hblock, hcode, hrseq, hslot, hdetail, hseq⟩ := record_newest d f
  obtain ⟨k, hk, -, hkeep⟩ := h.grows
  refine ⟨r, ?_, hcls, hblock, hcode, hrseq, hslot, hdetail⟩
  rw [hkeep _ fun i hi => ?_, hring]
  rw [hseq]
  omega

/-! ### The end of a job (R261 to R263) -/

/-- What the end of a job, over every half that ran it, leaves as it was, with at most `n` records. -/
structure FinishKeeps (n : Nat) (d e : Dev) : Prop where
  ring : RingGrows n d e
  rest : { e with flt := d.flt, bk := d.bk, hlk := d.hlk, out := d.out, free := d.free, sched := d.sched, ports := d.ports, vce := d.vce
                  pxe := d.pxe, imgs := d.imgs, clk := d.clk } = d

namespace FinishKeeps

theorem trans {m n : Nat} {a b c : Dev} (h : FinishKeeps m a b) (k : FinishKeeps n b c) : FinishKeeps (m + n) a c := by
  refine ⟨h.ring.trans k.ring, ?_⟩
  have hb := h.rest
  rw [← k.rest] at hb
  exact hb

theorem of_records {n : Nat} {d e : Dev} (h : RecordsOnly n d e) : FinishKeeps n d e :=
  ⟨h.ring, congrArg (fun e => { e with
    sched := d.sched, ports := d.ports, vce := d.vce, pxe := d.pxe, imgs := d.imgs, clk := d.clk }) h.rest⟩

theorem scope {n : Nat} {d e : Dev} (h : FinishKeeps n d e) (i : Nat) : scope e i = scope d i := by
  have h0 := congrArg Dev.sc0 h.rest
  have h1 := congrArg Dev.sc1 h.rest
  dsimp only at h0 h1
  unfold Machine.scope
  rw [h0, h1]

end FinishKeeps

theorem jobEndAudit_only (d : Dev) : RecordsOnly 14 d (jobEndAudit d) := by
  refine (RecordsOnly.fold record record_only _ d).mono ?_
  refine (List.length_filterMap_le _ _).trans ?_
  simp

/-- `record` or nothing. -/
theorem recordIf_only (b : Bool) (d : Dev) (f : FSpec) : RecordsOnly 1 d (if b then record d f else d) := by
  split
  · exact record_only d f
  · exact (RecordsOnly.refl d).mono (Nat.zero_le 1)

theorem finishJob_keeps (d : Dev) (slot : Nat) (j : Job) : FinishKeeps 15 d (finishJob d slot j) := by
  have hfirst := recordIf_only (j.half && endsDiffer j) d { fspec 3 0x08 0x06 with slot := slot }
  unfold finishJob
  extract_lets e src d1 late degraded flags rec_ served sch0 sch pt0 pt d3 d4 fl d5
  have hmid : FinishKeeps 0 d1 (imagesSettle d5) := by
    unfold d5
    split
    · exact ⟨.of_eq rfl rfl, rfl⟩
    · exact ⟨.of_eq rfl rfl, rfl⟩
  exact ((FinishKeeps.of_records hfirst).trans hmid).trans (.of_records (jobEndAudit_only _))

/-- A job that has ended already, or that a half still runs, is left as it is. -/
theorem finishCheck_keeps (d : Dev) (slot : Nat) : FinishKeeps 15 d (finishCheck d slot) := by
  have hnone : FinishKeeps 15 d d := ⟨(RingGrows.refl d).mono (Nat.zero_le _), rfl⟩
  unfold finishCheck
  split
  · exact hnone
  dsimp only
  split
  · exact hnone
  · exact finishJob_keeps ..

theorem refStart_frame (d : Dev) (n : Nat) : { refStart d n with hbm := d.hbm } = d := by
  unfold refStart
  dsimp only
  (repeat' split) <;> rfl

theorem releaseStacks_frame (d : Dev) (k : ScopeKind) : { releaseStacks d k with hbm := d.hbm } = d := by
  unfold releaseStacks
  induction stacksOf k generalizing d with
  | nil => rfl
  | cons p l ih =>
    rw [List.foldl_cons]
    generalize hd1 : (let st := stack d p.1; if st.present then _ else _ : Dev) = d1
    have h1 : { d1 with hbm := d.hbm } = d := by
      subst hd1
      dsimp only
      split
      · have := refStart_frame (setStack d p.1 { stack d p.1 with windowed := false, overClass := false, winOpen := 0, winPend := 0 }) p.1
        exact congrArg (fun e => { e with hbm := d.hbm }) this
      · rfl
    have h2 := ih d1
    rw [← h2] at h1
    exact h1

/-! ### A scope stops (R65, R262) -/

/-- What no end of a scope's job touches. -/
structure EndRest (d e : Dev) : Prop where
  rest : { e with flt := d.flt, bk := d.bk, hlk := d.hlk, out := d.out, free := d.free, sched := d.sched, ports := d.ports, vce := d.vce
                  pxe := d.pxe, imgs := d.imgs, clk := d.clk, tiles := d.tiles, hbm := d.hbm, sc0 := d.sc0, sc1 := d.sc1 } = d

namespace EndRest

theorem trans {a b c : Dev} (h : EndRest a b) (k : EndRest b c) : EndRest a c := by
  have hb := h.rest
  rw [← k.rest] at hb
  exact ⟨hb⟩

theorem of_finish {n : Nat} {d e : Dev} (h : FinishKeeps n d e) : EndRest d e :=
  ⟨congrArg (fun e => { e with tiles := d.tiles, hbm := d.hbm, sc0 := d.sc0, sc1 := d.sc1 }) h.rest⟩

theorem setScope (d : Dev) (i : Nat) (x : Scope) : EndRest d (setScope d i x) := by
  unfold Machine.setScope
  (repeat' split) <;> exact ⟨rfl⟩

theorem releaseStacks (d : Dev) (k : ScopeKind) : EndRest d (releaseStacks d k) :=
  ⟨congrArg (fun e => { e with
    flt := d.flt, bk := d.bk, hlk := d.hlk, out := d.out, free := d.free, sched := d.sched, ports := d.ports, vce := d.vce, pxe := d.pxe
    imgs := d.imgs, clk := d.clk, tiles := d.tiles, sc0 := d.sc0, sc1 := d.sc1 }) (releaseStacks_frame d k)⟩

end EndRest

/-- What a scope with a job that ends leaves of the block: its own counters, and everything that no job's end touches. -/
structure EndKeeps (si : Nat) (d e : Dev) : Prop where
  ring : RingGrows 15 (if auditable (scope d si) && !auditOk (scope d si) then record d (identityFault si (scope d si)) else d) e
  ended : scope e si = scopeJobEnd (scope d si)
  other : ∀ k, k ≠ si → scope e k = scope d k
  rest : EndRest d e

theorem EndKeeps.grows {si : Nat} {d e : Dev} (h : EndKeeps si d e) : RingGrows 16 d e :=
  (recordIf_only _ d _).ring.trans h.ring

theorem endScope_idle {d : Dev} {si : Nat} (h : (scope d si).jobValid = false) (st : Status) (detail : Nat) (extra : List Byte) :
    endScope d si st detail extra = d := by
  simp [endScope, h]

theorem endScope_keeps {d : Dev} {si : Nat} (hsi : si < 2) (h : (scope d si).jobValid = true) (st : Status) (detail : Nat)
    (extra : List Byte) : EndKeeps si d (endScope d si st detail extra) := by
  have hfirst := recordIf_only (auditable (scope d si) && !auditOk (scope d si)) d (identityFault si (scope d si))
  unfold endScope
  simp only [h, Bool.not_true, Bool.false_eq_true, if_false]
  generalize hd1 : (if (auditable _ && _) = true then record d _ else d) = d1 at hfirst ⊢
  generalize (if (auditable _ && _) = true then endInfo _ _ _ _ else _) = e
  generalize hd2 : setScope _ si (scopeJobEnd (scope d si)) = d2
  have hrest2 : EndRest d1 d2 := by
    subst hd2
    refine EndRest.trans ?_ (.setScope _ _ _)
    exact ⟨rfl⟩
  have hflt2 : d2.flt = d1.flt := by subst hd2; exact setScope_flt ..
  generalize hd3 : releaseStacks d2 _ = d3
  have hrest3 : EndRest d2 d3 := hd3 ▸ .releaseStacks d2 _
  have hstack := releaseStacks_frame d2 (scope d si).kind
  rw [hd3] at hstack
  have hflt3 := congrArg Dev.flt hstack
  have hsc0 := congrArg Dev.sc0 hstack
  have hsc1 := congrArg Dev.sc1 hstack
  dsimp only at hflt3 hsc0 hsc1
  generalize hd4 : { d3 with sched := _ } = d4
  have hrest4 : EndRest d3 d4 := hd4 ▸ ⟨rfl⟩
  have hflt4 : d4.flt = d3.flt := by subst hd4; rfl
  have hscope : ∀ i, scope d4 i = scope d2 i := by
    intro i
    subst hd4
    unfold scope
    rw [hsc0, hsc1]
  have hlast := finishCheck_keeps d4 (scope d si).slot
  refine ⟨?_, ?_, fun k hk => ?_, ?_⟩
  · have hmid : RingGrows 0 d1 d4 := .of_eq (by rw [hflt4, hflt3, hflt2]) (by rw [hflt4, hflt3, hflt2])
    rw [hd1]
    exact hmid.trans hlast.ring
  · rw [hlast.scope, hscope, ← hd2, scope_setScope _ _ _ hsi]
  · rw [hlast.scope, hscope, ← hd2, scope_setScope_other _ _ _ _ hk]
    exact (FinishKeeps.of_records hfirst).scope k
  · exact (((EndRest.of_finish (.of_records hfirst)).trans hrest2).trans hrest3).trans (hrest4.trans (.of_finish hlast))

end Sys2Proof.Machine
end

section
/-! Predicates on their way, shadow drains, sources, audits, overrun and stops of a scope (R38, R40, R49, R52, R67, R102, R112, R113, R259). -/

namespace Sys2Proof.Machine

open Sys2Proof Sys2Proof.Safety

/-! ### Delivery of a global predicate (R40, R49) -/

theorem noteKept_frame (x : Scope) (idx : Nat) (val : Bool) (sent : Option Nat) :
    { noteKept x idx val sent with spec := x.spec, rrun := x.rrun } = x := rfl

section
variable {d : Dev} {si idx : Nat} (hsi : si < 2)
include hsi

/-- A predicate that is not valid becomes valid; of the scope only its checkpoints and its speculation take note. -/
theorem receive_new (val : Bool) (cyc : Nat) (sent : Option Nat) (h : mget? (scope d si).gpreds idx = none) :
    ∃ sp rr, receive d si idx val cyc sent = setScope d si { scope d si with gpreds := mset (scope d si).gpreds idx val, spec := sp, rrun := rr } := by
  have hnote : (noteKept (scope d si) idx val sent).gpreds = (scope d si).gpreds := rfl
  simp only [receive, h, Option.isNone_none, if_true, deliver, scope_setScope _ _ _ hsi, hnote, setScope_setScope]
  exact ⟨_, _, rfl⟩

omit hsi in
/-- A valid predicate stays as it is, and the discarded write is recorded. -/
theorem receive_valid {b : Bool} (val : Bool) (cyc : Nat) (sent : Option Nat) (h : mget? (scope d si).gpreds idx = some b) :
    receive d si idx val cyc sent = record d { fspec 0 0x08 0x02 with
      scope := scopeCode (scope d si).kind, slot := (scope d si).slot, detail := idx + scopeCode (scope d si).kind * 256 } := by
  simp [receive, deliver, h]

end

section
variable {d : Dev} {sc : Fin 2} {idx : Nat} {val : Bool} {wait : Nat}

theorem gpredSet_running (h : running (scope d sc.val) = true) :
    gpredSet d sc.val idx val wait = setScope d sc.val { scope d sc.val with sets := (scope d sc.val).sets ++ [(idx, val)] } := by
  simp [gpredSet, h]

theorem gpredSet_frozen (h : running (scope d sc.val) = false) (hv : (scope d sc.val).jobValid = true) :
    gpredSet d sc.val idx val wait = receive d sc.val idx val ((scope d sc.val).jobCycles + wait + 1) none := by
  simp [gpredSet, h, hv]

theorem gpredSet_noJob (h : running (scope d sc.val) = false) (hv : (scope d sc.val).jobValid = false) :
    gpredSet d sc.val idx val wait = discarded d 0x08 (0x8280 + 4 * sc.val) := by
  simp [gpredSet, h, hv]

end

/-! ### The end of a scope's job -/

theorem endScope_jobValid {d : Dev} {si : Nat} (hsi : si < 2) (st : Status) (detail : Nat) (extra : List Byte) :
    (scope (endScope d si st detail extra) si).jobValid = false := by
  cases h : (scope d si).jobValid with
  | false => rw [endScope_idle h, h]
  | true =>
    rw [(endScope_keeps hsi h st detail extra).ended]
    rfl

/-- Where R38's identity does not hold as a scope's job ends, that is recorded. -/
theorem endScope_identityRecord {d : Dev} {si : Nat} (hsi : si < 2) (hv : (scope d si).jobValid = true)
    (hbad : (auditable (scope d si) && !auditOk (scope d si)) = true) (st : Status) (detail : Nat) (extra : List Byte) :
    ∃ r, mget? (endScope d si st detail extra).flt.ring (d.flt.seq % 256) = some r ∧ r.cls = 3 ∧ r.block = 0x08 ∧ r.code = 0x08
      ∧ r.slot = (scope d si).slot := by
  have hgrows := (endScope_keeps hsi hv st detail extra).ring
  rw [if_pos hbad] at hgrows
  obtain ⟨r, hring, hcls, hblock, hcode, -, hslot, -⟩ := newest_kept hgrows (by decide)
  exact ⟨r, hring, hcls, hblock, hcode, hslot⟩

theorem endMapping_jobValid {d : Dev} {si : Nat} (hsi : si < 2) (f : MFault) : (scope (endMapping d si f) si).jobValid = false := by
  unfold endMapping
  dsimp only
  split
  · next h => simpa using h
  · exact endScope_jobValid hsi ..

/-! ### Audits and overrun (R38, R259) -/

section
variable {s : State} {sc : Fin 2} (hv : (scope s.dev sc.val).jobValid = true) (hspec : (scope s.dev sc.val).spec = none)
  (hphase : (scope s.dev sc.val).phase = .run ∨ (scope s.dev sc.val).phase = .ending)

theorem auditable_of_phase {x : Scope} (hspec : x.spec = none) (hphase : x.phase = .run ∨ x.phase = .ending) : auditable x = true := by
  rcases hphase with h | h <;> simp [auditable, hspec, h]

include hv hspec hphase

theorem exec_auditPoint {b : Bool} (hok : auditOk (scope s.dev sc.val) = b) : exec (.auditPoint sc) s = .next { s with
    dev := let d := setScope s.dev sc.val { scope s.dev sc.val with auditDue := false }
           if b then d else endFault d sc.val 3 (faultCode 3 0x08 0x08) } := by
  have hrun : (!(scope s.dev sc.val).jobValid || (scope s.dev sc.val).spec.isSome
      || !((scope s.dev sc.val).phase == .run || (scope s.dev sc.val).phase == .ending)) = false := by
    rcases hphase with h | h <;> simp [hv, hspec, h]
  simp only [exec, execAuditPoint, lift_eq, hrun, hok, Bool.false_eq_true, if_false]
  rfl

end

theorem exec_jobOverrun_latencyCritical {s : State} {sc : Fin 2} {j : Job} (hv : (scope s.dev sc.val).jobValid = true)
    (hover : (scope s.dev sc.val).overrun = false) (hbudget : (scope s.dev sc.val).staticBeats + (scope s.dev sc.val).slipBudget
      + (scope s.dev sc.val).replayBudget < (scope s.dev sc.val).jobCycles + (scope s.dev sc.val).skipped)
    (hslot : mget? s.dev.sched.slots (scope s.dev sc.val).slot = some j) (hbe : j.desc.be = false) :
    exec (.jobOverrun sc) s = .next { s with
      dev := { updScope s.dev sc.val (fun x => { x with overrun := true }) with
        sched := { s.dev.sched with
          slots := mset s.dev.sched.slots (scope s.dev sc.val).slot { j with overrun := true }, lcOverrun := true } } } := by
  have hdue : (!(scope s.dev sc.val).jobValid || (scope s.dev sc.val).overrun || !overBudget (scope s.dev sc.val)) = false := by
    simp [hv, hover, overBudget, hbudget]
  simp only [exec, execJobOverrun, lift_eq, hdue, Bool.false_eq_true, if_false, updScope_sched, hslot, hbe, Bool.not_false, Bool.or_true,
    Bool.false_and]

end Sys2Proof.Machine

namespace Sys2Proof.Proofs

open Sys2Proof Sys2Proof.Machine Sys2Proof.Safety

/-- Settles O15: each event by its own equation, the audit by the identity of R38. -/
theorem scopeEventsComplete : Obligations.ScopeEventsComplete := by
  refine ⟨fun s sc idx => ?_, fun s sc => ?_⟩
  · intro x
    refine ⟨fun p hp hdue hnew => ?_, fun src val wait hown hrun => ?_, fun val hsets hnew => ?_, fun src val wait hown hrun hv hnew => ?_,
      fun src val wait b hown hrun hv hold => ?_, fun src val wait hown hrun hv => ?_, fun src val wait hown => ?_⟩
    · have hidx : p.idx = idx.val := by simpa using List.find?_some hp
      have hnotyet : ¬ ((scope s.dev sc.val).phase == .run && decide ((scope s.dev sc.val).jobCycles < p.due)) = true := by
        simp only [Bool.and_eq_true, beq_iff_eq, decide_eq_true_eq]
        rintro ⟨hphase, hlt⟩
        rcases hdue with h | h
        · exact h hphase
        · exact absurd hlt (Nat.not_lt.2 h)
      obtain ⟨sp, rr, hrec⟩ := receive_new (d := setScope s.dev sc.val { x with flight := x.flight.erase p }) sc.isLt p.val p.due (some p.sent)
        (idx := idx.val) (by rw [scope_setScope_fin]; exact hnew)
      dsimp only [exec, execGpredDelivery]
      refine exists_lift (e := setScope s.dev sc.val
        { x with flight := x.flight.erase p, gpreds := mset x.gpreds idx.val p.val, spec := sp, rrun := rr }) ?_ ⟨setScope_tiles .., ?_, ?_, setScope_flt ..⟩
      · rw [show (scope s.dev sc.val).flight.find? (fun p => p.idx == idx.val) = some p from hp]
        dsimp only
        rw [if_neg hnotyet, hidx, hrec, scope_setScope_fin, setScope_setScope]
      · rw [scope_setScope_fin]
      · rw [scope_setScope_fin]
    · simp only [exec, execGpredSet, lift_eq, ownerOnly, hown, if_true]
      rw [gpredSet_running hrun]
    · have hflush : flushSets s.dev sc.val = receive (setScope s.dev sc.val { x with sets := [] }) sc.val idx.val val x.jobCycles none := by
        rw [flushSets, show (scope s.dev sc.val).sets = _ from hsets]
        rfl
      obtain ⟨sp, rr, hrec⟩ := receive_new (d := setScope s.dev sc.val { x with sets := [] }) sc.isLt val x.jobCycles none
        (idx := idx.val) (by rw [scope_setScope_fin]; exact hnew)
      rw [hflush, hrec, scope_setScope_fin, setScope_setScope, scope_setScope_fin]
      exact ⟨rfl, rfl, setScope_tiles .., setScope_flt ..⟩
    · obtain ⟨sp, rr, hrec⟩ := receive_new (d := s.dev) sc.isLt val (x.jobCycles + wait + 1) none hnew
      dsimp only [exec, execGpredSet]
      refine exists_lift (e := setScope s.dev sc.val { x with gpreds := mset x.gpreds idx.val val, spec := sp, rrun := rr }) ?_
        ⟨setScope_tiles .., ?_, ?_, setScope_flt ..⟩
      · rw [ownerOnly, if_pos hown, gpredSet_frozen hrun hv, hrec]
      · rw [scope_setScope_fin]
      · rw [scope_setScope_fin]
    · obtain ⟨r, hring, hcls, hblock, hcode, -⟩ := record_newest s.dev { fspec 0 0x08 0x02 with
        scope := scopeCode x.kind, slot := x.slot, detail := idx.val + scopeCode x.kind * 256 }
      refine ⟨{ s with dev := record s.dev { fspec 0 0x08 0x02 with
        scope := scopeCode x.kind, slot := x.slot, detail := idx.val + scopeCode x.kind * 256 } }, r, ?_, ?_, hring, hcls, hblock, hcode⟩
      · dsimp only [exec, execGpredSet]
        rw [lift_eq, ownerOnly, if_pos hown, gpredSet_frozen hrun hv, receive_valid _ _ _ hold]
      · rw [scope_record]
    · dsimp only [exec, execGpredSet]
      rw [lift_eq, ownerOnly, if_pos hown, gpredSet_noJob hrun hv]
    · simp [exec, execGpredSet, ownerOnly, hown]
  · intro x
    refine ⟨fun g line l hl hopen => ?_, fun g id hin => ?_, fun hv hspec hphase => ⟨fun hok => ?_, fun hbad => ?_⟩,
      fun j hv hover hbudget hslot hbe => ?_, fun f hf hv => ⟨?_, endMapping_jobValid sc.isLt f⟩⟩
    · simp only [exec, execShadowDrain, lift_eq, updTile, hl, hopen]
      rfl
    · simp only [exec, execSourceReadDone, lift_eq, updTile, hin]
      rfl
    · rw [exec_auditPoint hv hspec hphase (beq_iff_eq.2 hok), if_pos rfl]
    · have hfalse : auditOk x = false := beq_eq_false_iff_ne.2 hbad
      have hx := scope_setScope_fin s.dev sc { x with auditDue := false }
      have hbroken : (auditable { x with auditDue := false } && !auditOk { x with auditDue := false }) = true :=
        Bool.and_eq_true_iff.2 ⟨auditable_of_phase hspec hphase, congrArg not hfalse⟩
      obtain ⟨r, hring, hcls, hblock, hcode, hslot⟩ := endScope_identityRecord (d := setScope s.dev sc.val { x with auditDue := false })
        sc.isLt (by rw [hx]; exact hv) (by rw [hx]; exact hbroken) .failedFault 3 (leBytes 2 (faultCode 3 0x08 0x08) ++ leBytes 2 0)
      rw [setScope_flt] at hring
      rw [hx] at hslot
      refine ⟨_, r, exec_auditPoint hv hspec hphase hfalse, rfl, ?_, hring, hcls, hblock, hcode, hslot⟩
      exact endScope_jobValid sc.isLt ..
    · refine ⟨_, exec_jobOverrun_latencyCritical hv hover hbudget hslot hbe, rfl, ?_, rfl, ?_, rfl⟩
      · exact congrArg Scope.overrun (scope_updScope_fin s.dev sc (fun x => { x with overrun := true }))
      · exact (congrArg Scope.jobValid (scope_updScope_fin s.dev sc (fun x => { x with overrun := true }))).trans hv
    · dsimp only [exec, execScopeStop]
      rw [lift_eq, show (scope s.dev sc.val).fault = _ from hf]

end Sys2Proof.Proofs
end

section
/-! Speculation and replay (R49, R53 to R61): how each is decided, and what a squash and a replay leave of their scope. -/

namespace Sys2Proof.Machine

open Sys2Proof Sys2Proof.Safety

/-! ### Predicates delivered again -/

section
variable {d : Dev} {si : Nat} (hsi : si < 2)
include hsi

/-- With no speculation open a delivery only makes its predicate valid. -/
theorem scope_deliver (idx : Nat) (val : Bool) (cyc : Nat) (hspec : (scope d si).spec = none) :
    scope (deliver d si idx val cyc) si = { scope d si with
      gpreds := if (mget? (scope d si).gpreds idx).isSome then (scope d si).gpreds else mset (scope d si).gpreds idx val } := by
  cases h : mget? (scope d si).gpreds idx with
  | some b => simp [deliver, h]
  | none =>
    simp only [deliver, h, scope_setScope _ _ _ hsi, hspec, Option.map_none, Option.isSome_none, Bool.false_eq_true, if_false]

/-- Deliveries that a restore repeats change only predicates, and not the one that was consumed. -/
theorem scope_redeliver (kept : List (Nat × Bool)) (skip : Option Nat) (cyc : Nat) : ∀ d : Dev, (scope d si).spec = none →
    ∃ g, scope (redeliver d si kept skip cyc) si = { scope d si with gpreds := g }
      ∧ ∀ k, skip = some k → mget? g k = mget? (scope d si).gpreds k := by
  induction kept with
  | nil => exact fun d _ => ⟨_, rfl, fun _ _ => rfl⟩
  | cons p kept ih =>
    intro d hspec
    by_cases hskip : skip = some p.1
    · have hstep : redeliver d si (p :: kept) skip cyc = redeliver d si kept skip cyc := by simp [redeliver, hskip]
      rw [hstep]
      exact ih d hspec
    · have hstep : redeliver d si (p :: kept) skip cyc = redeliver (deliver d si p.1 p.2 cyc) si kept skip cyc := by simp [redeliver, hskip]
      have hdel := scope_deliver hsi p.1 p.2 cyc hspec
      obtain ⟨g, hg, hkeep⟩ := ih (deliver d si p.1 p.2 cyc) (by rw [hdel]; exact hspec)
      refine ⟨g, ?_, fun k hk => ?_⟩
      · rw [hstep, hg, hdel]
      · have hne : k ≠ p.1 := fun h => hskip (h ▸ hk)
        rw [hkeep k hk, hdel]
        dsimp only
        split
        · rfl
        · exact mget?_mset_other _ _ _ _ hne

end

/-- A resolution that is due is not put off (R53, R57). -/
theorem notYet_false {x : Scope} {q : Nat} (h : x.phase ≠ .run ∨ q ≤ x.jobCycles) : (x.phase == .run && decide (x.jobCycles < q)) = false := by
  rcases h with h | h
  · simp [h]
  · simp [Nat.not_lt.2 h]

/-! ### What leaves the scopes alone -/

@[simp] theorem scope_mapTiles (d : Dev) (k : ScopeKind) (f : Nat → Tile → Tile) (i : Nat) : scope (mapTiles d k f) i = scope d i := rfl

theorem rescaleTensor_keeps (d : Dev) (g : Nat) (ts : Tensor) (am : Word) : BeatKeeps d (rescaleTensor d g ts am) := by
  unfold rescaleTensor
  split
  · exact BeatKeeps.refl d
  split
  · exact BeatKeeps.refl d
  dsimp only
  refine BeatKeeps.trans ?_ (BeatKeeps.updTile _ g _)
  split
  · exact BeatKeeps.refl d
  refine BeatKeeps.fold _ (fun d b => ?_) _ d
  split
  · exact BeatKeeps.mapFault ..
  · exact BeatKeeps.updTile ..

/-- Every tile's copy of every scale, recomputed. -/
theorem rescaleAll_keeps (tiles : List Nat) (ams : List (Tensor × Word)) (d : Dev) :
    BeatKeeps d (tiles.foldl (fun d g => ams.foldl (fun d a => rescaleTensor d g a.1 a.2) d) d) :=
  BeatKeeps.fold _ (fun d g => BeatKeeps.fold _ (fun d (a : Tensor × Word) => rescaleTensor_keeps d g a.1 a.2) _ d) _ d

/-- The path goes on past a region. -/
theorem scope_jumpOver {d : Dev} {si i : Nat} {r : Region} (hsi : si < 2) (h : (scope d si).regions[i]? = some r) :
    ∃ l m, scope (jumpOver d si i) si = { scope d si with pos := r.e + 1, glane := l, reps := m } := by
  have hseek : scope (seekAll d si i) si = scope d si := rfl
  simp only [jumpOver, h, updScope, scope_setScope _ _ _ hsi, hseek]
  exact ⟨_, _, rfl⟩

/-! ### A squash (R54, R432) -/

theorem consumePred_frame (x : Scope) (i : Nat) : ∃ g, consumePred x i = { x with gpreds := g } := by
  unfold consumePred
  split
  · exact ⟨_, rfl⟩
  · exact ⟨x.gpreds, rfl⟩

theorem consumePred_gpreds {x : Scope} {i : Nat} {r : Region} (h : x.regions[i]? = some r) :
    (consumePred x i).gpreds = mdel x.gpreds r.gpred := by
  simp only [consumePred, h]

theorem scope_resolveSquash {d : Dev} {sc : Fin 2} (sp : Spec) {q : Nat} (hphase : (scope d sc.val).phase ≠ .slip)
    (hq : (scope d sc.val).jobCycles ≤ q) :
    let x := scope d sc.val
    let y := scope (resolveSquash d sc.val sp q) sc.val
    y.spec = none ∧ y.phase = .squash ∧ y.jobCycles = q ∧ y.resume = q + 32
      ∧ (∀ r, x.regions[sp.region]? = some r → mget? y.gpreds r.gpred = none)
      ∧ (sp.value = true → y.pos = sp.ck.pos)
      ∧ (∀ r, sp.value = false → x.regions[sp.region]? = some r → y.pos = r.e + 1) := by
  intro x y
  have hq' : (if (x.phase == .slip) = true then q else Nat.max q x.jobCycles) = q := by
    rw [if_neg (by simpa using hphase)]
    exact Nat.max_eq_left hq
  have hy : y = scope (resolveSquash d sc.val sp q) sc.val := rfl
  clear_value y
  unfold resolveSquash at hy
  extract_lets q1 slip x0 x1 d1 d2 res d3 d4 at hy
  have hx1 : x1.spec = none ∧ x1.phase = .squash ∧ x1.jobCycles = q ∧ x1.resume = q + 32 ∧ x1.regions = x.regions ∧ x1.pos = sp.ck.pos := by
    obtain ⟨g, hg⟩ := consumePred_frame (setDecided { x0 with spec := none } sp.region (if sp.value then 3 else 0)) sp.region
    simp only [x1, hg]
    exact ⟨rfl, rfl, hq', congrArg (· + 32) hq', rfl, rfl⟩
  have hx1gone : ∀ r, x.regions[sp.region]? = some r → mget? x1.gpreds r.gpred = none := by
    intro r hr
    have hmdel : x1.gpreds = mdel _ r.gpred := consumePred_gpreds hr
    rw [hmdel, mget?_mdel_same]
  clear_value x1
  obtain ⟨hspec, hph, hjob, hres, hregions, hpos⟩ := hx1
  have hd2 : scope d2 sc.val = x1 := by
    simp only [d2, scope_mapTiles, d1, scope_setScope_fin]
  obtain ⟨g, hd3, hgone⟩ := scope_redeliver sc.isLt sp.kept res q1 d2 (by rw [hd2]; exact hspec)
  rw [hd2] at hd3 hgone
  have hgone' : ∀ r, x.regions[sp.region]? = some r → mget? g r.gpred = none := by
    intro r hr
    rw [hgone r.gpred (by simp only [res, hr]; rfl), hx1gone r hr]
  have hy4 : y = scope d4 sc.val := by
    rw [hy]
    split <;> rfl
  cases hval : sp.value with
  | true =>
    have h4 : scope d4 sc.val = { x1 with gpreds := g } := by simp only [d4, hval, if_true, d3, hd3]
    rw [hy4, h4]
    exact ⟨hspec, hph, hjob, hres, hgone', fun _ => hpos, fun _ h => absurd h (by decide)⟩
  | false =>
    have hskip : ∃ e, d4 = jumpOver e sc.val sp.region ∧ ∃ n, scope e sc.val = { x1 with gpreds := g, skipped := n } := by
      refine ⟨_, if_neg (by rw [hval]; decide), ?_⟩
      rw [scope_updScope_fin, hd3]
      exact ⟨_, rfl⟩
    obtain ⟨e, h4, n, hn⟩ := hskip
    cases hr : x.regions[sp.region]? with
    | none =>
      have hnone : (scope e sc.val).regions[sp.region]? = none := by rw [hn]; exact (congrArg (·[sp.region]?) hregions).trans hr
      rw [hy4, h4, jumpOver, hnone, hn]
      exact ⟨hspec, hph, hjob, hres, fun _ h => (nomatch h), fun h => (nomatch h), fun _ _ h => (nomatch h)⟩
    | some r =>
      have hsome : (scope e sc.val).regions[sp.region]? = some r := by rw [hn]; exact (congrArg (·[sp.region]?) hregions).trans hr
      obtain ⟨l, m, hjump⟩ := scope_jumpOver sc.isLt hsome
      rw [hy4, h4, hjump, hn]
      refine ⟨hspec, hph, hjob, hres, fun k hk => hgone' k (hr.trans hk), fun h => (nomatch h), fun k _ hk => ?_⟩
      rw [Option.some.inj hk]

/-! ### A replay (R59) -/

theorem scope_replayNow (d : Dev) (sc : Fin 2) (sp : Spec) (rr : RRun) (r : Region) (q : Nat) :
    let x := scope d sc.val
    let z := scope (replayNow d sc.val sp rr r q) sc.val
    z.spec = none ∧ z.phase = .replay ∧ z.jobCycles = q ∧ z.resume = q + 96 ∧ z.replays = satAdd 16 x.replays 1 ∧ z.pos = rr.ck.pos := by
  intro x z
  have hz : z = scope (replayNow d sc.val sp rr r q) sc.val := rfl
  clear_value z
  unfold replayNow at hz
  extract_lets ams d1 d2 d3 x3 lost x4 x5 d5 d6 at hz
  have hkeep : BeatKeeps d2 d3 := rescaleAll_keeps _ ams d2
  have hd2 : scope d2 sc.val = { x with spec := none } := scope_setScope_fin ..
  have hx3 : x3 = { x with spec := none, fault := x3.fault } := by
    have h := hkeep.scope_eq sc.val
    rw [hkeep.specs sc.val (by rw [hd2]), hd2] at h
    exact h
  have hd6 : scope d6 sc.val = x5 := by
    simp only [d6, scope_mapTiles, d5, scope_setScope_fin]
  have hspec : x5.spec = none := by
    simp only [x5, x4]
    rw [hx3]
    rfl
  obtain ⟨g, hg, -⟩ := scope_redeliver sc.isLt rr.kept none q d6 (by rw [hd6]; exact hspec)
  rw [hz, hg, hd6]
  refine ⟨hspec, rfl, rfl, rfl, ?_, rfl⟩
  simp only [x5, x4]
  rw [hx3]
  rfl

/-! ### Decisions (R53, R57 to R61) -/

theorem exec_specResolve_due {s : State} {sc : Fin 2} {sp sp' : Spec} {q : Nat} (hspec : (scope s.dev sc.val).spec = some sp)
    (hspec' : (scope (flushSets s.dev sc.val) sc.val).spec = some sp') (hdue : sp.due = some q) (htail : sp.tail = false)
    (hphase : (scope s.dev sc.val).phase ≠ .run ∨ q ≤ (scope s.dev sc.val).jobCycles) :
    exec (.specResolve sc) s = .next { s with
      dev := if sp'.value = sp'.assumeSkip then resolveSquash (flushSets s.dev sc.val) sc.val sp' q
             else resolveCommit (flushSets s.dev sc.val) sc.val sp' q } := by
  dsimp only [exec, execSpecResolve]
  simp only [lift_eq, hspec, hdue, htail, notYet_false hphase, Bool.or_self, Bool.false_eq_true, if_false, hspec', Option.getD_some]
  by_cases h : sp'.value = sp'.assumeSkip <;> simp [h]

/-- The monitors of a scope against a region's thresholds: too high a count, or a NaN that the region does not allow. -/
def tailHigh (d : Dev) (k : ScopeKind) (r : Region) : Bool :=
  decide (r.ovfT < sumCount d k (fun c => c.ovf)) || decide (r.satT < sumCount d k (fun c => c.sat)) || decide (r.nanT < sumCount d k (fun c => c.nan))

def tailBad (d : Dev) (k : ScopeKind) (r : Region) : Bool := r.nanStrict && sumCount d k (fun c => c.nan) != 0

theorem tailHigh_iff {d : Dev} {k : ScopeKind} {r : Region} : tailHigh d k r = true ↔ r.ovfT < sumCount d k (fun c => c.ovf)
    ∨ r.satT < sumCount d k (fun c => c.sat) ∨ r.nanT < sumCount d k (fun c => c.nan) := by
  simp [tailHigh, or_assoc]

theorem tailBad_iff {d : Dev} {k : ScopeKind} {r : Region} : tailBad d k r = true ↔ r.nanStrict = true ∧ sumCount d k (fun c => c.nan) ≠ 0 := by
  simp [tailBad]

theorem exec_replayDecision_due {s : State} {sc : Fin 2} {sp sp' : Spec} {rr rr' : RRun} {r : Region} {q : Nat}
    (hspec : (scope s.dev sc.val).spec = some sp) (hrrun : (scope s.dev sc.val).rrun = some rr) (htail : sp.tail = true)
    (hdue : sp.due = some q) (hregion : (scope s.dev sc.val).regions[rr.region]? = some r)
    (hphase : (scope s.dev sc.val).phase ≠ .run ∨ q ≤ (scope s.dev sc.val).jobCycles)
    (hspec' : (scope (flushSets s.dev sc.val) sc.val).spec = some sp') (hrrun' : (scope (flushSets s.dev sc.val) sc.val).rrun = some rr') :
    exec (.replayDecision sc) s = .next { s with
      dev :=
        let d := flushSets s.dev sc.val
        let y := scope d sc.val
        if (tailHigh d y.kind r || tailBad d y.kind r) && decide (rr'.num < 2) then replayNow d sc.val sp' rr' r (max q y.jobCycles)
        else if tailBad d y.kind r then endScope d sc.val .failedNumeric 0 []
        else commitRegion d sc.val sp' (max q y.jobCycles) (tailHigh d y.kind r) } := by
  dsimp only [exec, execReplayDecision]
  simp only [lift_eq, hspec, hrrun, hdue, hregion, htail, notYet_false hphase, Bool.not_true, Bool.or_self, Bool.false_eq_true, if_false,
    hspec', hrrun', Option.getD_some]
  rfl

end Sys2Proof.Machine

namespace Sys2Proof.Proofs

open Sys2Proof Sys2Proof.Machine Sys2Proof.Safety

/-- Settles O16: by the outcome that the predicate or the monitors decide. -/
theorem speculationComplete : Obligations.SpeculationComplete := by
  refine ⟨fun s sc => ?_, fun d sc sp q => ⟨scope_resolveSquash sp, fun rr r => scope_replayNow d sc sp rr r q⟩⟩
  dsimp only
  refine ⟨fun sp sp' q hspec hspec' hdue htail hphase => exec_specResolve_due hspec hspec' hdue htail hphase, fun hphase => ?_, fun hphase => ?_,
    fun hphase hspec hfault => ?_, fun sp rr r q sp' rr' hspec hrrun htail hdue hregion hphase hspec' hrrun' => ?_⟩
  · dsimp only [exec, execSquashResume]
    rw [lift_eq, hphase]
    rfl
  · dsimp only [exec, execSquashResume]
    rw [lift_eq, hphase]
    rfl
  · have hstall : ((scope s.dev sc.val).phase == .specStall && (scope s.dev sc.val).spec.isNone && (scope s.dev sc.val).fault.isNone) = true := by
      simp [hphase, hspec, hfault]
    dsimp only [exec, execStallResume]
    rw [lift_eq, if_pos hstall]
    rfl
  · rw [exec_replayDecision_due hspec hrrun htail hdue hregion hphase hspec' hrrun', ← tailHigh_iff, ← tailBad_iff]
    refine ⟨fun hcause hnum => ?_, fun hbad hnum => ?_, fun hhigh hbad => ?_, fun hhigh hbad hnum => ?_⟩
    · simp [hnum, hcause]
    · simp [Nat.not_lt.2 hnum, hbad]
    · simp [hhigh, hbad]
    · simp [hhigh, hbad, Nat.not_lt.2 hnum]

end Sys2Proof.Proofs
end

section
/-! The global lane and the directives of the tiles' lanes (R62, R72 to R75, R92). -/

namespace Sys2Proof.Machine

open Sys2Proof Sys2Proof.Safety

/-! ### Entries of the global lane -/

section
variable {d : Dev} {si act : Nat} {e : GEntry} {rest : List GEntry} (hv : (scope d si).jobValid = true)
  (hlane : (scope d si).glane = e :: rest) (hpos : e.pos < (scope d si).pos) (hact : e.act = act)
include hv hlane hpos hact

/-- Outside a speculation the entry acts now. -/
theorem laneTake_acts (hspec : (scope d si).spec = none) :
    laneTake d si act = laneAct (setScope d si { scope d si with glane := rest }) si e (scope d si).beat := by
  simp [laneTake, hv, hlane, hpos, hact, hspec]

/-- Within a speculation that holds its beat the entry waits. -/
theorem laneTake_waits {sp : Spec} (hsi : si < 2) (hspec : (scope d si).spec = some sp) (hheld : sp.ck.pos ≤ e.pos) :
    laneTake d si act = setScope d si { scope d si with
      glane := rest, spec := some { sp with heldLane := sp.heldLane ++ [(e, (scope d si).beat)] } } := by
  simp [laneTake, hv, hlane, hpos, hact, hspec, hheld, updScope, scope_setScope _ _ _ hsi]

end

section
variable (d : Dev) (si : Nat) (e : GEntry) (opened : Nat)

theorem laneAct_none (h : e.act = 1 ∨ e.act = 2) : laneAct d si e opened = d := by
  rcases h with h | h <;> simp [laneAct, h]

theorem laneAct_refresh (h : e.act = 3) : laneAct d si e opened = laneRefresh d si e opened := by simp [laneAct, h]

theorem laneAct_stamp (h : e.act = 4) : laneAct d si e opened = laneStamp d si (e.operand % 2 ^ 32) := by
  simp [laneAct, h, fld_zero]

theorem laneAct_event (h : e.act = 5) :
    laneAct d si e opened = laneEvent d (e.operand % 256) (e.operand / 2 ^ 16 % 2 ^ 16) e.pos := by
  simp [laneAct, h, fld_eq]

end

section
variable (d : Dev) (target code pos : Nat)

/-- Targets below 16 are the resident service. -/
theorem laneEvent_service (h : target < 16) : laneEvent d target code pos = { d with out := d.out ++ [.event code pos d.clk.devtime] } := by
  rw [laneEvent, if_neg (Nat.not_le.2 h)]
  rfl

/-- The others are the emulation ports. -/
theorem laneEvent_port (h : 16 ≤ target) : (laneEvent d target code pos).out = d.out ++ [.event code pos d.clk.devtime]
    ∧ (mget (laneEvent d target code pos).ports.emp (target - 16) Emp.reset).event = code
    ∧ (mget (laneEvent d target code pos).ports.emp (target - 16) Emp.reset).eventAt = d.clk.devtime := by
  rw [laneEvent, if_pos h]
  refine ⟨rfl, ?_, ?_⟩
  · exact congrArg Emp.event (mget_mset_same ..)
  · exact congrArg Emp.eventAt (mget_mset_same ..)

end

/-! ### Lane directives -/

theorem laneTakes_directive {d : Dev} {g k : Nat} {w : List Byte} {f : Fetcher} (hword : laneWord (tile d g) = some w)
    (hdir : directive w = some k) (htake : takeDirective (tile d g) = some f) :
    laneTakes d g k = setTile d g { tile d g with core := { (tile d g).core with fetch := f } } := by
  simp only [laneTakes, updTile, hword, hdir, htake, if_true]

/-- What each directive leaves of a fetcher that stands at it. -/
theorem takeDirective_at {t : Tile} {w : List Byte} (hword : laneWord t = some w) (hended : t.core.fetch.ended = false)
    (hrest : t.core.fetch.restLeft = 0) :
    (directive w = some 0 → takeDirective t = some (takeRest t.core.fetch w))
    ∧ (directive w = some 1 → takeDirective t = some (takeLoop t.core.fetch w))
    ∧ (directive w = some 2 → takeDirective t = some (takeEnd t.core.fetch)) := by
  have hopen : (t.core.fetch.ended || t.core.fetch.restLeft != 0) = false := by simp [hended, hrest]
  refine ⟨fun h => ?_, fun h => ?_, fun h => ?_⟩ <;> simp only [takeDirective, hopen, hword, h, Bool.false_eq_true, if_false]

end Sys2Proof.Machine

namespace Sys2Proof.Proofs

open Sys2Proof Sys2Proof.Machine Sys2Proof.Safety

/-- Settles O17: by cases on the entry and on the directive at which the fetcher stands. -/
theorem lanesComplete : Obligations.LanesComplete := by
  refine ⟨fun s sc e rest => ?_, fun s g w => ?_⟩
  · dsimp only
    refine fun hv hlane hpos => ⟨fun hspec => ?_, fun sp hspec hheld i hi hact => ?_⟩
    · have htake : ∀ act, e.act = act → laneTake s.dev sc.val act = _ := fun act hact => laneTake_acts hv hlane hpos hact hspec
      refine ⟨fun h => ?_, fun h => ?_, fun h => ?_, fun h => ?_, fun h ht => ?_, fun h ht => ?_⟩
      · dsimp only [exec, execRegionBegin]
        rw [lift_eq, htake 1 h, laneAct_none _ _ _ _ (.inl h)]
      · dsimp only [exec, execRegionEnd]
        rw [lift_eq, htake 2 h, laneAct_none _ _ _ _ (.inr h)]
      · dsimp only [exec, execRefresh]
        rw [lift_eq, htake 3 h, laneAct_refresh _ _ _ _ h]
      · dsimp only [exec, execStamp]
        rw [lift_eq, htake 4 h, laneAct_stamp _ _ _ _ h]
      · dsimp only [exec, execEvent]
        rw [lift_eq, htake 5 h, laneAct_event _ _ _ _ h, laneEvent_service _ _ _ _ ht, setScope_out, setScope_clk]
      · dsimp only [exec, execEvent]
        refine exists_lift (htake 5 h) ?_
        have hport := laneEvent_port (setScope s.dev sc.val { scope s.dev sc.val with glane := rest }) _ (e.operand / 2 ^ 16 % 2 ^ 16) e.pos ht
        rw [setScope_out, setScope_clk] at hport
        rw [laneAct_event _ _ _ _ h]
        exact hport
    · have htake : ∀ act, e.act = act → laneTake s.dev sc.val act = _ := fun act hact =>
        laneTake_waits hv hlane hpos hact sc.isLt hspec hheld
      simp only [List.mem_cons, List.not_mem_nil, or_false] at hi
      rcases hi with rfl | rfl | rfl | rfl | rfl
      · dsimp only [exec, execRegionBegin]
        rw [lift_eq, htake 1 hact]
      · dsimp only [exec, execRegionEnd]
        rw [lift_eq, htake 2 hact]
      · dsimp only [exec, execRefresh]
        rw [lift_eq, htake 3 hact]
      · dsimp only [exec, execStamp]
        rw [lift_eq, htake 4 hact]
      · dsimp only [exec, execEvent]
        rw [lift_eq, htake 5 hact]
  · dsimp only
    refine fun hword hended hrest => ?_
    obtain ⟨hR, hL, hE⟩ := takeDirective_at hword hended hrest
    refine ⟨fun hdir => ?_, fun hdir => ?_, fun hdir => ?_⟩
    · dsimp only [exec, execLaneRest]
      rw [lift_eq, laneTakes_directive hword hdir (hR hdir)]
      rfl
    · dsimp only [exec, execLaneLoop]
      rw [lift_eq, laneTakes_directive hword hdir (hL hdir)]
      rfl
    · dsimp only [exec, execLaneEnd]
      rw [lift_eq, laneTakes_directive hword hdir (hE hdir)]
      rfl

end Sys2Proof.Proofs
end

section
/-! The end of a job: drain, tokens, and the record (R64, R245, R261, R262, R265). -/

namespace Sys2Proof.Machine

open Sys2Proof Sys2Proof.Safety

/-! ### Tokens -/

theorem endScope_grows {d : Dev} {si : Nat} (hsi : si < 2) (st : Status) (detail : Nat) (extra : List Byte) :
    RingGrows 16 d (endScope d si st detail extra) := by
  cases h : (scope d si).jobValid with
  | false =>
    rw [endScope_idle h]
    exact (RingGrows.refl d).mono (Nat.zero_le _)
  | true => exact (endScope_keeps hsi h st detail extra).grows

/-- A violation of C4 is recorded and ends the job. -/
theorem tokenFault_ends {d : Dev} {si : Nat} (hsi : si < 2) (code detail : Nat) :
    (scope (tokenFault d si code detail) si).jobValid = false
      ∧ ∃ r, mget? (tokenFault d si code detail).flt.ring (d.flt.seq % 256) = some r ∧ r.cls = 3 ∧ r.block = 0x08 ∧ r.code = code
        ∧ r.detail = detail % 2 ^ 64 := by
  refine ⟨endScope_jobValid hsi .., ?_⟩
  obtain ⟨r, hring, hcls, hblock, hcode, -, -, hdetail⟩ := newest_kept (endScope_grows hsi .failedFault 3 (leBytes 2 (faultCode 3 0x08 code) ++ leBytes 2 0))
    (d := d) (f := { cls := 3, block := 0x08, code := code, unit := si, scope := scopeCode (scope d si).kind, slot := (scope d si).slot, detail := detail })
    (by decide)
  exact ⟨r, hring, hcls, hblock, hcode, hdetail⟩

theorem exec_completionToken_drained {s : State} {sc : Fin 2} {g : Fin 800} {drain : Nat} (hv : (scope s.dev sc.val).jobValid = true)
    (hphase : (scope s.dev sc.val).phase = .ending) (hin : inScope (scope s.dev sc.val).kind g.val = true)
    (hnew : g.val ∉ (scope s.dev sc.val).tokens) (hdrained : tileDrained s.dev sc.val g.val = true) :
    ∃ y : Scope, exec (.completionToken sc g drain) s = .next { s with dev := setScope s.dev sc.val y }
      ∧ y.tokens = (scope s.dev sc.val).tokens ++ [g.val]
      ∧ y.jobCycles = (scope s.dev sc.val).jobCycles + ((scope s.dev sc.val).endCycle + drain - (scope s.dev sc.val).jobCycles)
      ∧ y.slipCycles = (scope s.dev sc.val).slipCycles + ((scope s.dev sc.val).endCycle + drain - (scope s.dev sc.val).jobCycles) := by
  have hphase' : ((scope s.dev sc.val).phase != .ending) = false := by simp [hphase]
  have hnew' : (scope s.dev sc.val).tokens.contains g.val = false := by simpa using hnew
  dsimp only [exec, execCompletionToken]
  simp only [lift_eq, hv, hphase', hin, hnew', hdrained, Bool.not_true, Bool.or_self, Bool.false_eq_true, if_false]
  refine ⟨_, rfl, ?_⟩
  split <;> exact ⟨rfl, rfl, rfl⟩

/-! ### The record of a job that has ended -/

section
variable {d : Dev} {c : Nat} (bs : List Byte)

theorem putRecord_host (h : bit (qCtrl d c) 29 = false) :
    putRecord d c bs = some (hostPost d (servingLink d c) (some c) (ringAddr d c 8 + 32 * (queue d c).cqTail) bs) := by
  simp [putRecord, h]

theorem putRecord_object {h : Nat} {o : Obj} (ht1 : bit (qCtrl d c) 29 = true) (hobj : objOf d (ringObj d c 8).1 = some (h, o))
    (hend : (ringObj d c 8).2 + 32 * (queue d c).cqTail + 32 ≤ o.npages * pageSize) (hrd : o.rdonly = false) (hfar : o.cls ≠ .far)
    (hpeer : o.cls ≠ .peer) (hthere : missing h o ((ringObj d c 8).2 + 32 * (queue d c).cqTail) 32 = []) :
    putRecord d c bs = some (t1Write d h ((ringObj d c 8).2 + 32 * (queue d c).cqTail) bs) := by
  simp [putRecord, ht1, hobj, Nat.not_lt.2 hend, hrd, hfar, hpeer, hthere]

end

/-- A record that is due, whose job has performed what it writes, and that its CQ takes. -/
theorem exec_completionRecord_written {s : State} {k : Nat} {r : DueRec} {e : Dev} (hdue : s.dev.sched.due[k]? = some r)
    (hon : schedOn s.dev = true) (hroom : cqFull s.dev r.cq = false) (hdone : ∀ i, r.slot = some i → jobPerformed s.dev i = true)
    (hreach : ringReach s.dev r.cq (bit (qCtrl s.dev r.cq) 29) = true)
    (hput : putRecord s.dev r.cq (withPhase r.bytes (queue s.dev r.cq).phase) = some e) :
    exec (.completionRecord k) s = .next { s with dev := recordWritten e k r } := by
  dsimp only [exec, execCompletionRecord]
  cases hslot : r.slot with
  | none => simp [hdue, hon, hroom, hslot, hreach, hput]
  | some i => simp [hdue, hon, hroom, hslot, hdone i hslot, hreach, hput]

end Sys2Proof.Machine

namespace Sys2Proof.Proofs

open Sys2Proof Sys2Proof.Machine Sys2Proof.Safety

/-- Settles O18: by the state of the drain and the place of the record. -/
theorem jobEndComplete : Obligations.JobEndComplete := by
  intro s sc
  dsimp only
  refine ⟨fun hrun hpos hspec hrrun hlane hfault => ?_, fun g drain hv hphase hin hnew hdrained => ?_, fun hv hphase hc4 hall => ?_,
    fun hv hphase hc4 => ?_, fun hv hphase hshort => ?_, fun k r hdue hon hroom hdone => ⟨fun ht1 hreach => ⟨?_, rfl⟩,
      fun h o ht1 hobj hend hrd hfar hpeer hthere => ?_⟩, fun k i r hdue hslot hopen => ?_⟩
  · dsimp only [exec, execJobEnd]
    rw [lift_eq, if_pos (by simpa [hrun, hpos, hspec, hrrun, hfault] using hlane)]
  · obtain ⟨y, hexec, htok, hjob, hslip⟩ := exec_completionToken_drained (drain := drain) hv hphase hin hnew hdrained
    refine ⟨_, hexec, rfl, setScope_tiles .., ?_⟩
    rw [scope_setScope_fin]
    exact ⟨htok, hjob, hslip⟩
  · refine ⟨?_, endScope_jobValid sc.isLt ..⟩
    dsimp only [exec, execTokenCollect]
    simp [hv, hphase, hc4, hall]
  · obtain ⟨hended, r, hring, hcls, hblock, hcode, -⟩ := tokenFault_ends (d := s.dev) sc.isLt 0x08
      (lawDetail 4 (scopeTiles (scope s.dev sc.val).kind) ((scope s.dev sc.val).tokens.length + 1))
    refine ⟨{ s with
      dev := tokenFault s.dev sc.val 0x08 (lawDetail 4 (scopeTiles (scope s.dev sc.val).kind) ((scope s.dev sc.val).tokens.length + 1)) }, r, ?_, rfl, hended, hring, hcls, hblock, hcode⟩
    dsimp only [exec, execTokenCollect]
    simp [hv, hphase, hc4]
  · obtain ⟨hended, r, hring, hcls, hblock, hcode, hdetail⟩ := tokenFault_ends (d := s.dev) sc.isLt 0x17 (scope s.dev sc.val).tokens.length
    refine ⟨{ s with dev := tokenFault s.dev sc.val 0x17 (scope s.dev sc.val).tokens.length }, r, ?_, rfl, hended, hring, hcls, hblock,
      hcode, hdetail⟩
    dsimp only [exec, execTokenTimeout]
    simp [hv, hphase, hshort]
  · exact exec_completionRecord_written hdue hon hroom hdone (ht1.symm ▸ hreach) (putRecord_host _ ht1)
  · exact exec_completionRecord_written hdue hon hroom hdone (by rw [ht1]; rfl) (putRecord_object _ ht1 hobj hend hrd hfar hpeer hthere)
  · dsimp only [exec, execCompletionRecord]
    simp [hdue, hslot, hopen]

end Sys2Proof.Proofs
end

section
/-! Dispatch (R63, R254 to R256) and the pairing switch (R349). -/

namespace Sys2Proof.Machine

open Sys2Proof Sys2Proof.Safety

/-! ### The sequencer touches tiles and scopes alone -/

structure SeqOnly (d e : Dev) : Prop where
  rest : { e with tiles := d.tiles, sc0 := d.sc0, sc1 := d.sc1 } = d

namespace SeqOnly

theorem refl (d : Dev) : SeqOnly d d := ⟨rfl⟩

theorem trans {a b c : Dev} (h : SeqOnly a b) (k : SeqOnly b c) : SeqOnly a c := by
  have hb := h.rest
  rw [← k.rest] at hb
  exact ⟨hb⟩

theorem setScope (d : Dev) (i : Nat) (x : Scope) : SeqOnly d (setScope d i x) := by
  unfold Machine.setScope
  (repeat' split) <;> exact ⟨rfl⟩

theorem updScope (d : Dev) (i : Nat) (f : Scope → Scope) : SeqOnly d (updScope d i f) := setScope ..

theorem mapTiles (d : Dev) (k : ScopeKind) (f : Nat → Tile → Tile) : SeqOnly d (mapTiles d k f) := ⟨rfl⟩

theorem jumpOver (d : Dev) (si i : Nat) : SeqOnly d (jumpOver d si i) := by
  unfold Machine.jumpOver
  split
  · exact refl d
  · exact (mapTiles ..).trans (updScope ..)

theorem openSpec (d : Dev) (si : Nat) (tail : Bool) (region : Nat) (skip : Bool) (pred : Option Bool) (idle : Bool) :
    SeqOnly d (openSpec d si tail region skip pred idle) := by
  unfold Machine.openSpec
  exact (mapTiles ..).trans (updScope ..)

theorem beginRegion (d : Dev) (si i : Nat) (r : Region) : SeqOnly d (beginRegion d si i r) := by
  unfold Machine.beginRegion
  exact (mapTiles ..).trans (updScope ..)

/-- The position that the path has reached, whatever begins there. -/
theorem arrive (k : Nat) : ∀ (d : Dev) (si : Nat), SeqOnly d (arrive k d si) := by
  induction k with
  | zero => exact fun d _ => refl d
  | succ k ih =>
    intro d si
    rw [Machine.arrive]
    dsimp only
    split
    · split
      all_goals
        split
        · exact (openSpec ..).trans (updScope ..)
        split
        · exact setScope ..
        · exact refl d
    · split
      · exact setScope ..
      split
      · exact refl d
      split
      · exact (updScope ..).trans ((jumpOver ..).trans (ih ..))
      · split
        · exact (openSpec ..).trans ((jumpOver ..).trans (ih ..))
        split
        · exact (openSpec ..).trans (updScope ..)
        · exact openSpec ..
      · split
        · exact beginRegion ..
        · exact refl d
      · split
        · exact (updScope ..).trans (beginRegion ..)
        · exact updScope ..

theorem enter (d : Dev) (si : Nat) : SeqOnly d (enter d si) := by
  unfold Machine.enter
  split
  · exact refl d
  · exact (arrive ..).trans (updScope ..)

end SeqOnly

/-! ### A job starts (R63) -/

@[simp] theorem classCheck_sched (d : Dev) (n : Nat) : (classCheck d n).sched = d.sched := by
  unfold classCheck
  dsimp only
  split
  · rfl
  · split
    · exact record_sched ..
    · rfl

theorem startStacks_sched (mask : Nat) (l : List (Nat × Nat)) : ∀ d : Dev, (l.foldl (fun d p =>
    if (stack d p.1).present then classCheck (setStack d p.1 (startStack mask (stack d p.1) p.2)) p.1 else d) d).sched = d.sched := by
  induction l with
  | nil => exact fun _ => rfl
  | cons p l ih =>
    intro d
    refine (ih _).trans ?_
    dsimp only
    split
    · exact classCheck_sched ..
    · rfl

theorem startIn_sched (d : Dev) (si : Nat) (k : ScopeKind) (slot : Nat) (b : Desc) (img : List Byte) :
    (startIn d si k slot b img).sched = d.sched := by
  unfold startIn
  extract_lets d1 d2 m d3 hb d4
  have h4 := congrArg Dev.sched ((SeqOnly.updScope d4 si (fun x => decide256 x 255)).trans (.enter _ si)).rest
  dsimp only at h4
  rw [h4]
  have h3 : d3.sched = d2.sched := startStacks_sched m _ d2
  exact h3.trans (setScope_sched ..)

/-- The job that is dispatched, where a scope can run it, is the running one. -/
theorem dispatch_running {d : Dev} {k : Nat} {j : Job} (hslot : mget? d.sched.slots k = some j) (hscopes : scopesFor d j.half ≠ []) :
    (dispatch d k).sched.running = some k := by
  have hfold : ∀ (l : List (Nat × ScopeKind)) (b : Desc) (img : List Byte) (d : Dev),
      (l.foldl (fun d p => startIn d p.1 p.2 k b img) d).sched = d.sched := by
    intro l b img
    induction l with
    | nil => exact fun _ => rfl
    | cons p l ih => exact fun d => (ih _).trans (startIn_sched ..)
  have hne : (scopesFor d j.half).isEmpty = false := List.isEmpty_eq_false_iff.2 hscopes
  simp only [dispatch, hslot, hne, Bool.false_eq_true, if_false]
  rw [hfold]

/-! ### SCH_CTRL.PAIRED (R349) -/

/-- Bit 30 of a word put together as SCH_CTRL is. -/
theorem schCtrl_paired (a b : Nat) (p : Bool) : (put a 31 1 + put (flag p) 30 1 + put b 0 16).testBit 30 = p := by
  rw [Nat.testBit_eq_decide_div_mod_eq]
  simp only [put, Nat.shiftLeft_eq]
  have hb : b % 2 ^ 16 < 2 ^ 16 := Nat.mod_lt _ (by decide)
  cases p <;> simp only [flag] <;> simp <;> omega

theorem schCtrl_lt (a b : Nat) (p : Bool) : put a 31 1 + put (flag p) 30 1 + put b 0 16 < 2 ^ 32 := by
  simp only [put, Nat.shiftLeft_eq]
  cases p <;> simp only [flag] <;> omega

theorem paired_regPut (d : Dev) (a b : Nat) (p : Bool) : paired (regPut d 0x8000 (put a 31 1 + put (flag p) 30 1 + put b 0 16)) = p := by
  have hget : regGet (regPut d 0x8000 (put a 31 1 + put (flag p) 30 1 + put b 0 16)) 0x8000 = put a 31 1 + put (flag p) 30 1 + put b 0 16 := by
    simp only [regGet, regPut, mget_mset_same, BitVec.toNat_ofNat]
    exact Nat.mod_eq_of_lt (schCtrl_lt a b p)
  rw [paired, hget]
  exact schCtrl_paired a b p

/-- With no slot held the write changes PAIRED, and the token with it. -/
theorem schCtrlWrite_changes {d : Dev} {w : Nat} {v : Bool} (hslots : d.sched.slots = []) (hw : w.testBit 30 = v) (hv : v ≠ paired d) :
    schCtrlWrite d w = tokenChange (regPut d 0x8000 (put (fld w 31 1) 31 1 + put (flag v) 30 1 + put w 0 16)) (flag (v && d.flt.fencedW))
      (v && !d.flt.fencedW && !d.flt.fencedE) := by
  simp only [schCtrlWrite, hslots, List.isEmpty_nil, if_true, bit, hw, if_neg hv]
  rfl

theorem schCtrlWrite_stays {d : Dev} {w : Nat} (h : d.sched.slots ≠ [] ∨ w.testBit 30 = paired d) :
    schCtrlWrite d w = regPut d 0x8000 (put (fld w 31 1) 31 1 + put (flag (paired d)) 30 1 + put w 0 16) := by
  have hp : (if d.sched.slots.isEmpty = true then w.testBit 30 else paired d) = paired d := by
    rcases h with h | h
    · rw [if_neg (by simpa using h)]
    · rw [h, ite_self]
  simp only [schCtrlWrite, bit, hp, if_true]

/-- What the token's change leaves of it (R349). -/
theorem tokenChange_flt (d : Dev) (primary : Nat) (sec : Bool) : (tokenChange d primary sec).flt.epoch = d.flt.epoch + 1
    ∧ (tokenChange d primary sec).flt.primary = primary ∧ (tokenChange d primary sec).flt.secValid = sec := by
  have h := (record_only { d with flt := { d.flt with epoch := d.flt.epoch + 1, primary := primary, secValid := sec } }
    { fspec 0 0x0A 0x12 with detail := (d.flt.epoch + 1).toNat }).flt
  exact ⟨congrArg Flt.epoch h, congrArg Flt.primary h, congrArg Flt.secValid h⟩

@[simp] theorem tokenChange_paired (d : Dev) (primary : Nat) (sec : Bool) : paired (tokenChange d primary sec) = paired d := by
  simp [paired, regGet, tokenChange]

end Sys2Proof.Machine

namespace Sys2Proof.Proofs

open Sys2Proof Sys2Proof.Machine Sys2Proof.Safety

/-- Settles O19: by the choice of the scheduler, and by the token that a change of PAIRED makes. -/
theorem dispatchComplete : Obligations.DispatchComplete := by
  refine ⟨fun s hon => ⟨fun k d hidle hpick => ⟨?_, fun j => dispatch_running⟩, fun r k d hidle hnone hsoon hpick => ?_, fun hrun => ?_⟩,
    fun s src v hown => ?_⟩
  · dsimp only [exec, execDispatch]
    simp [hon, hidle, hpick]
  · cases hp : pick s.dev with
    | mk c d' =>
      rw [hp] at hnone
      dsimp only at hnone
      dsimp only [exec, execDispatch]
      simp [hon, hidle, hp, hnone, hsoon, hpick]
  · dsimp only [exec, execDispatch]
    simp [hrun]
  · have hexec : exec (.pairedSet src v) s = .next { s with dev := schCtrlWrite s.dev (put (fld (regGet s.dev 0x8000) 31 1) 31 1
        + put (flag v) 30 1 + put (regGet s.dev 0x8000) 0 16) } := by
      dsimp only [exec, execPairedSet]
      rw [lift_eq, ownerOnly, if_pos hown]
    have hnew := schCtrl_paired (fld (regGet s.dev 0x8000) 31 1) (regGet s.dev 0x8000) v
    rw [hexec]
    generalize put (fld (regGet s.dev 0x8000) 31 1) 31 1 + put (flag v) 30 1 + put (regGet s.dev 0x8000) 0 16 = w at hnew ⊢
    refine ⟨fun hslots hv => ?_, fun hkeep => ?_⟩
    · rw [schCtrlWrite_changes hslots hnew hv]
      obtain ⟨hepoch, hprimary, hsec⟩ := tokenChange_flt (regPut s.dev 0x8000 (put (fld w 31 1) 31 1 + put (flag v) 30 1 + put w 0 16))
        (flag (v && s.dev.flt.fencedW)) (v && !s.dev.flt.fencedW && !s.dev.flt.fencedE)
      refine ⟨_, rfl, rfl, ?_, hepoch, hprimary, hsec, ?_⟩
      · rw [tokenChange_paired, paired_regPut]
      · rw [tokenChange, record_sched]
        rfl
    · rw [schCtrlWrite_stays (hkeep.imp_right hnew.trans)]
      exact ⟨_, rfl, rfl, paired_regPut .., rfl, rfl⟩

end Sys2Proof.Proofs
end

section
/-! The pool of T1's pages, fills and write-backs, and the prefetch list (R202, R204, R209 to R216, C7). -/

namespace Sys2Proof.Machine

open Sys2Proof Sys2Proof.Safety

/-! ### Moves between the states of the pool -/

/-- The counts of the pool after a move. -/
def poolMoved (t : Tmg) (free mapped transit : Int) : Tmg :=
  { t with poolFree := (t.poolFree + free).toNat, poolMapped := (t.poolMapped + mapped).toNat, poolTransit := (t.poolTransit + transit).toNat }

theorem poolMove_balanced {d : Dev} {free mapped transit : Int}
    (h : (poolMoved d.tmg free mapped transit).poolFree + (poolMoved d.tmg free mapped transit).poolMapped
      + (poolMoved d.tmg free mapped transit).poolTransit = d.tmg.poolSize) :
    poolMove d free mapped transit = { d with tmg := poolMoved d.tmg free mapped transit } := by
  have hlaw : law7 { d with tmg := poolMoved d.tmg free mapped transit } = none := if_pos h
  have hmove : poolMove d free mapped transit = poolAudit { d with tmg := poolMoved d.tmg free mapped transit } := rfl
  rw [hmove, poolAudit, hlaw]
  rfl

theorem poolMove_broken {d : Dev} {free mapped transit : Int}
    (h : (poolMoved d.tmg free mapped transit).poolFree + (poolMoved d.tmg free mapped transit).poolMapped
      + (poolMoved d.tmg free mapped transit).poolTransit ≠ d.tmg.poolSize) :
    poolMove d free mapped transit = endFault (endFault (record { d with tmg := poolMoved d.tmg free mapped transit }
      { fspec 3 0x0B 0x08 with detail := lawDetail 7 d.tmg.poolSize ((poolMoved d.tmg free mapped transit).poolFree
        + (poolMoved d.tmg free mapped transit).poolMapped + (poolMoved d.tmg free mapped transit).poolTransit) })
      0 3 (faultCode 3 0x0B 0x08)) 1 3 (faultCode 3 0x0B 0x08) := by
  have hlaw : law7 { d with tmg := poolMoved d.tmg free mapped transit } = some _ := if_neg h
  have hmove : poolMove d free mapped transit = poolAudit { d with tmg := poolMoved d.tmg free mapped transit } := rfl
  rw [hmove, poolAudit, hlaw]
  rfl

/-! ### Fills and write-backs -/

section
variable {d : Dev} {h i : Nat} {o : Obj} (hobj : obj? d h = some o)
include hobj

theorem setPage_obj (p : Page) : setPage d h i p = setObj d h { o with pages := mset o.pages i p } := by simp only [setPage, hobj]

theorem fillDone_filling (data : List Byte) (hst : (pageOf o i).st = .filling) :
    fillDone d h i data =
      let d1 := setObj d h { o with pages := mset o.pages i { pageOf o i with st := .mapped, dirty := 0, last := d.tmg.clock + 1 } }
      pageReady (poolMove { d1 with tmg := { d1.tmg with
        clock := d.tmg.clock + 1
        mem := memWrite (memZero d.tmg.mem (t1Key h (i * pageSize)) pageSize) (t1Key h (i * pageSize)) (data.take pageSize) } } 0 1 (-1))
        (pageKey h i) := by
  simp only [fillDone, hobj, hst, bne_self_eq_false, Bool.false_eq_true, if_false]
  rfl

theorem fillDone_other (data : List Byte) (hst : (pageOf o i).st ≠ .filling) : fillDone d h i data = d := by
  simp [fillDone, hobj, hst]

theorem wbDone_goes (hst : (pageOf o i).st = .writeback) (hclean : (pageOf o i).dirty = 0) (hgoes : goesFree d o (pageOf o i) = true) :
    wbDone d h i = feedWanting (cmdPast (poolMove (dropPage d h i) 1 0 (-1)) (pageKey h i)) := by
  simp [wbDone, hobj, hst, hclean, hgoes]

theorem wbDone_stays (hst : (pageOf o i).st = .writeback) (hstays : (pageOf o i).dirty ≠ 0 ∨ goesFree d o (pageOf o i) = false) :
    wbDone d h i =
      let e := poolMove (setObj d h { o with pages := mset o.pages i { pageOf o i with st := .mapped, wbMask := 0 } }) 0 1 (-1)
      if (pageOf o i).dirty ≠ 0 ∧ ((pageOf o i).again = true ∨ onRetired e (pageOf o i) = true ∨ pageKey h i ∈ e.tmg.cmdPages) then
        startWb e h i (pageOf o i).evicting (pageOf o i).again
      else cmdPast e (pageKey h i) := by
  have hno : ¬ (decide ((pageOf o i).dirty = 0) && goesFree d o (pageOf o i)) = true := by
    rcases hstays with h | h <;> simp [h]
  simp only [wbDone, hobj, hst, bne_self_eq_false, Bool.false_eq_true, if_false, if_neg hno, setPage_obj hobj]
  simp [or_assoc]

theorem wbDone_other (hst : (pageOf o i).st ≠ .writeback) : wbDone d h i = d := by simp [wbDone, hobj, hst]

theorem wbFail_writeback (hst : (pageOf o i).st = .writeback) : wbFail d h i =
    let r := record d { fspec 2 0x0B 0x0F with unit := 0, detail := h + 2 * 2 ^ 16 }
    let e := { r with tmg := { r.tmg with cmdErr := d.tmg.cmdErr || d.tmg.cmdPages.contains (pageKey h i) } }
    cmdPast (if onRetired d (pageOf o i) = true then
        poolMove (setPage e h i { pageOf o i with
          st := .unmapped, poisoned := true, dirty := 0, wbMask := 0, evicting := false, again := false }) 1 0 (-1)
      else poolMove (setPage e h i { pageOf o i with
          st := .mapped, dirty := (pageOf o i).dirty ||| (pageOf o i).wbMask, wbMask := 0, pinned := true, evicting := false, again := false })
        0 1 (-1)) (pageKey h i) := by
  simp only [wbFail, hobj, hst, bne_self_eq_false, Bool.false_eq_true, if_false]

theorem wbFail_other (hst : (pageOf o i).st ≠ .writeback) : wbFail d h i = d := by simp [wbFail, hobj, hst]

end

/-! ### The prefetch list -/

section
variable {d : Dev} {sc : Fin 2} {i : Nat} {e : PfEntry} (he : (scope d sc.val).prefetch[i]? = some e)
include he

theorem prefetchIssue_notReady (h : pfReady d sc.val e = false) : prefetchIssue d sc.val i = d := by
  simp [prefetchIssue, he, h]

/-- What an entry that is issued does, once it is marked. -/
def prefetchActs (d : Dev) (si i : Nat) (e : PfEntry) : Dev :=
  let x := scope d si
  let hd := rebase d si e.handle
  let m := setScope d si (pfMark x i)
  match objOf d hd with
  | none => endTier m si 4 hd
  | some (h, o) =>
    let off := (hd - h) * 2 ^ 32 + e.off
    if e.kind = 0 then
      if o.cls != .backed then m
      else if o.npages * pageSize < off + e.len then endTier m si 4 hd
      else
        let ms := missing h o off e.len
        if ms.isEmpty then m
        else requestPages (setScope d si { pfMark x i with moves := x.moves ++ [⟨i, 1, ms, none, hd, some e.need, false⟩] }) ms
    else
      scopeRead (setScope d si { pfMark x i with moves := x.moves ++ [⟨i, pfClass h o off e, [], some x.nextXfer, hd, some e.need, false⟩] })
        si x.pos (tileGlobal x.kind e.tile) e.lb none hd e.off e.len none

theorem prefetchIssue_acts (hv : (scope d sc.val).jobValid = true) (hended : (scope d sc.val).jobEnded = false)
    (hready : pfReady d sc.val e = true) (hfirst : pfBehind d sc.val i e = false) :
    prefetchIssue d sc.val i = prefetchActs d sc.val i e := by
  have hmark : ∀ hd, objOf (updScope d sc.val (fun x => pfMark x i)) hd = objOf d hd := fun hd => by simp [objOf]
  simp only [prefetchIssue, he, hv, hended, hready, hfirst, Bool.not_true, Bool.or_self, Bool.false_eq_true, if_false, hmark, updScope_updScope,
    prefetchActs]
  rfl

end

theorem pfBehind_first {d : Dev} {si i : Nat} {e : PfEntry}
    (h : ∀ j f, (scope d si).prefetch[j]? = some f → pfReady d si f = true → e.need < f.need ∨ (e.need = f.need ∧ i ≤ j)) :
    pfBehind d si i e = false := by
  simp only [pfBehind, List.any_eq_false]
  intro j _
  split
  next f hf =>
    simp only [Bool.and_eq_true, Bool.or_eq_true, decide_eq_true_eq, beq_iff_eq, not_and]
    intro hready
    have := h j f hf hready
    omega
  next => exact Bool.false_ne_true

/-- Whether the stream has come to the issue position of an entry. -/
theorem pfPassed_obj {d : Dev} {si : Nat} {e : PfEntry} {h : Nat} {o : Obj} (hobj : objOf d (rebase d si e.handle) = some (h, o)) :
    pfPassed d si e = decide (e.need - 64 * leadOf d e (pfClass h o ((rebase d si e.handle - h) * 2 ^ 32 + e.off) e) ≤ (scope d si).pos) := by
  simp only [pfPassed, hobj]

theorem pfPassed_none {d : Dev} {si : Nat} {e : PfEntry} (hobj : objOf d (rebase d si e.handle) = none) :
    pfPassed d si e = decide (e.need - 64 * leadOf d e (if e.kind = 0 then 1 else 0) ≤ (scope d si).pos) := by
  simp only [pfPassed, hobj]

theorem pfReady_iff {d : Dev} {si : Nat} {e : PfEntry} (hissued : e.issued = false) (hmoves : (scope d si).moves.length < 1024) :
    pfReady d si e = true ↔ pfPassed d si e = true
      ∧ (e.kind = 0 ∨ (lbuf (tile d (tileGlobal (scope d si).kind e.tile)).core e.lb).st = .armed) := by
  simp [pfReady, hissued, hmoves]

/-! ### A prefetch move that is complete -/

/-- Whether the NEED of a move has passed. -/
def moveLate (x : Scope) (m : PfMove) : Bool :=
  m.late || (match m.need with
    | some need => decide (need < x.pos)
    | none => false)

theorem moveLate_iff {x : Scope} {m : PfMove} : moveLate x m = true ↔ m.late = true ∨ ∃ need, m.need = some need ∧ need < x.pos := by
  cases h : m.need <;> simp [moveLate, h]

theorem prefetchComplete_first {d : Dev} {si i n : Nat} {m : PfMove} {rest : List PfMove} (hmoves : (scope d si).moves = m :: rest)
    (hidx : m.idx = i) (hwait : m.wait = []) (hlanded : ∀ id, m.xfer = some id → ∀ t ∈ (scope d si).xfers, t.id ≠ id) :
    prefetchComplete d si i n =
      let d0 := setScope d si { scope d si with moves := rest }
      let d1 := if moveLate (scope d si) m then { d0 with tmg := { d0.tmg with late := satAdd 32 d.tmg.late 1 } } else d0
      if bit (leadCtrl d) 31 then d1 else setEst d1 m.cls (estNext (estOf d m.cls) n (fld (leadCtrl d) 26 2)) := by
  unfold prefetchComplete
  dsimp only
  generalize hfind : List.find? _ (scope d si).moves = found
  have hfound : found = some m := by
    rw [← hfind, hmoves]
    refine List.find?_cons_of_pos ?_
    cases hx : m.xfer with
    | none => simp [hidx, hwait]
    | some id => simpa [hidx, hwait] using hlanded id hx
  subst hfound
  simp only [hmoves, List.erase_cons_head]
  generalize hlate : (m.late || _) = late
  have hlate' : moveLate (scope d si) m = late := hlate
  rw [hlate']
  cases late <;> simp [leadCtrl, regGet, estOf]

end Sys2Proof.Machine

namespace Sys2Proof.Proofs

open Sys2Proof Sys2Proof.Machine Sys2Proof.Safety

/-- Settles O21: the three counts move by amounts that cancel, and the audit compares their sum. -/
theorem poolMovesAreAudited : Obligations.PoolMovesAreAudited := by
  intro d free mapped transit
  refine ⟨fun hsum hzero hfree hmapped htransit => poolMove_balanced ?_, poolMove_broken⟩
  simp only [poolMoved]
  omega

/-- Settles O20: fills and write-backs by the page that they end, prefetch entries by the cases of their kind. -/
theorem fillsAndPrefetchComplete : Obligations.FillsAndPrefetchComplete := by
  refine ⟨fun s h p o hobj => ?_, fun s sc i e => ?_⟩
  · dsimp only
    refine ⟨fun data hst => ?_, fun hst hclean hgoes => ?_, fun hst hstays => ?_, fun hst => ?_, fun hst data => ?_, fun hst => ⟨?_, ?_⟩⟩
    · dsimp only [exec, execPageFillDone]
      rw [lift_eq, fillDone_filling hobj data hst]
    · dsimp only [exec, execWritebackDone]
      rw [lift_eq, wbDone_goes hobj hst hclean hgoes]
    · dsimp only [exec, execWritebackDone]
      rw [lift_eq, wbDone_stays hobj hst hstays]
    · dsimp only [exec, execWritebackFail]
      rw [lift_eq, wbFail_writeback hobj hst]
    · dsimp only [exec, execPageFillDone]
      rw [lift_eq, fillDone_other hobj data hst]
    · dsimp only [exec, execWritebackDone]
      rw [lift_eq, wbDone_other hobj hst]
    · dsimp only [exec, execWritebackFail]
      rw [lift_eq, wbFail_other hobj hst]
  · dsimp only
    refine fun he => ⟨fun hv hended hissued hmoves hfirst => ?_, fun n m rest hmoves hidx hwait hlanded => ?_⟩
    · have hidle : pfReady s.dev sc.val e = false → exec (.prefetchIssue sc i) s = .next s := by
        intro h
        dsimp only [exec, execPrefetchIssue]
        rw [lift_eq, prefetchIssue_notReady he h]
      have hacts : pfPassed s.dev sc.val e = true →
          (e.kind = 0 ∨ (lbuf (tile s.dev (tileGlobal (scope s.dev sc.val).kind e.tile)).core e.lb).st = .armed) →
          exec (.prefetchIssue sc i) s = .next { s with dev := prefetchActs s.dev sc.val i e } := by
        intro hpassed harmed
        dsimp only [exec, execPrefetchIssue]
        rw [lift_eq, prefetchIssue_acts he hv hended ((pfReady_iff hissued hmoves).2 ⟨hpassed, harmed⟩) (pfBehind_first hfirst)]
      refine ⟨fun hobj hpassed harmed => ?_, fun h o hobj => ⟨fun hpassed => ?_, fun hpassed =>
        ⟨fun hkind hcls => ?_, fun hkind hcls hend => ?_, fun hkind hcls hend hms => ?_, fun hkind hcls hend hms => ?_,
          fun hkind harmed => ?_, fun hkind harmed => ?_⟩⟩⟩
      · rw [hacts (by rw [pfPassed_none hobj]; exact decide_eq_true hpassed) harmed]
        simp only [prefetchActs, hobj]
        rfl
      · refine hidle (Bool.eq_false_iff.2 fun h => ?_)
        have := ((pfReady_iff hissued hmoves).1 h).1
        rw [pfPassed_obj hobj, decide_eq_true_eq] at this
        exact Nat.not_lt.2 this hpassed
      · rw [hacts (by rw [pfPassed_obj hobj]; exact decide_eq_true hpassed) (.inl hkind)]
        simp only [prefetchActs, hobj, hkind, if_true, bne_iff_ne, ne_eq, hcls, not_false_eq_true]
        rfl
      · rw [hacts (by rw [pfPassed_obj hobj]; exact decide_eq_true hpassed) (.inl hkind)]
        simp only [prefetchActs, hobj, hkind, if_true, hcls, bne_self_eq_false, Bool.false_eq_true, if_false, hend]
        rfl
      · rw [hacts (by rw [pfPassed_obj hobj]; exact decide_eq_true hpassed) (.inl hkind)]
        simp only [prefetchActs, hobj, hkind, if_true, hcls, bne_self_eq_false, Bool.false_eq_true, if_false, if_neg (Nat.not_lt.2 hend), hms,
          List.isEmpty_nil]
        rfl
      · rw [hacts (by rw [pfPassed_obj hobj]; exact decide_eq_true hpassed) (.inl hkind)]
        simp only [prefetchActs, hobj, hkind, if_true, hcls, bne_self_eq_false, Bool.false_eq_true, if_false, if_neg (Nat.not_lt.2 hend),
          List.isEmpty_eq_false_iff.2 hms]
        rfl
      · rw [hacts (by rw [pfPassed_obj hobj]; exact decide_eq_true hpassed) (.inr harmed)]
        simp only [prefetchActs, hobj, if_neg hkind]
        rfl
      · exact hidle (Bool.eq_false_iff.2 fun h => ((pfReady_iff hissued hmoves).1 h).2.elim hkind harmed)
    · have hexec : exec (.prefetchComplete sc i n) s = .next { s with dev := prefetchComplete s.dev sc.val i n } := rfl
      rw [hexec, prefetchComplete_first hmoves hidx hwait hlanded, ← moveLate_iff]
      refine ⟨fun hfrozen => ⟨fun hlate => ?_, fun hlate => ?_⟩, fun hmoving => ⟨fun hlate => ?_, fun hlate => ?_⟩⟩
      · simp only [hfrozen, hlate, if_true]
      · simp only [hfrozen, if_neg hlate, if_true]
      · simp only [hmoving, hlate, if_true, Bool.false_eq_true, if_false]
        rfl
      · simp only [hmoving, if_neg hlate, Bool.false_eq_true, if_false]
        rfl

end Sys2Proof.Proofs
end

section
/-! Late and failed tiers (R217, R218). -/

namespace Sys2Proof.Machine

open Sys2Proof Sys2Proof.Safety

/-! ### Failing moves -/

theorem endTier_of_valid {d : Dev} {si : Nat} (hvalid : (scope d si).jobValid = true) (cause h : Nat) :
    endTier d si cause h =
      endScope (record { d with tmg := { d.tmg with failCause := cause, failScope := scopeCode (scope d si).kind, failHandle := h } }
          { cls := 2, block := 0x0B, code := 0x0F, unit := 0, scope := scopeCode (scope d si).kind, slot := (scope d si).slot
            detail := h % 2 ^ 16 + cause * 2 ^ 16 + scopeCode (scope d si).kind * 2 ^ 24 })
        si .failedTier cause (leBytes 4 (h % 2 ^ 16 + scopeCode (scope d si).kind * 2 ^ 16)) := by
  simp [endTier, hvalid]

theorem fillFails_other {d : Dev} {h p cause : Nat} {o : Obj} (ho : obj? d h = some o)
    (hfill : (pageOf o p).st ≠ .filling) (hwant : (pageOf o p).st ≠ .wanting) : fillFails d h p cause = d := by
  simp [fillFails, ho, hfill, hwant]

/-- Each scope that waits for the page ends (R217). -/
theorem fillFails_ends {d : Dev} {h p cause : Nat} {o : Obj} (ho : obj? d h = some o)
    (hst : (pageOf o p).st = .filling ∨ (pageOf o p).st = .wanting) :
    ∃ e, fillFails d h p cause = feedWanting ((waitersOf d (pageKey h p)).foldl (fun d r => endTier d r.1 cause r.2) e) := by
  have hon : ((pageOf o p).st != .filling && (pageOf o p).st != .wanting) = false := by
    rcases hst with hst | hst <;> rw [hst] <;> rfl
  simp only [fillFails, ho, hon, Bool.false_eq_true, if_false]
  exact ⟨_, rfl⟩

theorem tierFail_xfer {d : Dev} {sc : Fin 2} {t : Xfer} (poison : Bool) (honly : (scope d sc.val).xfers = [t]) :
    tierFail d (.xfer sc t.id) poison =
      if genLive (scope d sc.val) t.gen then
        endTier (if poison then readPoison (setScope d sc.val { scope d sc.val with xfers := [] }) t
          else setScope d sc.val { scope d sc.val with xfers := [] }) sc.val (if poison then 3 else 2) t.used
      else if poison then readPoison (setScope d sc.val { scope d sc.val with xfers := [] }) t
        else setScope d sc.val { scope d sc.val with xfers := [] } := by
  simp [tierFail, honly]

/-! ### Time-outs -/

theorem t2Timeout_xfer_wanting {d : Dev} {si : Nat} {q : Xfer} (honly : (scope d si).xfers = [q]) (howed : q.owed ≠ 0)
    (hlive : genLive (scope d si) q.gen = true) (hwants : q.wait.any (pageWants d) = true) :
    t2Timeout d si = endTier d si 7 q.used := by
  simp [t2Timeout, honly, howed, hlive, hwants]

/-- The scope slips on a landing buffer that it has not observed READY. -/
def SlipsOn (x : Scope) (g lb : Nat) : Prop := x.phase = .slip ∧ ∃ r ∈ x.reps, r.tile = g ∧ r.lb = lb ∧ r.seen = none

theorem slipsOn_any {x : Scope} {g lb : Nat} (h : SlipsOn x g lb) :
    (x.reps.any fun r => r.tile == g && r.lb == lb && r.seen.isNone) = true := by
  obtain ⟨-, r, hr, htile, hlb, hseen⟩ := h
  exact List.any_eq_true.2 ⟨r, hr, by simp [htile, hlb, hseen]⟩

theorem t2Timeout_xfer_slow {d : Dev} {si : Nat} {q : Xfer} (honly : (scope d si).xfers = [q]) (howed : q.owed ≠ 0)
    (hlive : genLive (scope d si) q.gen = true) (hwants : q.wait.any (pageWants d) = false) (hwaiters : d.tmg.waiters = [])
    (hengines : engineFills d si = []) (hslip : SlipsOn (scope d si) q.tile q.lb) :
    t2Timeout d si = endTier d si 1 q.used := by
  have hopen := slipsOn_any hslip
  have hphase := hslip.1
  simp [t2Timeout, honly, howed, hlive, hwants, hwaiters, hengines, hphase, hopen]

theorem t2Timeout_waiter {d : Dev} {si : Nat} {ks : List Nat} {w : Waiter} {i : Issuer} (hnone : (scope d si).xfers = [])
    (hwaiters : d.tmg.waiters = [(ks, w)]) (hby : waiterBy w = some i) (hscope : i.scope = si) (hlive : issuerLive d i = true)
    (hwants : ks.any (pageWants d) = true) : t2Timeout d si = endTier d si 7 i.used := by
  simp only [t2Timeout, hnone, List.find?_nil, hwaiters, List.findSome?_cons, hby, hwants, hscope, hlive, BEq.rfl, Bool.and_self, if_true]

theorem t2Timeout_engine_wanting {d : Dev} {si : Nat} {e : EngCmd × Nat} (hnone : (scope d si).xfers = [])
    (hwaiters : d.tmg.waiters = []) (hengines : engineFills d si = [e]) (hwants : pageWants d e.2 = true) :
    t2Timeout d si = endTier d si 7 (keyPage e.2).1 := by
  simp [t2Timeout, hnone, hwaiters, hengines, hwants]

theorem t2Timeout_engine_slow {d : Dev} {si : Nat} {e : EngCmd × Nat} (hnone : (scope d si).xfers = [])
    (hwaiters : d.tmg.waiters = []) (hengines : engineFills d si = [e]) (hwants : pageWants d e.2 = false)
    (hslip : SlipsOn (scope d si) e.1.tile e.1.lb) : t2Timeout d si = endTier d si 1 (keyPage e.2).1 := by
  have hopen := slipsOn_any hslip
  have hphase := hslip.1
  simp [t2Timeout, hnone, hwaiters, hengines, hwants, hphase, hopen]

theorem t2Timeout_nothing {d : Dev} {si : Nat} (hnone : (scope d si).xfers = []) (hwaiters : d.tmg.waiters = [])
    (hengines : engineFills d si = []) : t2Timeout d si = d := by
  simp [t2Timeout, hnone, hwaiters, hengines]

end Sys2Proof.Machine

namespace Sys2Proof.Proofs

open Sys2Proof Sys2Proof.Machine Sys2Proof.Safety

/-- Settles O22: the clauses are the branches of a failing move and of a time-out. -/
theorem tierFailuresComplete : Obligations.TierFailuresComplete := by
  unfold Obligations.TierFailuresComplete
  intro s sc
  dsimp only
  intro hvalid
  refine ⟨endTier_of_valid hvalid, fun h poison => rfl, ?_, ?_, ?_, ?_⟩
  · intro h p o poison ho
    refine ⟨fun hfill hwant => ?_, fun hst => ?_⟩
    · dsimp only [exec, execTierFail, tierFail]
      rw [lift_eq, fillFails_other ho hfill hwant]
    · obtain ⟨e, he⟩ := fillFails_ends (cause := if poison then 3 else 2) ho hst
      exact ⟨e, by dsimp only [exec, execTierFail, tierFail]; rw [lift_eq, he]⟩
  · intro t poison honly
    refine ⟨fun hlive => ?_, fun hdead => ?_⟩ <;> dsimp only [exec, execTierFail] <;> rw [lift_eq, tierFail_xfer poison honly]
    · simp only [hlive, if_true]
    · simp only [hdead, Bool.false_eq_true, if_false]
  · intro q honly howed hlive
    refine ⟨fun hwants => ?_, fun hwants hwaiters hengines hphase hopen => ?_⟩ <;> dsimp only [exec, execT2Timeout] <;> rw [lift_eq]
    · rw [t2Timeout_xfer_wanting honly howed hlive hwants]
    · rw [t2Timeout_xfer_slow honly howed hlive hwants hwaiters hengines ⟨hphase, hopen⟩]
  · intro hnone
    refine ⟨fun ks w i hwaiters hby hscope hlive hwants => ?_, fun hwaiters e hengines => ⟨fun hwants => ?_, fun hwants hphase hopen => ?_⟩,
      fun hwaiters hengines => ?_⟩ <;> dsimp only [exec, execT2Timeout] <;> rw [lift_eq]
    · rw [t2Timeout_waiter hnone hwaiters hby hscope hlive hwants]
    · rw [t2Timeout_engine_wanting hnone hwaiters hengines hwants]
    · rw [t2Timeout_engine_slow hnone hwaiters hengines hwants ⟨hphase, hopen⟩]
    · rw [t2Timeout_nothing hnone hwaiters hengines]

end Sys2Proof.Proofs
end

section
/-! The owner's commands to the tier manager (R221). -/

namespace Sys2Proof.Machine

open Sys2Proof Sys2Proof.Safety

/-- The block as TMG_CMD takes a command: the register holds it, and nothing is waited for yet. -/
def tmgTaken (d : Dev) (op h : Nat) : Dev :=
  regPut { d with tmg := { d.tmg with cmdPages := [], cmdErr := false } } 0x20000 (put op 28 4 + put h 0 16)

/-- The block with a command under way whose result is known. -/
def tmgBusy (d : Dev) (h res : Nat) : Dev := { d with tmg := { d.tmg with busy := true, cmdRes := res, statHandle := h } }

theorem tmgCommand_dropped {d : Dev} (op h : Nat) (hbusy : d.tmg.busy = true) :
    tmgCommand d op h = { d with tmg := { d.tmg with dropped := true } } := by
  simp [tmgCommand, hbusy]

theorem tmgCommand_taken {d : Dev} {op h : Nat} (hbusy : d.tmg.busy = false) (hop : op ≠ 0) :
    tmgCommand d op h = tmgBusy (tmgRun (tmgTaken d op h) op h).2 h (tmgRun (tmgTaken d op h) op h).1 := by
  simp [tmgCommand, hbusy, hop, tmgBusy, tmgTaken]

/-- A command that is accepted leaves what its operation answers (R221). -/
theorem tmgCommand_answers {d : Dev} {op h res : Nat} {e : Dev} (hbusy : d.tmg.busy = false) (hop : op ≠ 0)
    (hrun : tmgRun (tmgTaken d op h) op h = (res, e)) : tmgCommand d op h = tmgBusy e h res := by
  rw [tmgCommand_taken hbusy hop, hrun]

/-! ### What a command reads of the block it is taken into -/

@[simp] theorem obj?_tmgTaken (d : Dev) (op h n : Nat) : obj? (tmgTaken d op h) n = obj? d n := rfl

@[simp] theorem namedByJob_tmgTaken (d : Dev) (op h n : Nat) (o : Obj) : namedByJob (tmgTaken d op h) n o = namedByJob d n o := rfl

@[simp] theorem runTaken_tmgTaken (d : Dev) (op h n np : Nat) : runTaken (tmgTaken d op h) n np = runTaken d n np := rfl

@[simp] theorem poolFree_tmgTaken (d : Dev) (op h : Nat) : (tmgTaken d op h).tmg.poolFree = d.tmg.poolFree := rfl

@[simp] theorem chansOf_tmgTaken (d : Dev) (op h stk : Nat) : chansOf (tmgTaken d op h) stk = chansOf d stk := rfl

/-- The argument registers are others than TMG_CMD. -/
theorem regGet_tmgTaken (d : Dev) (op h : Nat) {off : Nat} (hoff : off ≠ 0x20000) :
    regGet (tmgTaken d op h) off = regGet d off := by
  simp only [tmgTaken, regGet, regPut]
  rw [mget_mset_other _ _ _ _ _ hoff]

/-! ### CREATE -/

/-- The object's base breaks the rule of its class. -/
def baseRefused (cls : ObjClass) (lo hi : Nat) : Prop :=
  (cls = .peer ∧ (fld lo 18 14 ≠ 0 ∨ fld hi 16 16 ≠ 0)) ∨ ((cls = .backed ∨ cls = .far) ∧ fld lo 0 16 ≠ 0)

/-- CREATE's argument registers are refused (R221). -/
def createRefused (d : Dev) (h : Nat) : Prop :=
  h = 0 ∨ fld (regGet d 0x20004) 0 25 = 0 ∨ 16777216 < fld (regGet d 0x20004) 0 25
    ∨ baseRefused (argClass (regGet d 0x20008)) (regGet d 0x2000C) (regGet d 0x20010)

/-- The object that the argument registers describe. -/
def createdObj (d : Dev) : Obj :=
  { npages := fld (regGet d 0x20004) 0 25, cls := argClass (regGet d 0x20008), rdonly := bit (regGet d 0x20008) 29
    pin := bit (regGet d 0x20008) 28, stk := fld (regGet d 0x20008) 0 12
    base := regGet d 0x2000C + regGet d 0x20010 * 2 ^ 32, devid := fld (regGet d 0x2000C) 0 18
    rhandle := fld (regGet d 0x20010) 0 16, chans := chansOf d (fld (regGet d 0x20008) 0 12), lastCh := none, pages := [] }

/-- The channel of an object's last page. -/
def lastChan (o : Obj) : Option Nat := if o.chans = [] then none else some (o.chans.getD ((o.npages - 1) % o.chans.length) 0)

/-- CREATE by its refusals, in the order in which they are looked for (R221). -/
theorem tmgCreate_eq (d : Dev) (h : Nat) [Decidable (createRefused d h)] :
    tmgCreate d h =
      if createRefused d h then (1, d)
      else if runTaken d h (createdObj d).npages then (2, d)
      else if (createdObj d).cls = .resident ∧ d.tmg.poolFree < (createdObj d).npages then (4, d)
      else if (createdObj d).cls = .resident then
        (0, reclaimAll (poolMove (setObj d h { createdObj d with lastCh := lastChan (createdObj d) }) (-((createdObj d).npages : Int))
          (createdObj d).npages 0))
      else (0, setObj d h (createdObj d)) := by
  cases hcls : argClass (regGet d 0x20008) <;>
    simp [tmgCreate, createRefused, baseRefused, createdObj, lastChan, hcls, or_assoc]

theorem createRefused_tmgTaken (d : Dev) (op n h : Nat) : createRefused (tmgTaken d op n) h ↔ createRefused d h := by
  simp [createRefused, regGet_tmgTaken]

theorem createdObj_tmgTaken (d : Dev) (op n : Nat) : createdObj (tmgTaken d op n) = createdObj d := by
  simp [createdObj, regGet_tmgTaken]

section create
variable {d : Dev} {n : Nat}

theorem tmgRun_create (d : Dev) (n : Nat) : tmgRun d 1 n = tmgCreate d n := rfl

open Classical in
theorem tmgCreate_refused (h : createRefused d n) : tmgCreate d n = (1, d) := by simp [tmgCreate_eq, h]

open Classical in
theorem tmgCreate_taken (h : ¬ createRefused d n) (hrun : runTaken d n (createdObj d).npages = true) : tmgCreate d n = (2, d) := by
  simp [tmgCreate_eq, h, hrun]

open Classical in
theorem tmgCreate_noRoom (h : ¬ createRefused d n) (hrun : runTaken d n (createdObj d).npages = false)
    (hcls : (createdObj d).cls = .resident) (hfree : d.tmg.poolFree < (createdObj d).npages) : tmgCreate d n = (4, d) := by
  simp [tmgCreate_eq, h, hrun, hcls, hfree]

open Classical in
theorem tmgCreate_resident (h : ¬ createRefused d n) (hrun : runTaken d n (createdObj d).npages = false)
    (hcls : (createdObj d).cls = .resident) (hfree : (createdObj d).npages ≤ d.tmg.poolFree) :
    tmgCreate d n = (0, reclaimAll (poolMove (setObj d n { createdObj d with lastCh := lastChan (createdObj d) })
      (-((createdObj d).npages : Int)) (createdObj d).npages 0)) := by
  simp [tmgCreate_eq, h, hrun, hcls, hfree]

open Classical in
theorem tmgCreate_other (h : ¬ createRefused d n) (hrun : runTaken d n (createdObj d).npages = false)
    (hcls : (createdObj d).cls ≠ .resident) : tmgCreate d n = (0, setObj d n (createdObj d)) := by
  simp [tmgCreate_eq, h, hrun, hcls]

end create

/-! ### The other operations -/

theorem tmgRun_reserved (d : Dev) (h : Nat) {op : Nat} (hop : 7 ≤ op) : tmgRun d op h = (1, d) := by
  simp [tmgRun, hop, show op ≠ 1 by omega]

theorem tmgRun_noObject {d : Dev} {op h : Nat} (hlow : 2 ≤ op) (hhigh : op ≤ 6) (ho : obj? d h = none) : tmgRun d op h = (3, d) := by
  simp [tmgRun, ho, show op ≠ 1 by omega, show ¬ 7 ≤ op by omega]

section object
variable {d : Dev} {h : Nat} {o : Obj} (ho : obj? d h = some o)
include ho

theorem tmgRun_destroy :
    tmgRun d 2 h = if namedByJob d h o = true then (5, d) else (0, tmgDestroy d h o) := by
  simp [tmgRun, ho]

theorem tmgRun_notBacked {op : Nat} (hlow : 3 ≤ op) (hhigh : op ≤ 6) (hcls : o.cls ≠ .backed) : tmgRun d op h = (1, d) := by
  simp [tmgRun, ho, hcls, show op ≠ 1 by omega, show op ≠ 2 by omega, show ¬ 7 ≤ op by omega]

variable (hcls : o.cls = .backed)
include hcls

theorem tmgRun_flush : tmgRun d 3 h = (0, tmgFlush d h o false) := by simp [tmgRun, ho, hcls]

theorem tmgRun_evict :
    tmgRun d 4 h = if namedByJob d h o = true then (5, d)
      else (0, feedWanting (tmgFlush (freePages (dropImages d h o) h o (fun p => p.dirty == 0 && !p.pinned && !o.pin)) h o true)) := by
  simp [tmgRun, ho, hcls]

theorem tmgRun_discard :
    tmgRun d 5 h = if namedByJob d h o = true then (5, d)
      else (0, feedWanting (o.pages.foldl (fun d p => if p.2.st = .writeback then
          setPage d h p.1 { p.2 with dirty := 0, evicting := true, again := false, pinned := false } else d)
        (freePages (dropImages d h o) h o (fun _ => true)))) := by
  simp [tmgRun, ho, hcls]

theorem tmgRun_fetch :
    tmgRun d 6 h =
      if d.tmg.poolFree < ((List.range o.npages).filter (fun i => (pageOf o i).st == .unmapped)).length then (4, d)
      else (0, requestPages { d with tmg := { d.tmg with cmdPages := missing h o 0 (o.npages * pageSize) } }
        (((List.range o.npages).filter (fun i => (pageOf o i).st == .unmapped)).map (pageKey h))) := by
  simp [tmgRun, ho, hcls]

end object

theorem tmgDone_ends {d : Dev} (hbusy : d.tmg.busy = true) (hpages : d.tmg.cmdPages = []) :
    tmgDone d = { d with tmg := { d.tmg with
      busy := false
      result := if d.tmg.cmdRes = 0 ∧ d.tmg.cmdErr = true then 6 else d.tmg.cmdRes } } := by
  simp [tmgDone, hbusy, hpages]

end Sys2Proof.Machine

namespace Sys2Proof.Proofs

open Sys2Proof Sys2Proof.Machine Sys2Proof.Safety

section commands
variable {s : State} {src : Iface} {h : BitVec 16} (howner : isOwner s.dev src = true)
include howner

/-- The commands that name an object, with their operations. -/
def objectCommands (src : Iface) (h : BitVec 16) : List (Instr × Nat) :=
  [(.destroy src h, 2), (.flush src h, 3), (.evict src h, 4), (.discard src h, 5), (.fetch src h, 6)]

theorem exec_create_owner : exec (.create src h) s = .next { s with dev := tmgCommand s.dev 1 h.toNat } := by
  dsimp only [exec, execCreate]
  rw [lift_eq, ownerOnly, if_pos howner]

theorem exec_tmgCmdReserved_owner (k : Fin 9) :
    exec (.tmgCmdReserved src k h) s = .next { s with dev := tmgCommand s.dev (7 + k.val) h.toNat } := by
  dsimp only [exec, execTmgCmdReserved]
  rw [lift_eq, ownerOnly, if_pos howner]

theorem exec_objectCommand_owner {c : Instr × Nat} (hc : c ∈ objectCommands src h) :
    exec c.1 s = .next { s with dev := tmgCommand s.dev c.2 h.toNat } := by
  simp only [objectCommands, List.mem_cons, List.not_mem_nil, or_false] at hc
  rcases hc with rfl | rfl | rfl | rfl | rfl <;>
    dsimp only [exec, execDestroy, execFlush, execEvict, execDiscard, execFetch] <;>
    rw [lift_eq, ownerOnly, if_pos howner]

omit howner in
theorem objectCommands_op {c : Instr × Nat} (hc : c ∈ objectCommands src h) : 2 ≤ c.2 ∧ c.2 ≤ 6 := by
  simp only [objectCommands, List.mem_cons, List.not_mem_nil, or_false] at hc
  rcases hc with rfl | rfl | rfl | rfl | rfl <;> simp

variable (hbusy : s.dev.tmg.busy = false)
include hbusy

theorem exec_create_answers {res : Nat} {e : Dev} (hrun : tmgCreate (tmgTaken s.dev 1 h.toNat) h.toNat = (res, e)) :
    exec (.create src h) s = .next { s with dev := tmgBusy e h.toNat res } := by
  rw [exec_create_owner howner, tmgCommand_answers hbusy Nat.one_ne_zero ((tmgRun_create ..).trans hrun)]

theorem exec_objectCommand_answers {c : Instr × Nat} {res : Nat} {e : Dev} (hc : c ∈ objectCommands src h)
    (hrun : tmgRun (tmgTaken s.dev c.2 h.toNat) c.2 h.toNat = (res, e)) :
    exec c.1 s = .next { s with dev := tmgBusy e h.toNat res } := by
  have hop := (objectCommands_op hc).1
  rw [exec_objectCommand_owner howner hc, tmgCommand_answers hbusy (by omega) hrun]

end commands

/-- Settles O23: each command is taken as its operation answers on the block that TMG_CMD leaves. -/
theorem tierCommandsComplete : Obligations.TierCommandsComplete := by
  unfold Obligations.TierCommandsComplete
  refine ⟨?_, fun s hbusy hpages => ?_⟩
  · intro s src h howner
    dsimp only
    have hobj {c : Instr × Nat} (hc : c ∈ objectCommands src h) := exec_objectCommand_owner (s := s) howner hc
    refine ⟨fun hbusy => ⟨?_, fun k => ?_, fun c hc => ?_⟩, fun hbusy => ?_⟩
    · rw [exec_create_owner howner, tmgCommand_dropped _ _ hbusy]
    · rw [exec_tmgCmdReserved_owner howner, tmgCommand_dropped _ _ hbusy]
    · rw [hobj hc, tmgCommand_dropped _ _ hbusy]
    have hcreate {res e} := exec_create_answers (src := src) (h := h) howner hbusy (res := res) (e := e)
    have hop {c : Instr × Nat} (hc : c ∈ objectCommands src h) {res e} :=
      exec_objectCommand_answers howner hbusy hc (res := res) (e := e)
    have hbad : createRefused (tmgTaken s.dev 1 h.toNat) h.toNat ↔ createRefused s.dev h.toNat := createRefused_tmgTaken ..
    have hmade : createdObj (tmgTaken s.dev 1 h.toNat) = createdObj s.dev := createdObj_tmgTaken ..
    refine ⟨fun hrefused => hcreate (tmgCreate_refused (hbad.2 hrefused)), fun hgood => ?_, fun k => ?_, fun ho c hc => ?_,
      fun o ho => ?_⟩
    · replace hgood : ¬ createRefused (tmgTaken s.dev 1 h.toNat) h.toNat := fun hrefused => hgood (hbad.1 hrefused)
      refine ⟨fun hrun => hcreate (tmgCreate_taken hgood ?_), fun hrun => ⟨fun hcls hfree => hcreate (tmgCreate_noRoom hgood ?_ ?_ ?_),
        fun hcls hfree => ?_, fun hcls => ?_⟩⟩ <;> try (rw [hmade]; assumption)
      · rw [hcreate (tmgCreate_resident hgood (by rwa [hmade]) (by rwa [hmade]) (by rwa [hmade])), hmade]
        rfl
      · rw [hcreate (tmgCreate_other hgood (by rwa [hmade]) (by rwa [hmade])), hmade]
        rfl
    · rw [exec_tmgCmdReserved_owner howner, tmgCommand_answers hbusy (by omega) (tmgRun_reserved _ _ (by omega))]
      rfl
    · obtain ⟨hlow, hhigh⟩ := objectCommands_op hc
      exact hop hc (tmgRun_noObject hlow hhigh ho)
    · replace ho (op : Nat) : obj? (tmgTaken s.dev op h.toNat) h.toNat = some o := ho
      refine ⟨fun hnamed => hop (c := (.destroy src h, 2)) (by simp [objectCommands]) ((tmgRun_destroy (ho 2)).trans (if_pos hnamed)),
        fun hnamed => hop (c := (.destroy src h, 2)) (by simp [objectCommands])
          ((tmgRun_destroy (ho 2)).trans (if_neg (Bool.eq_false_iff.1 hnamed))),
        fun hcls c hc hne => ?_, fun hcls => ⟨hop (c := (.flush src h, 3)) (by simp [objectCommands]) (tmgRun_flush (ho 3) hcls),
          fun hnamed => ⟨?_, ?_⟩, fun hnamed => ⟨?_, ?_⟩, fun hroom => ?_, fun hroom => ?_⟩⟩
      · obtain ⟨hlow, hhigh⟩ := objectCommands_op hc
        exact hop hc (tmgRun_notBacked (ho _) (by omega) hhigh hcls)
      · exact hop (c := (.evict src h, 4)) (by simp [objectCommands]) ((tmgRun_evict (ho 4) hcls).trans (if_pos hnamed))
      · exact hop (c := (.discard src h, 5)) (by simp [objectCommands]) ((tmgRun_discard (ho 5) hcls).trans (if_pos hnamed))
      · exact hop (c := (.evict src h, 4)) (by simp [objectCommands])
          ((tmgRun_evict (ho 4) hcls).trans (if_neg (Bool.eq_false_iff.1 hnamed)))
      · exact hop (c := (.discard src h, 5)) (by simp [objectCommands])
          ((tmgRun_discard (ho 5) hcls).trans (if_neg (Bool.eq_false_iff.1 hnamed)))
      · exact hop (c := (.fetch src h, 6)) (by simp [objectCommands]) ((tmgRun_fetch (ho 6) hcls).trans (if_pos hroom))
      · exact hop (c := (.fetch src h, 6)) (by simp [objectCommands]) ((tmgRun_fetch (ho 6) hcls).trans (if_neg (Nat.not_lt.2 hroom)))
  · dsimp only [exec, execTmgCmdDone]
    rw [lift_eq, tmgDone_ends hbusy hpages]

end Sys2Proof.Proofs
end

section
/-! The stacks: temperature bands, refresh, scrub, error counts and retirement (R224 to R234). -/

namespace Sys2Proof.Machine

open Sys2Proof Sys2Proof.Safety

@[simp] theorem stack_setStack_same (d : Dev) (n : Nat) (st : Stack) : stack (setStack d n st) n = st := mget_mset_same ..

@[simp] theorem setStack_setStack (d : Dev) (n : Nat) (st st' : Stack) : setStack (setStack d n st) n st' = setStack d n st' := by
  simp [setStack]

@[simp] theorem govScope_setStack (d : Dev) (n m : Nat) (st : Stack) : govScope (setStack d n st) m = govScope d m := rfl

@[simp] theorem scope_setStack (d : Dev) (n si : Nat) (st : Stack) : scope (setStack d n st) si = scope d si := rfl

@[simp] theorem setStack_tmg (d : Dev) (n : Nat) (st : Stack) : (setStack d n st).tmg = d.tmg := rfl

@[simp] theorem setStack_flt (d : Dev) (n : Nat) (st : Stack) : (setStack d n st).flt = d.flt := rfl

@[simp] theorem setStack_clk (d : Dev) (n : Nat) (st : Stack) : (setStack d n st).clk = d.clk := rfl

theorem stack_record (d : Dev) (f : FSpec) (n : Nat) : stack (record d f) n = stack d n := by simp [stack]

/-! ### Bands (R228, R233) -/

theorem bandNext_eq (b t h : Nat) :
    bandNext b t h = (if b < bandOf t then bandOf t
      else if b = 2 ∧ t + h ≤ 95 then (if t + h ≤ 85 then 0 else 1) else if b = 1 ∧ t + h ≤ 85 then 0 else b) := by
  simp only [bandNext]
  by_cases htwo : b = 2
  · subst htwo
    simp
  by_cases hone : b = 1
  · subst hone
    simp
  · simp [htwo, hone]

/-- What classCheck leaves of a stack and of the block. -/
theorem classCheck_spec (d : Dev) (n : Nat) :
    ∃ exceeds seen, stack (classCheck d n) n = { stack d n with overClass := exceeds, overSeen := seen } ∧ (classCheck d n).tmg = d.tmg
      ∧ exceeds = ((govScope d n).map fun si => decide ((scope d si).startBand < (stack d n).band)).getD false := by
  cases hgov : govScope d n with
  | none =>
    refine ⟨false, (stack d n).overSeen, ?_, ?_, rfl⟩ <;> simp [classCheck, hgov]
  | some si =>
    refine ⟨decide ((scope d si).startBand < (stack d n).band),
      (stack d n).overSeen || decide ((scope d si).startBand < (stack d n).band), ?_, ?_, rfl⟩
    · simp only [classCheck, hgov]
      split
      · rw [stack_record, stack_setStack_same]
      · rw [stack_setStack_same]
    · simp only [classCheck, hgov]
      split <;> simp

/-! ### Rounds (R229, R230) -/

section refresh
variable {d : Dev} {n : Nat} {st : Stack}

theorem refSync_idle (now : Nat) (h : st.runLeft = 0) : refSync now st = st := if_pos h

theorem refSync_running (now : Nat) (h : st.runLeft ≠ 0) :
    refSync now st = { st with debt := debtAt now st, runDone := roundsBegun now st } := if_neg h

/-- The stack with one round more owed, at most 8. -/
def owing (st : Stack) : Stack := { st with debt := min 8 (st.debt + 1) }

theorem refStart_running (h : st.runLeft ≠ 0) : refStart (setStack d n st) n = setStack d n st := by
  simp [refStart, h]

/-- A stack that no window serves starts a round at once (R230). -/
theorem refStart_free (hpresent : st.present = true) (hidle : st.runLeft = 0) (hdebt : st.debt ≠ 0)
    (hfree : freeRefresh (setStack d n st) n = true) :
    refStart (setStack d n st) n = setStack d n { st with runLeft := 1, runAt := d.clk.localNs, runDone := 0 } := by
  simp [refStart, hpresent, hidle, hdebt, hfree, refRun]

/-- At a debt of 8 with no window open a stack is forced to 4 rounds (R230). -/
theorem refStart_forced (hpresent : st.present = true) (hidle : st.runLeft = 0) (hdebt : st.debt = 8)
    (hfree : freeRefresh (setStack d n st) n = false) (hopen : winIsOpen (setStack d n st) n = false) :
    refStart (setStack d n st) n =
      setStack d n { st with forced := satAdd 16 st.forced 4, runLeft := 4, runAt := d.clk.localNs, runDone := 0 } := by
  simp [refStart, hpresent, hidle, hdebt, hfree, hopen, refRun]

theorem refStart_waits (hidle : st.runLeft = 0) (hfree : freeRefresh (setStack d n st) n = false)
    (hwait : st.debt ≠ 8 ∨ winIsOpen (setStack d n st) n = true) : refStart (setStack d n st) n = setStack d n st := by
  have hno : (decide (st.debt = 8) && !winIsOpen (setStack d n st) n) = false := by
    rcases hwait with h | h <;> simp [h]
  simp [refStart, hidle, hfree, hno]

theorem freeRefresh_setStack (h : st.windowed = (stack d n).windowed) : freeRefresh (setStack d n st) n = freeRefresh d n := by
  simp [freeRefresh, h]

theorem winIsOpen_setStack (h : st.winOpen = (stack d n).winOpen) : winIsOpen (setStack d n st) n = winIsOpen d n := by
  simp only [winIsOpen, govScope_setStack, stack_setStack_same, h, scope_setStack]

theorem freeRefresh_owing (d : Dev) (n : Nat) : freeRefresh (setStack d n (owing (stack d n))) n = freeRefresh d n :=
  freeRefresh_setStack rfl

theorem winIsOpen_owing (d : Dev) (n : Nat) : winIsOpen (setStack d n (owing (stack d n))) n = winIsOpen d n :=
  winIsOpen_setStack rfl

/-- All rounds of a run have begun at its end. -/
theorem refSync_ended (now : Nat) (h : st.runLeft ≠ 0) (hnow : st.runAt + 40 + 410 * st.runLeft ≤ now) :
    refSync now st = { st with debt := st.debt - (st.runLeft - st.runDone), runDone := st.runLeft } := by
  have hbegun : roundsBegun now st = st.runLeft := by
    rw [roundsBegun, if_neg (by omega)]
    exact Nat.min_eq_left (by omega)
  rw [refSync_running now h, debtAt, hbegun]

end refresh

/-- The stack after its run. -/
def runDone (st : Stack) : Stack := { st with debt := st.debt - (st.runLeft - st.runDone), runLeft := 0, runDone := 0 }

/-- The block at the local time at which a stack's run ends. -/
def runEndTime (d : Dev) (n : Nat) : Dev := untilLocal d (runEnd (stack d n))

/-- The beat of the scope that governs a stack; 0 between jobs. -/
def govBeat (d : Dev) (n : Nat) : Nat :=
  match govScope d n with
  | some si => (scope d si).beat
  | none => 0

/-! ### Error counts (R224, R226) -/

/-- A channel that was not retired stands in the queue of those to retire, or is the one being retired. -/
theorem wantRetire_asked {d : Dev} {ch : Nat} (hnot : ch % 16 ∉ (stack d (ch / 16)).retired) :
    ch ∈ (wantRetire d ch).hbm.retireQ ∨ d.hbm.retiring = some ch := by
  simp only [wantRetire]
  split
  · next h =>
    simp only [Bool.or_eq_true, List.contains_iff_mem, beq_iff_eq] at h
    rcases h with (h | h) | h
    · exact absurd h hnot
    · exact .inl h
    · exact .inr h
  · simp

theorem wantRetire_frame (d : Dev) (ch : Nat) : ∃ q, wantRetire d ch = { d with hbm := { d.hbm with retireQ := q } } := by
  simp only [wantRetire]
  split
  · exact ⟨d.hbm.retireQ, rfl⟩
  · exact ⟨_, rfl⟩

@[simp] theorem stack_wantRetire (d : Dev) (ch n : Nat) : stack (wantRetire d ch) n = stack d n := by
  obtain ⟨q, hq⟩ := wantRetire_frame d ch
  rw [hq]
  rfl

theorem wantRetire_flt (d : Dev) (ch : Nat) : (wantRetire d ch).flt = d.flt := by
  obtain ⟨q, hq⟩ := wantRetire_frame d ch
  rw [hq]

section counts
variable {d : Dev} {n c : Nat} (hc : c < 16)
include hc

theorem channel_div : (n * 16 + c) / 16 = n := by omega

theorem channel_mod : (n * 16 + c) % 16 = c := by omega

/-- An uncorrectable read counts, and asks for the channel's retirement (R226). -/
theorem uncorrected_spec (hnot : c ∉ (stack d n).retired) :
    stack (uncorrected d n c) n = { stack d n with ueCount := satAdd 16 (stack d n).ueCount 1, ueLastCh := c }
      ∧ (n * 16 + c ∈ (uncorrected d n c).hbm.retireQ ∨ d.hbm.retiring = some (n * 16 + c)) := by
  refine ⟨by simp [uncorrected], wantRetire_asked ?_⟩
  rw [channel_div hc, channel_mod hc, stack_setStack_same]
  exact hnot

/-- A corrected burst counts, and above the threshold asks for the channel's retirement (R226). -/
theorem countCe_spec (hnot : c ∉ (stack d n).retired) :
    stack (countCe d n c) n = { stack d n with ce := mset (stack d n).ce c (satAdd 16 (mget (stack d n).ce c 0) 1) }
      ∧ (countCe d n c).flt = d.flt
      ∧ (fld (regGet d (hbBase n + 0x10)) 0 16 < satAdd 16 (mget (stack d n).ce c 0) 1 →
          n * 16 + c ∈ (countCe d n c).hbm.retireQ ∨ d.hbm.retiring = some (n * 16 + c)) := by
  simp only [countCe]
  split
  · refine ⟨by simp, by rw [wantRetire_flt, setStack_flt], fun _ => wantRetire_asked ?_⟩
    rw [channel_div hc, channel_mod hc, stack_setStack_same]
    exact hnot
  · next hlow => exact ⟨by simp, rfl, fun h => absurd h hlow⟩

end counts

end Sys2Proof.Machine

namespace Sys2Proof.Proofs

open Sys2Proof Sys2Proof.Machine Sys2Proof.Safety

section accrual
variable (s : State) (n : Fin 12)

theorem exec_hbmTempRead_spec (temp : Byte) :
    ∃ t, exec (.hbmTempRead n temp) s = .next t ∧ t.pending = s.pending
      ∧ (stack t.dev n.val).temp = temp.toNat ∧ (stack t.dev n.val).peak = max (stack s.dev n.val).peak temp.toNat
      ∧ (stack t.dev n.val).band = bandNext (stack s.dev n.val).band temp.toNat (hystOf s.dev n.val)
      ∧ (stack t.dev n.val).overClass = ((govScope s.dev n.val).map fun si =>
          decide ((scope s.dev si).startBand < (stack t.dev n.val).band)).getD false
      ∧ (stack t.dev n.val).debt = (stack s.dev n.val).debt ∧ t.dev.tmg = s.dev.tmg := by
  dsimp only [exec, execHbmTempRead]
  refine exists_lift rfl ?_
  obtain ⟨exceeds, seen, hstack, htmg, hexceeds⟩ := classCheck_spec (setStack s.dev n.val { stack s.dev n.val with
    temp := temp.toNat, peak := Nat.max (stack s.dev n.val).peak temp.toNat
    band := bandNext (stack s.dev n.val).band temp.toNat (hystOf s.dev n.val) }) n.val
  rw [stack_setStack_same] at hstack hexceeds
  dsimp only
  rw [hstack]
  exact ⟨rfl, rfl, rfl, hexceeds, rfl, htmg⟩

variable {s n}

theorem exec_refreshAccrual_idle (hpresent : (stack s.dev n.val).present = true) (hidle : (stack s.dev n.val).runLeft = 0) :
    exec (.refreshAccrual n) s = .next { s with dev := refStart (setStack s.dev n.val (owing (stack s.dev n.val))) n.val } := by
  dsimp only [exec, execRefreshAccrual]
  rw [lift_eq, hpresent, refSync_idle _ hidle]
  rfl

theorem exec_refreshAccrual_running (hpresent : (stack s.dev n.val).present = true) (hrun : (stack s.dev n.val).runLeft ≠ 0) :
    exec (.refreshAccrual n) s = .next { s with
      dev := setStack s.dev n.val (owing (refSync s.dev.clk.localNs (stack s.dev n.val))) } := by
  have hleft : (owing (refSync s.dev.clk.localNs (stack s.dev n.val))).runLeft ≠ 0 := by
    rw [refSync_running _ hrun]
    exact hrun
  dsimp only [exec, execRefreshAccrual]
  rw [lift_eq, hpresent, ← refStart_running hleft]
  rfl

/-- The end of a run, with the stack brought to its last round (R229, R230). -/
theorem exec_refreshRunEnd_spec (hrun : (stack s.dev n.val).runLeft ≠ 0) :
    exec (.refreshRunEnd n) s = .next { s with
      dev := settleT1 (refStart (setStack (runEndTime s.dev n.val) n.val
        (if govBeat (runEndTime s.dev n.val) n.val < (stack s.dev n.val).winPend then
          refOpen (runEndTime s.dev n.val) (runDone (stack s.dev n.val))
            ((stack s.dev n.val).winPend - govBeat (runEndTime s.dev n.val) n.val) (stack s.dev n.val).winPend
        else { runDone (stack s.dev n.val) with winPend := 0 })) n.val) } := by
  have hend := refSync_ended _ hrun (untilLocal_reaches s.dev (runEnd (stack s.dev n.val))).1
  dsimp only [exec, execRefreshRunEnd]
  rw [lift_eq, if_neg hrun, hend]
  rfl

end accrual

section scrub
variable {s : State} {n : Fin 12} {c : Fin 16}

/-- The stack whose scrub has read a channel's next line. -/
def scrubbed (st : Stack) (c : Nat) : Stack := { st with scrub := mset st.scrub c ((mget st.scrub c 0 + 1) % (36864 * 1024)) }

theorem exec_scrubRead_off (hoff : (stack s.dev n.val).present = false ∨ (stack s.dev n.val).runLeft ≠ 0
    ∨ c.val ∈ (stack s.dev n.val).retired) (r : Fin 4) : exec (.scrubRead n c r) s = .next s := by
  have hskip : (!(stack s.dev n.val).present || (stack s.dev n.val).runLeft != 0
      || (stack s.dev n.val).retired.contains c.val) = true := by
    rcases hoff with h | h | h <;> simp [h]
  dsimp only [exec, execScrubRead]
  rw [lift_eq, if_pos hskip]

/-- What the read leaves after the line has been counted (R224, R225). -/
theorem exec_scrubRead_on (hpresent : (stack s.dev n.val).present = true) (hidle : (stack s.dev n.val).runLeft = 0)
    (hin : c.val ∉ (stack s.dev n.val).retired) {d : Dev} (hd : d = setStack s.dev n.val (scrubbed (stack s.dev n.val) c.val)) :
    exec (.scrubRead n c 0) s = .next { s with dev := d }
      ∧ exec (.scrubRead n c 1) s = .next { s with dev := corrected d n.val c.val (mget (stack s.dev n.val).scrub c.val 0) }
      ∧ exec (.scrubRead n c 2) s = .next { s with dev := uncorrected d n.val c.val }
      ∧ exec (.scrubRead n c 3) s = .next { s with dev := setStack d n.val { stack d n.val with
          odecc := mset (stack d n.val).odecc c.val (satAdd 16 (mget (stack d n.val).odecc c.val 0) 1) } } := by
  have hgo : ¬ (!(stack s.dev n.val).present || (stack s.dev n.val).runLeft != 0
      || (stack s.dev n.val).retired.contains c.val) = true := by
    simp [hpresent, hidle, hin]
  subst hd
  refine ⟨?_, ?_, ?_, ?_⟩ <;> dsimp only [exec, execScrubRead] <;> rw [lift_eq, if_neg hgo] <;> rfl

end scrub

section retire
variable {d : Dev} {n c : Nat}

/-- A channel that is known to be retired, or asked for. -/
def RetireKnown (d : Dev) (n c : Nat) : Prop :=
  c ∈ (stack d n).retired ∨ n * 16 + c ∈ d.hbm.retireQ ∨ d.hbm.retiring = some (n * 16 + c)

theorem wantRetire_known (hc : c < 16) (h : RetireKnown d n c) : wantRetire d (n * 16 + c) = d := by
  have hknown : ((stack d n).retired.contains c || d.hbm.retireQ.contains (n * 16 + c)
      || d.hbm.retiring == some (n * 16 + c)) = true := by
    rcases h with h | h | h <;> simp [h]
  simp only [wantRetire, channel_div hc, channel_mod hc]
  rw [if_pos hknown]

theorem wantRetire_new (hc : c < 16) (h : ¬ RetireKnown d n c) :
    wantRetire d (n * 16 + c) = { d with hbm := { d.hbm with retireQ := d.hbm.retireQ ++ [n * 16 + c] } } := by
  have hnew : ¬ ((stack d n).retired.contains c || d.hbm.retireQ.contains (n * 16 + c)
      || d.hbm.retiring == some (n * 16 + c)) = true := by
    simpa [RetireKnown, or_assoc] using h
  simp only [wantRetire, channel_div hc, channel_mod hc]
  rw [if_neg hnew]

/-- An add stands on a page of the channel. -/
def AddOn (d : Dev) (ch : Nat) (a : Machine.Add) : Prop :=
  match obj? d a.handle with
  | some o => (pageOf o (a.off / pageSize)).ch = ch
  | none => False

theorem addOn_iff (d : Dev) (ch : Nat) (a : Machine.Add) :
    AddOn d ch a ↔ ∃ o, obj? d a.handle = some o ∧ (pageOf o (a.off / pageSize)).ch = ch := by
  unfold AddOn
  cases obj? d a.handle <;> simp

variable {rest : List Nat} (hc : c < 16) (hretiring : d.hbm.retiring = none) (hqueue : d.hbm.retireQ = (n * 16 + c) :: rest)
include hc hretiring hqueue

theorem channelRetire_waits (bad : List (Nat × Nat)) (h : ∃ a ∈ (stack d n).adds, AddOn d (n * 16 + c) a) : channelRetire d bad = d := by
  obtain ⟨a, ha, hon⟩ := h
  obtain ⟨o, ho, hch⟩ := (addOn_iff ..).1 hon
  have hany : ((stack d n).adds.any fun a => match obj? d a.handle with
      | some o => (pageOf o (a.off / pageSize)).ch == n * 16 + c
      | none => false) = true := List.any_eq_true.2 ⟨a, ha, by simp [ho, hch]⟩
  simp only [channelRetire, hretiring, hqueue, channel_div hc]
  exact if_pos hany

/-- A channel on whose pages no add stands is retired (R220, R226). -/
theorem channelRetire_goes (bad : List (Nat × Nat)) (h : ∀ a ∈ (stack d n).adds, ¬ AddOn d (n * 16 + c) a) {e : Dev}
    (he : e = { setStack d n { stack d n with retired := (stack d n).retired ++ [c] } with
      hbm := { (setStack d n { stack d n with retired := (stack d n).retired ++ [c] }).hbm with
        retireQ := rest, retiring := some (n * 16 + c) } }) {f : Dev}
    (hf : f = jWrite (record e { fspec 3 0x0C 0x10 with unit := n * 16 + c, detail := n * 16 + c }) (.retire 0 (n * 16 + c))) :
    channelRetire d bad = retireStep (makeRoom (evictable f).length f (n * 16 + c)) bad := by
  subst he hf
  have hany : ¬ ((stack d n).adds.any fun a => match obj? d a.handle with
      | some o => (pageOf o (a.off / pageSize)).ch == n * 16 + c
      | none => false) = true := by
    intro hany
    obtain ⟨a, ha, hon⟩ := List.any_eq_true.1 hany
    refine h a ha ((addOn_iff ..).2 ?_)
    cases ho : obj? d a.handle with
    | none => simp [ho] at hon
    | some o => exact ⟨o, rfl, by simpa [ho] using hon⟩
  simp only [channelRetire, hretiring, hqueue, channel_div hc, channel_mod hc]
  exact if_neg hany

end retire

theorem channelRetire_goesOn {d : Dev} {ch : Nat} (hretiring : d.hbm.retiring = some ch) (bad : List (Nat × Nat)) :
    channelRetire d bad = retireStep d bad := by
  simp [channelRetire, hretiring]

/-- A channel that holds no page any more leaves the pool (R202, R226). -/
theorem retireStep_empty {d : Dev} {ch : Nat} (hretiring : d.hbm.retiring = some ch) (hempty : pagesOn d ch = []) (bad : List (Nat × Nat)) :
    retireStep d bad = reclaimAll (poolAudit { d with
      tmg := { d.tmg with poolSize := d.tmg.poolSize - 36864, poolFree := d.tmg.poolFree - 36864 }
      hbm := { d.hbm with retiring := none } }) := by
  simp [retireStep, hretiring, hempty]

/-- Settles O24: each event of a stack by its own equation, the retirement by the queue of channels. -/
theorem stacksComplete : Obligations.StacksComplete := by
  unfold Obligations.StacksComplete
  refine ⟨fun s n => ?_, fun s n c => ?_⟩
  · dsimp only
    refine ⟨fun temp => ?_, fun habsent => ?_, fun hpresent => ⟨fun hidle hfree => ?_, fun hidle hfree howed hopen => ?_,
      fun hidle hfree hwait => ?_, fun hrun => ?_⟩, fun hidle => ?_, fun hrun => ⟨fun hbeat => ?_, fun hbeat => ?_⟩⟩
    · obtain ⟨t, ht, hpending, htemp, hpeak, hband, hover, hdebt, htmg⟩ := exec_hbmTempRead_spec s n temp
      refine ⟨t, ht, hpending, htemp, hpeak, hband.trans (bandNext_eq ..), fun si hgov => ?_, fun hgov => ?_, hdebt, htmg⟩
      · rw [hover, hgov]
        rfl
      · rw [hover, hgov]
        rfl
    · dsimp only [exec, execRefreshAccrual]
      simp [habsent]
    · rw [exec_refreshAccrual_idle hpresent hidle, refStart_free (st := owing _) hpresent hidle
        (Nat.ne_of_gt (Nat.lt_min.2 ⟨by decide, Nat.succ_pos _⟩)) ((freeRefresh_owing ..).trans hfree)]
      rfl
    · rw [exec_refreshAccrual_idle hpresent hidle, refStart_forced (st := owing _) hpresent hidle howed
        ((freeRefresh_owing ..).trans hfree) ((winIsOpen_owing ..).trans hopen), ← howed]
      rfl
    · rw [exec_refreshAccrual_idle hpresent hidle, refStart_waits (st := owing _) hidle ((freeRefresh_owing ..).trans hfree)
        (hwait.imp Nat.ne_of_lt (winIsOpen_owing ..).trans)]
      rfl
    · rw [exec_refreshAccrual_running hpresent hrun, refSync_running _ hrun]
      rfl
    · dsimp only [exec, execRefreshRunEnd]
      simp [hidle]
    · have hopen : ¬ govBeat (runEndTime s.dev n.val) n.val < (stack s.dev n.val).winPend := Nat.not_lt.2 hbeat
      rw [exec_refreshRunEnd_spec hrun, if_neg hopen]
      rfl
    · have hopen : govBeat (runEndTime s.dev n.val) n.val < (stack s.dev n.val).winPend := hbeat
      rw [exec_refreshRunEnd_spec hrun, if_pos hopen]
      rfl
  · dsimp only
    have hn : n.val < 12 := n.isLt
    have hc : c.val < 16 := c.isLt
    refine ⟨fun hoff r => ?_, fun hpresent hidle hin => ⟨?_, ?_, ?_, ?_⟩, ?_, fun src howner => ⟨fun hknown => ?_, fun hknown => ?_, ?_⟩,
      fun bad rest hretiring hqueue => ⟨fun hthere => ?_, fun hthere => ?_⟩, fun bad hretiring hqueue => ?_,
      fun bad hretiring => ⟨?_, fun hempty => ?_⟩⟩
    · exact exec_scrubRead_off hoff r
    · exact (exec_scrubRead_on hpresent hidle hin rfl).1
    · obtain ⟨-, -, -, hread⟩ := exec_scrubRead_on hpresent hidle hin rfl
      rw [hread, stack_setStack_same, setStack_setStack]
      rfl
    · obtain ⟨-, -, hread, -⟩ := exec_scrubRead_on hpresent hidle hin rfl
      obtain ⟨hstack, hasked⟩ := uncorrected_spec (d := setStack s.dev n.val (scrubbed (stack s.dev n.val) c.val)) (n := n.val) hc
        (by rw [stack_setStack_same]; exact hin)
      rw [stack_setStack_same] at hstack
      refine ⟨_, hread, rfl, ?_⟩
      dsimp only
      rw [hstack]
      exact ⟨rfl, rfl, rfl, hasked⟩
    · obtain ⟨-, hread, -, -⟩ := exec_scrubRead_on hpresent hidle hin rfl
      obtain ⟨r, hr, hcls, hblock, hcode, -, -, hdetail, -⟩ := record_newest
        (setStack s.dev n.val (scrubbed (stack s.dev n.val) c.val))
        { fspec 1 0x0C 0x03 with unit := n.val * 16 + c.val, detail := mget (stack s.dev n.val).scrub c.val 0 }
      obtain ⟨hstack, hflt, hasked⟩ := countCe_spec (d := record (setStack s.dev n.val (scrubbed (stack s.dev n.val) c.val))
        { fspec 1 0x0C 0x03 with unit := n.val * 16 + c.val, detail := mget (stack s.dev n.val).scrub c.val 0 }) (n := n.val) hc
        (by rw [stack_record, stack_setStack_same]; exact hin)
      rw [stack_record, stack_setStack_same] at hstack hasked
      refine ⟨_, r, hread, rfl, ?_⟩
      dsimp only [corrected]
      rw [hstack, hflt]
      refine ⟨mget_mset_same .., rfl, hr, hcls, hblock, hcode, hdetail, fun hover => ?_⟩
      rw [record_hbm] at hasked
      exact hasked (by simpa [regGet, setStack, scrubbed] using hover)
    · rfl
    · dsimp only [exec, execHbRetire]
      rw [lift_eq, ownerOnly, if_pos howner]
      exact congrArg (fun e => Host.Outcome.next { s with dev := e })
        (wantRetire_known (d := regPut s.dev (hbBase n.val + 0x14) (put 1 30 2 + put c.val 0 4)) hc hknown)
    · dsimp only [exec, execHbRetire]
      rw [lift_eq, ownerOnly, if_pos howner]
      exact congrArg (fun e => Host.Outcome.next { s with dev := e })
        (wantRetire_new (d := regPut s.dev (hbBase n.val + 0x14) (put 1 30 2 + put c.val 0 4)) hc hknown)
    · dsimp only [exec, execHbRestore]
      rw [lift_eq, ownerOnly, if_pos howner]
      rfl
    · obtain ⟨a, ha, hon⟩ := hthere
      dsimp only [exec, execChannelRetire]
      rw [lift_eq, channelRetire_waits hc hretiring hqueue bad ⟨a, ha, hon⟩]
    · dsimp only [exec, execChannelRetire]
      rw [lift_eq, channelRetire_goes hc hretiring hqueue bad hthere rfl rfl]
    · dsimp only [exec, execChannelRetire]
      rw [lift_eq, channelRetire, hretiring, hqueue]
    · dsimp only [exec, execChannelRetire]
      rw [lift_eq, channelRetire_goesOn hretiring]
    · exact retireStep_empty hretiring hempty bad

end Sys2Proof.Proofs
end

section
/-! Memory-side adds, watermarks and their audit (R235 to R238). -/

namespace Sys2Proof.Machine

open Sys2Proof Sys2Proof.Safety

section adds
variable {d : Dev} {n k : Nat} {a : Machine.Add}

/-- An integer add is ready once no earlier one meets its bytes (R237). -/
theorem addReady_int {adds : List Machine.Add} (hint : a.afmt = 2 ∨ a.afmt = 3)
    (hfirst : ∀ b ∈ adds.take k, addInt b.afmt = true → addsMeet a b = false) : addReady d adds k a = true := by
  have hadd : addInt a.afmt = true := by rcases hint with h | h <;> rw [h] <;> rfl
  have hnone : ((adds.take k).any fun b => addInt b.afmt && addsMeet a b) = false := by
    refine List.any_eq_false.2 fun b hb hmeet => ?_
    obtain ⟨hint, hmeet⟩ := (Bool.and_eq_true ..).mp hmeet
    exact Bool.noConfusion ((hfirst b hb hint).symm.trans hmeet)
  rw [addReady, if_pos hadd, hnone]
  rfl

theorem atmApply_waits {bad : Bool} (ha : (stack d n).adds[k]? = some a)
    (hwait : (stack d n).runLeft ≠ 0 ∨ addReady d (stack d n).adds k a = false) : atmApply d n k bad = d := by
  have hskip : ((stack d n).runLeft != 0 || !addReady d (stack d n).adds k a) = true := by
    rcases hwait with h | h <;> simp [h]
  simp only [atmApply, ha]
  exact if_pos hskip

/-- The block after an add has left its stack's list, and is counted (C6). -/
def addTaken (d : Dev) (n k : Nat) : Dev :=
  setStack d n { stack d n with adds := (stack d n).adds.eraseIdx k, applied := ((stack d n).applied + 1) % 2 ^ 64 }

theorem atmApply_ready {bad : Bool} (ha : (stack d n).adds[k]? = some a) (hidle : (stack d n).runLeft = 0)
    (hready : addReady d (stack d n).adds k a = true) :
    (obj? d a.handle = none → atmApply d n k bad = settleT1 (addTaken d n k))
      ∧ ∀ o, obj? d a.handle = some o → atmApply d n k bad =
          if spanBad o a.off (atmBytes a.afmt) then settleT1 (addBad (addTaken d n k) a)
          else if bad then settleT1 (addBad (uncorrected (addTaken d n k) n ((pageOf o (a.off / pageSize)).ch % 16)) a)
          else settleT1 (t1Put (addTaken d n k) a.handle a.off
            (addSum a.afmt (t1Read d a.handle a.off (atmBytes a.afmt)) a.val)) := by
  have hgo : ((stack d n).runLeft != 0 || !addReady d (stack d n).adds k a) = false := by simp [hidle, hready]
  have hobj : obj? (addTaken d n k) a.handle = obj? d a.handle := rfl
  have hrun : atmApply d n k bad = match obj? (addTaken d n k) a.handle with
      | none => settleT1 (addTaken d n k)
      | some o =>
        if spanBad o a.off (atmBytes a.afmt) then settleT1 (addBad (addTaken d n k) a)
        else if bad then settleT1 (addBad (uncorrected (addTaken d n k) n ((pageOf o (a.off / pageSize)).ch % 16)) a)
        else settleT1 (t1Put (addTaken d n k) a.handle a.off
          (addSum a.afmt (t1Read (addTaken d n k) a.handle a.off (atmBytes a.afmt)) a.val)) := by
    simp only [atmApply, ha]
    exact if_neg (Bool.eq_false_iff.1 hgo)
  rw [hrun, hobj]
  exact ⟨fun ho => by rw [ho], fun o ho => by rw [ho]; rfl⟩

/-- An uncorrectable read changes the error counts and the retirements of its stack alone. -/
theorem uncorrected_frame (d : Dev) (n c : Nat) : ∃ m, uncorrected d n c = { d with hbm := m } := by
  obtain ⟨q, hq⟩ := wantRetire_frame (setStack d n { stack d n with
    ueCount := satAdd 16 (stack d n).ueCount 1, ueLastCh := c }) (n * 16 + c)
  exact ⟨_, hq⟩

theorem obj?_uncorrected (d : Dev) (n c h : Nat) : obj? (uncorrected d n c) h = obj? d h := by
  obtain ⟨m, hm⟩ := uncorrected_frame d n c
  rw [hm]
  rfl

theorem issuerLive_uncorrected (d : Dev) (n c : Nat) (i : Issuer) : issuerLive (uncorrected d n c) i = issuerLive d i := by
  obtain ⟨m, hm⟩ := uncorrected_frame d n c
  rw [hm]
  rfl

theorem addBad_eq {e : Dev} {o : Obj} (ho : obj? e a.handle = some o) :
    addBad e a = if issuerLive e a.by_ = true then
        endTier (setPage e a.handle (a.off / pageSize) { pageOf o (a.off / pageSize) with poisoned := true }) a.by_.scope 3 a.by_.used
      else setPage e a.handle (a.off / pageSize) { pageOf o (a.off / pageSize) with poisoned := true } := by
  have hlive (p : Page) : issuerLive (setPage e a.handle (a.off / pageSize) p) a.by_ = issuerLive e a.by_ := by
    simp only [setPage, ho]
    rfl
  simp only [addBad, ho, hlive]

end adds

/-- The record of a violation of C6 (R238). -/
def addFault (n : Nat) (st : Stack) : FSpec :=
  { fspec 3 0x0C 0x08 with unit := n * 16, detail := lawDetail 6 st.accepted (st.applied + st.adds.length) }

theorem law6_kept {d : Dev} {n : Nat} (h : (stack d n).accepted = ((stack d n).applied + (stack d n).adds.length) % 2 ^ 64) :
    law6 d n = none := if_pos h

theorem law6_broken {d : Dev} {n : Nat} (h : (stack d n).accepted ≠ ((stack d n).applied + (stack d n).adds.length) % 2 ^ 64) :
    law6 d n = some (addFault n (stack d n)) := if_neg h

end Sys2Proof.Machine

namespace Sys2Proof.Proofs

open Sys2Proof Sys2Proof.Machine Sys2Proof.Safety

/-- Settles O25: by the head of the list of adds and what the line allows. -/
theorem memoryAddsComplete : Obligations.MemoryAddsComplete := by
  unfold Obligations.MemoryAddsComplete
  intro s n
  dsimp only
  refine ⟨fun k a bad ha hwait => ?_, fun k a ha hidle horder => ?_, fun g => rfl, fun hbal => ?_, fun hbal => ?_⟩
  · dsimp only [exec, execAtmApply]
    rw [lift_eq, atmApply_waits ha hwait]
  · have hready : addReady s.dev (stack s.dev n.val).adds k a = true := by
      rcases horder with ⟨hint, hfirst⟩ | hready
      · exact addReady_int hint hfirst
      · exact hready
    refine ⟨fun ho bad => ?_, fun o ho => ⟨fun hgood => ?_, fun bad hbad => ?_⟩⟩ <;> dsimp only [exec, execAtmApply] <;> rw [lift_eq]
    · rw [(atmApply_ready ha hidle hready).1 ho]
      rfl
    · rw [(atmApply_ready ha hidle hready).2 o ho, hgood]
      rfl
    · rw [(atmApply_ready ha hidle hready).2 o ho]
      by_cases hspan : spanBad o a.off (atmBytes a.afmt) = true
      · rw [if_pos hspan, if_pos hspan, addBad_eq (e := addTaken s.dev n.val k) ho]
        rfl
      · rw [if_neg hspan, if_pos (hbad.resolve_left hspan), if_neg hspan, addBad_eq (e := uncorrected (addTaken s.dev n.val k) _ _)
          ((obj?_uncorrected ..).trans ho),
          issuerLive_uncorrected]
        rfl
  · dsimp only [exec, execAtmAudit]
    rw [lift_eq, law6_kept hbal]
    rfl
  · dsimp only [exec, execAtmAudit]
    rw [lift_eq, law6_broken hbal]
    rfl

end Sys2Proof.Proofs
end

section
/-! Doorbells, queue control and acceptance of a descriptor (R242 to R244, R251). -/

namespace Sys2Proof.Machine

open Sys2Proof Sys2Proof.Safety

/-! ### Doorbells (R243) -/

/-- A wake event leaves the registers and the scheduler as they are. -/
theorem doorbellWake_frame (d : Dev) : (doorbellWake d).regs = d.regs ∧ (doorbellWake d).sched = d.sched := by
  unfold doorbellWake wakeEvent
  (repeat' split) <;> exact ⟨rfl, rfl⟩

theorem sqSize_doorbellWake (d : Dev) (q : Nat) : sqSize (doorbellWake d) q = sqSize d q := by
  rw [sqSize, regGet, (doorbellWake_frame d).1]
  rfl

theorem cqSize_doorbellWake (d : Dev) (q : Nat) : cqSize (doorbellWake d) q = cqSize d q := by
  rw [cqSize, regGet, (doorbellWake_frame d).1]
  rfl

theorem queue_doorbellWake (d : Dev) (q : Nat) : queue (doorbellWake d) q = queue d q := by
  rw [queue, (doorbellWake_frame d).2]
  rfl

theorem sqDoorbell_inside {d : Dev} {q i : Nat} (h : i < sqSize d q) :
    sqDoorbell d q i = setQueue (doorbellWake d) q { queue d q with sqTail := i } := by
  dsimp only [sqDoorbell]
  rw [sqSize_doorbellWake, if_neg (Nat.not_le.2 h), queue_doorbellWake]

theorem cqDoorbell_inside {d : Dev} {q i : Nat} (h : i < cqSize d q) :
    cqDoorbell d q i = setQueue (doorbellWake d) q { queue d q with cqHead := i } := by
  dsimp only [cqDoorbell]
  rw [cqSize_doorbellWake, if_neg (Nat.not_le.2 h), queue_doorbellWake]

theorem sqDoorbell_past {d : Dev} {q i : Nat} (h : sqSize d q ≤ i) :
    sqDoorbell d q i = discarded (doorbellWake d) 0x08 (0x9000 + 8 * q) := by
  dsimp only [sqDoorbell]
  rw [sqSize_doorbellWake, if_pos h]

theorem cqDoorbell_past {d : Dev} {q i : Nat} (h : cqSize d q ≤ i) :
    cqDoorbell d q i = discarded (doorbellWake d) 0x08 (0x9004 + 8 * q) := by
  dsimp only [cqDoorbell]
  rw [cqSize_doorbellWake, if_pos h]

/-! ### Queue control (R242) -/

/-- What Qq_CTRL holds after a write while EN is 1: the ring places and the CQ as they were. -/
def ctrlKept (old w : Nat) : Nat :=
  put (fld w 31 1) 31 1 + put (fld old 29 2) 29 2 + put (fld w 28 1) 28 1 + put (fld old 22 6) 22 6 + put (fld w 10 12) 10 12

section fields
variable {a b c e f : Nat} (ha : a < 2) (hb : b < 4) (hc : c < 2) (he : e < 64) (hf : f < 4096)

/-- The word that holds five fields of Qq_CTRL. -/
def ctrlWord (a b c e f : Nat) : Nat := a * 2 ^ 31 + b * 2 ^ 29 + c * 2 ^ 28 + e * 2 ^ 22 + f * 2 ^ 10

include hb hc he hf

theorem ctrlWord_en : ctrlWord a b c e f / 2 ^ 31 = a := by
  rw [ctrlWord]
  omega

omit hb hc in
theorem ctrlWord_cq : ctrlWord a b c e f / 2 ^ 22 % 64 = e := by
  rw [ctrlWord]
  omega

theorem ctrlWord_places : ctrlWord a b c e f / 2 ^ 29 % 4 = b := by
  rw [ctrlWord]
  omega

include ha in
theorem ctrlWord_lt : ctrlWord a b c e f < 2 ^ 32 := by
  rw [ctrlWord]
  omega

end fields

section ctrl
variable (old w : Nat)

theorem ctrlKept_eq :
    ctrlKept old w = ctrlWord (w / 2 ^ 31 % 2) (old / 2 ^ 29 % 4) (w / 2 ^ 28 % 2) (old / 2 ^ 22 % 64) (w / 2 ^ 10 % 4096) := by
  simp only [ctrlKept, ctrlWord, put, fld_eq, Nat.shiftLeft_eq, Nat.reducePow, Nat.mod_mod]

theorem ctrlKept_lt : ctrlKept old w < 2 ^ 32 := by
  rw [ctrlKept_eq]
  exact ctrlWord_lt (Nat.mod_lt _ (by decide)) (Nat.mod_lt _ (by decide)) (Nat.mod_lt _ (by decide)) (Nat.mod_lt _ (by decide))
    (Nat.mod_lt _ (by decide))

theorem ctrlKept_en : bit (ctrlKept old w) 31 = bit w 31 := by
  have h : ctrlKept old w / 2 ^ 31 = w / 2 ^ 31 % 2 := by
    rw [ctrlKept_eq]
    exact ctrlWord_en (Nat.mod_lt _ (by decide)) (Nat.mod_lt _ (by decide)) (Nat.mod_lt _ (by decide)) (Nat.mod_lt _ (by decide))
  rw [bit, bit, Nat.testBit_eq_decide_div_mod_eq, Nat.testBit_eq_decide_div_mod_eq, h, Nat.mod_mod]

/-- The bits that say where the rings lie are those of the old word. -/
theorem ctrlKept_places : ctrlKept old w / 2 ^ 29 % 4 = old / 2 ^ 29 % 4 := by
  rw [ctrlKept_eq]
  exact ctrlWord_places (Nat.mod_lt _ (by decide)) (Nat.mod_lt _ (by decide)) (Nat.mod_lt _ (by decide)) (Nat.mod_lt _ (by decide))

theorem ctrlKept_sqT1 : bit (ctrlKept old w) 30 = bit old 30 := by
  have h := ctrlKept_places old w
  rw [bit, bit, Nat.testBit_eq_decide_div_mod_eq, Nat.testBit_eq_decide_div_mod_eq, decide_eq_decide]
  generalize ctrlKept old w = v at h ⊢
  omega

theorem ctrlKept_cqT1 : bit (ctrlKept old w) 29 = bit old 29 := by
  have h := ctrlKept_places old w
  rw [bit, bit, Nat.testBit_eq_decide_div_mod_eq, Nat.testBit_eq_decide_div_mod_eq, decide_eq_decide]
  generalize ctrlKept old w = v at h ⊢
  omega

theorem ctrlKept_cq : fld (ctrlKept old w) 22 6 = fld old 22 6 := by
  rw [fld_eq, fld_eq, ctrlKept_eq]
  exact ctrlWord_cq (Nat.mod_lt _ (by decide)) (Nat.mod_lt _ (by decide))

end ctrl

/-- EN, set by the command, survives the cut of the low bits. -/
theorem enable_bit (w : BitVec 31) : bit ((2 ^ 31 + w.toNat) / 2 ^ 10 * 2 ^ 10) 31 = true := by
  have hw := w.isLt
  simp only [bit, Nat.testBit_eq_decide_div_mod_eq, decide_eq_true_eq]
  omega

theorem qCtrl_regPut (d : Dev) (q : Nat) {w : Nat} (hw : w < 2 ^ 32) : qCtrl (regPut d (qBase q + 0x10) w) q = w := by
  simp only [qCtrl, regGet, regPut, mget_mset_same, BitVec.toNat_ofNat]
  exact Nat.mod_eq_of_lt hw

theorem cqOf_eq (d : Dev) (q : Nat) : cqOf d q = fld (qCtrl d q) 22 6 := by
  have haddr : 0x8000 + 0x410 + q * 0x20 = qBase q + 0x10 := by
    rw [qBase]
    omega
  rw [cqOf, haddr, qCtrl]

theorem qCtrlWrite_enables {d : Dev} {q w : Nat} (hoff : qEn d q = false) (hw : bit (w / 2 ^ 10 * 2 ^ 10) 31 = true) :
    qCtrlWrite d q w = setQueue (regPut d (qBase q + 0x10) (w / 2 ^ 10 * 2 ^ 10)) q ⟨0, 0, 0, 0, false⟩ := by
  have hoff : ¬ bit (qCtrl d q) 31 = true := Bool.eq_false_iff.1 hoff
  dsimp only [qCtrlWrite]
  rw [if_neg hoff, if_pos hw]

theorem qCtrlWrite_keeps {d : Dev} {q w : Nat} (hon : qEn d q = true) :
    qCtrlWrite d q w = regPut d (qBase q + 0x10) (ctrlKept (qCtrl d q) (w / 2 ^ 10 * 2 ^ 10)) := if_pos hon

/-! ### Acceptance of a descriptor (R244, R251) -/

/-- The block after the SQ whose turn it is has given a descriptor of a client. -/
def sqTaken (d : Dev) (q cl : Nat) : Dev :=
  { d with sched := { d.sched with
      queues := mset d.sched.queues q { queue d q with sqHead := ((queue d q).sqHead + 1) % sqSize d q }
      rrNext := (q + 1) % 64
      accepted := d.sched.accepted + 1
      clients := mset d.sched.clients cl { client d cl with submitted := (client d cl).submitted + 1 } } }

/-- A job as its descriptor is accepted. -/
def acceptedJob (d : Dev) (q : Nat) (b : Desc) : Job :=
  { desc := b, sq := q, index := (queue d q).sqHead, cBound := boundCycles (imageOf d b.image) b, half := imgHalf (imageOf d b.image)
    delayed := 0, start := 0, fin := 0, running := false, ended := false, westEnd := none, eastEnd := none
    fencedDuring := false, overrun := false }

theorem refusalOf_sqTaken (d : Dev) (q : Nat) (raw : List Byte) (b : Desc) :
    refusalOf (sqTaken d q b.client) raw b = refusalOf d raw b := by
  have hin : (client (sqTaken d q b.client) b.client).inflight = (client d b.client).inflight := by
    simp [client, sqTaken]
  simp only [refusalOf, hin]
  rfl

/-- The form of a descriptor is the first test (Table 12-3). -/
theorem refusalOf_malformed {d : Dev} {raw : List Byte} (h : descFormOk raw = false) (b : Desc) :
    refusalOf d raw b = some ⟨.refusedVersion, 0x80, []⟩ := by
  simp [refusalOf, h]

section accept
variable {d : Dev} {q : Nat} {raw : List Byte}

/-- The tests of Table 12-3, on the block that the SQ's turn leaves. -/
theorem acceptTest_eq (d : Dev) (q : Nat) (raw : List Byte) :
    acceptTest d q raw = match refusalOf (sqTaken d q (clientOf d q raw)) raw (descOf raw (clientOf d q raw)) with
      | some r => refuse (sqTaken d q (clientOf d q raw)) q (queue d q).sqHead (descOf raw (clientOf d q raw)) r
      | none =>
        match freeSlot (replan (sqTaken d q (clientOf d q raw))) with
        | none => replan (sqTaken d q (clientOf d q raw))
        | some k =>
          if (descOf raw (clientOf d q raw)).be then
            { admitJob (replan (sqTaken d q (clientOf d q raw))) k (acceptedJob d q (descOf raw (clientOf d q raw))) with
              sched := { (admitJob (replan (sqTaken d q (clientOf d q raw))) k (acceptedJob d q (descOf raw (clientOf d q raw)))).sched with
                be := (admitJob (replan (sqTaken d q (clientOf d q raw))) k
                  (acceptedJob d q (descOf raw (clientOf d q raw)))).sched.be ++ [k] } }
          else admitLc (replan (sqTaken d q (clientOf d q raw))) q (queue d q).sqHead k
            (acceptedJob d q (descOf raw (clientOf d q raw))) := rfl

theorem acceptTest_refused {r : RefusalOf} (h : refusalOf d raw (descOf raw (clientOf d q raw)) = some r) :
    acceptTest d q raw = refuse (sqTaken d q (clientOf d q raw)) q (queue d q).sqHead (descOf raw (clientOf d q raw)) r := by
  have htaken : refusalOf (sqTaken d q (clientOf d q raw)) raw (descOf raw (clientOf d q raw)) = some r :=
    (refusalOf_sqTaken ..).trans h
  rw [acceptTest_eq, htaken]

/-- A best-effort job that passes every test takes the lowest free slot (R246, R251). -/
theorem acceptTest_admitted {k : Nat} (h : refusalOf d raw (descOf raw (clientOf d q raw)) = none) (hslot : freeSlot d = some k)
    (hbe : (descOf raw (clientOf d q raw)).be = true) (hplan : d.sched.planDirty = false) {e : Dev}
    (he : e = admitJob (sqTaken d q (clientOf d q raw)) k (acceptedJob d q (descOf raw (clientOf d q raw)))) :
    acceptTest d q raw = { e with sched := { e.sched with be := e.sched.be ++ [k] } } := by
  have htaken : refusalOf (sqTaken d q (clientOf d q raw)) raw (descOf raw (clientOf d q raw)) = none :=
    (refusalOf_sqTaken ..).trans h
  have hreplan : replan (sqTaken d q (clientOf d q raw)) = sqTaken d q (clientOf d q raw) := if_pos (by rw [sqTaken, hplan]; rfl)
  have hfree : freeSlot (sqTaken d q (clientOf d q raw)) = some k := hslot
  subst he
  rw [acceptTest_eq, htaken, hreplan, hfree, hbe]
  rfl

end accept

section accounts
variable (d : Dev) (q : Nat) (b : Desc)

theorem client_sqTaken (cl : Nat) : client (sqTaken d q cl) cl = { client d cl with submitted := (client d cl).submitted + 1 } :=
  mget_mset_same ..

theorem client_refuse (i : Nat) (r : RefusalOf) :
    ∃ m, client (refuse (sqTaken d q b.client) q i b r) b.client =
      { client d b.client with
        submitted := (client d b.client).submitted + 1, refused := (client d b.client).refused + 1, refusals := m } := by
  have hc := client_sqTaken d q b.client
  refine ⟨mset (client (sqTaken d q b.client) b.client).refusals (statusCode r.st)
    (mget (client (sqTaken d q b.client) b.client).refusals (statusCode r.st) 0 + 1), (mget_mset_same ..).trans ?_⟩
  rw [hc]

theorem queue_refuse (i : Nat) (r : RefusalOf) :
    queue (refuse (sqTaken d q b.client) q i b r) q = { queue d q with sqHead := ((queue d q).sqHead + 1) % sqSize d q } :=
  mget_mset_same ..

theorem client_admitJob (k : Nat) (j : Job) :
    client (admitJob (sqTaken d q j.desc.client) k j) j.desc.client =
      { client d j.desc.client with
        submitted := (client d j.desc.client).submitted + 1, inflight := (client d j.desc.client).inflight + 1 } := by
  have hc := client_sqTaken d q j.desc.client
  refine (mget_mset_same ..).trans ?_
  rw [hc]

theorem queue_admitJob (k : Nat) (j : Job) :
    queue (admitJob (sqTaken d q j.desc.client) k j) q = { queue d q with sqHead := ((queue d q).sqHead + 1) % sqSize d q } :=
  mget_mset_same ..

end accounts

/-! ### C8 of a client (R28) -/

/-- A client's account balances. -/
def Balanced (c : Client) : Prop := c.submitted = c.served + c.refused + c.failed + c.aborted + BitVec.ofNat 32 c.inflight

theorem law8_none {d : Dev} {cl : Nat} : law8 d cl = none ↔ Balanced (client d cl) := by
  simp [law8, Balanced]

theorem clientAudit_balanced {d : Dev} {cl : Nat} (h : Balanced (client d cl)) : clientAudit d cl = d := by
  rw [clientAudit, law8_none.2 h]
  rfl

/-- A refused descriptor counts on both sides (R265). -/
theorem balanced_refused {c : Client} (h : Balanced c) (m : FMap Word) :
    Balanced { c with submitted := c.submitted + 1, refused := c.refused + 1, refusals := m } := by
  rw [Balanced] at h ⊢
  dsimp only
  rw [h]
  ring

/-- An admitted job counts on both sides (R265). -/
theorem balanced_admitted {c : Client} (h : Balanced c) :
    Balanced { c with submitted := c.submitted + 1, inflight := c.inflight + 1 } := by
  rw [Balanced] at h ⊢
  dsimp only
  rw [h, BitVec.ofNat_add, show BitVec.ofNat 32 1 = 1 from rfl]
  ring

end Sys2Proof.Machine

namespace Sys2Proof.Proofs

open Sys2Proof Sys2Proof.Machine Sys2Proof.Safety

/-- DESCRIPTOR_ACCEPT of the SQ whose turn it is, once its descriptor has been read. -/
theorem exec_descriptorAccept_got {s : State} {q : Fin 64} {data : List Byte} (hon : schedOn s.dev = true)
    (hen : bit (regGet s.dev 0x8000) 31 = true) (hturn : nextSq s.dev = some q.val) {got : Option (List Byte) × Dev}
    (hgot : got = if bit (qCtrl s.dev q.val) 30 = true then ringRead s.dev q.val else (some (slice data 0 64), s.dev)) :
    exec (.descriptorAccept q data) s = .next { s with dev := match got.1 with
      | some raw => accept got.2 q.val raw
      | none => got.2 } := by
  have hgo : (!schedOn s.dev || !bit (regGet s.dev 0x8000) 31 || nextSq s.dev != some q.val) = false := by
    simp [hon, hen, hturn]
  dsimp only [exec, execDescriptorAccept]
  rw [lift_eq, if_neg (Bool.eq_false_iff.1 hgo)]
  subst hgot
  split
  · rcases hread : ringRead s.dev q.val with ⟨_ | raw, d⟩ <;> rfl
  · rfl

/-- Settles O26: by the tests of a descriptor in their order, the accounts by their balance. -/
theorem queuesComplete : Obligations.QueuesComplete := by
  unfold Obligations.QueuesComplete
  refine ⟨fun s src q => ?_, fun s q data => ?_⟩
  · dsimp only
    refine ⟨fun i => ⟨fun h => ?_, fun h => ?_, fun h => ?_, fun h => ?_⟩, fun w howner hen => ?_, fun w howner hen => ?_⟩
    · dsimp only [exec, execSqDoorbell]
      rw [lift_eq, sqDoorbell_inside h]
      rfl
    · dsimp only [exec, execCqDoorbell]
      rw [lift_eq, cqDoorbell_inside h]
      rfl
    · dsimp only [exec, execSqDoorbell]
      rw [lift_eq, sqDoorbell_past h]
      rfl
    · dsimp only [exec, execCqDoorbell]
      rw [lift_eq, cqDoorbell_past h]
      rfl
    · dsimp only [exec, execQueueEnable]
      rw [lift_eq, ownerOnly, if_pos howner, qCtrlWrite_enables hen (enable_bit w)]
    · have hctrl := qCtrl_regPut s.dev q.val (ctrlKept_lt (qCtrl s.dev q.val) ((2 ^ 31 + w.toNat) / 2 ^ 10 * 2 ^ 10))
      dsimp only [exec, execQueueEnable]
      rw [lift_eq, ownerOnly, if_pos howner, qCtrlWrite_keeps hen]
      refine ⟨_, rfl, rfl, rfl, ?_⟩
      dsimp only
      rw [qEn, cqOf_eq, cqOf_eq, hctrl, ctrlKept_en, enable_bit, ctrlKept_cq, ctrlKept_sqT1, ctrlKept_cqT1]
      exact ⟨rfl, rfl, rfl, rfl⟩
  · dsimp only
    refine ⟨fun hoff => ?_, fun hon hen hturn => ⟨fun hgot => ?_, fun raw hgot => ?_⟩⟩
    · have hskip : (!schedOn s.dev || !bit (regGet s.dev 0x8000) 31 || nextSq s.dev != some q.val) = true := by
        rcases hoff with h | h | h <;> simp [h]
      dsimp only [exec, execDescriptorAccept]
      rw [lift_eq, if_pos hskip]
    · rw [exec_descriptorAccept_got hon hen hturn rfl, hgot]
    · have hrun := exec_descriptorAccept_got (data := data) hon hen hturn rfl
      rw [hgot] at hrun
      generalize (if bit (qCtrl s.dev q.val) 30 = true then ringRead s.dev q.val else (some (slice data 0 64), s.dev)).2 = e at hrun ⊢
      refine ⟨acceptTest e q.val raw, hrun, fun hform => ?_, fun k hrefused hslot hbe hplan => ?_⟩
      · have hrefusal := acceptTest_refused (q := q.val) (refusalOf_malformed (d := e) hform (descOf raw (clientOf e q.val raw)))
        obtain ⟨m, hm⟩ := client_refuse e q.val (descOf raw (clientOf e q.val raw)) (queue e q.val).sqHead ⟨.refusedVersion, 0x80, []⟩
        have hqueue := queue_refuse e q.val (descOf raw (clientOf e q.val raw)) (queue e q.val).sqHead ⟨.refusedVersion, 0x80, []⟩
        rw [hrefusal]
        refine ⟨_, rfl, rfl, rfl, rfl, congrArg Client.refused hm, rfl, rfl, congrArg Client.submitted hm, hqueue,
          fun hbal => clientAudit_balanced ?_⟩
        exact (congrArg Balanced hm).mpr (balanced_refused (law8_none.1 hbal) m)
      · rw [acceptTest_admitted hrefused hslot hbe hplan rfl]
        have hclient := client_admitJob e q.val k (acceptedJob e q.val (descOf raw (clientOf e q.val raw)))
        have hqueue := queue_admitJob e q.val k (acceptedJob e q.val (descOf raw (clientOf e q.val raw)))
        refine ⟨acceptedJob e q.val (descOf raw (clientOf e q.val raw)), mget?_mset_same .., rfl, rfl, rfl, rfl, rfl, rfl,
          congrArg Client.inflight hclient, rfl, congrArg Client.submitted hclient, hqueue, fun hbal => clientAudit_balanced ?_⟩
        exact (congrArg Balanced hclient).mpr (balanced_admitted (law8_none.1 hbal))

end Sys2Proof.Proofs
end

section
/-! The end of a scope and of its job in the scheduler: the half's end that is noted, and the record that falls due (R260 to R263). -/

namespace Sys2Proof.Machine

open Sys2Proof Sys2Proof.Safety

theorem mget?_mmap {α : Type} (m : FMap α) (f : Nat → α → α) (k : Nat) : mget? (mmap m f) k = (mget? m k).map (f k) := by
  induction m with
  | nil => rfl
  | cons p r ih =>
    obtain ⟨n, v⟩ := p
    rw [mmap] at ih ⊢
    rw [List.map_cons, mget?, mget?, ih]
    dsimp only
    split_ifs with hlt heq
    · rfl
    · rw [heq]
      rfl
    · rfl

/-! ### The job's record -/

/-- The end that a job's record reports (R263). -/
def finishEnd (d : Dev) (j : Job) : EndInfo := if j.half then chosenEnd d j else j.westEnd.getD lostInfo

/-- What the end of a slot's job leaves of the scheduler: one record more is due, and the slot has left its queue. -/
structure Finished (slot : Nat) (st : Status) (d e : Dev) : Prop where
  due : ∃ r, e.sched.due = d.sched.due ++ [r] ∧ r.status = st ∧ r.slot = some slot
  plan : e.sched.plan = d.sched.plan.filter (· != slot)
  be : e.sched.be = d.sched.be.filter (· != slot)

theorem jobEndAudit_sched (d : Dev) : (jobEndAudit d).sched = d.sched := by
  have h := congrArg Dev.sched (jobEndAudit_only d).rest
  exact h

theorem finishJob_finished (d : Dev) (slot : Nat) (j : Job) : Finished slot (finishEnd d j).status d (finishJob d slot j) := by
  unfold finishJob
  extract_lets e f d1 late degraded flags rec_ served src sch pt ports d2 d3 fl d4
  have he : e = finishEnd d j := by
    unfold e finishEnd
    cases j.westEnd <;> rfl
  have hfirst := congrArg Dev.sched (recordIf_only (j.half && endsDiffer j) d { fspec 3 0x08 0x06 with slot := slot }).rest
  have hsched : d1.sched = d.sched := hfirst
  have hlast : (jobEndAudit (imagesSettle d4)).sched = sch := by
    rw [jobEndAudit_sched]
    unfold d4
    split <;> rfl
  rw [← he]
  refine ⟨⟨rec_, ?_, rfl, rfl⟩, ?_, ?_⟩ <;> rw [hlast, ← hsched]

/-- The job of a slot that no scope runs any more finishes (R263). -/
theorem finishCheck_last {d : Dev} {slot : Nat} {j : Job} (hj : mget? d.sched.slots slot = some j) (hended : j.ended = false)
    (h0 : d.sc0.jobValid = false ∨ d.sc0.slot ≠ slot) (h1 : d.sc1.jobValid = false ∨ d.sc1.slot ≠ slot) :
    finishCheck d slot = finishJob d slot j := by
  have hoff : ∀ x : Scope, (x.jobValid = false ∨ x.slot ≠ slot) → (x.jobValid && x.slot == slot) = false := by
    rintro x (h | h) <;> simp [h]
  simp [finishCheck, hj, hended, hoff _ h0, hoff _ h1]

/-- It goes on while the other half runs it. -/
theorem finishCheck_waits {d : Dev} {slot : Nat} (h1 : d.sc1.jobValid = true) (hslot : d.sc1.slot = slot) : finishCheck d slot = d := by
  cases hj : mget? d.sched.slots slot <;> simp [finishCheck, hj, h1, hslot]

/-! ### A scope stops -/

/-- The end that a scope reports: that of the identity's violation where R38's identity does not hold. -/
def reportedEnd (x : Scope) (st : Status) (detail : Nat) (extra : List Byte) : EndInfo :=
  if auditable x && !auditOk x then endInfo x .failedFault 3 (leBytes 2 (faultCode 3 0x08 0x08) ++ leBytes 2 0)
  else endInfo x st detail extra

theorem reportedEnd_status (x : Scope) (st : Status) (detail : Nat) (extra : List Byte) :
    (reportedEnd x st detail extra).status = if auditable x = true ∧ auditOk x = false then .failedFault else st := by
  cases h : auditable x <;> cases h' : auditOk x <;> simp [reportedEnd, h, h', endInfo]

/-- A job with the end of the scope's half noted. -/
def noteEnd (k : ScopeKind) (e : EndInfo) (j : Job) : Job :=
  if k = .east then { j with eastEnd := some e } else { j with westEnd := some e }

/-- The block as a scope has stopped, before its job's end is looked at. -/
structure Stopped (si : Nat) (e : EndInfo) (d d' : Dev) : Prop where
  ended : scope d' si = scopeJobEnd (scope d si)
  other : ∀ k, k ≠ si → scope d' k = scope d k
  slots : ∀ k, mget? d'.sched.slots k = (mget? d.sched.slots k).map (fun j =>
    if k = (scope d si).slot then noteEnd (scope d si).kind e j else j)
  sched : { d'.sched with slots := d.sched.slots } = d.sched
  primary : d'.flt.primary = d.flt.primary

theorem endScope_stops {d : Dev} {si : Nat} (hsi : si < 2) (h : (scope d si).jobValid = true) (st : Status) (detail : Nat)
    (extra : List Byte) :
    ∃ d', endScope d si st detail extra = finishCheck d' (scope d si).slot
      ∧ Stopped si (reportedEnd (scope d si) st detail extra) d d' := by
  have hfirst := recordIf_only (auditable (scope d si) && !auditOk (scope d si)) d (identityFault si (scope d si))
  unfold endScope
  simp only [h, Bool.not_true, Bool.false_eq_true, if_false]
  rw [← reportedEnd]
  generalize reportedEnd (scope d si) st detail extra = e
  generalize (if (auditable _ && _) = true then record d _ else d) = d1 at hfirst ⊢
  have hsched1 := congrArg Dev.sched hfirst.rest
  have hprimary1 := congrArg Flt.primary hfirst.flt
  generalize hd2 : setScope _ si (scopeJobEnd (scope d si)) = d2
  have hsched2 : d2.sched = d1.sched := by subst hd2; exact setScope_sched ..
  have hflt2 : d2.flt = d1.flt := by subst hd2; exact setScope_flt ..
  have hstack := releaseStacks_frame d2 (scope d si).kind
  generalize releaseStacks d2 _ = d3 at hstack ⊢
  have hflt3 := congrArg Dev.flt hstack
  have hsched3 := congrArg Dev.sched hstack
  have hscope3 (i : Nat) : scope d3 i = scope d2 i := by
    have hi := congrArg (scope · i) hstack
    exact hi
  dsimp only at hsched1 hprimary1 hflt3 hsched3
  have hsched : d3.sched = d.sched := by rw [hsched3, hsched2, hsched1]
  refine ⟨_, rfl, ?_, fun k hk => ?_, fun k => ?_, ?_, ?_⟩
  · refine (hscope3 si).trans ?_
    rw [← hd2, scope_setScope _ _ _ hsi]
  · refine (hscope3 k).trans ?_
    rw [← hd2, scope_setScope_other _ _ _ _ hk]
    exact (FinishKeeps.of_records hfirst).scope k
  · dsimp only
    rw [hsched, mget?_mmap]
    rfl
  · dsimp only
    rw [hsched]
  · dsimp only
    rw [hflt3, hflt2, hprimary1]

/-! ### Aborts (R260) -/

section abort
variable {d : Dev} {k : Nat} {j : Job}

theorem abortJob_ended (h : ∀ j, mget? d.sched.slots k = some j → j.ended = true) (st : Status) : abortJob d k st = d := by
  cases hj : mget? d.sched.slots k with
  | none => simp [abortJob, hj]
  | some j => simp [abortJob, hj, h j hj]

/-- A job that waits has an end noted for both halves, with counters of 0. -/
def noteLost (j : Job) (st : Status) : Job :=
  { j with westEnd := some ⟨st, 0, [], 0, 0, 0, 0, 0, 0, 0, 0⟩, eastEnd := some ⟨st, 0, [], 0, 0, 0, 0, 0, 0, 0, 0⟩ }

theorem finishEnd_noteLost (d : Dev) (j : Job) (st : Status) : (finishEnd d (noteLost j st)).status = st := by
  simp only [finishEnd, noteLost, chosenEnd, ite_self]
  split <;> rfl

variable (hj : mget? d.sched.slots k = some j) (hended : j.ended = false)
include hj hended

theorem abortJob_waiting (hrun : j.running = false) (st : Status) :
    abortJob d k st = finishJob { d with sched := { d.sched with slots := mset d.sched.slots k (noteLost j st) } } k (noteLost j st) := by
  simp [abortJob, hj, hended, hrun, noteLost]

/-- A scope that runs the slot's job stops. -/
def stopRun (d : Dev) (k si : Nat) (st : Status) : Dev :=
  if (scope d si).jobValid && (scope d si).slot == k then endScope d si st 0 [] else d

omit hj hended in
theorem stopRun_runs {si : Nat} {st : Status} (hv : (scope d si).jobValid = true) (hslot : (scope d si).slot = k) :
    stopRun d k si st = endScope d si st 0 [] := by
  simp [stopRun, hv, hslot]

omit hj hended in
theorem stopRun_idle {si : Nat} {st : Status} (hv : (scope d si).jobValid = false) : stopRun d k si st = d := by
  simp [stopRun, hv]

theorem abortJob_running (hrun : j.running = true) (st : Status) : abortJob d k st = stopRun (stopRun d k 0 st) k 1 st := by
  simp [abortJob, hj, hended, hrun, stopRun]

/-- A job alone in scope 0 ends there. -/
theorem stopRun_alone (hhalf : j.half = false) (hv : (scope d 0).jobValid = true) (hslot : (scope d 0).slot = k)
    (hkind : (scope d 0).kind ≠ .east) (hother : (scope d 1).jobValid = false) (st : Status) :
    ∃ r, (stopRun d k 0 st).sched.due = d.sched.due ++ [r] ∧ r.status = (reportedEnd (scope d 0) st 0 []).status ∧ r.slot = some k
      ∧ (scope (stopRun d k 0 st) 0).jobValid = false ∧ (scope (stopRun d k 0 st) 1).jobValid = false := by
  have hkeeps := endScope_keeps (by decide) hv st 0 []
  obtain ⟨e, hend, hstop⟩ := endScope_stops (by decide) hv st 0 []
  have h0 : e.sc0 = scopeJobEnd (scope d 0) := hstop.ended
  have h1 : e.sc1 = scope d 1 := hstop.other 1 (by decide)
  have hnoted := hstop.slots k
  rw [hj, hslot, Option.map_some, if_pos rfl, noteEnd, if_neg hkind] at hnoted
  have hlast := finishCheck_last hnoted hended (.inl (by rw [h0]; rfl)) (.inl (by rw [h1, hother]))
  obtain ⟨r, hdue, hst, hrslot⟩ := (finishJob_finished e k { j with westEnd := some (reportedEnd (scope d 0) st 0 []) }).due
  have hsched := congrArg Sched.due hstop.sched
  rw [stopRun_runs hv hslot]
  refine ⟨r, ?_, ?_, hrslot, ?_, ?_⟩
  · rw [hend, hslot, hlast, hdue, ← hsched]
  · rw [hst, finishEnd, if_neg (by rw [hhalf]; decide)]
    rfl
  · rw [hkeeps.ended]
    rfl
  · rw [hkeeps.other 1 (by decide), hother]

/-- A job of both halves ends with its second half (R263). -/
theorem stopRun_both (hhalf : j.half = true) (hv0 : (scope d 0).jobValid = true) (hslot0 : (scope d 0).slot = k)
    (hkind0 : (scope d 0).kind ≠ .east) (hv1 : (scope d 1).jobValid = true) (hslot1 : (scope d 1).slot = k)
    (hkind1 : (scope d 1).kind = .east) (st : Status) :
    ∃ r, (stopRun (stopRun d k 0 st) k 1 st).sched.due = d.sched.due ++ [r]
      ∧ r.status = (if d.flt.primary = 0 then (reportedEnd (scope d 0) st 0 []).status else (reportedEnd (scope d 1) st 0 []).status)
      ∧ r.slot = some k
      ∧ (scope (stopRun (stopRun d k 0 st) k 1 st) 0).jobValid = false ∧ (scope (stopRun (stopRun d k 0 st) k 1 st) 1).jobValid = false := by
  obtain ⟨e, hend, hstop⟩ := endScope_stops (by decide) hv0 st 0 []
  have h1 : scope e 1 = scope d 1 := hstop.other 1 (by decide)
  have hwest : stopRun d k 0 st = e := by
    rw [stopRun_runs hv0 hslot0, hend, hslot0]
    exact finishCheck_waits ((congrArg Scope.jobValid h1).trans hv1) ((congrArg Scope.slot h1).trans hslot1)
  have hnoted := hstop.slots k
  rw [hj, hslot0, Option.map_some, if_pos rfl, noteEnd, if_neg hkind0] at hnoted
  rw [hwest]
  rw [← h1] at hv1 hslot1 hkind1 ⊢
  have hkeeps := endScope_keeps (by decide) hv1 st 0 []
  obtain ⟨f, hend', hstop'⟩ := endScope_stops (by decide) hv1 st 0 []
  have hnoted' := hstop'.slots k
  rw [hnoted, hslot1, Option.map_some, if_pos rfl, noteEnd, if_pos hkind1] at hnoted'
  have h0' : f.sc0 = scopeJobEnd (scope d 0) := (hstop'.other 0 (by decide)).trans hstop.ended
  have h1' : f.sc1 = scopeJobEnd (scope e 1) := hstop'.ended
  have hlast := finishCheck_last hnoted' hended (.inl (by rw [h0']; rfl)) (.inl (by rw [h1']; rfl))
  obtain ⟨r, hdue, hst, hrslot⟩ := (finishJob_finished f k { j with
    westEnd := some (reportedEnd (scope d 0) st 0 []), eastEnd := some (reportedEnd (scope e 1) st 0 []) }).due
  have hsched := congrArg Sched.due hstop.sched
  have hsched' := congrArg Sched.due hstop'.sched
  rw [stopRun_runs hv1 hslot1]
  refine ⟨r, ?_, ?_, hrslot, ?_, ?_⟩
  · rw [hend', hslot1, hlast, hdue, ← hsched, ← hsched']
  · rw [hst, finishEnd, if_pos hhalf, chosenEnd, hstop'.primary, hstop.primary]
    by_cases hprimary : d.flt.primary = 0
    · simp only [hprimary, if_true]
    · simp only [hprimary, if_false]
  · rw [hkeeps.other 0 (by decide), hstop.ended]
    rfl
  · rw [hkeeps.ended]
    rfl

end abort

end Sys2Proof.Machine

namespace Sys2Proof.Proofs

open Sys2Proof Sys2Proof.Machine Sys2Proof.Safety

/-- Settles O27: by where the job stands: waiting, running in one scope or in both. -/
theorem abortComplete : Obligations.AbortComplete := by
  unfold Obligations.AbortComplete
  intro s src k howner
  have hrun : exec (.schAbort src k) s = .next { s with dev := abortJob s.dev k.val .aborted } := by
    dsimp only [exec, execSchAbort]
    rw [lift_eq, ownerOnly, if_pos howner]
  dsimp only
  rw [hrun]
  refine ⟨fun h => by rw [abortJob_ended h], fun j hj hended => ⟨fun hwait => ?_, fun hr hhalf hv hslot hkind hother => ?_,
    fun hr hhalf hv0 hslot0 hkind0 hv1 hslot1 hkind1 => ?_⟩⟩
  · rw [abortJob_waiting hj hended hwait]
    have hfin := finishJob_finished { s.dev with sched := { s.dev.sched with
      slots := mset s.dev.sched.slots k.val (noteLost j .aborted) } } k.val (noteLost j .aborted)
    have hrest := (finishJob_keeps { s.dev with sched := { s.dev.sched with
      slots := mset s.dev.sched.slots k.val (noteLost j .aborted) } } k.val (noteLost j .aborted)).rest
    have htiles := congrArg Dev.tiles hrest
    have htmg := congrArg Dev.tmg hrest
    obtain ⟨r, hdue, hst, hslot⟩ := hfin.due
    refine ⟨_, r, rfl, rfl, hdue, hst.trans (finishEnd_noteLost ..), hslot, ?_, ?_, ?_, ?_⟩
    · dsimp only
      rw [hfin.plan]
      simp
    · dsimp only
      rw [hfin.be]
      simp
    · exact htiles
    · exact htmg
  · obtain ⟨r, hdue, hst, hrslot, h0, h1⟩ := stopRun_alone hj hended hhalf (show (scope s.dev 0).jobValid = true from hv) hslot
      (fun heast => ScopeKind.noConfusion (hkind.symm.trans heast)) hother .aborted
    rw [abortJob_running hj hended hr, stopRun_idle h1]
    exact ⟨_, r, rfl, rfl, h0, hdue, hst.trans (reportedEnd_status ..), hrslot⟩
  · obtain ⟨r, hdue, hst, hrslot, h0, h1⟩ := stopRun_both hj hended hhalf (show (scope s.dev 0).jobValid = true from hv0) hslot0
      (fun heast => ScopeKind.noConfusion (hkind0.symm.trans heast)) hv1 hslot1 hkind1 .aborted
    rw [reportedEnd_status, reportedEnd_status] at hst
    rw [abortJob_running hj hended hr]
    exact ⟨_, r, rfl, rfl, h0, h1, hdue, hst, hrslot⟩

end Sys2Proof.Proofs
end

section
/-! Validation and invalidation of images (R97, R98). -/

namespace Sys2Proof.Machine

open Sys2Proof Sys2Proof.Safety

section images
variable {d : Dev} {n : Nat}

/-- The block as a validation starts. -/
def validating (d : Dev) (n : Nat) : Dev :=
  { regPut d 0x82C0 (2 ^ 30 + n) with imgs := { d.imgs with busy := true, cur := n, dirty := false, handle := n } }

theorem imgCommand_busy (f : Dev → Dev) (h : d.imgs.busy = true) : imgCommand d f = { d with imgs := { d.imgs with dropped := true } } :=
  if_pos h

theorem imgCommand_free (f : Dev → Dev) (h : d.imgs.busy = false) : imgCommand d f = f d := if_neg (Bool.eq_false_iff.1 h)

theorem validateStart_none (h : d.imgs.busy = false) (ho : objOf d n = none) : validateStart d n = validating d n := by
  have hobj : objOf (validating d n) n = none := ho
  rw [validateStart, imgCommand_free _ h, ← validating]
  dsimp only
  rw [hobj]

theorem validateStart_some {h0 : Nat} {o : Obj} (h : d.imgs.busy = false) (ho : objOf d n = some (h0, o)) :
    validateStart d n = requestPages (validating d n) (missing h0 o 0 (o.npages * pageSize)) := by
  have hobj : objOf (validating d n) n = some (h0, o) := ho
  rw [validateStart, imgCommand_free _ h, ← validating]
  dsimp only
  rw [hobj]

/-! ### The end of a validation -/

theorem validateEnd_fails {code : Nat} (hcode : code ≠ 0) :
    validateEnd d n code = { d with imgs := { d.imgs with busy := false, code := code, valid := d.imgs.valid.filter (· != n) } } := by
  simp [validateEnd, hcode]

theorem validateEnd_full (hnew : n ∉ d.imgs.valid) (hfull : 1024 ≤ d.imgs.valid.length) :
    validateEnd d n 0 = { d with imgs := { d.imgs with busy := false, code := 0x12, valid := d.imgs.valid.filter (· != n) } } := by
  simp [validateEnd, hnew, hfull]

theorem validateEnd_joins (h : n ∈ d.imgs.valid ∨ d.imgs.valid.length < 1024) :
    validateEnd d n 0 = { d with imgs := { d.imgs with busy := false, code := 0, valid := d.imgs.valid.filter (· != n) ++ [n] } } := by
  have hroom : (!d.imgs.valid.contains n && decide (1024 ≤ d.imgs.valid.length)) = false := by
    rcases h with h | h
    · simp [h]
    · simp [Nat.not_le.2 h]
  simp only [validateEnd, decide_true, Bool.true_and, hroom, Bool.false_eq_true, if_false, if_true]

theorem validateDone_idle (h : d.imgs.busy = false) (failed : Bool) : validateDone d failed = d := by
  simp [validateDone, h]

variable (hbusy : d.imgs.busy = true)
include hbusy

theorem validateDone_none (ho : objOf d d.imgs.cur = none) (failed : Bool) : validateDone d failed = validateEnd d d.imgs.cur 0x14 := by
  simp [validateDone, hbusy, ho]

section object
variable {h0 : Nat} {o : Obj} (ho : objOf d d.imgs.cur = some (h0, o)) {failed : Bool}
include ho

/-- The object cannot be read as a whole from T1. -/
def Unread (failed : Bool) (o : Obj) : Prop :=
  failed = true ∨ o.cls = .far ∨ o.cls = .peer ∨ spanBad o 0 (o.npages * pageSize) = true

theorem validateDone_unread (h : Unread failed o) : validateDone d failed = validateEnd d d.imgs.cur 0x13 := by
  have hbad : (failed || o.cls == .far || o.cls == .peer || spanBad o 0 (o.npages * pageSize)) = true := by
    rcases h with h | h | h | h <;> simp [h]
  simp only [validateDone, hbusy, ho, hbad, Bool.not_true, Bool.false_eq_true, if_false, if_true]

theorem validateDone_read (h : ¬ Unread failed o) :
    validateDone d failed =
      if missing h0 o 0 (o.npages * pageSize) ≠ [] then d
      else validateEnd d d.imgs.cur
        (if checkImage (imageBytes d h0 o) (o.npages * pageSize) d.boot.keys = 0 ∧ d.imgs.dirty = true then 0x10
          else checkImage (imageBytes d h0 o) (o.npages * pageSize) d.boot.keys) := by
  have hgood : (failed || o.cls == .far || o.cls == .peer || spanBad o 0 (o.npages * pageSize)) = false := by
    refine Bool.eq_false_iff.2 fun hbad => h ?_
    simpa [Unread, or_assoc] using hbad
  simp only [validateDone, hbusy, ho, hgood, Bool.not_true, Bool.false_eq_true, if_false, Bool.not_eq_true', List.isEmpty_eq_false_iff,
    Bool.and_eq_true, decide_eq_true_eq]

end object

end images

/-! ### INVALIDATE -/

section invalidate
variable {d : Dev} {n : Nat} (hbusy : d.imgs.busy = false)
include hbusy

theorem invalidate_other (h : n ∉ d.imgs.valid) :
    invalidate d n = { regPut d 0x82C0 (2 * 2 ^ 30 + n) with imgs := { d.imgs with handle := n, code := 0x11 } } := by
  simp [invalidate, imgCommand_free _ hbusy, h]

variable (hin : n ∈ d.imgs.valid)
include hin

theorem invalidate_free (hnamed : imageNamed d n = false) :
    invalidate d n = { regPut d 0x82C0 (2 * 2 ^ 30 + n) with
      imgs := { d.imgs with handle := n, code := 0, valid := d.imgs.valid.filter (fun i => i != n) } } := by
  have hnamed : ¬ imageNamed (regPut d 0x82C0 (2 * 2 ^ 30 + n)) n = true := Bool.eq_false_iff.1 hnamed
  rw [invalidate, imgCommand_free _ hbusy]
  dsimp only [regPut_imgs]
  rw [if_neg hnamed]
  simp [hin]

theorem invalidate_named (hnamed : imageNamed d n = true) :
    invalidate d n = { regPut d 0x82C0 (2 * 2 ^ 30 + n) with
      imgs := { d.imgs with
        handle := n, code := 0
        invalPend := if n ∈ d.imgs.invalPend then d.imgs.invalPend else d.imgs.invalPend ++ [n] } } := by
  have hnamed : imageNamed (regPut d 0x82C0 (2 * 2 ^ 30 + n)) n = true := hnamed
  rw [invalidate, imgCommand_free _ hbusy]
  dsimp only [regPut_imgs]
  rw [if_pos hnamed]
  simp [hin]

end invalidate

end Sys2Proof.Machine

namespace Sys2Proof.Proofs

open Sys2Proof Sys2Proof.Machine Sys2Proof.Safety

section commands
variable {s : State} {src : Iface} (howner : isOwner s.dev src = true) (h : BitVec 16)
include howner

theorem exec_validate_owner : exec (.validate src h) s = .next { s with dev := validateStart s.dev h.toNat } := by
  dsimp only [exec, execValidate]
  rw [lift_eq, ownerOnly, if_pos howner]

theorem exec_invalidate_owner : exec (.invalidate src h) s = .next { s with dev := invalidate s.dev h.toNat } := by
  dsimp only [exec, execInvalidate]
  rw [lift_eq, ownerOnly, if_pos howner]

theorem exec_imgCtrlReserved_owner : exec (.imgCtrlReserved src h) s = .next { s with dev := imgReserved s.dev h.toNat } := by
  dsimp only [exec, execImgCtrlReserved]
  rw [lift_eq, ownerOnly, if_pos howner]

end commands

/-- Settles O28: by the first check of the image that fails, and the pages that it lacks. -/
theorem imagesComplete : Obligations.ImagesComplete := by
  unfold Obligations.ImagesComplete
  intro s
  dsimp only
  refine ⟨fun src h howner => ?_, fun hidle failed => ?_, fun hbusy => ⟨fun failed ho => ?_, fun h0 o failed ho => ?_⟩⟩
  · rw [exec_validate_owner howner, exec_invalidate_owner howner, exec_imgCtrlReserved_owner howner]
    refine ⟨fun hbusy => ⟨?_, ?_, ?_⟩, fun hidle => ⟨fun ho => ?_, fun h0 o ho => ?_, fun hin hnamed => ?_, fun hin hnamed hpend => ?_,
      fun hin hnamed hpend => ?_, fun hin => ?_, ?_⟩⟩
    · rw [validateStart, imgCommand_busy _ hbusy]
    · rw [invalidate, imgCommand_busy _ hbusy]
    · rw [imgReserved, if_pos hbusy]
      rfl
    · rw [validateStart_none hidle ho]
      rfl
    · rw [validateStart_some hidle ho]
      rfl
    · rw [invalidate_free hidle hin hnamed]
    · rw [invalidate_named hidle hin hnamed, if_neg hpend]
    · rw [invalidate_named hidle hin hnamed, if_pos hpend]
    · rw [invalidate_other hidle hin]
    · rw [imgReserved, if_neg (Bool.eq_false_iff.1 hidle)]
      rfl
  · dsimp only [exec, execValidationDone]
    rw [lift_eq, validateDone_idle hidle]
  · dsimp only [exec, execValidationDone]
    rw [lift_eq, validateDone_none hbusy ho, validateEnd_fails (by decide)]
  · dsimp only [exec, execValidationDone]
    rw [lift_eq]
    refine ⟨fun hbad => ?_, fun hread hmiss => ?_, fun hread hthere => ?_⟩
    · rw [validateDone_unread hbusy ho hbad, validateEnd_fails (by decide)]
    · rw [validateDone_read hbusy ho hread, if_pos hmiss]
    · rw [validateDone_read hbusy ho hread, if_neg (not_not.2 hthere)]
      refine ⟨fun hc => ?_, fun hc hdirty => ?_, fun hc hclean hnew hfull => ?_, fun hc hclean hroom => ?_⟩
      · rw [if_neg (fun h => hc h.1), validateEnd_fails hc]
      · rw [if_pos ⟨hc, hdirty⟩, validateEnd_fails (by decide)]
      · rw [if_neg (fun h => Bool.noConfusion (hclean.symm.trans h.2)), hc, validateEnd_full hnew hfull]
      · rw [if_neg (fun h => Bool.noConfusion (hclean.symm.trans h.2)), hc, validateEnd_joins hroom]

end Sys2Proof.Proofs
end

section
/-! The emulation ports: what leaves the queue of commits, the pins, EN, the emulated registers and the token (R287, R293, R302 to R309). -/

namespace Sys2Proof.Machine

open Sys2Proof Sys2Proof.Safety

@[simp] theorem emp_setEmp_same (d : Dev) (n : Nat) (e : Emp) : emp (setEmp d n e) n = e := mget_mset_same ..

theorem emp_setEmp_other (d : Dev) {n m : Nat} (e : Emp) (h : m ≠ n) : emp (setEmp d n e) m = emp d m := mget_mset_other _ _ _ _ _ h

@[simp] theorem setEmp_setEmp (d : Dev) (n : Nat) (e f : Emp) : setEmp (setEmp d n e) n f = setEmp d n f := by
  simp [setEmp]

/-! ### Commits that leave the queue (R289, R293 to R295) -/

/-- The port differs in its buffers, its queue of commits, the pass that reads them, and what is counted and shown of them. -/
structure QueueOnly (e f : Emp) : Prop where
  rest : { f with bufs0 := e.bufs0, bufs1 := e.bufs1, commits := e.commits, csState := e.csState, csFrame := e.csFrame, pass := e.pass
                  cSuperseded := e.cSuperseded, cDiscarded := e.cDiscarded } = e

namespace QueueOnly

theorem refl (e : Emp) : QueueOnly e e := ⟨rfl⟩

theorem trans {a b c : Emp} (h : QueueOnly a b) (k : QueueOnly b c) : QueueOnly a c := by
  have hb := h.rest
  rw [← k.rest] at hb
  exact ⟨hb⟩

theorem fold {α : Type} {f : Emp → α → Emp} (h : ∀ e x, QueueOnly e (f e x)) (l : List α) : ∀ e, QueueOnly e (l.foldl f e) := by
  induction l with
  | nil => exact refl
  | cons x l ih => exact fun e => (h e x).trans (ih (f e x))

theorem setEbuf (e : Emp) (side i : Nat) (b : EBufSt) : QueueOnly e (setEbuf e side i b) := by
  unfold Machine.setEbuf
  dsimp only
  split <;> exact ⟨rfl⟩

theorem freeCommit (e : Emp) (c : Commit) : QueueOnly e (freeCommit e c) := setEbuf ..

theorem noteCommit (e : Emp) (c : Commit) (st frame : Nat) : QueueOnly e (noteCommit e c st frame) := by
  unfold Machine.noteCommit
  split <;> exact ⟨rfl⟩

theorem commits (e : Emp) (l : List Commit) : QueueOnly e { e with commits := l } := ⟨rfl⟩

theorem dropOrphans (e : Emp) : QueueOnly e (dropOrphans e) := (commits e _).trans (fold freeCommit _ _)

theorem dropOne (e : Emp) (c : Commit) (st : Nat) : QueueOnly e (dropOne e c st) := by
  unfold Machine.dropOne
  extract_lets reads e1 e2 e3 plain e4
  have h1 : QueueOnly e e1 := ((commits e _).trans (freeCommit _ _)).trans (noteCommit _ _ _ _)
  have h2 : QueueOnly e1 e2 := ⟨rfl⟩
  have h3 : QueueOnly e2 e3 := dropOrphans e2
  have h4 : QueueOnly e3 e4 := ⟨rfl⟩
  refine (h1.trans (h2.trans (h3.trans h4))).trans ?_
  split <;> exact ⟨rfl⟩

theorem dropCommits (e : Emp) (p : Commit → Bool) : QueueOnly e (dropCommits e p) := fold (fun e c => dropOne e c 4) _ _

end QueueOnly

theorem setEbuf_commits (e : Emp) (side i : Nat) (b : EBufSt) : (setEbuf e side i b).commits = e.commits := by
  unfold setEbuf
  dsimp only
  split <;> rfl

theorem noteCommit_commits (e : Emp) (c : Commit) (st frame : Nat) : (noteCommit e c st frame).commits = e.commits := by
  unfold noteCommit
  split <;> rfl

theorem freeCommits_commits (l : List Commit) (e : Emp) : (l.foldl freeCommit e).commits = e.commits := by
  induction l generalizing e with
  | nil => rfl
  | cons c l ih => exact (ih _).trans (setEbuf_commits ..)

theorem dropOrphans_subset (e : Emp) : (dropOrphans e).commits ⊆ e.commits := by
  unfold dropOrphans
  rw [freeCommits_commits]
  exact List.filter_sublist.subset

/-- Two commits of the same buffer. -/
def SameBuf (x y : Commit) : Prop := x.side = y.side ∧ x.buf = y.buf

/-- A commit that is dropped leaves no commit of its buffer, and none comes in. -/
theorem dropOne_commits (e : Emp) (c : Commit) (st : Nat) {x : Commit} (hx : x ∈ (dropOne e c st).commits) :
    ¬ SameBuf x c ∧ ∃ y ∈ e.commits, SameBuf x y := by
  unfold dropOne at hx
  extract_lets reads e1 e2 e3 plain e4 at hx
  have h4 : x ∈ e4.commits := by
    revert hx
    split <;> exact id
  obtain ⟨y, hy, rfl⟩ := List.mem_map.1 h4
  have hplain : (plain y).side = y.side ∧ (plain y).buf = y.buf := by
    unfold plain
    split <;> exact ⟨rfl, rfl⟩
  have h1 : y ∈ e1.commits := dropOrphans_subset e2 hy
  unfold e1 at h1
  rw [noteCommit_commits, freeCommit, setEbuf_commits] at h1
  obtain ⟨hmem, hkey⟩ := List.mem_filter.1 h1
  rw [SameBuf, hplain.1, hplain.2]
  exact ⟨by simpa [imp_iff_not_or] using hkey, y, hmem, hplain⟩

theorem dropFold_commits (l : List Commit) : ∀ (e : Emp) {x : Commit}, x ∈ (l.foldl (fun e c => dropOne e c 4) e).commits →
    (∀ c ∈ l, ¬ SameBuf x c) ∧ ∃ y ∈ e.commits, SameBuf x y := by
  induction l with
  | nil => exact fun e x hx => ⟨fun c hc => absurd hc List.not_mem_nil, x, hx, rfl, rfl⟩
  | cons c l ih =>
    intro e x hx
    obtain ⟨hrest, y, hy, hsame⟩ := ih _ hx
    obtain ⟨hnot, z, hz, hsame'⟩ := dropOne_commits e c 4 hy
    refine ⟨fun c' hc' hx' => ?_, z, hz, hsame.1.trans hsame'.1, hsame.2.trans hsame'.2⟩
    rcases List.mem_cons.1 hc' with rfl | hc'
    · exact hnot ⟨hsame.1.symm.trans hx'.1, hsame.2.symm.trans hx'.2⟩
    · exact hrest c' hc' hx'

/-- What is left after a discard shares its buffer with a commit that the test does not name (R289, R306). -/
theorem dropCommits_commits (e : Emp) (p : Commit → Bool) {x : Commit} (hx : x ∈ (dropCommits e p).commits) :
    ∃ y ∈ e.commits, SameBuf x y ∧ p y = false := by
  obtain ⟨hnot, y, hy, hsame⟩ := dropFold_commits _ _ hx
  refine ⟨y, hy, hsame, Bool.eq_false_iff.2 fun hp => ?_⟩
  exact hnot y (List.mem_filter.2 ⟨hy, hp⟩) hsame

theorem dropCommits_all (e : Emp) : (dropCommits e fun _ => true).commits = [] := by
  refine List.eq_nil_iff_forall_not_mem.2 fun x hx => ?_
  obtain ⟨y, -, -, hp⟩ := dropCommits_commits e _ hx
  exact Bool.noConfusion hp

/-! ### Pins -/

theorem setOk_emp (d : Dev) (n : Nat) (lvl : Bool) : emp (setOk d n lvl) n = { emp d n with ok := lvl } := by
  unfold setOk
  dsimp only
  split
  · next h => rw [← h]
  · exact emp_setEmp_same ..

theorem setOk_other (d : Dev) {n m : Nat} (lvl : Bool) (h : m ≠ n) : emp (setOk d n lvl) m = emp d m := by
  unfold setOk
  dsimp only
  split
  · rfl
  · exact emp_setEmp_other d _ h

/-- EMP_OK changes in its port and on its pin alone. -/
theorem setOk_frame (d : Dev) (n : Nat) (lvl : Bool) :
    { setOk d n lvl with ports := { (setOk d n lvl).ports with emp := d.ports.emp }, out := d.out } = d := by
  unfold setOk
  dsimp only
  split <;> rfl

/-- A fold that changes each port of a list by the same function. -/
theorem emp_fold {f : Dev → Nat → Dev} {g : Emp → Emp} (hsame : ∀ d n, emp (f d n) n = g (emp d n))
    (hother : ∀ d n m, m ≠ n → emp (f d n) m = emp d m) (k : Nat) :
    ∀ (l : List Nat) (d : Dev), l.Nodup → emp (l.foldl f d) k = if k ∈ l then g (emp d k) else emp d k := by
  intro l
  induction l with
  | nil => exact fun d _ => rfl
  | cons n l ih =>
    intro d hnd
    obtain ⟨hn, hl⟩ := List.nodup_cons.1 hnd
    rw [List.foldl_cons, ih _ hl]
    by_cases hk : k = n
    · subst hk
      rw [if_neg hn, if_pos List.mem_cons_self, hsame]
    · rw [hother d n k hk]
      simp [hk]

theorem emp_foldRange {f : Dev → Nat → Dev} {g : Emp → Emp} (hsame : ∀ d n, emp (f d n) n = g (emp d n))
    (hother : ∀ d n m, m ≠ n → emp (f d n) m = emp d m) (d : Dev) (k : Fin 16) :
    emp ((List.range 16).foldl f d) k.val = g (emp d k.val) := by
  rw [emp_fold hsame hother k.val _ d List.nodup_range, if_pos (List.mem_range.2 k.isLt)]

theorem allOkLow_emp (d : Dev) (k : Fin 16) : emp (allOkLow d) k.val = { emp d k.val with ok := false } :=
  emp_foldRange (g := fun e => { e with ok := false }) (fun d n => setOk_emp d n false) (fun d _ _ h => setOk_other d false h) d k

theorem allOkLow_safeIn (d : Dev) : (allOkLow d).ports.safeIn = d.ports.safeIn := by
  unfold allOkLow
  generalize List.range 16 = l
  induction l generalizing d with
  | nil => rfl
  | cons n l ih => exact (ih _).trans (congrArg (fun e => e.ports.safeIn) (setOk_frame d n false))

/-! ### EN (R287) -/

theorem empReg_regPut (d : Dev) (n : Nat) {w : Nat} (hw : w < 2 ^ 32) : empReg (regPut d (empBase n) w) n 0 = w := by
  simp only [empReg, regGet, regPut, Nat.add_zero, mget_mset_same, BitVec.toNat_ofNat]
  exact Nat.mod_eq_of_lt hw

theorem en_set (w : Nat) : bit (w % 2 ^ 31 + 2 ^ 31) 31 = true := by
  simp only [bit, Nat.testBit_eq_decide_div_mod_eq, decide_eq_true_eq]
  omega

theorem en_cleared (w : Nat) : bit (w % 2 ^ 31) 31 = false := by
  simp only [bit, Nat.testBit_eq_decide_div_mod_eq, decide_eq_false_iff_not]
  omega

/-- The port as EN is set (R287). -/
def empStarted (d : Dev) (n : Nat) (e : Emp) : Emp :=
  { e with
    enabled := true, cfgErr := 0, frame := none, fsLocal := d.clk.localNs + 100000, edge := none, repeats := 0
    latched := exposureNow d n e
    tickets := (List.range (empCfg d n).expDelay).map (fun i => ⟨i, i + 1, exposureNow d n e, e.evSeq + i⟩)
    ticketNo := (empCfg d n).expDelay, evSeq := e.evSeq + (empCfg d n).expDelay, crcBad := false, source := none
    phase := if e.phase = .off then .waiting else e.phase }

section enable
variable {d : Dev} {n : Nat}

theorem empEnable_on (h : (emp d n).enabled = true) : empEnable d n = d := by
  simp [empEnable, h]

theorem empEnable_passed (hoff : (emp d n).enabled = false) (hcheck : empCheck d n (empCfg d n) = 0) :
    empEnable d n = setEmp (regPut d (empBase n) (empReg d n 0 % 2 ^ 31 + 2 ^ 31)) n (empStarted d n (emp d n)) := by
  simp only [empEnable, hoff, hcheck, Bool.false_eq_true, if_false, empStarted, regPut_clk]

theorem empEnable_failed (hoff : (emp d n).enabled = false) (hcheck : empCheck d n (empCfg d n) ≠ 0) :
    empEnable d n = setEmp d n { emp d n with cfgErr := empCheck d n (empCfg d n) } := by
  simp only [empEnable, hoff, Bool.false_eq_true, if_false]

theorem empDisable_off (h : (emp d n).enabled = false) : empDisable d n = d := by
  simp [empDisable, h]

theorem freeSent_queueOnly (e : Emp) (s : Sent) : QueueOnly e (freeSent e s) := .fold .freeCommit _ _

theorem freeSent_commits (e : Emp) (s : Sent) : (freeSent e s).commits = e.commits := freeCommits_commits _ _

theorem dropSource_commits (e : Emp) : (dropSource e).commits = e.commits := by
  unfold dropSource
  split
  · exact freeSent_commits ..
  · rfl

theorem dropSource_enabled (e : Emp) : (dropSource e).enabled = e.enabled := by
  unfold dropSource
  split
  · next s _ =>
    have henabled := congrArg Emp.enabled (freeSent_queueOnly e s).rest
    exact henabled
  · rfl

/-- Clearing EN leaves the port off, its commits discarded and EMP_OK low. -/
theorem empDisable_spec (h : (emp d n).enabled = true) :
    ∃ e, empDisable d n = setOk (setEmp (regPut d (empBase n) (empReg d n 0 % 2 ^ 31)) n e) n false
      ∧ e.enabled = false ∧ e.commits = [] := by
  unfold empDisable
  extract_lets e d1 e2 onRep e3
  have hon : ¬ (!e.enabled) = true := by
    unfold e
    rw [h]
    decide
  rw [if_neg hon]
  have henabled : e2.enabled = false := by
    have h2 := congrArg Emp.enabled (QueueOnly.dropCommits { e with enabled := false, edge := none } fun _ => true).rest
    exact h2
  have hcommits : e2.commits = [] := dropCommits_all _
  refine ⟨_, rfl, ?_, ?_⟩
  · change e3.enabled = false
    unfold e3
    split
    · exact henabled
    · exact (dropSource_enabled _).trans henabled
  · change e3.commits = []
    unfold e3
    split
    · exact hcommits
    · exact (dropSource_commits _).trans hcommits

end enable

end Sys2Proof.Machine

namespace Sys2Proof.Proofs

open Sys2Proof Sys2Proof.Machine Sys2Proof.Safety

/-- Settles O33: by the first check that fails, and what the enabled port holds. -/
theorem emulationEnableComplete : Obligations.EmulationEnableComplete := by
  unfold Obligations.EmulationEnableComplete
  intro s src n howner
  have hen : exec (.empEnable src n) s = .next { s with dev := empEnable s.dev n.val } := by
    dsimp only [exec, execEmpEnable]
    rw [lift_eq, ownerOnly, if_pos howner]
  have hdis : exec (.empDisable src n) s = .next { s with dev := empDisable s.dev n.val } := by
    dsimp only [exec, execEmpDisable]
    rw [lift_eq, ownerOnly, if_pos howner]
  dsimp only
  rw [hen, hdis]
  have hmod : empReg s.dev n.val 0 % 2 ^ 31 < 2 ^ 31 := Nat.mod_lt _ (by decide)
  refine ⟨fun hoff hcheck => ?_, fun hoff hcheck => ?_, fun hon => ?_, fun hon => ?_, fun hoff => ?_⟩
  · rw [empEnable_passed hoff hcheck]
    refine ⟨_, rfl, rfl, emp_setEmp_same .., ?_, rfl⟩
    have hreg := empReg_regPut s.dev n.val (w := empReg s.dev n.val 0 % 2 ^ 31 + 2 ^ 31) (by omega)
    exact (congrArg (bit · 31) hreg).trans (en_set _)
  · rw [empEnable_failed hoff hcheck]
  · rw [empEnable_on hon]
  · obtain ⟨e, he, henabled, hcommits⟩ := empDisable_spec hon
    have hframe := setOk_frame (setEmp (regPut s.dev (empBase n.val) (empReg s.dev n.val 0 % 2 ^ 31)) n.val e) n.val false
    have hregs := congrArg Dev.regs hframe
    have htmg := congrArg Dev.tmg hframe
    have hflt := congrArg Dev.flt hframe
    have hreg := empReg_regPut s.dev n.val (w := empReg s.dev n.val 0 % 2 ^ 31) (by omega)
    rw [he]
    refine ⟨_, rfl, rfl, ?_⟩
    dsimp only
    rw [setOk_emp, emp_setEmp_same]
    refine ⟨henabled, hcommits, rfl, ?_, htmg, hflt⟩
    rw [empReg, regGet, hregs]
    exact (congrArg (bit · 31) hreg).trans (en_cleared _)
  · rw [empDisable_off hoff]

end Sys2Proof.Proofs
end

section
/-! Emulated registers, the token as a port adopts it, and SAFE_STATE_N (R302 to R309). -/

namespace Sys2Proof.Machine

open Sys2Proof Sys2Proof.Safety

/-! ### Emulated registers (R302 to R304) -/

/-- Which entry an address uses depends on the port's registers and table alone. -/
theorem rtFind_congr {d d' : Dev} (h : d'.regs = d.regs) (n : Nat) (e : Emp) (a : Nat) : rtFind d' n e a = rtFind d n e a := by
  simp only [rtFind, rtEntries, empReg, regGet, h]

theorem targetBytes_congr {d d' : Dev} (h : d'.regs = d.regs) (n : Nat) (bs : List Byte) :
    ∀ (e : Emp) (a : Nat), targetBytes d' n e a bs = targetBytes d n e a bs := by
  induction bs with
  | nil => exact fun _ _ => rfl
  | cons b bs ih =>
    intro e a
    have hbyte : targetByte d' n e a b = targetByte d n e a b := by simp only [targetByte, rtFind_congr h]
    rw [targetBytes, targetBytes, hbyte, ih]

theorem targetByte_written {d : Dev} {n a i : Nat} {e : Emp} (b : Byte) (hfind : rtFind d n e a = some i) (hwr : (rtEntry e i).wr = true) :
    targetByte d n e a b = { e with rt := mset e.rt i { rtEntry e i with value := b.toNat } } := by
  simp [targetByte, hfind, hwr]

theorem targetByte_counts {d : Dev} {n a : Nat} {e : Emp} (b : Byte)
    (h : rtFind d n e a = none ∨ ∃ i, rtFind d n e a = some i ∧ (rtEntry e i).wr = false) :
    targetByte d n e a b = { e with cUnmapped := satAdd 16 e.cUnmapped 1 } := by
  rcases h with h | ⟨i, h, hwr⟩
  · simp [targetByte, h]
  · simp [targetByte, h, hwr]

theorem empReg_regPut_other (d : Dev) (n : Nat) {o p : Nat} (w : Nat) (h : p ≠ o) :
    empReg (regPut d (empBase n + o) w) n p = empReg d n p := by
  simp only [empReg, regGet, regPut]
  rw [mget_mset_other _ _ _ _ _ (by omega)]

theorem empReg_regPut_same (d : Dev) (n o w : Nat) : empReg (regPut d (empBase n + o) w) n o = w % 2 ^ 32 := by
  simp only [empReg, regGet, regPut, mget_mset_same, BitVec.toNat_ofNat]

/-! ### The token (R306, R307) -/

theorem adoptToken_emp (d : Dev) (n : Nat) :
    ∃ e, emp (adoptToken d n) n = e ∧ QueueOnly { emp d n with
        epoch := d.flt.epoch, primary := d.flt.primary, secValid := d.flt.secValid, alone := false, dispute := d.flt.dispute
        forced := (emp d n).forced && d.flt.dispute } e
      ∧ ∀ c ∈ e.commits, c.side = d.flt.primary ∨ d.flt.secValid = true := by
  refine ⟨_, emp_setEmp_same .., QueueOnly.dropCommits _ _, fun c hc => ?_⟩
  obtain ⟨y, -, hsame, hnamed⟩ := dropCommits_commits _ _ hc
  rw [hsame.1]
  simp only [sideNamed, Bool.not_eq_false', Bool.or_eq_true, beq_iff_eq, Bool.and_eq_true] at hnamed
  exact hnamed.imp_right And.left

/-- A port whose dispute stays open is forced to safe frames with EMP_OK low (R307). -/
def disputeForces (e : Emp) : Emp := if e.dispute then { e with forced := true, ok := false } else e

theorem afterTimer_ports (d : Dev) (t : Timer) (ns : Nat) : (afterTimer d t ns).ports = d.ports := by
  unfold afterTimer
  split <;> rfl

end Sys2Proof.Machine

namespace Sys2Proof.Proofs

open Sys2Proof Sys2Proof.Machine Sys2Proof.Safety

theorem exec_targetWrite_eq (s : State) (n : Fin 16) (addr : BitVec 16) (data : List Byte) :
    exec (.targetWrite n addr data) s = .next { s with
      dev := setEmp s.dev n.val (targetBytes s.dev n.val (emp s.dev n.val) addr.toNat data) } := rfl

/-- A transfer writes its bytes one by one, to addresses that rise and wrap (R303). -/
theorem exec_targetWrite_cons {s t : State} {n : Fin 16} {addr : BitVec 16} {b : Byte} (bs : List Byte)
    (h : exec (.targetWrite n addr [b]) s = .next t) :
    exec (.targetWrite n addr (b :: bs)) s = exec (.targetWrite n (addr + 1) bs) t := by
  rw [exec_targetWrite_eq] at h
  injection h with h
  subst h
  have hregs : (setEmp s.dev n.val (targetByte s.dev n.val (emp s.dev n.val) addr.toNat b)).regs = s.dev.regs := rfl
  have hnext : (addr + 1).toNat = (addr.toNat + 1) % 2 ^ 16 := BitVec.toNat_add ..
  rw [exec_targetWrite_eq, exec_targetWrite_eq]
  simp only [targetBytes, emp_setEmp_same, setEmp_setEmp, hnext, targetBytes_congr hregs]

/-- What the address of an emulated register reads (R303). -/
def targetRead (d : Dev) (n a : Nat) : Byte :=
  match rtFind d n (emp d n) a with
  | some k => BitVec.ofNat 8 (rtEntry (emp d n) k).value
  | none => 0

theorem exec_targetRead_eq (s : State) (n : Fin 16) (addr : BitVec 16) (len : Nat) :
    exec (.targetRead n addr len) s = .next { s with
      dev := emit s.dev (.target n.val ((List.range len).map fun i => targetRead s.dev n.val ((addr.toNat + i) % 2 ^ 16))) } := rfl

theorem exec_disputeTimeout_emp (s : State) : ∃ t, exec .disputeTimeout s = .next t ∧ t.pending = s.pending
    ∧ ∀ n : Fin 16, emp t.dev n.val = disputeForces (emp s.dev n.val) := by
  refine ⟨_, rfl, rfl, fun n => ?_⟩
  dsimp only
  have hports : (if s.dev.flt.dispute then afterTimer s.dev .dispute 50000 else s.dev).ports = s.dev.ports := by
    split
    · exact afterTimer_ports ..
    · rfl
  rw [emp_foldRange (g := disputeForces) (fun d n => ?_) (fun d n m h => ?_)]
  · rw [emp, hports]
    rfl
  · by_cases hd : (emp d n).dispute = true
    · rw [if_pos hd, setOk_emp, emp_setEmp_same, disputeForces, if_pos hd]
    · rw [if_neg hd, disputeForces, if_neg hd]
  · split
    · rw [setOk_other _ _ h, emp_setEmp_other _ _ h]
    · rfl

/-- Settles O36: each access by the entry at its address, the token by the port that adopts it. -/
theorem emulationTargetsComplete : Obligations.EmulationTargetsComplete := by
  unfold Obligations.EmulationTargetsComplete
  refine ⟨fun s n => ?_, fun s => ⟨fun n => ?_, ?_, ?_, rfl⟩⟩
  · dsimp only
    refine ⟨fun addr b => ⟨fun i hfind hwr => ?_, fun h => ?_, fun bs t h => exec_targetWrite_cons bs h, rfl⟩, fun addr len => ?_,
      fun hoff op => ?_, fun hon => ⟨fun a => ?_, fun a => ?_, ?_, ?_⟩, fun src i howner => ⟨?_, ?_⟩⟩
    · rw [exec_targetWrite_eq, targetBytes, targetBytes, targetByte_written b hfind hwr]
    · rw [exec_targetWrite_eq, targetBytes, targetBytes, targetByte_counts b h]
    · refine ⟨_, ?_, exec_targetRead_eq s n addr len, fun k hk => ?_⟩
      · rw [List.length_map, List.length_range]
      · rw [byteAt, List.getD_eq_getElem?_getD, List.getElem?_map, List.getElem?_range hk]
        rfl
    · dsimp only [exec, execTargetCcc]
      rw [lift_eq, if_neg (Bool.eq_false_iff.1 hoff)]
    · dsimp only [exec, execTargetCcc]
      rw [lift_eq, if_pos hon]
      rfl
    · dsimp only [exec, execTargetCcc]
      rw [lift_eq, if_pos hon]
      cases hdyn : (emp s.dev n.val).dyn <;> simp [cccAddr]
    · dsimp only [exec, execTargetCcc]
      rw [lift_eq, if_pos hon]
      rfl
    · dsimp only [exec, execTargetCcc]
      rw [lift_eq, if_pos hon]
      rfl
    · dsimp only [exec, execRtAccRead]
      rw [lift_eq, ownerOnly, if_pos howner]
      exact ⟨_, rfl, rfl, rfl, empReg_regPut_same ..⟩
    · have hword := empReg_regPut_other s.dev n.val (o := 0x84) (p := 0x88) (2 * 2 ^ 30 + i.val) (by decide)
      dsimp only [exec, execRtAccWrite]
      rw [lift_eq, ownerOnly, if_pos howner, rtWrite, hword]
      refine ⟨_, rfl, rfl, ?_, fun k hk => ?_⟩
      · dsimp only
        rw [emp_setEmp_same]
        exact mget_mset_same ..
      · dsimp only
        rw [emp_setEmp_same]
        exact mget_mset_other _ _ _ _ _ hk
  · obtain ⟨e, he, hrest, hside⟩ := adoptToken_emp s.dev n.val
    have hepoch := congrArg Emp.epoch hrest.rest
    have hprimary := congrArg Emp.primary hrest.rest
    have hsec := congrArg Emp.secValid hrest.rest
    have hdispute := congrArg Emp.dispute hrest.rest
    have halone := congrArg Emp.alone hrest.rest
    have hforced := congrArg Emp.forced hrest.rest
    refine ⟨_, rfl, rfl, ?_⟩
    dsimp only
    rw [he]
    exact ⟨hepoch, hprimary, hsec, hdispute, halone, hforced, hside⟩
  · obtain ⟨t, ht, hpending, hemp⟩ := exec_disputeTimeout_emp s
    refine ⟨t, ht, hpending, fun n => ?_⟩
    rw [hemp n]
    refine ⟨fun h => ?_, fun h => ?_⟩
    · rw [disputeForces, if_pos h]
      exact ⟨rfl, rfl⟩
    · rw [disputeForces, if_neg (Bool.eq_false_iff.1 h)]
  · dsimp only [exec, execSafeStateAssert]
    rw [lift_eq]
    refine ⟨_, rfl, rfl, ?_, fun n => ?_⟩
    · dsimp only
      rw [allOkLow_safeIn]
    · dsimp only
      rw [allOkLow_emp]

end Sys2Proof.Proofs
end

section
/-! Claims, elections, leases and hand-over of ownership (R374 to R380). -/

namespace Sys2Proof.Machine

open Sys2Proof Sys2Proof.Safety

/-! ### Claims (R375, R376) -/

/-- A claim held pending. -/
def claimHeld (d : Dev) (q : Master) (t : Word) : Dev := { d with own := { d.own with pend := setMaster d.own.pend q t } }

section claims
variable {d : Dev} {q : Master} {reach : Nat}

theorem claim_refused (h : claimValid d (claimTermOf d q) = false) : claim d q reach = ownResult d q 1 := by
  simp [claim, h]

/-- A claim that reaches both pairs, or one alone where no other stands by, or in DISPUTE. -/
def ReachesAll (d : Dev) (reach : Nat) : Prop := reach = 0 ∨ d.flt.redundant = false ∨ d.own.st = .dispute

theorem claim_valid (h : claimValid d (claimTermOf d q) = true) (hall : ReachesAll d reach) :
    claim d q reach = validClaim d q (claimTermOf d q) := by
  have hall : (decide (reach = 0) || !d.flt.redundant || d.own.st == .dispute) = true := by
    rcases hall with h | h | h <;> simp [h]
  simp only [claim, h, hall, Bool.not_true, Bool.false_eq_true, if_false, if_true]

theorem validClaim_opens {t : Word} (h : d.own.st ≠ .owned ∨ d.own.electing = true) :
    validClaim d q t = ownResult (openWindow (claimHeld d q t)) q 2 := by
  cases hst : d.own.st with
  | owned =>
    have hel : d.own.electing = true := h.resolve_left fun hne => hne hst
    simp [validClaim, hst, hel, holdClaim, claimHeld]
  | _ => simp [validClaim, hst, holdClaim, claimHeld]

section owned
variable {t : Word} (hst : d.own.st = .owned) (hel : d.own.electing = false)
include hst hel

/-- A standing lease gives way to an election (R378). -/
theorem validClaim_standing (hstand : d.own.standing = true) :
    validClaim d q t = ownResult (openWindow { claimHeld d q t with
      own := { (claimHeld d q t).own with standing := false, owner := none, leaseEnd := 0 } }) q 2 := by
  simp [validClaim, hst, hel, hstand, holdClaim, claimHeld]

theorem validClaim_own (hstand : d.own.standing = false) (howner : d.own.owner = some q) :
    validClaim d q t = ownResult { d with own := { d.own with
      term := t, pairA := t, pairB := t, leaseEnd := d.clk.localNs + 10000000000 } } q 0 := by
  simp [validClaim, hst, hel, hstand, howner, setTerm, leaseNs]

theorem validClaim_other (hstand : d.own.standing = false) (howner : d.own.owner ≠ some q) :
    validClaim d q t = ownResult (claimHeld d q t) q 2 := by
  simp [validClaim, hst, hel, hstand, howner, holdClaim, claimHeld]

end owned

/-- The owner renews an ordinary lease with its claim. -/
abbrev Renews (o : Own) (q : Master) : Prop := o.st = .owned ∧ o.owner = some q ∧ o.standing = false

/-- A claim that reaches one pair only leaves the copies different (R380). -/
theorem claim_disputed (h : claimValid d (claimTermOf d q) = true) (hreach : reach ≠ 0)
    (hred : d.flt.redundant = true) (hst : d.own.st ≠ .dispute) :
    claim d q reach = ownResult (record { d with own := { d.own with
        pend := setMaster d.own.pend q (claimTermOf d q)
        pairA := if Renews d.own q ∧ reach = 1 then claimTermOf d q else d.own.pairA
        pairB := if Renews d.own q ∧ reach ≠ 1 then claimTermOf d q else d.own.pairB
        st := .dispute, owner := none, standing := false, electing := false, leaseEnd := 0 } }
      { fspec 3 0x01 0x13 with detail := d.own.term.toNat }) q 2 := by
  have hall : (decide (reach = 0) || !d.flt.redundant || d.own.st == .dispute) = false := by simp [hreach, hred, hst]
  have hrenews : (d.own.st == .owned && d.own.owner == some q && !d.own.standing) = decide (Renews d.own q) := by
    rw [Bool.eq_iff_iff]
    simp [Renews, and_assoc]
  rw [claim]
  dsimp only
  rw [h, hall, hrenews]
  by_cases hr : Renews d.own q
  · rw [decide_eq_true hr]
    by_cases h1 : reach = 1
    · rw [if_pos (c := reach = 1) h1, if_pos (c := Renews d.own q ∧ reach = 1) ⟨hr, h1⟩,
        if_neg (c := Renews d.own q ∧ reach ≠ 1) (fun h => h.2 h1)]
      rfl
    · rw [if_neg (c := reach = 1) h1, if_neg (c := Renews d.own q ∧ reach = 1) (fun h => h1 h.2),
        if_pos (c := Renews d.own q ∧ reach ≠ 1) ⟨hr, h1⟩]
      rfl
  · rw [decide_eq_false hr, if_neg (c := Renews d.own q ∧ reach = 1) (fun h => hr h.1),
      if_neg (c := Renews d.own q ∧ reach ≠ 1) (fun h => hr h.1)]
    rfl

end claims

/-! ### The owner's commands (R376 to R379) -/

section owner
variable {d : Dev} {q : Master} (f : Dev → Dev)

theorem ownerCommand_dispute (h : d.own.st = .dispute) : ownerCommand d q f = ownResult d q 4 := if_pos h

theorem ownerCommand_refused (h : d.own.st ≠ .dispute) (hno : d.own.st ≠ .owned ∨ d.own.owner ≠ some q) :
    ownerCommand d q f = ownResult d q 3 := by
  have hno : (decide (d.own.st = .owned) && d.own.owner == some q) = false := by
    rcases hno with h | h <;> simp [h]
  rw [ownerCommand, if_neg h, hno]
  rfl

theorem ownerCommand_done (hst : d.own.st = .owned) (howner : d.own.owner = some q) : ownerCommand d q f = ownResult (f d) q 0 := by
  simp [ownerCommand, hst, howner]

end owner

theorem handover_none {d : Dev} {dest : Nat} (h : masterNo dest = none) : handover d dest = leaseEnds d := by
  simp [handover, h]

theorem handover_noClaim {d : Dev} {dest : Nat} {p : Master} (h : masterNo dest = some p) (hp : ofMaster d.own.pend p = none) :
    handover d dest = leaseEnds d := by
  simp [handover, h, hp]

theorem handover_claim {d : Dev} {dest : Nat} {p : Master} {u : Word} (h : masterNo dest = some p) (hp : ofMaster d.own.pend p = some u) :
    handover d dest = makeOwner d p u := by
  simp [handover, h, hp]

/-! ### Elections (R376) -/

/-- One master's claim against the best so far: an equal term leaves the earlier one. -/
def betterClaim (o : Own) (a : Option (Master × Word)) (q : Master) : Option (Master × Word) :=
  match a, ofMaster o.pend q with
  | none, some t => some (q, t)
  | some x, some t => if x.2 < t then some (q, t) else some x
  | a, none => a

theorem winner_eq (o : Own) : winner o = betterClaim o (betterClaim o (betterClaim o none .h) .f) .m := rfl

/-- The best claim of the masters looked at so far. -/
def BestOf (o : Own) (l : List Master) (a : Option (Master × Word)) : Prop :=
  (∀ p u, a = some (p, u) → ofMaster o.pend p = some u ∧ ∀ c ∈ l, ∀ v, ofMaster o.pend c = some v → v ≤ u)
    ∧ (a = none → ∀ c ∈ l, ofMaster o.pend c = none)

theorem BestOf.add {o : Own} {l : List Master} {a : Option (Master × Word)} (h : BestOf o l a) (q : Master) :
    BestOf o (q :: l) (betterClaim o a q) := by
  obtain ⟨hbest, hnone⟩ := h
  cases hq : ofMaster o.pend q with
  | none =>
    have hsame : betterClaim o a q = a := by cases a <;> simp [betterClaim, hq]
    rw [hsame]
    refine ⟨fun p u hp => ⟨(hbest p u hp).1, fun c hm v hv => ?_⟩, fun ha c hm => ?_⟩
    · rcases List.mem_cons.1 hm with rfl | hm
      · rw [hq] at hv
        cases hv
      · exact (hbest p u hp).2 c hm v hv
    · rcases List.mem_cons.1 hm with rfl | hm
      · exact hq
      · exact hnone ha c hm
  | some t =>
    cases a with
    | none =>
      have hnew : betterClaim o none q = some (q, t) := by simp [betterClaim, hq]
      rw [hnew]
      refine ⟨fun p u hp => ?_, nofun⟩
      obtain ⟨rfl, rfl⟩ := Prod.mk.inj (Option.some.inj hp)
      refine ⟨hq, fun c hm v hv => ?_⟩
      rcases List.mem_cons.1 hm with rfl | hm
      · rw [hq] at hv
        exact Option.some.inj hv ▸ BitVec.le_refl _
      · rw [hnone rfl c hm] at hv
        cases hv
    | some x =>
      obtain ⟨y, w⟩ := x
      obtain ⟨hy, hall⟩ := hbest y w rfl
      have hstep : betterClaim o (some (y, w)) q = if w < t then some (q, t) else some (y, w) := by simp [betterClaim, hq]
      rw [hstep]
      by_cases hlt : w < t
      · rw [if_pos hlt]
        refine ⟨fun p u hp => ?_, nofun⟩
        obtain ⟨rfl, rfl⟩ := Prod.mk.inj (Option.some.inj hp)
        refine ⟨hq, fun c hm v hv => ?_⟩
        rcases List.mem_cons.1 hm with rfl | hm
        · rw [hq] at hv
          exact Option.some.inj hv ▸ BitVec.le_refl _
        · exact BitVec.le_trans (hall c hm v hv) (BitVec.le_of_lt hlt)
      · rw [if_neg hlt]
        refine ⟨fun p u hp => ?_, nofun⟩
        obtain ⟨rfl, rfl⟩ := Prod.mk.inj (Option.some.inj hp)
        refine ⟨hy, fun c hm v hv => ?_⟩
        rcases List.mem_cons.1 hm with rfl | hm
        · rw [hq] at hv
          rw [← Option.some.inj hv]
          exact BitVec.not_lt.1 hlt
        · exact hall c hm v hv

theorem winner_best {o : Own} {p : Master} {u : Word} (h : winner o = some (p, u)) :
    ofMaster o.pend p = some u ∧ ∀ c v, ofMaster o.pend c = some v → v ≤ u := by
  have hstart : BestOf o [] none := ⟨nofun, fun _ _ hm => absurd hm List.not_mem_nil⟩
  obtain ⟨hbest, -⟩ := ((hstart.add .h).add .f).add .m
  obtain ⟨hp, hall⟩ := hbest p u h
  exact ⟨hp, fun c v hv => hall c (by cases c <;> simp) v hv⟩

theorem afterTimer_own (d : Dev) (t : Timer) (ns : Nat) : (afterTimer d t ns).own = d.own := by
  unfold afterTimer
  split <;> rfl

end Sys2Proof.Machine

namespace Sys2Proof.Proofs

open Sys2Proof Sys2Proof.Machine Sys2Proof.Safety

section commands
variable {s : State} (src : Iface)

theorem ownCmd_reset {d : Dev} (h : d.boot.st = .reset) (q : Master) (op dest reach : Nat) : ownCmd d q op dest reach = d := if_pos h

/-- In RESET no command of ownership acts (R374). -/
theorem exec_ownership_reset (h : s.dev.boot.st = .reset) {i : Instr} (hi : i ∈ [Instr.claim src 0, .claim src 1, .claim src 2, .renew src,
    .ownRelease src, .handover src 0, .handover src 1, .handover src 2, .handover src 3, .ownCmdBadOp src 0, .ownCmdBadOp src 1,
    .ownCmdBadOp src 2]) : exec i s = .next s := by
  simp only [List.mem_cons, List.not_mem_nil, or_false] at hi
  rcases hi with rfl | rfl | rfl | rfl | rfl | rfl | rfl | rfl | rfl | rfl | rfl | rfl <;>
    dsimp only [exec, execClaim, execRenew, execOwnRelease, execHandover, execOwnCmdBadOp] <;> rw [lift_eq, ownCmd_reset h]

variable (h : s.dev.boot.st ≠ .reset)
include h

theorem exec_claim_on (reach : Fin 3) :
    exec (.claim src reach) s = .next { s with dev := claim s.dev (masterOf src) reach.val } := by
  dsimp only [exec, execClaim]
  rw [lift_eq, ownCmd, if_neg h]

theorem exec_renew_on : exec (.renew src) s = .next { s with dev := ownerCommand s.dev (masterOf src) renew } := by
  dsimp only [exec, execRenew]
  rw [lift_eq, ownCmd, if_neg h]

theorem exec_ownRelease_on : exec (.ownRelease src) s = .next { s with dev := ownerCommand s.dev (masterOf src) leaseEnds } := by
  dsimp only [exec, execOwnRelease]
  rw [lift_eq, ownCmd, if_neg h]

theorem exec_handover_on (dest : Fin 4) :
    exec (.handover src dest) s = .next { s with dev := ownerCommand s.dev (masterOf src) (fun d => handover d dest.val) } := by
  dsimp only [exec, execHandover]
  rw [lift_eq, ownCmd, if_neg h]

theorem exec_ownCmdBadOp_on (k : Fin 3) : exec (.ownCmdBadOp src k) s = .next { s with dev := ownResult s.dev (masterOf src) 5 } := by
  dsimp only [exec, execOwnCmdBadOp]
  rw [lift_eq]
  fin_cases k <;> exact congrArg (fun e => Host.Outcome.next { s with dev := e }) (if_neg h)

/-- The commands that are the owner's. -/
theorem exec_ownerCommand {i : Instr} (hi : i ∈ [Instr.renew src, .ownRelease src, .handover src 0, .handover src 1, .handover src 2,
    .handover src 3]) : ∃ f, exec i s = .next { s with dev := ownerCommand s.dev (masterOf src) f } := by
  simp only [List.mem_cons, List.not_mem_nil, or_false] at hi
  rcases hi with rfl | rfl | rfl | rfl | rfl | rfl
  · exact ⟨_, exec_renew_on src h⟩
  · exact ⟨_, exec_ownRelease_on src h⟩
  all_goals exact ⟨_, exec_handover_on src h _⟩

end commands

/-- Settles O46: by the state of ownership in which a claim or a command of a master comes. -/
theorem ownershipComplete : Obligations.OwnershipComplete := by
  unfold Obligations.OwnershipComplete
  intro s src
  dsimp only
  refine ⟨fun hreset i hi => exec_ownership_reset src hreset hi, fun hrun => ⟨fun reach hbad => ?_, fun reach hvalid hall => ⟨fun hopens => ?_,
    fun hst hel => ⟨fun hstand => ?_, fun hstand howner => ?_, fun hstand howner => ?_⟩⟩, fun reach hvalid hreach hred hst => ?_,
    fun i hi => ⟨fun hst => ?_, fun hst hno => ?_⟩, fun hst howner => ⟨?_, ?_, fun dest hdest => ?_, fun dest p hdest hp => ?_,
      fun dest p u hdest hp => ?_⟩, fun k => exec_ownCmdBadOp_on src hrun k⟩, ?_, rfl, ?_, fun hel => ?_, fun hel => ⟨fun p u hw => ?_, fun hw => ?_⟩,
    fun p u hw => winner_best hw, fun p u => rfl, fun hruns => ?_, fun hruns => ?_⟩
  · rw [exec_claim_on src hrun, claim_refused hbad]
  · rw [exec_claim_on src hrun, claim_valid hvalid hall, validClaim_opens hopens]
    rfl
  · rw [exec_claim_on src hrun, claim_valid hvalid hall, validClaim_standing hst hel hstand]
    rfl
  · rw [exec_claim_on src hrun, claim_valid hvalid hall, validClaim_own hst hel hstand howner]
  · rw [exec_claim_on src hrun, claim_valid hvalid hall, validClaim_other hst hel hstand howner]
    rfl
  · rw [exec_claim_on src hrun, claim_disputed hvalid hreach hred hst]
  · obtain ⟨f, hf⟩ := exec_ownerCommand src hrun hi
    rw [hf, ownerCommand_dispute f hst]
  · obtain ⟨f, hf⟩ := exec_ownerCommand src hrun hi
    rw [hf, ownerCommand_refused f hst hno]
  · rw [exec_renew_on src hrun, ownerCommand_done _ hst howner]
    rfl
  · rw [exec_ownRelease_on src hrun, ownerCommand_done _ hst howner]
  · rw [exec_handover_on src hrun, ownerCommand_done _ hst howner, handover_none hdest]
  · rw [exec_handover_on src hrun, ownerCommand_done _ hst howner, handover_noClaim hdest hp]
  · rw [exec_handover_on src hrun, ownerCommand_done _ hst howner, handover_claim hdest hp]
  · by_cases hst : s.dev.own.st = .dispute <;> simp [claimValid, hst]
  · simp only [leaseEnds, List.isEmpty_iff]
  · dsimp only [exec, execElectionClose]
    rw [lift_eq, hel]
    rfl
  · dsimp only [exec, execElectionClose]
    rw [lift_eq, hel, afterTimer_own, hw]
    rfl
  · dsimp only [exec, execElectionClose]
    rw [lift_eq, hel, afterTimer_own, hw]
    rfl
  · obtain ⟨hst, howner, hstand⟩ := hruns
    dsimp only [exec, execLeaseExpire]
    rw [lift_eq, if_pos]
    simp [hst, Option.isSome_iff_ne_none, howner, hstand]
  · dsimp only [exec, execLeaseExpire]
    rw [lift_eq, if_neg]
    intro hc
    refine hruns ?_
    simpa [Option.isSome_iff_ne_none, and_assoc] using hc

end Sys2Proof.Proofs
end

section
/-! Commands of jobs at an emulation port, and commits that arrive (R288 to R294). -/

namespace Sys2Proof.Machine

open Sys2Proof Sys2Proof.Safety

section run
variable {d : Dev} {n op : Nat} {f : Emp → EngCmd → Emp × List Byte} {c : EngCmd}

/-- The port once the command has left its list. -/
def empTaken (e : Emp) (c : EngCmd) : Emp := { e with cmds := e.cmds.erase c }

theorem empRun_none (h : empFront (emp d n) op = none) : empRun d n op f = d := by simp [empRun, h]

variable (h : empFront (emp d n) op = some c)
include h

theorem empRun_malformed (hbad : empCmdOk c.bytes = false) :
    empRun d n op f = engineWord (setEmp d n (empTaken (emp d n) c)) c (empWord 1 0 []) := by
  simp [empRun, h, hbad, empTaken]

theorem empRun_off (hok : empCmdOk c.bytes = true) (hoff : (emp d n).enabled = false) :
    empRun d n op f = engineWord (setEmp d n (empTaken (emp d n) c)) c (empWord 4 0 []) := by
  simp [empRun, h, hok, hoff, empTaken]

theorem empRun_epoch (hok : empCmdOk c.bytes = true) (hon : (emp d n).enabled = true) (hep : badEpoch (emp d n) c = true) :
    empRun d n op f = engineWord (setEmp d n (empTaken (emp d n) c)) c (empWord 5 0 []) := by
  simp [empRun, h, hok, hon, hep, empTaken]

theorem empRun_accepted (hok : empCmdOk c.bytes = true) (hon : (emp d n).enabled = true) (hep : badEpoch (emp d n) c = false) {g : Emp}
    {w : List Byte} (hf : f (empTaken (emp d n) c) c = (g, w)) : empRun d n op f = engineWord (setEmp d n g) c w := by
  have hrun : empRun d n op f = engineWord (setEmp d n (f (empTaken (emp d n) c) c).1) c (f (empTaken (emp d n) c) c).2 := by
    simp [empRun, h, hok, hon, hep, empTaken]
  rw [hrun, hf]

end run

/-- The next command has the OP that was asked for. -/
theorem empFront_op {e : Emp} {op : Nat} {c : EngCmd} (h : empFront e op = some c) : leAt c.bytes 0 1 = op := by
  unfold empFront at h
  split at h
  · split at h
    · next hop =>
      cases h
      exact hop
    · cases h
  · cases h

/-- A COMMIT that is well formed is of a base or of an overlay. -/
theorem empCmdOk_layer {b : List Byte} (hok : empCmdOk b = true) (hop : leAt b 0 1 = 2) : leAt b 2 1 = 0 ∨ leAt b 2 1 = 1 := by
  simp only [empCmdOk, hop, Bool.and_eq_true] at hok
  have hle : leAt b 2 1 ≤ 1 := by simpa using hok.2
  omega

/-! ### The tests of COMMIT and TICKET -/

section tests
variable {e : Emp} {pool buf side slot layer : Nat} {tag : Word}

theorem commit_held (h : buf < pool ∧ ebuf e side buf = .prod slot) : ¬ (decide (pool ≤ buf) || ebuf e side buf != .prod slot) = true := by
  simp [Nat.not_le.2 h.1, h.2]

theorem commit_notHeld (h : ¬ (buf < pool ∧ ebuf e side buf = .prod slot)) :
    (decide (pool ≤ buf) || ebuf e side buf != .prod slot) = true := by
  by_contra hc
  refine h ?_
  simpa using hc

/-- A base commit, or an overlay whose base is pending. -/
def Based (e : Emp) (layer side : Nat) (tag : Word) : Prop :=
  layer = 0 ∨ ∃ b ∈ e.commits, b.layer = 0 ∧ b.side = side ∧ b.ovl = true ∧ b.frameTag = tag ∧ arrived b = true

theorem commit_based (h : Based e layer side tag) : ¬ (decide (layer = 1) && !e.commits.any (fun x =>
    x.layer == 0 && x.side == side && x.ovl && x.frameTag == tag && arrived x)) = true := by
  rcases h with h | ⟨b, hb, hlayer, hside, hovl, htag, harr⟩
  · simp [h]
  · have hany : e.commits.any (fun x => x.layer == 0 && x.side == side && x.ovl && x.frameTag == tag && arrived x) = true :=
      List.any_eq_true.2 ⟨b, hb, by simp [hlayer, hside, hovl, htag, harr]⟩
    rw [hany]
    simp

theorem commit_orphan (hlayer : layer = 0 ∨ layer = 1) (h : ¬ Based e layer side tag) : (decide (layer = 1) && !e.commits.any (fun x =>
    x.layer == 0 && x.side == side && x.ovl && x.frameTag == tag && arrived x)) = true := by
  have h1 : layer = 1 := hlayer.resolve_left fun h0 => h (.inl h0)
  have hnone : e.commits.any (fun x => x.layer == 0 && x.side == side && x.ovl && x.frameTag == tag && arrived x) = false := by
    refine List.any_eq_false.2 fun b hb hx => h (.inr ⟨b, hb, ?_⟩)
    simpa [and_assoc] using hx
  rw [hnone, decide_eq_true h1]
  rfl

/-- The answer of TICKET, by whether the port still knows the frame's ticket (R290). -/
def ticketAnswer (e : Emp) (last f : Nat) (x : Word) : Emp × List Byte :=
  match e.tickets.find? (fun t => t.frame == f) with
  | some t => (e, empWord 0 0 (leBytes 4 t.num ++ leBytes 4 f ++ leBytes 4 t.e.toNat))
  | none => if last < f then (e, empWord 0 1 (leBytes 4 0 ++ leBytes 4 f ++ leBytes 4 x.toNat)) else (e, empWord 7 0 [])

theorem ticketAnswer_some {last f : Nat} {x : Word} {t : Ticket} (h : e.tickets.find? (fun t => t.frame == f) = some t) :
    ticketAnswer e last f x = (e, empWord 0 0 (leBytes 4 t.num ++ leBytes 4 f ++ leBytes 4 t.e.toNat)) := by
  rw [ticketAnswer, h]

theorem ticketAnswer_none {last f : Nat} {x : Word} (h : e.tickets.find? (fun t => t.frame == f) = none) :
    ticketAnswer e last f x =
      if last < f then (e, empWord 0 1 (leBytes 4 0 ++ leBytes 4 f ++ leBytes 4 x.toNat)) else (e, empWord 7 0 []) := by
  rw [ticketAnswer, h]

end tests

/-! ### EMPn_COMMIT (R291) -/

theorem empCommitWrite_ok {d : Dev} {n buf : Nat} {e : Emp} (he : e = emp d n) (hok : e.enabled = true ∧ paired d = false
    ∧ buf < empPool d n 0 ∧ ebuf e 0 buf = .free ∧ sideQueued e 0 < 16) {x : Commit}
    (hx : x = { side := 0, layer := 0, buf := buf, ovl := false, frameTag := 0, jobTag := 0, genId := 0, eR := 0, slot := none
                arriveAt := some 0, target := 0, level := 0, vfor := 0, arrSeq := 0, crc0 := 0, crc1 := 0 }) :
    empCommitWrite d n buf = setEmp d n (arriveCommit d n (setEbuf { e with commits := e.commits ++ [x] } 0 buf .cons) x) := by
  obtain ⟨hon, hpaired, hbuf, hfree, hroom⟩ := hok
  subst he hx
  simp [empCommitWrite, hon, hpaired, Nat.not_le.2 hbuf, hfree, Nat.not_le.2 hroom]

theorem empCommitWrite_refused {d : Dev} {n buf : Nat} (h : ¬ ((emp d n).enabled = true ∧ paired d = false ∧ buf < empPool d n 0
    ∧ ebuf (emp d n) 0 buf = .free ∧ sideQueued (emp d n) 0 < 16)) :
    empCommitWrite d n buf = record d { fspec 0 0x0F 0x02 with unit := n, detail := empBase n + 0x40 } := by
  refine if_pos ?_
  by_contra hc
  refine h ?_
  simpa [and_assoc] using hc

end Sys2Proof.Machine

namespace Sys2Proof.Proofs

open Sys2Proof Sys2Proof.Machine Sys2Proof.Safety

/-- The commands of jobs, with their OPs. -/
def empCommands (n : Fin 16) : List (Instr × Nat) := [(.acquire n, 1), (.commit n, 2), (.empReturn n, 3), (.ticket n, 4)]

theorem exec_empCommand (s : State) {n : Fin 16} {x : Instr × Nat} (hx : x ∈ empCommands n) :
    ∃ f, exec x.1 s = .next { s with dev := empRun s.dev n.val x.2 f } := by
  simp only [empCommands, List.mem_cons, List.not_mem_nil, or_false] at hx
  rcases hx with rfl | rfl | rfl | rfl
  all_goals exact ⟨_, rfl⟩

/-- Settles O35: by the test of the command that fails, or the buffer that it takes. -/
theorem emulationCommandsComplete : Obligations.EmulationCommandsComplete := by
  unfold Obligations.EmulationCommandsComplete
  intro s n
  dsimp only
  refine ⟨fun x hx h => ?_, fun x hx c h => ⟨fun hbad => ?_, fun hok hoff => ?_, fun hok hon hep => ?_⟩, fun c op h hok hon hep => ?_,
    fun h => ?_, fun at_ c h => ?_, fun src buf howner => ?_⟩
  · obtain ⟨f, hf⟩ := exec_empCommand s hx
    rw [hf, empRun_none h]
  · obtain ⟨f, hf⟩ := exec_empCommand s hx
    rw [hf, empRun_malformed h hbad]
    rfl
  · obtain ⟨f, hf⟩ := exec_empCommand s hx
    rw [hf, empRun_off h hok hoff]
    rfl
  · obtain ⟨f, hf⟩ := exec_empCommand s hx
    rw [hf, empRun_epoch h hok hon hep]
    rfl
  · refine ⟨fun hop hfree => ?_, fun hop hfree => ?_, fun hop hheld hbased => ?_, fun hop hheld hbased => ?_, fun hop hheld => ?_,
      fun hop hheld => ?_, fun hop hheld => ?_, fun hop => ⟨fun t ht => ?_, fun ht hlast => ?_, fun ht hlast => ?_⟩⟩ <;> subst hop
    · dsimp only [exec, execAcquire]
      rw [lift_eq, empRun_accepted h hok hon hep]
      exact if_neg fun hempty => hfree (List.isEmpty_iff.1 hempty)
    · dsimp only [exec, execAcquire]
      rw [lift_eq, empRun_accepted h hok hon hep]
      exact if_pos (List.isEmpty_iff.2 hfree)
    · dsimp only [exec, execCommit]
      rw [lift_eq, empRun_accepted h hok hon hep]
      exact (if_neg (commit_held hheld)).trans (if_neg (commit_based hbased))
    · dsimp only [exec, execCommit]
      rw [lift_eq, empRun_accepted h hok hon hep]
      exact (if_neg (commit_held hheld)).trans (if_pos (commit_orphan (empCmdOk_layer hok (empFront_op h)) hbased))
    · dsimp only [exec, execCommit]
      rw [lift_eq, empRun_accepted h hok hon hep]
      exact if_pos (commit_notHeld hheld)
    · dsimp only [exec, execEmpReturn]
      rw [lift_eq, empRun_accepted h hok hon hep]
      exact if_pos hheld
    · dsimp only [exec, execEmpReturn]
      rw [lift_eq, empRun_accepted h hok hon hep]
      exact if_neg hheld
    · dsimp only [exec, execTicket]
      rw [lift_eq, empRun_accepted h hok hon hep]
      exact ticketAnswer_some (e := empTaken (emp s.dev n.val) c)
        (x := exposureNow s.dev n.val (empTaken (emp s.dev n.val) c)) ht
    · dsimp only [exec, execTicket]
      rw [lift_eq, empRun_accepted h hok hon hep]
      exact (ticketAnswer_none (e := empTaken (emp s.dev n.val) c)
        (x := exposureNow s.dev n.val (empTaken (emp s.dev n.val) c)) ht).trans (if_pos hlast)
    · dsimp only [exec, execTicket]
      rw [lift_eq, empRun_accepted h hok hon hep]
      exact (ticketAnswer_none (e := empTaken (emp s.dev n.val) c)
        (x := exposureNow s.dev n.val (empTaken (emp s.dev n.val) c)) ht).trans (if_neg (Nat.not_lt.2 hlast))
  · dsimp only [exec, execCommitArrive]
    rw [lift_eq, h]
  · dsimp only [exec, execCommitArrive]
    rw [lift_eq, h]
  · have hrun : exec (.empCommitWrite src n buf) s = .next { s with dev := empCommitWrite s.dev n.val buf.val } := by
      dsimp only [exec, execEmpCommitWrite]
      rw [lift_eq, ownerOnly, if_pos howner]
    rw [hrun]
    exact ⟨fun hok => by rw [empCommitWrite_ok rfl hok rfl], fun hbad => by rw [empCommitWrite_refused hbad]⟩

end Sys2Proof.Proofs
end

section
/-! What a record adds to what is sent out, and what a frame decision takes of a port (R297, R308). -/

namespace Sys2Proof.Machine

open Sys2Proof Sys2Proof.Safety

/-! ### Records and what is sent out -/

theorem raiseOn_out (d : Dev) (link vec : Nat) : d.out <+: (raiseOn d link vec).out := by
  unfold raiseOn
  extract_lets tbl up masked
  split
  · exact List.prefix_rfl
  · split
    · split <;> exact List.prefix_rfl
    · exact List.prefix_append ..

theorem recordAt_out (d : Dev) (f : FSpec) (us : Nat) (late con : Bool) : d.out <+: (recordAt d f us late con).out := by
  unfold recordAt
  extract_lets r k full hit flt fl d1 bk d2 v d3
  have h2 : d2.out = d.out := by
    unfold d2
    split <;> rfl
  have h3 : d.out <+: d3.out := by
    unfold d3
    split
    · exact (h2 ▸ raiseOn_out d2 0 _).trans (raiseOn_out _ 1 _)
    · rw [h2]
  split
  · exact h3.trans (List.prefix_append ..)
  · exact h3

/-- A record only adds to what has been sent out. -/
theorem record_out (d : Dev) (f : FSpec) : d.out <+: (record d f).out := by
  unfold record
  split
  · exact recordAt_out ..
  · exact recordAt_out (drawFree d 16).2 f _ _ _

/-! ### What a frame decision takes of a port -/

/-- What a port shows apart from its queue is kept. -/
theorem QueueOnly.same {α : Type} {e f : Emp} (h : QueueOnly e f) (p : Emp → α)
    (hp : ∀ (g : Emp) b0 b1 cs st fr ps sup dis, p { g with
      bufs0 := b0, bufs1 := b1, commits := cs, csState := st, csFrame := fr, pass := ps, cSuperseded := sup, cDiscarded := dis } = p g) :
    p f = p e := by
  rw [← hp f e.bufs0 e.bufs1 e.commits e.csState e.csFrame e.pass e.cSuperseded e.cDiscarded, h.rest]

/-- The port differs in its queue of commits, its repeat source and its count of repeats. -/
structure FrameTakes (e f : Emp) : Prop where
  rest : { f with
      bufs0 := e.bufs0, bufs1 := e.bufs1, commits := e.commits, csState := e.csState, csFrame := e.csFrame, pass := e.pass
      cSuperseded := e.cSuperseded, cDiscarded := e.cDiscarded, source := e.source, repeats := e.repeats } = e

namespace FrameTakes

/-- What a port shows apart from its queue and its repeat source is kept. -/
theorem same {α : Type} {e f : Emp} (h : FrameTakes e f) (p : Emp → α)
    (hp : ∀ (g : Emp) b0 b1 cs st fr ps sup dis src rep, p { g with
      bufs0 := b0, bufs1 := b1, commits := cs, csState := st, csFrame := fr, pass := ps, cSuperseded := sup, cDiscarded := dis
      source := src, repeats := rep } = p g) : p f = p e := by
  rw [← hp f e.bufs0 e.bufs1 e.commits e.csState e.csFrame e.pass e.cSuperseded e.cDiscarded e.source e.repeats, h.rest]

theorem refl (e : Emp) : FrameTakes e e := ⟨rfl⟩

theorem trans {a b c : Emp} (h : FrameTakes a b) (k : FrameTakes b c) : FrameTakes a c := by
  have hb := h.rest
  rw [← k.rest] at hb
  exact ⟨hb⟩

theorem of_queue {e f : Emp} (h : QueueOnly e f) : FrameTakes e f := by
  have hrest := congrArg (fun f => { f with source := e.source, repeats := e.repeats }) h.rest
  exact ⟨hrest⟩

theorem source (e : Emp) (x : Option Sent) : FrameTakes e { e with source := x } := ⟨rfl⟩

theorem repeats (e : Emp) (k : Nat) : FrameTakes e { e with repeats := k } := ⟨rfl⟩

theorem dropSource (e : Emp) : FrameTakes e (dropSource e) := by
  unfold Machine.dropSource
  split
  · exact (of_queue (freeSent_queueOnly e _)).trans (source _ _)
  · exact refl e

theorem takeCommit (e : Emp) (f : Nat) (c : Commit) : FrameTakes e (takeCommit e f c).1 := by
  unfold Machine.takeCommit
  extract_lets mine ls e1
  exact of_queue ((QueueOnly.fold (f := fun e x => Machine.noteCommit e x 2 f) (fun e x => .noteCommit e x 2 f) _ e).trans (.commits _ _))

theorem sendSide (e : Emp) (cf : EmpCfg) (f : Nat) (eA : Word) (c : Commit) (v : Nat) : FrameTakes e (sendSide e cf f eA c v).1 :=
  takeCommit e f c

theorem freeCommits (e : Emp) (l : List Commit) : FrameTakes e (l.foldl freeCommit e) := of_queue (.fold .freeCommit l e)

theorem decideFrame (d : Dev) (n f : Nat) (e : Emp) (eA : Word) : FrameTakes e (decideFrame d n f e eA).1 := by
  unfold Machine.decideFrame
  extract_lets cf safe p s deg one
  have hsafe : FrameTakes e (safe e).1 := (repeats e 0).trans (dropSource _)
  have hone (c : Commit) (v fl : Nat) (pd : Bool) : FrameTakes e (one c v fl pd).1 := (sendSide e cf f eA c v).trans (repeats _ 0)
  split
  · exact hsafe
  split
  · split
    · split
      · exact repeats ..
      · exact hsafe
    · exact hsafe
  · exact hone ..
  · exact hone ..
  · dsimp only
    refine FrameTakes.trans ?_ (freeCommits _ _)
    refine FrameTakes.trans ?_ (takeCommit _ _ _)
    (repeat' split) <;> exact hone ..
  · exact hsafe

end FrameTakes

/-- While SAFE_STATE_N is low a frame is a safe one (R308, R309). -/
theorem decideFrame_safe {d : Dev} (hsafe : d.ports.safeIn = true) (n f : Nat) (e : Emp) (eA : Word) :
    decideFrame d n f e eA = (dropSource { e with repeats := 0 }, ⟨none, 2 ^ 5, false⟩) := by
  unfold decideFrame
  extract_lets cf safe p s deg one
  exact if_pos (by simp [hsafe])

theorem dropSource_source (e : Emp) : (dropSource e).source = none := by
  unfold dropSource
  split
  · rfl
  · next h => exact h

/-- Supersession takes from the queue alone (R293). -/
theorem settle_queueOnly (e : Emp) : QueueOnly e (settle e) := by
  unfold settle
  refine .fold (fun e c => ?_) _ _
  dsimp only
  split
  · exact .dropOne ..
  · exact .refl e

/-! ### A Frame Start (R285, R297) -/

theorem untilLocal_localNs (d : Dev) (t : Nat) : (untilLocal d t).clk.localNs = max d.clk.localNs t := by
  rw [untilLocal, elapse_localNs]
  omega

theorem sentComps_length (d : Dev) (n : Nat) (cf : EmpCfg) (s : Option Sent) : (sentComps d n cf s).length = cf.h := by
  unfold sentComps
  split
  · exact List.length_replicate
  · split
    · exact List.length_replicate
    · simp [frameComps]

theorem packFrame_length (dt : Nat) (cs : List (List (Nat × Bool))) : (packFrame dt cs).length = cs.length := by simp [packFrame]

theorem asLines_length (k z : Nat) (bs : List Byte) : (asLines k z bs).length = k := by simp [asLines]

@[simp] theorem emp_record (d : Dev) (f : FSpec) (n : Nat) : emp (record d f) n = emp d n := by
  have h := congrArg (fun e : Dev => mget e.ports.emp n Emp.reset) (record_only d f).rest
  exact h

/-- The block of a Frame Start before its audits: the frame on air, and whether EMP_OK may be high. -/
structure FrameStarted (d : Dev) (n : Nat) (e : Dev) (good : Bool) : Prop where
  clk : e.clk.localNs = d.clk.localNs
  frame : (emp e n).frame = some (nextFrame (emp d n))
  phase : (emp e n).phase = .active
  edge : (emp e n).edge = none
  fsLocal : (emp e n).fsLocal = d.clk.localNs
  lines : (emp e n).lines.length = activeLines (empCfg d n)
  ticketNo : (emp e n).ticketNo = ((emp d n).ticketNo + 1) % 2 ^ 32
  safe : d.ports.safeIn = true → (emp e n).safeAir = true ∧ (emp e n).onAir = none ∧ (emp e n).source = none ∧ good = false
    ∧ (emp e n).cSafe = satAdd 16 (emp d n).cSafe 1

theorem frameStart_spec (d : Dev) (n : Nat) : ∃ e good, frameStart d n =
      setOk (empAudit (empAudit e n 0) n 1) n (good && (emp (empAudit (empAudit e n 0) n 1) n).enabled)
    ∧ FrameStarted d n e good := by
  unfold frameStart
  extract_lets e0 cf f x t ts e1 tk r e2 ch safe fenced fl cs img crc want tags info z l3 lines good miss e3 e4 d1 fs d2 d3
  have htakes : FrameTakes e1 e2 := .decideFrame d n f e1 tk.e
  have hsettle := settle_queueOnly { e3 with
    phase := .active, frame := some f, fsLocal := d.clk.localNs, edge := none, onAir := ch.sent, safeAir := safe, lines := lines
    crcBad := miss, cCrcFail := satAdd 8 e2.cCrcFail (flag miss), cPairDiff := satAdd 8 e2.cPairDiff (flag ch.pairDiff) }
  have hemp : emp d2 n = e4 := by
    have h1 : emp d1 n = e4 := emp_setEmp_same ..
    unfold d2
    split
    · rw [emp_record, h1]
    · exact h1
  have hclk : d2.clk.localNs = d.clk.localNs := by
    have h1 : d1.clk.localNs = d.clk.localNs := by
      unfold d1
      split <;> rfl
    unfold d2
    split
    · rw [record_clk, h1]
    · exact h1
  refine ⟨d2, good, rfl, hclk, ?_, ?_, ?_, ?_, ?_, ?_, fun hsafe => ?_⟩
  · rw [hemp]
    exact hsettle.same Emp.frame (by intros; rfl)
  · rw [hemp]
    exact hsettle.same Emp.phase (by intros; rfl)
  · rw [hemp]
    exact hsettle.same Emp.edge (by intros; rfl)
  · rw [hemp]
    exact hsettle.same Emp.fsLocal (by intros; rfl)
  · rw [hemp, show e4.lines = lines from hsettle.same Emp.lines (by intros; rfl)]
    simp only [lines, List.length_append, asLines_length, img, packFrame_length, cs, sentComps_length]
    rfl
  · rw [hemp, show e4.ticketNo = e3.ticketNo from hsettle.same Emp.ticketNo (by intros; rfl)]
    exact htakes.same Emp.ticketNo (by intros; rfl)
  · have hdecide : r = (dropSource { e1 with repeats := 0 }, ⟨none, 2 ^ 5, false⟩) := decideFrame_safe hsafe n f e1 tk.e
    have hch : ch = ⟨none, 2 ^ 5, false⟩ := congrArg Prod.snd hdecide
    have hfl : fl = 2 ^ 5 := by
      simp [fl, safe, hch]
    have hcount : e2.cSafe = e0.cSafe := htakes.same Emp.cSafe (by intros; rfl)
    rw [hemp]
    refine ⟨?_, ?_, ?_, ?_, ?_⟩
    · rw [show e4.safeAir = safe from hsettle.same Emp.safeAir (by intros; rfl)]
      simp [safe, hch]
    · rw [show e4.onAir = ch.sent from hsettle.same Emp.onAir (by intros; rfl), hch]
    · rw [show e4.source = e2.source from hsettle.same Emp.source (by intros; rfl), show e2 = r.1 from rfl, hdecide]
      exact dropSource_source _
    · have h5 : bit fl 5 = true := by
        rw [hfl]
        rfl
      simp [good, h5]
    · rw [show e4.cSafe = satAdd 16 e2.cSafe (flag (bit fl 5)) from hsettle.same Emp.cSafe (by intros; rfl), hfl, hcount]
      rfl

/-! ### The end of a frame (R285, R297, R299) -/

/-- The port as its frame is over, before its repeat source and its phase are settled. -/
def airClear (e : Emp) : Emp := { e with onAir := none, safeAir := e.safeAir, lines := [] }

/-- The phase of a port after its frame (R285). -/
def phaseAfter (e : Emp) : EPhase :=
  if !e.enabled || e.frame.isNone then (if e.enabled then .waiting else .off) else .blank

/-- The end of a frame takes the repeat source and the lines, and sets the phase. -/
theorem airEnds_takes (e : Emp) : FrameTakes (airClear e) { airEnds e with phase := e.phase } ∧ (airEnds e).phase = phaseAfter e := by
  have hphase {x y : Emp} (h : FrameTakes x y) (hx : x = airClear e) (p : EPhase) :
      FrameTakes (airClear e) { { y with phase := p } with phase := e.phase } := by
    subst hx
    have hy := congrArg (fun x => { x with phase := e.phase }) h.rest
    exact ⟨hy⟩
  unfold airEnds phaseAfter
  rw [← airClear]
  dsimp only
  split
  · refine ⟨hphase (.trans ?_ (.dropSource _)) rfl _, rfl⟩
    split
    · split
      · exact .refl _
      · exact .of_queue (freeSent_queueOnly _ _)
    · exact .refl _
  · split
    · next s _ =>
      split
      · exact ⟨hphase (.refl _) rfl _, rfl⟩
      · have hsource : FrameTakes (airClear e) { dropSource (airClear e) with source := some s } := (FrameTakes.dropSource _).trans (.source _ _)
        exact ⟨hphase hsource rfl .blank, rfl⟩
    · exact ⟨hphase (.refl _) rfl _, rfl⟩

theorem airEnds_lines (e : Emp) : (airEnds e).lines = [] := (airEnds_takes e).1.same Emp.lines (by intros; rfl)

theorem phaseAfter_over (e : Emp) : phaseAfter e ≠ .active := by
  unfold phaseAfter
  split
  · split <;> exact EPhase.noConfusion
  · exact EPhase.noConfusion

theorem phaseAfter_frame {e : Emp} {f : Nat} (h : e.frame = some f) : phaseAfter e = if e.enabled = true then .blank else .off := by
  cases hon : e.enabled <;> simp [phaseAfter, h, hon]

/-! ### C5 of a pool (R284) -/

/-- The buffers that a side's pool accounts for. -/
def poolSum (d : Dev) (n side : Nat) : Nat :=
  countIf (List.range (empPool d n side)) (fun i => (mget? (if side = 0 then (emp d n).bufs0 else (emp d n).bufs1) i).isNone)
    + (if side = 0 then (emp d n).bufs0 else (emp d n).bufs1).length

theorem empAudit_kept {d : Dev} {n side : Nat} (h : poolSum d n side = empPool d n side) : empAudit d n side = d := by
  rw [empAudit, show law5Emp d n side = none from if_pos h]

theorem empAudit_broken {d : Dev} {n side : Nat} (h : poolSum d n side ≠ empPool d n side) :
    empAudit d n side = empDisable (endJobs (record d { fspec 3 0x0F 0x08 with
        unit := n, detail := lawDetail 5 (empPool d n side) (poolSum d n side) })
      (scopesOf d (empJobs (emp d n))) 3 (faultCode 3 0x0F 0x08)) n := by
  have hlaw : law5Emp d n side = some { fspec 3 0x0F 0x08 with
    unit := n, detail := lawDetail 5 (empPool d n side) (poolSum d n side) } := if_neg h
  rw [empAudit, hlaw]
  rfl

/-! ### Verification (R295) -/

section verify
variable {d : Dev} {n : Nat} {p : VPass} (hp : (emp d n).pass = some p)

theorem passDone_none (h : (emp d n).pass = none) (bad : Bool) : passDone d n bad = d := by simp [passDone, h]

/-- The commit of a layer that a pass reads from a buffer. -/
def passFind (e : Emp) (p : VPass) (b layer : Nat) : Option Commit :=
  e.commits.find? (fun c => c.side == p.side && c.buf == b && c.layer == layer)

include hp

theorem passDone_gone (h : passFind (emp d n) p p.buf0 0 = none ∨ ticketFor (emp d n) p.frame = none) (bad : Bool) :
    passDone d n bad = setEmp d n { emp d n with pass := none } := by
  rw [passFind] at h
  rcases h with h | h
  · simp [passDone, hp, h]
  · cases hc : List.find? (fun c => c.side == p.side && c.buf == p.buf0 && c.layer == 0) (emp d n).commits <;> simp [passDone, hp, h, hc]

variable {c : Commit} {t : Ticket} (hc : passFind (emp d n) p p.buf0 0 = some c) (ht : ticketFor (emp d n) p.frame = some t)
include hc ht

/-- The candidate is lost, with a class 2 record. -/
def passLost (d : Dev) (n : Nat) (c : Commit) : Dev :=
  record (setEmp d n (dropOne { emp d n with pass := none } c 4)) { fspec 2 0x0F 0x04 with unit := n, detail := c.buf }

theorem passDone_noEntry (hx : commitEntry d n c = none) (bad : Bool) : passDone d n bad = passLost d n c := by
  rw [passFind] at hc
  simp [passDone, hp, hc, ht, hx, passLost]

/-- What the overlay's reads need, and whether one of them fails. -/
def overlayReads (d : Dev) (n : Nat) (p : VPass) : List Nat × Bool :=
  (((p.buf1.bind (fun b => passFind (emp d n) p b 1)).bind (commitEntry d n)).map (fun x => passReads d (empCfg d n) x true)).getD ([], false)

variable {x0 : Nat × Nat × Nat × Nat} (hx : commitEntry d n c = some x0)
include hx

theorem passDone_waits (hmiss : (passReads d (empCfg d n) x0 false).1 ++ (overlayReads d n p).1 ≠ []) (bad : Bool) :
    passDone d n bad = requestPages d ((passReads d (empCfg d n) x0 false).1 ++ (overlayReads d n p).1) := by
  have hwait : (!(passReads d (empCfg d n) x0 false).1.isEmpty || !(overlayReads d n p).1.isEmpty) = true := by
    by_contra hc
    refine hmiss ?_
    simpa using hc
  simp only [passFind] at hc
  simp only [passDone, hp, hc, ht, hx]
  exact if_pos hwait

/-- A read of the pass cannot be corrected, or the overlay's entry is no entry. -/
def PassUnread (d : Dev) (n : Nat) (p : VPass) (x0 : Nat × Nat × Nat × Nat) (bad : Bool) : Prop :=
  bad = true ∨ (passReads d (empCfg d n) x0 false).2 = true ∨ (overlayReads d n p).2 = true
    ∨ (p.buf1.bind (fun b => passFind (emp d n) p b 1) ≠ none
      ∧ (p.buf1.bind (fun b => passFind (emp d n) p b 1)).bind (commitEntry d n) = none)

omit hp hc ht hx in
theorem passUnread_iff (bad : Bool) : (bad || (passReads d (empCfg d n) x0 false).2 || (overlayReads d n p).2
    || ((p.buf1.bind (fun b => passFind (emp d n) p b 1)).isSome
      && ((p.buf1.bind (fun b => passFind (emp d n) p b 1)).bind (commitEntry d n)).isNone)) = true ↔ PassUnread d n p x0 bad := by
  simp only [PassUnread, Bool.or_eq_true, Bool.and_eq_true, Option.isSome_iff_ne_none, Option.isNone_iff_eq_none, or_assoc]

/-- The candidate's new level and CRC (R295). -/
def passUp (c : Commit) (p : VPass) (crc : Word) (x : Commit) : Commit :=
  if x.side = c.side ∧ x.buf = c.buf then
    if p.buf1 = none then { x with level := 1, vfor := p.frame, crc0 := crc } else { x with level := 2, crc1 := crc }
  else x

variable (hthere : (passReads d (empCfg d n) x0 false).1 ++ (overlayReads d n p).1 = [])
include hthere

theorem passDone_there {bad : Bool} : passDone d n bad =
    if bad || (passReads d (empCfg d n) x0 false).2 || (overlayReads d n p).2
      || ((p.buf1.bind (fun b => passFind (emp d n) p b 1)).isSome
        && ((p.buf1.bind (fun b => passFind (emp d n) p b 1)).bind (commitEntry d n)).isNone) then passLost d n c
    else setEmp d n { emp d n with
      pass := none
      commits := (emp d n).commits.map (passUp c p (crc32 (packFrame (empCfg d n).dt (frameComps d (empCfg d n) x0
        ((p.buf1.bind (fun b => passFind (emp d n) p b 1)).bind (commitEntry d n))
        (trimOf (empCfg d n).dt t.e (commitER c t.e)))).flatten)) } := by
  have hwait : ¬ (!(passReads d (empCfg d n) x0 false).1.isEmpty || !(overlayReads d n p).1.isEmpty) = true := by
    obtain ⟨h0, h1⟩ := List.append_eq_nil_iff.1 hthere
    rw [h0, h1]
    decide
  have hup (crc : Word) : (fun x : Commit => if (decide (x.side = c.side) && x.buf == c.buf) = true then
      if p.buf1.isSome = true then { x with level := 2, crc1 := crc } else { x with level := 1, vfor := p.frame, crc0 := crc }
      else x) = passUp c p crc := by
    funext x
    cases hb : p.buf1 <;> simp [passUp, hb]
  simp only [passFind] at hc
  simp only [passDone, hp, hc, ht, hx]
  refine (if_neg hwait).trans ?_
  rw [hup]
  rfl

end verify

end Sys2Proof.Machine

namespace Sys2Proof.Proofs

open Sys2Proof Sys2Proof.Machine Sys2Proof.Safety

section frames
variable (s : State) (n : Fin 16)

theorem exec_frameStart_due (h : frameDue s.dev n.val = true) : ∃ d good,
    exec (.frameStart n) s = .next { s with
      dev := setOk (empAudit (empAudit d n.val 0) n.val 1) n.val (good && (emp (empAudit (empAudit d n.val 0) n.val 1) n.val).enabled) }
    ∧ FrameStarted (untilLocal s.dev (startAt s.dev n.val)) n.val d good := by
  obtain ⟨d, good, hrun, hspec⟩ := frameStart_spec (untilLocal s.dev (startAt s.dev n.val)) n.val
  refine ⟨d, good, ?_, hspec⟩
  dsimp only [exec, execFrameStart]
  rw [lift_eq, if_pos h, hrun]

theorem exec_frameEnd_active (h : (emp s.dev n.val).phase = .active) :
    exec (.frameEnd n) s = .next { s with
      dev := frameEnd (untilLocal s.dev (linesEnd s.dev n.val (activeLines (empCfg s.dev n.val)))) n.val (emp s.dev n.val).lines } := by
  dsimp only [exec, execFrameEnd]
  rw [lift_eq, if_pos h]

/-- The block as a read error ends the frame on air, before its record (R26). -/
def earlyEnd (d : Dev) (n line : Nat) : Dev :=
  frameEnd (setOk (setEmp d n { emp d n with cEarlyEnd := satAdd 8 (emp d n).cEarlyEnd 1 }) n false) n ((emp d n).lines.take (line + 1))

theorem exec_empReadError_active {x : Sent} (hphase : (emp s.dev n.val).phase = .active) (hair : (emp s.dev n.val).onAir = some x)
    (line : Fin 4105) : exec (.empReadError n line) s = .next { s with
      dev := record (earlyEnd s.dev n.val line.val) { fspec 2 0x0F 0x04 with unit := n.val, detail := x.l0.buf } } := by
  dsimp only [exec, execEmpReadError]
  rw [lift_eq]
  split
  · next y _ hy =>
    cases hair.symm.trans hy
    rfl
  · next hno => exact (hno x hphase hair).elim

theorem exec_empReadError_off (line : Fin 4105) (h : (emp s.dev n.val).phase ≠ .active ∨ (emp s.dev n.val).onAir = none) :
    exec (.empReadError n line) s = .next s := by
  dsimp only [exec, execEmpReadError]
  rw [lift_eq]
  split
  · next hphase hair =>
    rcases h with h | h
    · exact absurd hphase h
    · rw [h] at hair
      cases hair
  · rfl

end frames

/-- What an early end leaves of the port. -/
theorem earlyEnd_spec (d : Dev) (n line : Nat) :
    (emp (earlyEnd d n line) n).cEarlyEnd = satAdd 8 (emp d n).cEarlyEnd 1 ∧ (emp (earlyEnd d n line) n).ok = false
      ∧ (emp (earlyEnd d n line) n).phase ≠ .active ∧ (earlyEnd d n line).flt = d.flt
      ∧ .frame n ((emp d n).frame.getD 0 % 65535 + 1) (fld (empReg d n 0) 25 2)
          (linePackets (empCfg d n) ((emp d n).lines.take (line + 1))) ∈ (earlyEnd d n line).out := by
  obtain ⟨e, he, hemp⟩ : ∃ e, e = setOk (setEmp d n { emp d n with cEarlyEnd := satAdd 8 (emp d n).cEarlyEnd 1 }) n false
      ∧ emp e n = { emp d n with cEarlyEnd := satAdd 8 (emp d n).cEarlyEnd 1, ok := false } :=
    ⟨_, rfl, by rw [setOk_emp, emp_setEmp_same]⟩
  have hframe := setOk_frame (setEmp d n { emp d n with cEarlyEnd := satAdd 8 (emp d n).cEarlyEnd 1 }) n false
  rw [← he] at hframe
  have hflt := congrArg Dev.flt hframe
  have hregs := congrArg Dev.regs hframe
  dsimp only at hflt hregs
  obtain ⟨htakes, hphase⟩ := airEnds_takes (emp e n)
  have hend : emp (earlyEnd d n line) n = airEnds (emp e n) := by
    rw [earlyEnd, ← he]
    exact mget_mset_same ..
  refine ⟨?_, ?_, ?_, ?_, ?_⟩
  · rw [hend, show (airEnds (emp e n)).cEarlyEnd = (emp e n).cEarlyEnd from htakes.same Emp.cEarlyEnd (by intros; rfl), hemp]
  · rw [hend, show (airEnds (emp e n)).ok = (emp e n).ok from htakes.same Emp.ok (by intros; rfl), hemp]
  · rw [hend, hphase]
    exact phaseAfter_over _
  · rw [earlyEnd, ← he]
    exact hflt
  · rw [earlyEnd, ← he]
    have hreg : empReg e n 0 = empReg d n 0 := by
      rw [empReg, regGet, hregs]
      rfl
    have hcfg : empCfg e n = empCfg d n := by
      simp only [empCfg, empReg, regGet, hregs]
      rfl
    have hfr : (emp e n).frame = (emp d n).frame := by rw [hemp]
    rw [frameEnd, hreg, hcfg, hfr]
    exact List.mem_append_right _ List.mem_cons_self

/-- An edge at a port in sync mode that has none yet (R286). -/
theorem exec_fsyncInEdge_open (s : State) (n : Fin 16) (after : BitVec 32) (hon : (emp s.dev n.val).enabled = true)
    (hsync : (empCfg s.dev n.val).sync = true) (hedge : (emp s.dev n.val).edge = none) :
    exec (.fsyncInEdge n after) s = .next { s with
      dev := if ((emp s.dev n.val).phase = .waiting ∨ (emp s.dev n.val).phase = .blank)
            ∧ startFrom s.dev n.val ≤ s.dev.clk.localNs + after.toNat then
          setEmp (elapse s.dev after.toNat) n.val { emp s.dev n.val with edge := some (s.dev.clk.localNs + after.toNat) }
        else if (emp s.dev n.val).frame.isSome = true then
          setEmp (elapse s.dev after.toNat) n.val { emp s.dev n.val with cFsyncIgn := satAdd 8 (emp s.dev n.val).cFsyncIgn 1 }
        else elapse s.dev after.toNat } := by
  have hopen : ¬ (!(emp s.dev n.val).enabled || !(empCfg s.dev n.val).sync || (emp s.dev n.val).edge.isSome) = true := by
    simp [hon, hsync, hedge]
  have hready : (((emp s.dev n.val).phase == .waiting || (emp s.dev n.val).phase == .blank)
      && decide (startFrom s.dev n.val ≤ s.dev.clk.localNs + after.toNat)) =
      decide (((emp s.dev n.val).phase = .waiting ∨ (emp s.dev n.val).phase = .blank)
        ∧ startFrom s.dev n.val ≤ s.dev.clk.localNs + after.toNat) := by
    rw [Bool.eq_iff_iff]
    simp
  dsimp only [exec, execFsyncInEdge]
  rw [lift_eq]
  refine congrArg (fun e => Host.Outcome.next { s with dev := e }) ((if_neg hopen).trans ?_)
  have hsame : (((emp (elapse s.dev after.toNat) n.val).phase == .waiting || (emp (elapse s.dev after.toNat) n.val).phase == .blank)
      && decide (startFrom (elapse s.dev after.toNat) n.val ≤ (elapse s.dev after.toNat).clk.localNs)) =
      decide (((emp s.dev n.val).phase = .waiting ∨ (emp s.dev n.val).phase = .blank)
        ∧ startFrom s.dev n.val ≤ s.dev.clk.localNs + after.toNat) := hready
  rw [hsame]
  simp only [decide_eq_true_eq]
  rfl

/-- Settles O34: a Frame Start and a Frame End as the changes of one port, a pass by the candidate that it verifies. -/
theorem emulationFramesComplete : Obligations.EmulationFramesComplete := by
  unfold Obligations.EmulationFramesComplete
  refine ⟨fun s n => ?_, fun s n => ?_⟩
  · dsimp only
    refine ⟨fun hdue => ?_, fun hdue => ?_, fun d side => ⟨empAudit_kept, empAudit_broken⟩, fun hphase => ?_, fun f hphase hf => ?_,
      fun line h => exec_empReadError_off s n line h, fun line x hphase hair => ?_,
      fun after => ⟨fun hoff => ?_, fun hon hsync hedge => ⟨fun hready => ?_, fun hready hf => ?_, fun hready hf => ?_⟩⟩⟩
    · dsimp only [exec, execFrameStart]
      rw [lift_eq, if_neg (Bool.eq_false_iff.1 hdue)]
    · obtain ⟨d, good, hrun, hspec⟩ := exec_frameStart_due s n hdue
      have hlocal := untilLocal_localNs s.dev (startAt s.dev n.val)
      refine ⟨d, good, hrun, hspec.frame, hspec.phase, hspec.edge, hspec.fsLocal.trans hlocal, hspec.clk.trans hspec.fsLocal.symm,
        hspec.lines, hspec.ticketNo, hspec.safe⟩
    · dsimp only [exec, execFrameEnd]
      rw [lift_eq, if_neg hphase]
    · obtain ⟨-, hend⟩ := airEnds_takes (emp s.dev n.val)
      have hlocal := untilLocal_localNs s.dev (linesEnd s.dev n.val (activeLines (empCfg s.dev n.val)))
      refine ⟨_, exec_frameEnd_active s n hphase, rfl, ?_, ?_, ?_, hlocal⟩
      · dsimp only [frameEnd, emit]
        rw [show emp (untilLocal s.dev (linesEnd s.dev n.val (activeLines (empCfg s.dev n.val)))) n.val = emp s.dev n.val from rfl, hf]
        rfl
      · refine (congrArg Emp.phase (mget_mset_same ..)).trans (hend.trans (phaseAfter_frame hf))
      · refine (congrArg Emp.lines (mget_mset_same ..)).trans (airEnds_lines _)
    · obtain ⟨hcount, hok, hphase', hflt, hout⟩ := earlyEnd_spec s.dev n.val line.val
      obtain ⟨r, hr, hcls, hblock, hcode, -, -, hdetail, -⟩ := record_newest (earlyEnd s.dev n.val line.val)
        { fspec 2 0x0F 0x04 with unit := n.val, detail := x.l0.buf }
      rw [hflt] at hr
      refine ⟨_, r, exec_empReadError_active s n hphase hair line, rfl, ?_⟩
      dsimp only
      rw [emp_record]
      exact ⟨hcount, hok, hphase', (record_out _ _).subset hout, hr, hcls, hblock, hcode, hdetail⟩
    · have hskip : (!(emp s.dev n.val).enabled || !(empCfg s.dev n.val).sync || (emp s.dev n.val).edge.isSome) = true := by
        rcases hoff with h | h | h
        · simp [h]
        · simp [h]
        · simp [Option.isSome_iff_ne_none.2 h]
      dsimp only [exec, execFsyncInEdge]
      rw [lift_eq]
      exact congrArg (fun e => Host.Outcome.next { s with dev := e }) (if_pos hskip)
    · exact (exec_fsyncInEdge_open s n after hon hsync hedge).trans
        (congrArg (fun e => Host.Outcome.next { s with dev := e }) (if_pos hready))
    · exact (exec_fsyncInEdge_open s n after hon hsync hedge).trans
        (congrArg (fun e => Host.Outcome.next { s with dev := e }) ((if_neg hready).trans (if_pos hf)))
    · exact (exec_fsyncInEdge_open s n after hon hsync hedge).trans
        (congrArg (fun e => Host.Outcome.next { s with dev := e }) ((if_neg hready).trans (if_neg (by rw [hf]; decide))))
  · dsimp only
    have hdone (bad : Bool) : exec (.verifyPassDone n bad) s = .next { s with dev := passDone s.dev n.val bad } := rfl
    refine ⟨fun hoff => ?_, fun hon hpass => ?_, fun hpass bad => ?_, fun p hp => ⟨fun bad hgone => ?_, fun c t bad hc ht =>
      ⟨fun hx => ?_, fun x0 hx => ⟨fun hmiss => ?_, fun hthere hunread => ?_, fun hthere hunread => ?_⟩⟩⟩⟩
    · have hskip : ((emp s.dev n.val).enabled && (emp s.dev n.val).pass.isNone) = false := by
        rcases hoff with h | h
        · simp [h]
        · simp [Option.isSome_iff_ne_none.2 h]
      dsimp only [exec, execVerifyPassStart]
      rw [lift_eq, hskip]
      rfl
    · dsimp only [exec, execVerifyPassStart]
      rw [lift_eq, hon, hpass]
      rfl
    · rw [hdone, passDone_none hpass]
    · rw [hdone, passDone_gone hp hgone]
    · rw [hdone, passDone_noEntry hp hc ht hx]
      rfl
    · rw [hdone, passDone_waits hp hc ht hx hmiss]
      rfl
    · rw [hdone, passDone_there hp hc ht hx hthere, if_pos ((passUnread_iff bad).2 hunread)]
      rfl
    · rw [hdone, passDone_there hp hc ht hx hthere, if_neg (fun h => hunread ((passUnread_iff bad).1 h))]
      rfl

end Sys2Proof.Proofs
end


section
/-! The pixel engines (R115 to R119): what a command that is ready leaves, whatever its operation makes of the sources. -/

namespace Sys2Proof.Machine

open Sys2Proof Sys2Proof.Safety

/-! ### The run of a front command -/

/-- What an engine does with the result of an operation: a landing, or a store. -/
def pxeDeliver (d : Dev) (n : Nat) (c : EngCmd) (rest : List EngCmd) (out : List Byte) (bad pix : Nat) : Dev :=
  let b := pxeBlk c.bytes
  let fails (cause h : Nat) : Dev := engTier (pxePop d n rest none none) c cause h
  if b.toLb then
    pxePop (addXfer d c.scope c.tile ((lbAt (tile d c.tile).core (b.dstOff % 2 ^ 21)).getD c.lb) c.gen
      (some (b.dstOff % 2 ^ 21)) out [] 0) n rest (some c) (some (pxeWord 0 bad pix))
  else if !(engWaits d c.scope b.dst b.dstOff out.length).isEmpty then
    pxeWaits d n (engWaits d c.scope b.dst b.dstOff out.length)
  else if engHeld d c.scope b.dst b.dstOff out.length then d
  else
    match engStoreLines d c.scope b.dst b.dstOff out with
    | .ok d => pxePop d n rest (some c) (some (pxeWord 0 bad pix))
    | .range h => fails 4 h
    | .bad => pxePop d n rest (some c) (some (pxeWord 1 0 0))

theorem pxeDeliver_done (d : Dev) (n : Nat) (c : EngCmd) (rest : List EngCmd) (out : List Byte) (bad pix : Nat) :
    PixelDone d n c rest out bad pix (pxeDeliver d n c rest out bad pix) := by
  refine ⟨fun hlb => ?_, fun f hlb hthere hfree hstore => ?_⟩
  · simp only [pxeDeliver, hlb]
    rfl
  · simp only [pxeDeliver, hlb, hthere, hfree, hstore]
    rfl

theorem pxeRun_idle {d : Dev} {n : Nat} (h : (pxe d n).cur ≠ none ∨ (pxe d n).queue = []) (op frames : Nat) (aux : Nat × Nat × Nat)
    (f : PxeBlk → EngCmd → List Byte → List Byte → PxeRes) : pxeRun d n op frames aux f = d := by
  unfold pxeRun
  dsimp only
  split
  next c rest hcur hqueue =>
    rcases h with h | h
    · exact absurd hcur h
    · exact absurd (hqueue.symm.trans h) nofun
  next => rfl

section
variable {d : Dev} {n : Nat} {c : EngCmd} {rest : List EngCmd} (hcur : (pxe d n).cur = none) (hqueue : (pxe d n).queue = c :: rest)
include hcur hqueue

theorem pxeRun_other {op : Nat} (h : (pxeBlk c.bytes).op ≠ op) (frames : Nat) (aux : Nat × Nat × Nat)
    (f : PxeBlk → EngCmd → List Byte → List Byte → PxeRes) : pxeRun d n op frames aux f = d := by
  simp only [pxeRun, hcur, hqueue]
  exact if_pos (bne_iff_ne.2 h)

theorem pxeRun_malformed {op : Nat} (h : (pxeBlk c.bytes).op = op) (hbad : pxeOk (pxeBlk c.bytes) = false) (frames : Nat)
    (aux : Nat × Nat × Nat) (f : PxeBlk → EngCmd → List Byte → List Byte → PxeRes) :
    pxeRun d n op frames aux f = pxePop d n rest (some c) (some (pxeWord 1 0 0)) := by
  simp only [pxeRun, hcur, hqueue, h, hbad]
  exact (if_neg (by simp)).trans (if_pos rfl)

end

/-- One source: the operation's result is delivered. -/
theorem pxeRun_lone {d : Dev} {n op frames : Nat} {c : EngCmd} {rest : List EngCmd} {bs : List Byte}
    (h : PixelReady d n op frames c rest bs) (x y : Nat) {f : PxeBlk → EngCmd → List Byte → List Byte → PxeRes}
    {out : List Byte} {bad pix : Nat} (hf : f (pxeBlk c.bytes) c bs [] = .done out bad pix) :
    PixelDone (pixelRead d c frames) n c rest out bad pix (pxeRun d n op frames (x, y, 0) f) := by
  obtain ⟨hcur, hqueue, hop, hok, hthere, hread⟩ := h
  have hrun : pxeRun d n op frames (x, y, 0) f = pxeDeliver (pixelRead d c frames) n c rest out bad pix := by
    simp only [pxeRun, hcur, hqueue, hop, hok, hthere, hread, bne_self_eq_false, Bool.not_true, Bool.false_eq_true, if_true, if_false,
      List.append_nil, List.isEmpty_nil]
    rw [hf]
    rfl
  rw [hrun]
  exact pxeDeliver_done ..

/-- Two sources: the operation's result is delivered once both have been read. -/
theorem pxeRun_pair {d : Dev} {n op frames : Nat} {c : EngCmd} {rest : List EngCmd} {bs xs : List Byte}
    (h : PixelReady d n op frames c rest bs) {x y z : Nat} (hz : z ≠ 0) (hthere2 : engWaits d c.scope x y z = [])
    (hread2 : engLines d c.scope x y z = .ok xs) {f : PxeBlk → EngCmd → List Byte → List Byte → PxeRes}
    {out : List Byte} {bad pix : Nat} (hf : f (pxeBlk c.bytes) c bs xs = .done out bad pix) :
    PixelDone (engTouch (pixelRead d c frames) c.scope x y z) n c rest out bad pix (pxeRun d n op frames (x, y, z) f) := by
  obtain ⟨hcur, hqueue, hop, hok, hthere, hread⟩ := h
  have hrun : pxeRun d n op frames (x, y, z) f = pxeDeliver (engTouch (pixelRead d c frames) c.scope x y z) n c rest out bad pix := by
    simp only [pxeRun, hcur, hqueue, hop, hok, hthere, hread, hthere2, hread2, hz, bne_self_eq_false, Bool.not_true, Bool.false_eq_true, if_false,
      List.append_nil, List.isEmpty_nil]
    rw [hf]
    rfl
  rw [hrun]
  exact pxeDeliver_done ..

end Sys2Proof.Machine

namespace Sys2Proof.Proofs

open Sys2Proof Sys2Proof.Machine Sys2Proof.Safety

/-- The event of each operation runs the front command of that operation, whatever its operands are. -/
theorem pixel_event_runs {s : State} {n : Fin 16} {i : Instr} {op : Nat}
    (h : ∃ frames aux f, exec i s = .next { s with dev := pxeRun s.dev n.val op frames aux f }) :
    ((pxe s.dev n.val).cur ≠ none ∨ (pxe s.dev n.val).queue = [] → exec i s = .next s)
    ∧ (∀ c rest, (pxe s.dev n.val).cur = none → (pxe s.dev n.val).queue = c :: rest →
      ((pxeBlk c.bytes).op ≠ op → exec i s = .next s)
      ∧ ((pxeBlk c.bytes).op = op → pxeOk (pxeBlk c.bytes) = false → exec i s = .next { s with
          dev := pxePop s.dev n.val rest (some c) (some (leBytes 2 1 ++ leBytes 2 0 ++ leBytes 4 0)) })) := by
  obtain ⟨frames, aux, f, hrun⟩ := h
  refine ⟨fun hidle => ?_, fun c rest hcur hqueue => ⟨fun hother => ?_, fun hop hbad => ?_⟩⟩
  · rw [hrun, pxeRun_idle hidle]
  · rw [hrun, pxeRun_other hcur hqueue hother]
  · rw [hrun, pxeRun_malformed hcur hqueue hop hbad]
    rfl

/-- An operation of one source that makes a result ends. -/
theorem pixel_lone {s : State} {n : Fin 16} {i : Instr} {op frames x y : Nat} {c : EngCmd} {rest : List EngCmd} {bs : List Byte}
    {f : PxeBlk → EngCmd → List Byte → List Byte → PxeRes} {out : List Byte} {bad pix : Nat}
    (hrun : exec i s = .next { s with dev := pxeRun s.dev n.val op frames (x, y, 0) f })
    (hready : PixelReady s.dev n.val op frames c rest bs) (hf : f (pxeBlk c.bytes) c bs [] = .done out bad pix) :
    ∃ t, exec i s = .next t ∧ t.pending = s.pending ∧ PixelDone (pixelRead s.dev c frames) n.val c rest out bad pix t.dev :=
  ⟨_, hrun, rfl, pxeRun_lone hready x y hf⟩

/-- An operation of two sources that makes a result ends. -/
theorem pixel_pair {s : State} {n : Fin 16} {i : Instr} {op frames x y z : Nat} {c : EngCmd} {rest : List EngCmd} {bs xs : List Byte}
    {f : PxeBlk → EngCmd → List Byte → List Byte → PxeRes} {out : List Byte} {bad pix : Nat}
    (hrun : exec i s = .next { s with dev := pxeRun s.dev n.val op frames (x, y, z) f })
    (hready : PixelReady s.dev n.val op frames c rest bs) (hz : z ≠ 0) (hthere : engWaits s.dev c.scope x y z = [])
    (hread : engLines s.dev c.scope x y z = .ok xs) (hf : f (pxeBlk c.bytes) c bs xs = .done out bad pix) :
    ∃ t, exec i s = .next t ∧ t.pending = s.pending
      ∧ PixelDone (engTouch (pixelRead s.dev c frames) c.scope x y z) n.val c rest out bad pix t.dev :=
  ⟨_, hrun, rfl, pxeRun_pair hready hz hthere hread hf⟩

/-- A kernel's place outside the source, and one inside it, say the same. -/
theorem kernelTap_inside (y x h w py px : Nat) (zero sample : Machine.Num) :
    (if (decide (y < py) || decide (h + py ≤ y) || decide (x < px) || decide (w + px ≤ x)) = true then zero else sample) =
      if (decide (py ≤ y) && decide (y < h + py) && decide (px ≤ x) && decide (x < w + px)) = true then sample else zero := by
  have hout : (decide (y < py) || decide (h + py ≤ y) || decide (x < px) || decide (w + px ≤ x)) =
      !(decide (py ≤ y) && decide (y < h + py) && decide (px ≤ x) && decide (x < w + px)) := by
    simp [← decide_not]
  rw [hout]
  cases decide (py ≤ y) && decide (y < h + py) && decide (px ≤ x) && decide (x < w + px) <;> rfl

/-- Settles O29: each operation by the output that its block describes. -/
theorem pixelEnginesComplete : Obligations.PixelEnginesComplete := by
  unfold Obligations.PixelEnginesComplete
  intro s n c rest bs
  dsimp only
  refine ⟨fun hready => ?_, fun pat depth hready hcin hdepth => ?_, fun p f hready hpatch hw hh => ?_,
    fun p f oh ow hready hpatch hoh how => ?_, ?_, fun avg k st oh ow hready hk hst hc => ?_,
    fun bh boff boxes oh ow bx hready hboxes hoh how hc hthere hread => ?_,
    fun pat depth p q f f' oh ow kh kw conv avg k k' bh boff boxes oh' ow' x hx => ?_, fun w hcur hword => ?_⟩
  · exact pixel_lone rfl hready rfl
  · refine pixel_lone rfl hready (if_neg ?_)
    simp [hcin, hdepth]
  · refine pixel_lone rfl hready (if_neg ?_)
    simp [hpatch, hw, hh]
  · refine pixel_lone rfl hready (if_neg ?_)
    simp [hpatch, Nat.pos_iff_ne_zero.1 hoh, Nat.pos_iff_ne_zero.1 how]
  · intro kh kw st py px oh ow wh woff wf ws hready hkh hkw hst hcin hcout hthin hwf hlen hthere hread
    have hb : ((pxe s.dev n.val).queue.head?.map (fun c => pxeBlk c.bytes)).getD (pxeBlk []) = pxeBlk c.bytes := by
      rw [hready.queue]
      rfl
    refine pixel_pair (f := ?f) ?run hready hlen hthere hread ?made
    case run =>
      dsimp only [exec, execVaeConvolution]
      rw [lift_eq, hb]
    case made =>
      refine (if_neg ?_).trans ?_
      · have hthin' : 4 < (pxeBlk c.bytes).cin → (pxeBlk c.bytes).cout ≤ 4 := by omega
        have hfmt : [1, 3, 4, 5].contains wf.val = true := List.contains_iff_mem.2 hwf
        simpa only [hfmt, Nat.pos_iff_ne_zero.1 hkh, Nat.pos_iff_ne_zero.1 hkw, Nat.pos_iff_ne_zero.1 hst, Nat.not_lt.2 hcin,
          Nat.not_lt.2 hcout, decide_false, Bool.false_or, Bool.not_true, Bool.or_false, Bool.and_eq_true, decide_eq_true_eq, not_and,
          Nat.not_lt] using hthin'
      · simp only [kernelTap_inside, Nat.mul_assoc]
  · refine pixel_lone rfl hready (if_neg ?_)
    simp [Nat.not_lt.2 hk, hc, Nat.pos_iff_ne_zero.1 hst]
  · refine pixel_pair rfl hready (by omega) hthere hread (if_neg ?_)
    simp [hc, Nat.pos_iff_ne_zero.1 hboxes, Nat.pos_iff_ne_zero.1 hoh, Nat.pos_iff_ne_zero.1 how]
  · have hruns : ∃ frames aux g, exec x.1 s = .next { s with dev := pxeRun s.dev n.val x.2 frames aux g } := by
      simp only [List.mem_cons, List.not_mem_nil, or_false] at hx
      rcases hx with rfl | rfl | rfl | rfl | rfl | rfl | rfl <;> exact ⟨_, _, _, rfl⟩
    obtain ⟨hidle, hfront⟩ := pixel_event_runs hruns
    exact ⟨hidle, fun hcur hqueue => hfront c rest hcur hqueue⟩
  · dsimp only [exec, execPxeCompletion]
    rw [lift_eq]
    rw [hcur, hword]

end Sys2Proof.Proofs
end


section
/-! CONFIG, DRAIN and CLOSE of a codec engine, and the end of a command, a fault and a reset (R272 to R281). -/

namespace Sys2Proof.Machine

open Sys2Proof Sys2Proof.Safety

/-! ### What an engine that is not free, or not asked, does -/

theorem vceFront_eq_none_of_busy {v : Vce} (h : v.cur ≠ none ∨ v.queue = [] ∨ v.faulted = true) (op : Nat) : vceFront v op = none := by
  unfold vceFront
  split
  next c rest hcur hqueue =>
    rcases h with h | h | h
    · exact absurd hcur h
    · exact absurd (hqueue.symm.trans h) nofun
    · simp [h]
  next => rfl

section front
variable {v : Vce} {c : EngCmd} {rest : List EngCmd} (hcur : v.cur = none) (hqueue : v.queue = c :: rest) (halive : v.faulted = false)
include hcur hqueue halive

theorem vceFront_eq_none_of_other {op : Nat} (h : leAt c.bytes 0 1 ≠ op ∨ leAt c.bytes 1 1 ≠ 1) : vceFront v op = none := by
  have hno : (leAt c.bytes 0 1 == op && leAt c.bytes 1 1 == 1) = false := by
    rcases h with h | h <;> simp [h]
  simp [vceFront, hcur, hqueue, halive, hno]

theorem vceFront_eq_some {op : Nat} (hop : leAt c.bytes 0 1 = op) (hver : leAt c.bytes 1 1 = 1) : vceFront v op = some (c, rest) := by
  simp [vceFront, hcur, hqueue, halive, hop, hver]

theorem vceMalformed_eq_some (h : leAt c.bytes 1 1 ≠ 1 ∨ leAt c.bytes 0 1 = 0 ∨ 7 < leAt c.bytes 0 1) :
    vceMalformed v = some (c, rest) := by
  have hbad : (leAt c.bytes 1 1 != 1 || leAt c.bytes 0 1 == 0 || decide (7 < leAt c.bytes 0 1)) = true := by
    rcases h with h | h | h <;> simp [h]
  simp only [vceMalformed, hcur, hqueue, halive]
  exact if_pos hbad

end front

theorem vceRun_of_none {d : Dev} {n op : Nat} (h : vceFront (vce d n) op = none) (f : Dev → EngCmd → List EngCmd → Dev) :
    vceRun d n op f = d := by
  simp only [vceRun, h]

/-- With no context object every command ends NO_CONTEXT. -/
theorem vceRun_noContext {d : Dev} {n op : Nat} {c : EngCmd} {rest : List EngCmd} (h : vceFront (vce d n) op = some (c, rest))
    (hctx : ctxObject d n = 0) (f : Dev → EngCmd → List EngCmd → Dev) :
    vceRun d n op f = codecLeaves d n c rest (vceStatus 3 (ctxWaiting (vce d n) (leAt c.bytes 2 1))) (vce d n).ctxs (vce d n).bufs
      (vce d n).bufs := by
  simp only [vceRun, h, hctx]
  exact vceStop_eq_codecLeaves ..

/-- A source that is there and read is handed on. -/
theorem vceRead_ok {d : Dev} {n : Nat} {c : EngCmd} {rest : List EngCmd} {handle off len : Nat} {b : List Byte}
    (hthere : engWaits d c.scope handle off len = []) (hread : engLines d c.scope handle off len = .ok b) (f : Dev → List Byte → Dev) :
    vceRead d n c rest handle off len f = f (engTouch d c.scope handle off len) b := by
  simp only [vceRead, hthere, hread]
  exact if_neg (by simp)

@[simp] theorem vce_engTouch (d : Dev) (si handle off len k : Nat) : vce (engTouch d si handle off len) k = vce d k :=
  congrArg (mget · k Vce.reset) (engTouch_vce ..)

/-! ### CONFIG -/

/-- The context that CONFIG sets up. -/
def newCtx (dir : CtxDir) (c : EngCmd) (b : List Byte) : VCtx :=
  { dir := dir, params := b, outq := [], full := prmRate b * prmDelay b * prmScale b, pics := 0, sps := [], pps := []
    hist := Config.codecHist 0 c.bytes b }

/-- What CONFIG leaves once its parameter block is read. -/
def configEnds (d : Dev) (n : Nat) (c : EngCmd) (rest : List EngCmd) (w : VceWord) (ctxs : FMap VCtx) (bufs : FMap VBuf) : Dev :=
  codecLeaves (engTouch d c.scope (leAt c.bytes 6 2) (leAt c.bytes 0x18 8) 128) n c rest w ctxs bufs (vce d n).bufs

theorem vceConfig_eq {d : Dev} {n : Nat} {c : EngCmd} {rest : List EngCmd} {b : List Byte}
    (hthere : engWaits d c.scope (leAt c.bytes 6 2) (leAt c.bytes 0x18 8) 128 = [])
    (hread : engLines d c.scope (leAt c.bytes 6 2) (leAt c.bytes 0x18 8) 128 = .ok b) (dir : CtxDir) :
    vceConfig d n c rest dir =
      if (if dir == .enc then encFormOk b else decFormOk b) = false then
        configEnds d n c rest (vceStatus 1 (ctxWaiting (vce d n) (leAt c.bytes 2 1))) (vce d n).ctxs (vce d n).bufs
      else if (if dir == .enc then encSupported b else decSupported b) = false then
        configEnds d n c rest (vceStatus 2 (ctxWaiting (vce d n) (leAt c.bytes 2 1))) (vce d n).ctxs (vce d n).bufs
      else if (dir == .enc && prmRc b != 0 && !rateOk b) = true then
        configEnds d n c rest (vceStatus 6 0) (mdel (vce d n).ctxs (leAt c.bytes 2 1)) (dropCtx (vce d n).bufs (leAt c.bytes 2 1))
      else
        configEnds d n c rest (vceStatus 0 0) (mset (vce d n).ctxs (leAt c.bytes 2 1) (newCtx dir c b))
          (dropCtx (vce d n).bufs (leAt c.bytes 2 1)) := by
  rw [vceConfig, vceRead_ok hthere hread]
  simp only [vceStop_eq_codecLeaves, vceEnd_eq_codecLeaves, vce_engTouch, Bool.not_eq_true']
  rfl

/-! ### DRAIN and CLOSE -/

theorem vceDrain_noContext {d : Dev} {n : Nat} {c : EngCmd} (h : ctxOf (vce d n) (leAt c.bytes 2 1) .dec = none) (rest : List EngCmd) :
    vceDrain d n c rest = codecLeaves d n c rest (vceStatus 3 (ctxWaiting (vce d n) (leAt c.bytes 2 1))) (vce d n).ctxs (vce d n).bufs
      (vce d n).bufs := by
  simp only [vceDrain, h, vceStop_eq_codecLeaves]

section drain
variable {d : Dev} {n : Nat} {c : EngCmd} {x : VCtx} (hctx : ctxOf (vce d n) (leAt c.bytes 2 1) .dec = some x) (rest : List EngCmd)
include hctx

theorem vceDrain_empty (h : x.outq = []) :
    vceDrain d n c rest = codecLeaves d n c rest (vceStatus 0 0) (vce d n).ctxs (vce d n).bufs (vce d n).bufs := by
  simp only [vceDrain, hctx, h, nextOut, List.foldl_nil, vceEnd_eq_codecLeaves]

theorem vceDrain_next {j : Nat} (h : nextOut (vce d n).bufs x.outq = some j) :
    vceDrain d n c rest = codecLeaves d n c rest
      ⟨0, j, 0, (vbuf (vce d n).bufs j).poc, 0, 0, 0, (x.outq.filter (fun i => i != j)).length⟩
      (mset (vce d n).ctxs (leAt c.bytes 2 1)
        { x with outq := x.outq.filter (fun i => i != j), hist := Config.codecHist x.hist c.bytes [] })
      (handOut (vce d n).bufs j (codecValues x c [] [])) (vce d n).bufs := by
  simp only [vceDrain, hctx, h, vceEnd_eq_codecLeaves]

end drain

/-- A buffer that is held is listed. -/
theorem setVbuf_held (bs : FMap VBuf) (i : Nat) {b : VBuf} (h : b.hold = true) : setVbuf bs i b = mset bs i b := by
  simp [setVbuf, h]

theorem handOut_same (bs : FMap VBuf) (i : Nat) (free : Nat → Nat) : (vbuf (handOut bs i free) i).hold = true := by
  rw [handOut, setVbuf_held bs i rfl, vbuf, mget_mset_same]

theorem handOut_other (bs : FMap VBuf) {i j : Nat} (free : Nat → Nat) (h : j ≠ i) : mget? (handOut bs i free) j = mget? bs j := by
  rw [handOut, setVbuf_held bs i rfl]
  exact mget?_mset_other _ _ _ _ h

/-! ### The end of a command, faults and resets -/

theorem vceComplete_running {d : Dev} {n : Nat} {c : EngCmd} {w : List Byte} {ctxs : FMap VCtx} {bufs : FMap VBuf}
    (hcur : (vce d n).cur = some c) (hword : (vce d n).word = some w) (hafter : (vce d n).after = some (ctxs, bufs)) :
    vceComplete d n = vceAudit (engineWord (setVce d n { vce d n with
      cur := none, word := none, after := none, ctxs := ctxs, bufs := bufs }) c w) n c.slot := by
  simp only [vceComplete, hcur, hword, hafter]

theorem vceComplete_malformed {d : Dev} {n : Nat} {c : EngCmd} {rest : List EngCmd} (hcur : (vce d n).cur = none)
    (h : vceMalformed (vce d n) = some (c, rest)) :
    vceComplete d n = vceAudit (engineWord (setVce d n { vce d n with
      queue := rest ++ (vce d n).wait.take (32 - rest.length), wait := (vce d n).wait.drop (32 - rest.length), lastCtx := leAt c.bytes 2 1 })
      c (vceWord (vceStatus (if ctxObject d n = 0 then 3 else 1) (ctxWaiting (vce d n) (leAt c.bytes 2 1))))) n c.slot := by
  simp only [vceComplete, hcur, h]
  rw [vceRefill_setVce]
  rfl

theorem vceAudit_kept {d : Dev} {n : Nat} (h : vceFree d n (vce d n) + vceProducer (vce d n) + vceConsumer (vce d n) = vcePool d n)
    (slot : Nat) : vceAudit d n slot = d := by
  simp only [vceAudit, law5Vce]
  rw [if_pos h]

theorem vceAudit_broken {d : Dev} {n : Nat} (h : vceFree d n (vce d n) + vceProducer (vce d n) + vceConsumer (vce d n) ≠ vcePool d n)
    (slot : Nat) : vceAudit d n slot = vceHalt (endJobs
      (record d { fspec 3 0x0D 0x08 with
        unit := n, detail := lawDetail 5 (vcePool d n) (vceFree d n (vce d n) + vceProducer (vce d n) + vceConsumer (vce d n)) })
      (scopesOf d [slot]) 3 (faultCode 3 0x0D 0x08)) n := by
  simp only [vceAudit, law5Vce]
  rw [if_neg h]
  rfl

theorem endJobs_none (d : Dev) (cls code : Nat) : endJobs d (scopesOf d []) cls code = d := by
  simp [endJobs, scopesOf]

theorem vce_record (d : Dev) (f : FSpec) (n : Nat) : vce (record d f) n = vce d n := congrArg (mget · n Vce.reset) (record_vce ..)

/-- The end of a fault: the engine stops and the job of its command, if any, ends. -/
theorem vceFail_eq (d : Dev) (n code : Nat) :
    vceFail d n code = endJobs (vceHalt d n) (scopesOf (vceHalt d n) ((vce d n).cur.toList.map (fun c => c.slot))) 3 (faultCode 3 0x0D code) :=
  rfl

theorem vceReset_open {d : Dev} {n : Nat} (h : (vce d n).cur = none ∨ (vce d n).faulted = true) :
    vceReset d n = setVce d n { vce d n with
      queue := (vce d n).wait.take 32, wait := (vce d n).wait.drop 32, pages := [], ctxs := [], faulted := false } := by
  have hopen : ¬ ((vce d n).cur.isSome && !(vce d n).faulted) = true := by
    rcases h with h | h <;> simp [h]
  exact (if_neg hopen).trans (vceRefill_setVce ..)

theorem vceReset_busy {d : Dev} {n : Nat} (hcur : (vce d n).cur ≠ none) (halive : (vce d n).faulted = false) : vceReset d n = d :=
  if_pos (by simp [Option.isSome_iff_ne_none.2 hcur, halive])

end Sys2Proof.Machine

namespace Sys2Proof.Proofs

open Sys2Proof Sys2Proof.Machine Sys2Proof.Safety

/-- The event of an operation runs it at the front of the engine's queue. -/
theorem codec_event_runs {s : State} {n : Fin 16} {x : Instr × Nat}
    (hx : x ∈ [(.configDec n, 1), (.configEnc n, 2), (.decode n, 3), (.vceDrain n, 4), (.encode n, 5), (.vceRelease n, 6), (.vceClose n, 7)]) :
    ∃ f, exec x.1 s = .next { s with dev := vceRun s.dev n.val x.2 f } := by
  simp only [List.mem_cons, List.not_mem_nil, or_false] at hx
  rcases hx with rfl | rfl | rfl | rfl | rfl | rfl | rfl <;> exact ⟨_, rfl⟩

/-- Settles O30: by the command at the front and the context that it names. -/
theorem codecControlComplete : Obligations.CodecControlComplete := by
  unfold Obligations.CodecControlComplete
  refine ⟨fun s n c rest => ?_, fun s n => ?_⟩
  · dsimp only
    refine ⟨fun op b hready hthere hread => ?_, fun hready => ?_, fun hready => ?_,
      fun x hx => ⟨fun hbusy => ?_, fun hcur hqueue halive => ⟨fun hother => ?_, fun hop hver hctx => ?_⟩⟩⟩
    · have hdec (hop : op = 1) : exec (.configDec n) s = .next { s with dev := vceConfig (ctxRead s.dev n.val c) n.val c rest .dec } := by
        subst hop
        dsimp only [exec, execConfigDec]
        rw [lift_eq, vceRun_ready hready]
      have henc (hop : op = 2) : exec (.configEnc n) s = .next { s with dev := vceConfig (ctxRead s.dev n.val c) n.val c rest .enc } := by
        subst hop
        dsimp only [exec, execConfigEnc]
        rw [lift_eq, vceRun_ready hready]
      simp only [vceConfig_eq hthere hread, configEnds, vce_ctxRead] at hdec henc
      refine ⟨fun hop hform hsup => ?_, fun hop hform => ?_, fun hop hform hsup => ?_, fun hop hform hsup hrate => ?_,
        fun hop hform => ?_, fun hop hform hsup => ?_, fun hop hform hsup hrc hrate => ?_⟩
      · rw [hdec hop]
        simp [hform, hsup, newCtx]
      · rw [hdec hop]
        simp [hform]
      · rw [hdec hop]
        simp [hform, hsup]
      · rw [henc hop]
        have hok : (prmRc b != 0 && !rateOk b) = false := by
          rcases hrate with h | h <;> simp [h]
        simp [hform, hsup, hok, newCtx]
      · rw [henc hop]
        simp [hform]
      · rw [henc hop]
        simp [hform, hsup]
      · rw [henc hop]
        simp [hform, hsup, hrc, hrate]
    · have hrun : exec (.vceDrain n) s = .next { s with dev := vceDrain (ctxRead s.dev n.val c) n.val c rest } := by
        dsimp only [exec, execVceDrain]
        rw [lift_eq, vceRun_ready hready]
      refine ⟨fun hnone => ?_, fun x hx => ⟨fun hempty => ?_, fun j hj => ?_⟩⟩
      · rw [hrun, vceDrain_noContext (by rw [vce_ctxRead]; exact hnone), vce_ctxRead]
      · rw [hrun, vceDrain_empty (x := x) (by rw [vce_ctxRead]; exact hx) rest hempty, vce_ctxRead]
      · rw [hrun, vceDrain_next (x := x) (by rw [vce_ctxRead]; exact hx) rest (by rw [vce_ctxRead]; exact hj), vce_ctxRead]
        exact ⟨_, _, rfl, handOut_same .., fun i hi => handOut_other _ _ hi⟩
    · dsimp only [exec, execVceClose]
      rw [lift_eq, vceRun_ready hready, vceEnd_eq_codecLeaves, vce_ctxRead]
    · obtain ⟨f, hrun⟩ := codec_event_runs (s := s) hx
      rw [hrun, vceRun_of_none (vceFront_eq_none_of_busy hbusy x.2)]
    · obtain ⟨f, hrun⟩ := codec_event_runs (s := s) hx
      rw [hrun, vceRun_of_none (vceFront_eq_none_of_other hcur hqueue halive hother)]
    · obtain ⟨f, hrun⟩ := codec_event_runs (s := s) hx
      rw [hrun, vceRun_noContext (vceFront_eq_some hcur hqueue halive hop hver) hctx]
  · dsimp only
    refine ⟨fun c w ctxs bufs hcur hword hafter => ?_, fun c rest hcur hqueue halive hbad => ?_,
      fun d slot => ⟨fun h => vceAudit_kept h slot, fun h => vceAudit_broken h slot⟩, fun parity hdead => ?_,
      fun parity halive => ⟨fun hcur => ?_, fun c hcur => ?_⟩, fun src howner => ⟨fun hopen => ?_, fun hcur halive => ?_⟩⟩
    · dsimp only [exec, execVceCompletion]
      rw [lift_eq, vceComplete_running hcur hword hafter]
    · dsimp only [exec, execVceCompletion]
      rw [lift_eq, vceComplete_malformed hcur (vceMalformed_eq_some hcur hqueue halive hbad)]
    · dsimp only [exec, execVceFault]
      rw [lift_eq]
      exact congrArg (fun e => Host.Outcome.next { s with dev := e }) (if_pos hdead)
    · dsimp only [exec, execVceFault]
      rw [lift_eq]
      refine congrArg (fun e => Host.Outcome.next { s with dev := e }) ((if_neg (Bool.eq_false_iff.1 halive)).trans ?_)
      rw [vceFail_eq, vce_record, vceHalt, vce_record, hcur]
      exact endJobs_none ..
    · dsimp only [exec, execVceFault]
      rw [lift_eq]
      refine congrArg (fun e => Host.Outcome.next { s with dev := e }) ((if_neg (Bool.eq_false_iff.1 halive)).trans ?_)
      rw [vceFail_eq, vce_record, vceHalt, vce_record, hcur]
      rfl
    · dsimp only [exec, execVceReset]
      rw [lift_eq, ownerOnly, if_pos howner, vceReset_open hopen]
    · dsimp only [exec, execVceReset]
      rw [lift_eq, ownerOnly, if_pos howner, vceReset_busy hcur halive]

end Sys2Proof.Proofs
end


section
/-! DECODE and ENCODE (R273, R274, R276 to R279). -/

namespace Sys2Proof.Machine

open Sys2Proof Sys2Proof.Safety

/-! ### What a store in T1 leaves alone -/

/-- A store in T1 changes memory, the images it holds, and what a discarded write records. -/
structure StoreOnly (d e : Dev) : Prop where
  vce : e.vce = d.vce
  ports : e.ports = d.ports
  clk : e.clk = d.clk
  regs : e.regs = d.regs
  rw : e.rw = d.rw
  sched : e.sched = d.sched

theorem StoreOnly.rfl {d : Dev} : StoreOnly d d := ⟨Eq.refl _, Eq.refl _, Eq.refl _, Eq.refl _, Eq.refl _, Eq.refl _⟩

theorem StoreOnly.trans {d e f : Dev} (h : StoreOnly d e) (k : StoreOnly e f) : StoreOnly d f :=
  ⟨k.vce.trans h.vce, k.ports.trans h.ports, k.clk.trans h.clk, k.regs.trans h.regs, k.rw.trans h.rw, k.sched.trans h.sched⟩

theorem t1Put_storeOnly (d : Dev) (h off : Nat) (bs : List Byte) : StoreOnly d (t1Put d h off bs) := by
  unfold t1Put
  split
  · exact .rfl
  · exact ⟨Eq.refl _, Eq.refl _, Eq.refl _, Eq.refl _, Eq.refl _, Eq.refl _⟩

theorem touch_storeOnly (d : Dev) (h off len : Nat) : StoreOnly d (touch d h off len) := by
  unfold touch
  split
  · exact .rfl
  · split
    · exact ⟨Eq.refl _, Eq.refl _, Eq.refl _, Eq.refl _, Eq.refl _, Eq.refl _⟩
    · exact .rfl

theorem t1Write_storeOnly (d : Dev) (h off : Nat) (bs : List Byte) : StoreOnly d (t1Write d h off bs) := by
  unfold t1Write
  split
  · exact .rfl
  next o ho =>
    split
    · exact ⟨discarded_vce .., discarded_ports .., discarded_clk .., discarded_regs .., discarded_rw .., discarded_sched ..⟩
    · have himage : StoreOnly (touch d h off bs.length) (touchImage (touch d h off bs.length) h o) :=
        ⟨Eq.refl _, Eq.refl _, Eq.refl _, Eq.refl _, Eq.refl _, Eq.refl _⟩
      exact ((touch_storeOnly ..).trans himage).trans (t1Put_storeOnly ..)

theorem engStore_storeOnly {d e : Dev} {si handle off : Nat} {bs : List Byte} (h : engStore d si handle off bs = .ok e) : StoreOnly d e := by
  unfold engStore at h
  dsimp only at h
  split at h
  · exact absurd h nofun
  · split at h
    · exact absurd h nofun
    · split at h
      · exact absurd h nofun
      · rw [← DstWrite.ok.inj h]
        exact t1Write_storeOnly ..

theorem engWrite_storeOnly (d : Dev) (si handle off : Nat) (bs : List Byte) : StoreOnly d ((engWrite d si handle off bs).getD d) := by
  unfold engWrite
  split
  next e he => exact engStore_storeOnly he
  next => exact .rfl

theorem writePic_storeOnly (d : Dev) (b : List Byte) (e : Nat × Nat × Nat) (w h : Nat) (free : Nat → Nat) :
    StoreOnly d (writePic d b e w h free) := by
  unfold writePic
  generalize List.range (h + h / 2) = rows
  induction rows generalizing d with
  | nil => exact .rfl
  | cons y rows ih => exact (engWrite_storeOnly ..).trans (ih _)

theorem StoreOnly.vce_eq {d e : Dev} (h : StoreOnly d e) (n : Nat) : Machine.vce e n = Machine.vce d n :=
  congrArg (mget · n Vce.reset) h.vce

/-! ### The buffer of a picture -/

section buffer
variable {d : Dev} {n : Nat} {c : EngCmd} {rest : List EngCmd} {x : VCtx} (f : Dev → Nat → (Nat × Nat × Nat) → Dev)

theorem vceBuffer_none (h : takeBuf d n (vce d n) = none) : vceBuffer d n c rest x f = vceStop d n c rest 4 := by
  simp only [vceBuffer, h]

variable {i : Nat} {row : List Byte} (hi : takeBuf d n (vce d n) = some i)
  (hthere : engWaits d 2 (fld (regGet d (vceBase n + 8)) 0 16) (16 * i) 16 = [])
  (hrow : engRead d 2 (fld (regGet d (vceBase n + 8)) 0 16) (16 * i) 16 = .ok row)
include hi hthere hrow

theorem vceBuffer_small (h : bufFits d x.params (poolPlace row) = false) : vceBuffer d n c rest x f = vceStop d n c rest 1 := by
  simp only [vceBuffer, hi, hthere, hrow, h]
  rfl

theorem vceBuffer_taken {e : Dev} (hfits : bufFits d x.params (poolPlace row) = true)
    (hstore : engStoreLines d 2 (poolPlace row).1 (poolPlace row).2.1 [] = .ok e)
    (hpages : engWaits d 2 (poolPlace row).1 (poolPlace row).2.1
      (picSpan x.params (prmW x.params) (prmH x.params) (poolPlace row).2.2) = [])
    (hfree : engHeld d 2 (poolPlace row).1 (poolPlace row).2.1
      (picSpan x.params (prmW x.params) (prmH x.params) (poolPlace row).2.2) = false) :
    vceBuffer d n c rest x f = f d i (poolPlace row) := by
  simp only [vceBuffer, hi, hthere, hrow, hfits, hstore, hpages, hfree]
  rfl

end buffer

/-! ### What a picture leaves -/

/-- What a command that makes a picture in buffer `i` for context `k` leaves at its engine. -/
structure PictureLeft (v : Vce) (k i : Nat) (c : EngCmd) (rest : List EngCmd) (w : VceWord) (ctxs : FMap VCtx) (bufs : FMap VBuf)
    (e : Vce) : Prop where
  cur : e.cur = some c
  queue : e.queue = rest ++ v.wait.take (32 - rest.length)
  word : e.word = some (vceWord w)
  after : e.after = some (ctxs, bufs)
  others : ∀ k', k' ≠ k → mget? ctxs k' = mget? v.ctxs k'
  current : w.status = 0 → (vbuf e.bufs i).mark = .current

theorem vbuf_current (bs : FMap VBuf) (i k poc : Nat) : (vbuf (setVbuf bs i ⟨.current, false, k, poc⟩) i).mark = .current := by
  rw [setVbuf_marked _ _ (show BufMark.current ≠ .unused by decide), vbuf, mget_mset_same]

/-- A command that ends with a picture in a buffer, whatever it has stored. -/
theorem codecLeaves_picture {d : Dev} {n : Nat} {v : Vce} (hwait : (vce d n).wait = v.wait) (c : EngCmd) (rest : List EngCmd)
    (w : VceWord) (k i poc : Nat) (x : VCtx) (bufs : FMap VBuf) :
    PictureLeft v k i c rest w (mset v.ctxs k x) bufs
      (vce (codecLeaves d n c rest w (mset v.ctxs k x) bufs (setVbuf v.bufs i ⟨.current, false, k, poc⟩)) n) := by
  simp only [codecLeaves, vce_setVce_same, hwait]
  exact ⟨rfl, rfl, rfl, rfl, fun k' hk => mget?_mset_other _ _ _ _ hk, fun _ => vbuf_current ..⟩

/-- DECODE with a buffer ends DONE. -/
theorem decodePic_spec (d : Dev) (n : Nat) (c : EngCmd) (rest : List EngCmd) (x : VCtx) (bits : List Byte) (i : Nat) (e : Nat × Nat × Nat) :
    ∃ w ctxs bufs, w.status = 0 ∧ PictureLeft (vce d n) (leAt c.bytes 2 1) i c rest w ctxs bufs (vce (decodePic d n c rest x bits i e) n) := by
  unfold decodePic
  extract_lets v k us x' free slice size w h poc bs shown outq bufs cur d1 v1 d2 o irap word x2
  have hwait : (vce d2 n).wait = v.wait := by
    have h1 : vce d1 n = v := (writePic_storeOnly ..).vce_eq n
    by_cases hbs : bs = true
    · simp only [d2, v1, if_pos hbs, vce_setVce_same, h1]
    · simp only [d2, if_neg hbs, h1]
  cases o with
  | none =>
    dsimp only
    rw [vceEnd_eq_codecLeaves]
    exact ⟨_, _, _, rfl, codecLeaves_picture hwait ..⟩
  | some j =>
    dsimp only
    rw [vceEnd_eq_codecLeaves]
    exact ⟨_, _, _, rfl, codecLeaves_picture hwait ..⟩

/-! ### The coded picture (R278, R279) -/

theorem attempts_le (x : VCtx) (free : Nat → Nat) : 1 ≤ (attempts x free).attempts ∧ (attempts x free).attempts ≤ 4 := by
  unfold attempts
  extract_lets b n exceeded qp
  split
  · simp
  · split
    · simp
    · split
      · simp
      · split <;> simp

/-- Filler is none, or at least one unit of 7 bytes. -/
theorem fillerBytes_eq_zero_or (x : VCtx) (bits : Nat) : fillerBytes x bits = 0 ∨ 7 ≤ fillerBytes x bits := by
  unfold fillerBytes
  extract_lets b u gap
  split
  · exact .inl rfl
  · split
    · exact .inl rfl
    · exact .inr (Nat.le_max_left ..)

/-- The filler units take no more bytes than asked for. -/
theorem length_fillerUnits_le (k n : Nat) (h : n = 0 ∨ 7 ≤ n) : (fillerUnits k n).length ≤ n := by
  induction k generalizing n with
  | zero => exact Nat.zero_le _
  | succ k ih =>
    unfold fillerUnits
    split
    · exact Nat.zero_le _
    next hn =>
      extract_lets m
      have hm : 7 ≤ m ∧ m ≤ n ∧ (n - m = 0 ∨ 7 ≤ n - m) := by
        dsimp only [m]
        split
        · omega
        · split <;> omega
      have hrest := ih (n - m) hm.2.2
      simp only [List.length_append, List.length_cons, List.length_nil, List.length_replicate]
      omega

theorem mem_of_mget?_eq_some {α : Type} {m : FMap α} {n : Nat} {v : α} (h : mget? m n = some v) : (n, v) ∈ m := by
  induction m with
  | nil => exact absurd h nofun
  | cons p r ih =>
    obtain ⟨k, u⟩ := p
    simp only [mget?] at h
    split at h
    · exact absurd h nofun
    · split at h
      next hk => rw [hk, Option.some.inj h]; exact List.mem_cons_self
      next => exact List.mem_cons_of_mem _ (ih h)

/-- No round runs on any stack, so nothing is held. -/
theorem roundsHold_quiet {d : Dev} (h : ∀ st ∈ d.hbm.stk, st.2.runLeft = 0) (o : Obj) (spans : List (Nat × Nat)) :
    roundsHold d o spans = false := by
  have hquiet (k : Nat) : ((stack d k).runLeft != 0) = false := by
    rw [stack, mget]
    cases hk : mget? d.hbm.stk k with
    | none => rfl
    | some st => simpa using h _ (mem_of_mget?_eq_some hk)
  simp [roundsHold, hquiet]

/-- The output area of an ENCODE: a resident object that may be written, with room for every byte it may leave, and no round that holds it. -/
structure OutputOpen (d : Dev) (c : EngCmd) (h0 : Nat) (o : Obj) : Prop where
  obj : objOf d (rebase d c.scope (leAt c.bytes 4 2)) = some (h0, o)
  cls : o.cls = .resident
  open_ : o.rdonly = false
  line : leAt c.bytes 8 8 % 64 = 0
  quiet : ∀ st ∈ d.hbm.stk, st.2.runLeft = 0
  room : (rebase d c.scope (leAt c.bytes 4 2) - h0) * 2 ^ 32 + leAt c.bytes 8 8 + leAt c.bytes 0x10 4 ≤ o.npages * pageSize

section output
variable {d : Dev} {c : EngCmd} {h0 : Nat} {o : Obj} (h : OutputOpen d c h0 o)
include h

theorem OutputOpen.waits (n : Nat) : engWaits d c.scope (leAt c.bytes 4 2) (leAt c.bytes 8 8) n = [] := by
  simp [engWaits, h.obj, missing, h.cls]

theorem OutputOpen.held (n : Nat) : engHeld d c.scope (leAt c.bytes 4 2) (leAt c.bytes 8 8) n = false := by
  simp only [engHeld, h.obj]
  exact roundsHold_quiet h.quiet ..

theorem OutputOpen.store {bs : List Byte} (hlen : bs.length ≤ leAt c.bytes 0x10 4) :
    ∃ e, engStoreLines d c.scope (leAt c.bytes 4 2) (leAt c.bytes 8 8) bs = .ok e := by
  have hroom : ¬ o.npages * pageSize < (rebase d c.scope (leAt c.bytes 4 2) - h0) * 2 ^ 32 + leAt c.bytes 8 8 + bs.length :=
    Nat.not_lt.2 (Nat.le_trans (Nat.add_le_add_left hlen _) h.room)
  refine ⟨t1Write d h0 ((rebase d c.scope (leAt c.bytes 4 2) - h0) * 2 ^ 32 + leAt c.bytes 8 8) bs, ?_⟩
  simp only [engStoreLines, engStore, h.line, h.obj, h.cls, h.open_, hroom]
  rfl

end output

/-- ENCODE with a buffer ends CAPACITY, or DONE within its output area. -/
theorem encodePic_spec {d : Dev} {n : Nat} {c : EngCmd} {rest : List EngCmd} {x : VCtx} {src : List Byte} {i : Nat} {e : Nat × Nat × Nat}
    {h0 : Nat} {o : Obj} (hout : OutputOpen d c h0 o) :
    ∃ w ctxs bufs, (w.status = 0 ∨ w.status = 5)
      ∧ PictureLeft (vce d n) (leAt c.bytes 2 1) i c rest w ctxs bufs (vce (encodePic d n c rest x src i e) n)
      ∧ (w.status = 0 → w.bytes ≤ leAt c.bytes 0x10 4 ∧ 1 ≤ w.attempts ∧ w.attempts ≤ 4) := by
  unfold encodePic
  extract_lets v k h fl period irap refs mvs free a fb total ws bs poc mark bufs x' w
  split
  next hfull =>
    rw [vceStop_eq_codecLeaves, codecLeaves, vce_setVce_same]
    exact ⟨_, _, _, .inr rfl, ⟨rfl, rfl, rfl, rfl, fun _ _ => rfl, fun h5 => absurd h5 nofun⟩, fun h5 => absurd h5 nofun⟩
  next hfits =>
    have hlen : (bs ++ fillerUnits (fb / 65536 + 2) fb).length ≤ leAt c.bytes 0x10 4 := by
      have hbs : bs.length = a.bits / 8 := by simp [bs]
      have hfill := length_fillerUnits_le (fb / 65536 + 2) fb (fillerBytes_eq_zero_or x a.bits)
      rw [List.length_append, hbs]
      exact Nat.le_trans (Nat.add_le_add_left hfill _) (Nat.not_lt.1 hfits)
    obtain ⟨f, hf⟩ := hout.store hlen
    have hws : ws = [] := hout.waits _
    rw [hws, hout.held, hf]
    simp only [List.isEmpty_nil, Bool.not_true, Bool.false_eq_true, if_false, vceEnd_eq_codecLeaves]
    refine ⟨w, _, bufs, .inl rfl, codecLeaves_picture ?_ .., fun _ => ⟨Nat.not_lt.1 hfits, attempts_le x free⟩⟩
    rw [vce_setVce_same]

end Sys2Proof.Machine

namespace Sys2Proof.Proofs

open Sys2Proof Sys2Proof.Machine Sys2Proof.Safety

/-- What a command that ends with a status leaves in `d`: its engine as it was in `d0`, apart from the command and its word. -/
def stopped (d0 : Dev) (n : Fin 16) (c : EngCmd) (rest : List EngCmd) (st : Nat) (d : Dev) : Dev :=
  codecLeaves d n.val c rest (vceStatus st (ctxWaiting (vce d0 n.val) (leAt c.bytes 2 1))) (vce d0 n.val).ctxs (vce d0 n.val).bufs
    (vce d0 n.val).bufs

theorem vceStop_eq_stopped {d0 d : Dev} {n : Fin 16} (h : vce d n.val = vce d0 n.val) (c : EngCmd) (rest : List EngCmd) (st : Nat) :
    vceStop d n.val c rest st = stopped d0 n c rest st d := by
  rw [vceStop_eq_codecLeaves, h, stopped]

section pictures
variable {s : State} {n : Fin 16} {c : EngCmd} {rest : List EngCmd}

theorem exec_decode_ready (h : CodecReady s.dev n.val 3 c rest) :
    exec (.decode n) s = .next { s with dev := vceDecode (ctxRead s.dev n.val c) n.val c rest } := by
  dsimp only [exec, execDecode]
  rw [lift_eq, vceRun_ready h]

theorem exec_encode_ready (h : CodecReady s.dev n.val 5 c rest) :
    exec (.encode n) s = .next { s with dev := vceEncode (ctxRead s.dev n.val c) n.val c rest } := by
  dsimp only [exec, execEncode]
  rw [lift_eq, vceRun_ready h]

/-- The ways in which a command that takes a buffer goes on. -/
theorem exec_vceBuffer {cmd : Instr} {x : VCtx} {d : Dev} {f : Dev → Nat → (Nat × Nat × Nat) → Dev}
    (hrun : exec cmd s = .next { s with dev := vceBuffer d n.val c rest x f }) (hv : vce d n.val = vce s.dev n.val) :
    (takeBuf d n.val (vce s.dev n.val) = none → exec cmd s = .next { s with dev := stopped s.dev n c rest 4 d })
    ∧ (∀ i row, takeBuf d n.val (vce s.dev n.val) = some i →
      engWaits d 2 (fld (regGet d (vceBase n.val + 8)) 0 16) (16 * i) 16 = [] →
      engRead d 2 (fld (regGet d (vceBase n.val + 8)) 0 16) (16 * i) 16 = .ok row →
      (bufFits d x.params (poolPlace row) = false → exec cmd s = .next { s with dev := stopped s.dev n c rest 1 d })
      ∧ (∀ e, bufFits d x.params (poolPlace row) = true → engStoreLines d 2 (poolPlace row).1 (poolPlace row).2.1 [] = .ok e →
        engWaits d 2 (poolPlace row).1 (poolPlace row).2.1
          (picSpan x.params (prmW x.params) (prmH x.params) (poolPlace row).2.2) = [] →
        engHeld d 2 (poolPlace row).1 (poolPlace row).2.1
          (picSpan x.params (prmW x.params) (prmH x.params) (poolPlace row).2.2) = false →
        exec cmd s = .next { s with dev := f d i (poolPlace row) })) := by
  rw [← hv]
  refine ⟨fun hnone => ?_, fun i row hi hthere hrow => ⟨fun hsmall => ?_, fun e hfits hstore hpages hfree => ?_⟩⟩
  · rw [hrun, vceBuffer_none f hnone, vceStop_eq_stopped hv]
  · rw [hrun, vceBuffer_small f hi hthere hrow hsmall, vceStop_eq_stopped hv]
  · rw [hrun, vceBuffer_taken f hi hthere hrow hfits hstore hpages hfree]

end pictures

/-- Settles O31: by the limits that the picture meets and the buffer that it takes. -/
theorem codecPicturesComplete : Obligations.CodecPicturesComplete := by
  unfold Obligations.CodecPicturesComplete
  intro s n op c rest x bs hready
  dsimp only
  rintro (rfl | rfl)
  · simp only [show ¬ (3 = 5) by decide, if_false, false_or, not_false_eq_true, true_implies]
    have hrun := exec_decode_ready hready
    refine ⟨fun hnone => ?_, fun hx hthere hread => ?_⟩
    · simp only [vceDecode, vce_ctxRead, hnone] at hrun
      rw [hrun, vceStop_eq_stopped (vce_ctxRead ..), stopped]
    · simp only [vceDecode, vce_ctxRead, hx, vceRead_ok hthere hread] at hrun
      have hv : vce (engTouch (ctxRead s.dev n.val c) c.scope (leAt c.bytes 4 2) (leAt c.bytes 8 8) (leAt c.bytes 16 4)) n.val
          = vce s.dev n.val := by rw [vce_engTouch, vce_ctxRead]
      refine ⟨fun hrefused => ?_, fun hgood htake => ?_, fun i row hgood hi hrow hentry => ⟨fun hsmall => ?_, fun e hfits hstore hpages hfree _ => ?_⟩⟩
      · rw [if_pos hrefused, vceStop_eq_stopped hv] at hrun
        exact hrun
      · rw [if_neg hgood] at hrun
        exact (exec_vceBuffer hrun hv).1 htake
      · rw [if_neg hgood] at hrun
        exact ((exec_vceBuffer hrun hv).2 i row hi hrow hentry).1 hsmall
      · rw [if_neg hgood] at hrun
        have hpic := ((exec_vceBuffer hrun hv).2 i row hi hrow hentry).2 e hfits hstore hpages hfree
        obtain ⟨w, ctxs, bufs, hw, hleft⟩ := decodePic_spec (engTouch (ctxRead s.dev n.val c) c.scope (leAt c.bytes 4 2) (leAt c.bytes 8 8)
          (leAt c.bytes 16 4)) n.val c rest x bs i (poolPlace row)
        rw [hv] at hleft
        exact ⟨_, w, ctxs, bufs, hpic, rfl, .inl hw, hleft.cur, hleft.queue, hleft.word, hleft.after, hleft.others, hleft.current, nofun⟩
  · simp only [if_true, true_or, true_implies, not_true_eq_false, false_implies, true_and]
    have hrun := exec_encode_ready hready
    refine ⟨fun hnone => ?_, fun hx hthere hread => ?_⟩
    · simp only [vceEncode, vce_ctxRead, hnone] at hrun
      rw [hrun, vceStop_eq_stopped (vce_ctxRead ..), stopped]
    · simp only [vceEncode, vce_ctxRead, hx, vceRead_ok hthere hread] at hrun
      have hv : vce (engTouch (ctxRead s.dev n.val c) c.scope (leAt c.bytes 6 2) (leAt c.bytes 24 8)
          (picSpan x.params (prmW x.params) (prmH x.params) (leAt c.bytes 32 4))) n.val = vce s.dev n.val := by
        rw [vce_engTouch, vce_ctxRead]
      refine ⟨fun htake => (exec_vceBuffer hrun hv).1 htake, fun i row hi hrow hentry => ⟨fun hsmall => ?_,
        fun e hfits hstore hpages hfree hout => ?_⟩⟩
      · exact ((exec_vceBuffer hrun hv).2 i row hi hrow hentry).1 hsmall
      · have hpic := ((exec_vceBuffer hrun hv).2 i row hi hrow hentry).2 e hfits hstore hpages hfree
        obtain ⟨h0, o, hobj, hcls, hopen, hline, hquiet, hroom⟩ := hout
        obtain ⟨w, ctxs, bufs, hw, hleft, hcap⟩ := encodePic_spec (n := n.val) (rest := rest) (x := x) (src := bs) (i := i)
          (e := poolPlace row) ⟨hobj, hcls, hopen, hline, hquiet, hroom⟩
        rw [hv] at hleft
        exact ⟨_, w, ctxs, bufs, hpic, rfl, hw, hleft.cur, hleft.queue, hleft.word, hleft.after, hleft.others, hleft.current, hcap⟩

end Sys2Proof.Proofs
end


section
/-! The capture ports (R310 to R312): frames received, commands, and FSYNC_OUT. -/

namespace Sys2Proof.Machine

open Sys2Proof Sys2Proof.Safety

@[simp] theorem cap_setCap_same (d : Dev) (n : Nat) (c : Cap) : cap (setCap d n c) n = c := mget_mset_same ..

/-! ### Packets -/

theorem capOther_eq (d : Dev) (n : Nat) : capOther d n =
    if (cap d n).enabled = true ∨ (cap d n).cur ≠ none then setCap d n { cap d n with cOther := satAdd 8 (cap d n).cOther 1 } else d := by
  have hcond : ((cap d n).enabled || (cap d n).cur.isSome) = true ↔ (cap d n).enabled = true ∨ (cap d n).cur ≠ none := by
    rw [Bool.or_eq_true, Option.isSome_iff_ne_none]
  simp only [capOther, hcond]

theorem capLine_noFrame {d : Dev} {n : Nat} (h : (cap d n).cur = none ∨ dtDepth (capDt d n) = 0) (data : List Byte) (bad : Bool) :
    capLine d n data bad = capOther d n := by
  cases hcur : (cap d n).cur with
  | none => simp only [capLine, hcur]
  | some f =>
    have hdepth : dtDepth (capDt d n) = 0 := h.resolve_left (by simp [hcur])
    simp only [capLine, hcur]
    exact if_pos hdepth

/-- A frame that has taken one more line. -/
def lineCounted (d : Dev) (f : CFrame) : CFrame := { f with next := f.next + 1, last := d.clk.localNs }

/-- A frame whose row has been received. -/
def lineSeen (d : Dev) (n : Nat) (f : CFrame) (data : List Byte) : CFrame :=
  { lineCounted d f with
    got := f.got ++ [f.next], long := f.long || decide (lineBytes (capDt d n) (capW d n) < data.length)
    short := f.short || decide (data.length < lineBytes (capDt d n) (capW d n)) }

section line
variable {d : Dev} {n : Nat} {f : CFrame} (hcur : (cap d n).cur = some f) (hdepth : dtDepth (capDt d n) ≠ 0) (data : List Byte)
include hcur hdepth

theorem capLine_past (h : capH d n ≤ f.next) (bad : Bool) :
    capLine d n data bad = setCap d n { cap d n with cur := some { lineCounted d f with long := true } } := by
  simp only [capLine, hcur]
  exact (if_neg hdepth).trans (if_pos h)

theorem capLine_bad (h : f.next < capH d n) : capLine d n data true = setCap d n { cap d n with cur := some (lineCounted d f) } := by
  simp only [capLine, hcur]
  exact (if_neg hdepth).trans ((if_neg (Nat.not_le.2 h)).trans (if_pos trivial))

theorem capLine_good (h : f.next < capH d n) :
    capLine d n data false = setCap (match f.buf with
      | some b => capStore d n b f.next (padLine (bit (capReg d n 0) 30) (dtComps (capDt d n)) (capW d n * dtComps (capDt d n))
        ((unpackLine (capDt d n) data).take (capW d n * dtComps (capDt d n))))
      | none => d) n { cap d n with cur := some (lineSeen d n f data) } := by
  simp only [capLine, hcur]
  exact (if_neg hdepth).trans ((if_neg (Nat.not_le.2 h)).trans (if_neg nofun))

theorem capLine_stored (h : f.next < capH d n) {b : Nat} (hbuf : f.buf = some b) :
    capLine d n data false = setCap (capStore d n b f.next (padLine (bit (capReg d n 0) 30) (dtComps (capDt d n))
      (capW d n * dtComps (capDt d n)) ((unpackLine (capDt d n) data).take (capW d n * dtComps (capDt d n))))) n
      { cap d n with cur := some (lineSeen d n f data) } := by
  rw [capLine_good hcur hdepth data h, hbuf]

theorem capLine_dropped (h : f.next < capH d n) (hbuf : f.buf = none) :
    capLine d n data false = setCap d n { cap d n with cur := some (lineSeen d n f data) } := by
  rw [capLine_good hcur hdepth data h, hbuf]

end line

/-! ### The end of a frame -/

theorem capClose_none {d : Dev} {n : Nat} (h : (cap d n).cur = none) (cut : Bool) : capClose d n cut = d := by
  simp only [capClose, h]

/-- The buffers of a port that is off are free once its frame is over. -/
def capFreed (on : Bool) (n : Nat) (d : Dev) : Dev := if on = true then d else setCap d n { cap d n with bufs := [], queue := [] }

theorem capClose_dropped {d : Dev} {n : Nat} {f : CFrame} (h : (cap d n).cur = some f) (hbuf : f.buf = none) (cut : Bool) :
    capClose d n cut = capAudit (capFreed (cap d n).enabled n (setCap d n { cap d n with cur := none })) n := by
  simp only [capClose, h, hbuf]
  rfl

/-- The rows of a frame that were not received. -/
def missedRows (d : Dev) (n : Nat) (f : CFrame) : List Nat := (List.range (capH d n)).filter (fun j => !f.got.contains j)

/-- The frame of buffer `b` as it joins the queue, its missing rows filled. -/
def frameClosed (d : Dev) (n : Nat) (f : CFrame) (b : Nat) (short : Bool) : Dev :=
  setCap ((missedRows d n f).foldl (fun e j => capStore e n b j (fillLine e n b f.got j)) d) n { cap d n with
    cur := none, bufs := mset (cap d n).bufs b (.complete short f.long f.frame f.time .waiting .waiting), queue := (cap d n).queue ++ [b]
    cShort := satAdd 8 (cap d n).cShort (flag short), cLong := satAdd 8 (cap d n).cLong (flag f.long) }

/-- Whether a frame that is closed is short: it was, or was cut, or lacks a row. -/
abbrev FrameShort (d : Dev) (n : Nat) (f : CFrame) (cut : Bool) : Prop := f.short = true ∨ cut = true ∨ missedRows d n f ≠ []

theorem frameShort_eq (d : Dev) (n : Nat) (f : CFrame) (cut : Bool) :
    (f.short || cut || !(missedRows d n f).isEmpty) = decide (FrameShort d n f cut) := by
  rw [Bool.eq_iff_iff]
  simp [FrameShort, or_assoc]

theorem capClose_stored {d : Dev} {n : Nat} {f : CFrame} {b : Nat} (h : (cap d n).cur = some f) (hbuf : f.buf = some b) (cut : Bool) :
    capClose d n cut = capAudit (capFreed (cap d n).enabled n
      (if FrameShort d n f cut ∨ f.long = true then
        record (frameClosed d n f b (decide (FrameShort d n f cut))) { fspec 0 0x10 0x16 with unit := n, detail := f.frame }
      else frameClosed d n f b (decide (FrameShort d n f cut)))) n := by
  have hmark : ((mget? (cap (frameClosed d n f b (decide (FrameShort d n f cut))) n).bufs b).map capMarked).getD false =
      (decide (FrameShort d n f cut) || f.long) := by
    rw [frameClosed, cap_setCap_same, mget?_mset_same]
    rfl
  have hif (x y : Dev) : (if FrameShort d n f cut ∨ f.long = true then x else y) =
      if ((mget? (cap (frameClosed d n f b (decide (FrameShort d n f cut))) n).bufs b).map capMarked).getD false = true then x else y := by
    simp only [hmark, Bool.or_eq_true, decide_eq_true_eq]
  rw [hif, ← frameShort_eq]
  simp only [capClose, h, hbuf]
  rfl

theorem capAudit_kept {d : Dev} {n : Nat} (h : (capCounts d n).1 + (capCounts d n).2.1 + (capCounts d n).2.2 = capPool d n) :
    capAudit d n = d := by
  simp only [capAudit, law5Cap]
  rw [if_pos h]

theorem capAudit_broken {d : Dev} {n : Nat} (h : (capCounts d n).1 + (capCounts d n).2.1 + (capCounts d n).2.2 ≠ capPool d n) :
    capAudit d n = capDisable (endJobs
      (record d { fspec 3 0x10 0x08 with
        unit := n, detail := lawDetail 5 (capPool d n) ((capCounts d n).1 + (capCounts d n).2.1 + (capCounts d n).2.2) })
      (scopesOf d (capJobs (cap d n))) 3 (faultCode 3 0x10 0x08)) n := by
  simp only [capAudit, law5Cap]
  rw [if_neg h]
  rfl

/-! ### Commands -/

theorem capRun_other {d : Dev} {n op : Nat} (h : (cap d n).cmds = [] ∨ ∃ y rest, (cap d n).cmds = y :: rest ∧ leAt y.bytes 0 1 ≠ op)
    (f : Cap → EngCmd → Cap × Option (List Byte)) : capRun d n op f = d := by
  unfold capRun
  rcases h with h | ⟨y, rest, h, hop⟩
  · simp only [h]
  · simp only [h]
    exact if_pos (bne_iff_ne.2 hop)

/-- A command's answer, if it has one, and what it leaves at the port. -/
def capAnswered (d : Dev) (n : Nat) (x : EngCmd) (r : Cap × Option (List Byte)) : Dev :=
  match r.2 with
  | some w => engineWord (setCap d n (capSettle d r.1)) x w
  | none => setCap d n (capSettle d r.1)

/-- A well-formed block of a capture command. -/
def CapFormed (x : EngCmd) : Prop := leAt x.bytes 2 1 < 2 ∧ leAt x.bytes 3 1 = 0 ∧ leAt x.bytes 6 58 = 0

theorem capFormed_iff (x : EngCmd) :
    (decide (2 ≤ leAt x.bytes 2 1) || leAt x.bytes 3 1 != 0 || leAt x.bytes 6 58 != 0) = true ↔ ¬ CapFormed x := by
  simp only [CapFormed, Bool.or_eq_true, decide_eq_true_eq, bne_iff_ne]
  omega

section command
variable {d : Dev} {n op : Nat} {x : EngCmd} {rest : List EngCmd} (hcmds : (cap d n).cmds = x :: rest) (hop : leAt x.bytes 0 1 = op)
  (f : Cap → EngCmd → Cap × Option (List Byte))
include hcmds hop

theorem capRun_malformed (h : ¬ CapFormed x) :
    capRun d n op f = engineWord (setCap d n { cap d n with cmds := rest }) x (capWord 1) := by
  simp only [capRun, hcmds, hop]
  exact (if_neg (by simp)).trans (if_pos ((capFormed_iff x).2 h))

theorem capRun_off (h : CapFormed x) (hoff : (cap d n).enabled = false) :
    capRun d n op f = engineWord (setCap d n { cap d n with cmds := rest }) x (capWord 4) := by
  simp only [capRun, hcmds, hop]
  exact (if_neg (by simp)).trans ((if_neg (fun hbad => (capFormed_iff x).1 hbad h)).trans (if_pos (by simp [hoff])))

theorem capRun_on (h : CapFormed x) (hon : (cap d n).enabled = true) :
    capRun d n op f = capAnswered d n x (f { cap d n with cmds := rest } x) := by
  simp only [capRun, hcmds, hop]
  refine (if_neg (by simp)).trans ((if_neg (fun hbad => (capFormed_iff x).1 hbad h)).trans ((if_neg (by simp [hon])).trans ?_))
  rfl

end command

/-- TAKE_COMPLETE gives the oldest waiting buffer to the first TAKE that one is available for. -/
theorem takeComplete_given {d : Dev} {n i : Nat} {x : EngCmd} {sh lo : Bool} {f : Nat} {tm : BitVec 64} {t0 t1 : CTake}
    (hx : (cap d n).takes.find? (fun x => (oldestFor (cap d n) (cmdSide x)).isSome) = some x)
    (hi : oldestFor (cap d n) (cmdSide x) = some i) (hb : mget? (cap d n).bufs i = some (.complete sh lo f tm t0 t1)) :
    takeComplete d n = engineWord (setCap d n (capSettle d { cap d n with
      takes := (cap d n).takes.erase x
      bufs := mset (cap d n).bufs i (setTake (.complete sh lo f tm t0 t1) (cmdSide x) (.taken x.slot (bit (leAt x.bytes 2 1) 0))) })) x
      (leBytes 2 0 ++ leBytes 2 i ++ leBytes 2 (flag sh + 2 * flag lo) ++ leBytes 2 f ++ leBytes 8 tm.toNat) := by
  have hget : mget (cap d n).bufs i .filling = .complete sh lo f tm t0 t1 := by rw [mget, hb]; rfl
  simp only [takeComplete, hx, hi, hget]

theorem takeComplete_none {d : Dev} {n : Nat}
    (h : (cap d n).takes.find? (fun x => (oldestFor (cap d n) (cmdSide x)).isSome) = none) : takeComplete d n = d := by
  simp only [takeComplete, h]

theorem capDisable_eq (d : Dev) (n : Nat) : capDisable d n =
    (cap d n).takes.foldl (fun d x => engineWord d x (capWord 4)) (setCap (regPut d (capBase n) (capReg d n 0 % 2 ^ 31)) n
      (if (cap d n).cur = none then { cap d n with enabled := false, takes := [], bufs := [], queue := [] }
       else { cap d n with enabled := false, takes := [] })) := by
  unfold capDisable
  cases hcur : (cap d n).cur <;> simp [hcur]

end Sys2Proof.Machine

namespace Sys2Proof.Proofs

open Sys2Proof Sys2Proof.Machine Sys2Proof.Safety

theorem exec_capLine_ofPort {s : State} {n : Fin 8} {vc : Fin 4} {t : Fin 64}
    (h : vc.val = fld (capReg s.dev n.val 0) 27 2 ∧ t.val = capDt s.dev n.val) (data : List Byte) (bad : Bool) :
    exec (.capLine n ⟨vc, t, data⟩ bad) s = .next { s with dev := capLine s.dev n.val data bad } := by
  dsimp only [exec, execCapLine]
  rw [lift_eq]
  have hport : (decide (vc.val = fld (capReg s.dev n.val 0) 27 2) && t.val == capDt s.dev n.val) = true := by simpa using h
  exact congrArg (fun e => Host.Outcome.next { s with dev := e }) (if_pos hport)

theorem mem_capture_events {n : Fin 8} {p : Instr × Nat} (hp : p ∈ [(Instr.take n, 1), (.capReturn n, 2)]) :
    p = (.take n, 1) ∨ p = (.capReturn n, 2) := by
  simpa only [List.mem_cons, List.not_mem_nil, or_false] using hp

/-- The event of a command runs it at the front of the port's list. -/
theorem capture_event_runs {s : State} {n : Fin 8} {p : Instr × Nat} (hp : p ∈ [(Instr.take n, 1), (.capReturn n, 2)]) :
    ∃ f, exec p.1 s = .next { s with dev := capRun s.dev n.val p.2 f } := by
  rcases mem_capture_events hp with rfl | rfl <;> exact ⟨_, rfl⟩

/-- Whether FSYNC_OUT has a next instant. -/
theorem fsoRises_iff (d : Dev) (n : Nat) :
    (bit (capReg d n 0) 29 && !(cap d n).fso && decide (2 * (fsoTimes d n).2.2 ≤ (fsoTimes d n).1)) = true ↔
      bit (capReg d n 0) 29 = true ∧ (cap d n).fso = false ∧ 2 * (fsoTimes d n).2.2 ≤ (fsoTimes d n).1 := by
  simp [and_assoc]

/-- FSYNC_OUT has risen `k` nanoseconds later. -/
def fsoRisen (d : Dev) (n k : Nat) : Dev :=
  emit (setCap (elapse d k) n { cap d n with fso := true, fsoFall := (elapse d k).clk.localNs + (fsoTimes d n).2.2 }) (.pin "FSYNC_OUT" n true)

/-- FSYNC_OUT rises at the next instant of its period. -/
theorem exec_fsyncOutRise_on {s : State} {n : Fin 8}
    (hon : bit (capReg s.dev n.val 0) 29 = true ∧ (cap s.dev n.val).fso = false ∧ 2 * (fsoTimes s.dev n.val).2.2 ≤ (fsoTimes s.dev n.val).1) :
    ∃ t k, exec (.fsyncOutRise n) s = .next t ∧ t.pending = s.pending ∧ t.dev.out = s.dev.out ++ [.pin "FSYNC_OUT" n.val true]
      ∧ k < (fsoTimes s.dev n.val).1
      ∧ ((s.dev.clk.devtime.toNat : Int) + k - (fsoTimes s.dev n.val).2.1) % ((fsoTimes s.dev n.val).1 : Int) = 0
      ∧ t.dev.clk.localNs = s.dev.clk.localNs + k
      ∧ cap t.dev n.val = { cap s.dev n.val with fso := true, fsoFall := t.dev.clk.localNs + (fsoTimes s.dev n.val).2.2 } := by
  have hwidth : 1000 ≤ (fsoTimes s.dev n.val).2.2 := Nat.le_mul_of_pos_right 1000 (Nat.lt_of_lt_of_le Nat.zero_lt_one (Nat.le_max_left ..))
  generalize hk : (((fsoTimes s.dev n.val).2.1 : Int) - (s.dev.clk.devtime.toNat : Int)) % ((fsoTimes s.dev n.val).1 : Int) = k
  have hrun : exec (.fsyncOutRise n) s = .next { s with dev := fsoRisen s.dev n.val k.toNat } := by
    dsimp only [exec, execFsyncOutRise]
    rw [lift_eq, ← hk]
    exact congrArg (fun e => Host.Outcome.next { s with dev := e }) (if_pos ((fsoRises_iff ..).2 hon))
  obtain ⟨-, -, hfits⟩ := hon
  have hperiod : (0 : Int) < (fsoTimes s.dev n.val).1 := by omega
  have hpos : 0 ≤ k := hk ▸ Int.emod_nonneg _ (by omega)
  have hlt : k < (fsoTimes s.dev n.val).1 := hk ▸ Int.emod_lt_of_pos _ hperiod
  have hinstant : ((s.dev.clk.devtime.toNat : Int) + k.toNat - (fsoTimes s.dev n.val).2.1) % ((fsoTimes s.dev n.val).1 : Int) = 0 := by
    rw [Int.toNat_of_nonneg hpos, ← hk]
    apply Int.emod_eq_zero_of_dvd
    have hdvd := Int.dvd_self_sub_emod (x := ((fsoTimes s.dev n.val).2.1 : Int) - (s.dev.clk.devtime.toNat : Int)) (m := (fsoTimes s.dev n.val).1)
    have hneg := (Int.dvd_neg).2 hdvd
    convert hneg using 1
    ring
  exact ⟨_, k.toNat, hrun, rfl, rfl, by omega, hinstant, rfl, cap_setCap_same ..⟩

/-- Settles O37: a frame by how it opens, takes its lines and closes; a command by the buffer that it names. -/
theorem captureComplete : Obligations.CaptureComplete := by
  unfold Obligations.CaptureComplete
  refine ⟨fun s n => ?_, fun s n => ?_⟩
  · dsimp only
    have hother : (Host.Outcome.next { s with dev := capOther s.dev n.val } : Out3) =
        .next (if (cap s.dev n.val).enabled = true ∨ (cap s.dev n.val).cur ≠ none then
          { s with dev := setCap s.dev n.val { cap s.dev n.val with cOther := satAdd 8 (cap s.dev n.val).cOther 1 } } else s) := by
      rw [capOther_eq]
      split <;> rfl
    rw [← hother]
    refine ⟨fun num => ⟨fun hoff => ?_, fun b hon hb => ?_, fun hon hnone => ?_⟩, fun vc t data bad hno => ?_,
      fun vc t data f hport hcur hdepth => ⟨fun hpast bad => ?_, fun hin => ?_, fun hin b hbuf => ?_, fun hin hbuf => ?_⟩, ?_, ?_, ?_,
      fun d cut => ⟨fun hcur => capClose_none hcur cut, fun f hcur hbuf => capClose_dropped hcur hbuf cut, fun f b hcur hbuf => ⟨fun hshort hlong => ?_, fun hmark => ?_⟩⟩⟩
    · dsimp only [exec, execCapFrameStart]
      rw [lift_eq]
      simp only [capStart, hoff]
      rfl
    · dsimp only [exec, execCapFrameStart]
      rw [lift_eq]
      simp only [capStart, hon, hb]
      rfl
    · dsimp only [exec, execCapFrameStart]
      rw [lift_eq]
      simp only [capStart, hon, hnone]
      rfl
    · dsimp only [exec, execCapLine]
      rw [lift_eq]
      refine congrArg (fun e => Host.Outcome.next { s with dev := e }) ?_
      by_cases hport : (vc.val = fld (capReg s.dev n.val 0) 27 2 && t.val == capDt s.dev n.val) = true
      · have hframe := hno.resolve_left (fun h => h (by simpa using hport))
        rw [if_pos hport, capLine_noFrame hframe]
      · rw [if_neg hport]
    · rw [exec_capLine_ofPort hport, capLine_past hcur hdepth data hpast]
      rfl
    · rw [exec_capLine_ofPort hport, capLine_bad hcur hdepth data hin]
      rfl
    · rw [exec_capLine_ofPort hport, capLine_stored hcur hdepth data hin hbuf]
      rfl
    · rw [exec_capLine_ofPort hport, capLine_dropped hcur hdepth data hin hbuf]
      rfl
    · rfl
    · dsimp only [exec, execCapFrameEnd]
      rw [lift_eq]
      cases hcur : (cap s.dev n.val).cur <;> rfl
    · dsimp only [exec, execCapFrameTimeout]
      rw [lift_eq]
      cases hcur : (cap s.dev n.val).cur <;> rfl
    · rw [capClose_stored hcur hbuf, if_neg (c := FrameShort d n.val f cut ∨ f.long = true) (not_or.2 ⟨hshort, by simp [hlong]⟩)]
      rfl
    · rw [capClose_stored hcur hbuf, if_pos (c := FrameShort d n.val f cut ∨ f.long = true) hmark]
      rfl
  · dsimp only
    refine ⟨fun src howner => ⟨?_, ?_⟩, fun x hx hno => ?_, fun p hp x rest hcmds hop => ⟨fun hbad => ?_, fun hform hoff => ?_,
      fun hform hon hp1 => ?_, fun hform hon hp2 htaken => ?_, fun hform hon hp2 htaken => ?_⟩, fun hnone => ?_,
      fun x i sh lo f tm t0 t1 hx hi hb => ?_, fun d => ⟨capAudit_kept, capAudit_broken⟩, ⟨fun hoff => ?_, fun hon => ?_⟩, fun hfso => ?_, fun hfso => ?_⟩
    · dsimp only [exec, execCapEnable]
      rw [lift_eq, ownerOnly, if_pos howner, capEnable]
    · dsimp only [exec, execCapDisable]
      rw [lift_eq, ownerOnly, if_pos howner, capDisable_eq]
    · obtain ⟨f, hrun⟩ := capture_event_runs (s := s) hx
      rw [hrun, capRun_other hno]
    · obtain ⟨f, hrun⟩ := capture_event_runs (s := s) hp
      rw [hrun, capRun_malformed hcmds hop f hbad]
    · obtain ⟨f, hrun⟩ := capture_event_runs (s := s) hp
      rw [hrun, capRun_off hcmds hop f hform hoff]
    · obtain rfl : p = (.take n, 1) := (mem_capture_events hp).resolve_right (fun h => absurd (hp1.symm.trans (congrArg Prod.snd h)) (show (1 : Nat) ≠ 2 by decide))
      dsimp only [exec, execTake]
      rw [lift_eq, capRun_on hcmds hop _ hform hon]
      rfl
    · obtain rfl : p = (.capReturn n, 2) := (mem_capture_events hp).resolve_left (fun h => absurd (hp2.symm.trans (congrArg Prod.snd h)) (show (2 : Nat) ≠ 1 by decide))
      dsimp only [exec, execCapReturn]
      rw [lift_eq, capRun_on hcmds hop _ hform hon, if_pos htaken]
      rfl
    · obtain rfl : p = (.capReturn n, 2) := (mem_capture_events hp).resolve_left (fun h => absurd (hp2.symm.trans (congrArg Prod.snd h)) (show (2 : Nat) ≠ 1 by decide))
      dsimp only [exec, execCapReturn]
      rw [lift_eq, capRun_on hcmds hop _ hform hon, if_neg (Bool.eq_false_iff.1 htaken)]
      rfl
    · dsimp only [exec, execTakeComplete]
      rw [lift_eq, takeComplete_none hnone]
    · dsimp only [exec, execTakeComplete]
      rw [lift_eq, takeComplete_given hx hi hb]
    · dsimp only [exec, execFsyncOutRise]
      rw [lift_eq]
      exact congrArg (fun e => Host.Outcome.next { s with dev := e }) (if_neg (fun h => hoff ((fsoRises_iff ..).1 h)))
    · exact exec_fsyncOutRise_on hon
    · dsimp only [exec, execFsyncOutFall]
      rw [lift_eq]
      exact congrArg (fun e => Host.Outcome.next { s with dev := e }) (if_pos hfso)
    · dsimp only [exec, execFsyncOutFall]
      rw [lift_eq]
      exact congrArg (fun e => Host.Outcome.next { s with dev := e }) (if_neg (Bool.eq_false_iff.1 hfso))

end Sys2Proof.Proofs
end


section
/-! Port states and training of Reedway (R315 to R317, R334 to R338). -/

namespace Sys2Proof.Machine

open Sys2Proof Sys2Proof.Safety

@[simp] theorem rwPort_setRw_same (d : Dev) (n : Nat) (x : RwPort) : rwPort (setRw d n x) n = x := mget_mset_same ..

theorem rwPort_setRw_other (d : Dev) {n m : Nat} (h : m ≠ n) (x : RwPort) : rwPort (setRw d n x) m = rwPort d m :=
  mget_mset_other _ _ _ _ _ h

theorem setRw_setRw (d : Dev) (n : Nat) (x y : RwPort) : setRw (setRw d n x) n y = setRw d n y := by
  simp only [setRw, mset_mset]

@[simp] theorem rwPort_regPut (d : Dev) (o w n : Nat) : rwPort (regPut d o w) n = rwPort d n := rfl

theorem portUp_iff (d : Dev) (n : Nat) : portUp d n = true ↔ (rwPort d n).st = .up := beq_iff_eq

/-! ### A write of RWn_CTRL -/

/-- A port that is no longer isolated. -/
def portOpened (x : RwPort) : RwPort :=
  { x with st := if x.st = .isolated then (if x.barred = true then PortSt.refused else .failed) else x.st }

/-- A port that is taken out of use. -/
def portOff (d : Dev) (n : Nat) : Dev := setRw d n { rwPort d n with st := .disabled, width := 0, barred := false, alone := false }

section write
variable {d : Dev} {n v : Nat}

theorem rwCtrlWrite_isolates (h : ¬ (bit v 24 = false ∧ ((rwPort d n).alone = false ∨ bit v 31 = false))) :
    rwCtrlWrite d n v = isolatePort (regPut d (rwBase n) (keepBits v 0xEF03FFFF)) n := by
  have hcond : (bit v 24 || (rwPort d n).alone && bit v 31) = true := by
    cases h24 : bit v 24 <;> cases hal : (rwPort d n).alone <;> cases h31 : bit v 31 <;> simp_all
  exact if_pos hcond

theorem not_isolates (h : bit v 24 = false ∧ ((rwPort d n).alone = false ∨ bit v 31 = false)) :
    ¬ (bit v 24 || (rwPort d n).alone && bit v 31) = true := by
  obtain ⟨h24, hal⟩ := h
  rcases hal with h | h <;> simp [h24, h]

variable (hstay : bit v 24 = false ∧ ((rwPort d n).alone = false ∨ bit v 31 = false))
include hstay

theorem rwCtrlWrite_kept_off (h31 : bit v 31 = false) (hoff : bit (rwCtrl d n) 31 = false) (hst : (rwPort d n).st ≠ .isolated) :
    rwCtrlWrite d n v = regPut d (rwBase n) (keepBits v 0xEF03FFFF) := by
  refine (if_neg (not_isolates hstay)).trans ((if_pos (by simp [h31])).trans (if_neg ?_))
  simpa [hoff] using hst

theorem rwCtrlWrite_disables (h31 : bit v 31 = false) (hon : bit (rwCtrl d n) 31 = true ∨ (rwPort d n).st = .isolated) :
    rwCtrlWrite d n v =
      if (rwPort d n).st = .up then portDown (portOff (regPut d (rwBase n) (keepBits v 0xEF03FFFF)) n) n
      else portOff (regPut d (rwBase n) (keepBits v 0xEF03FFFF)) n := by
  refine (if_neg (not_isolates hstay)).trans ((if_pos (by simp [h31])).trans (if_pos ?_))
  simpa using hon

theorem rwCtrlWrite_enables (h31 : bit v 31 = true) (hoff : bit (rwCtrl d n) 31 = false) :
    rwCtrlWrite d n v =
      trainPort (setRw (regPut d (rwBase n) (keepBits v 0xEF03FFFF)) n { rwPort d n with wrapping := false, joinWait := false }) n :=
  (if_neg (not_isolates hstay)).trans ((if_neg (by simp [h31])).trans (if_pos (by simp [hoff])))

variable (h31 : bit v 31 = true) (hon : bit (rwCtrl d n) 31 = true)
include h31 hon

/-- A write that leaves EN set: an isolated port opens, and REJOIN acts on what is left. -/
theorem rwCtrlWrite_enabled {e : Dev}
    (he : e = if (rwPort d n).st = .isolated then setRw (regPut d (rwBase n) (keepBits v 0xEF03FFFF)) n (portOpened (rwPort d n))
      else regPut d (rwBase n) (keepBits v 0xEF03FFFF)) :
    rwCtrlWrite d n v = if bit v 28 = true then (if (rwPort e n).st = .failed then trainPort e n else discarded e 0x11 (rwBase n)) else e := by
  have hopen : e = if (rwPort d n).st = .isolated then setRw (regPut d (rwBase n) (keepBits v 0xEF03FFFF)) n
      { rwPort d n with st := if (rwPort d n).barred = true then .refused else .failed }
      else regPut d (rwBase n) (keepBits v 0xEF03FFFF) := by
    rw [he]
    split
    next hiso => rw [portOpened, if_pos hiso]
    next => rfl
  rw [hopen]
  exact (if_neg (not_isolates hstay)).trans ((if_neg (by simp [h31])).trans (if_neg (by simp [hon])))

end write

/-! ### Training -/

theorem trainingDone_idle {d : Dev} {n : Nat} (h : (rwPort d n).st ≠ .training ∨ (rwPort d n).identOk = false) (lanes lat : Nat) :
    trainingDone d n lanes lat = d := by
  refine if_pos ?_
  rcases h with h | h <;> simp [h]

section trained
variable {d : Dev} {n : Nat} (hst : (rwPort d n).st = .training) (hid : (rwPort d n).identOk = true)
include hst hid

theorem not_idle_of_training : ¬ ((rwPort d n).st != .training || !(rwPort d n).identOk) = true := by simp [hst, hid]

theorem trainingDone_none (lat : Nat) : trainingDone d n 0 lat = failTo d n 6 .failed :=
  (if_neg (not_idle_of_training hst hid)).trans (if_pos rfl)

theorem trainingDone_narrow {lanes : Nat} (h0 : lanes ≠ 0) (h4 : lanes ≠ 4) (hctrl : bit (rwCtrl d n) 29 = false) (lat : Nat) :
    trainingDone d n lanes lat = failTo d n 8 .failed :=
  (if_neg (not_idle_of_training hst hid)).trans ((if_neg h0).trans (if_pos (by simp [h4, hctrl])))

/-- The port that has come up at the width of its lanes. -/
def trained (d : Dev) (n lanes lat : Nat) : Dev :=
  setRw d n { rwPort d n with
    st := .up, width := if lanes = 4 then 3 else if lanes = 1 then 1 else 2, lat := sat 16 lat
    pools := (List.range 5).map (fun i => (i, (⟨grantOf d n i, grantOf d n i, 0, 0, 0, 0⟩ : Pool)))
    joinWait := (rwPort d n).wrapping, mine := none }

theorem trainingDone_up {lanes : Nat} (h0 : lanes ≠ 0) (h5 : lanes < 5) (hwide : lanes = 4 ∨ bit (rwCtrl d n) 29 = true) (lat : Nat) :
    trainingDone d n lanes lat =
      if (rwPort d n).wrapping = true then
        (match ringMate (trained d n lanes lat) n with
        | some o => (List.range 4).foldl (fun d _ => emit d (.link o .join)) (flushPorts (trained d n lanes lat))
        | none => trained d n lanes lat)
      else flushPorts (trained d n lanes lat) := by
  have hwidth : (if lanes = 4 then 3 else if lanes = 1 then 1 else 2) = if lanes = 4 then 3 else if (lanes = 2 || lanes == 3) then 2 else lanes := by
    obtain rfl | rfl | rfl | rfl : lanes = 1 ∨ lanes = 2 ∨ lanes = 3 ∨ lanes = 4 := by omega
    all_goals rfl
  have hopen : ¬ (lanes != 4 && !bit (rwCtrl d n) 29) = true := by
    rcases hwide with h | h <;> simp [h]
  rw [trained, hwidth]
  exact (if_neg (not_idle_of_training hst hid)).trans ((if_neg h0).trans (if_neg hopen))

end trained

/-! ### Ports that go down -/

theorem portDown_alone {d : Dev} {n : Nat} (h : ringMate d n = none) : portDown d n =
    flushPorts (((rwPort d n).txq ++ (rwPort d n).held).foldl (fun d p => sendPkt d p (p.p.src.toNat == rwgId d))
      ((rwPort d n).retry.foldl (fun d r => bounce d r.2 3)
        (setRw d n { rwPort d n with joinWait := false, retry := [], txq := [], held := [] }))) := by
  simp only [portDown, h]

theorem isolatePort_up {d : Dev} {n : Nat} (h : (rwPort d n).st = .up) : isolatePort d n = failTo d n 7 .isolated := by
  simp [isolatePort, h]

theorem isolatePort_idle {d : Dev} {n : Nat} (h : (rwPort d n).st ≠ .up) : isolatePort d n =
    if (rwPort d n).st = .isolated then d else setRw d n { rwPort d n with st := .isolated, cause := 7, width := 0 } := by
  simp [isolatePort, h]

end Sys2Proof.Machine

namespace Sys2Proof.Proofs

open Sys2Proof Sys2Proof.Machine Sys2Proof.Safety

/-- Whether a peer is refused (R316). -/
def identBad (d : Dev) (n : Nat) (same : Bool) (id : BitVec 18) : Bool :=
  !same || id.toNat == rwgId d || (fld (rwCtrl d n) 0 18 != 0x3FFFF && fld (rwCtrl d n) 0 18 != id.toNat)

theorem identBad_iff (d : Dev) (n : Nat) (same : Bool) (id : BitVec 18) : identBad d n same id = true ↔
    same = false ∨ id.toNat = rwgId d ∨ (fld (rwCtrl d n) 0 18 ≠ 0x3FFFF ∧ fld (rwCtrl d n) 0 18 ≠ id.toNat) := by
  simp [identBad, or_assoc]

theorem exec_ident_training {s : State} {n : Fin 8} (h : (rwPort s.dev n.val).st = .training) (same : Bool) (id : BitVec 18) (port : Fin 8) :
    exec (.ident n same id port) s = .next { s with dev := setRw s.dev n.val { rwPort s.dev n.val with
      peerId := id.toNat, peerPort := port.val, identOk := !identBad s.dev n.val same id, barred := identBad s.dev n.val same id
      st := if identBad s.dev n.val same id then .refused else .training } } := by
  have htrain : ¬ ((rwPort s.dev n.val).st != .training) = true := by simp [h]
  dsimp only [exec, execIdent]
  rw [lift_eq]
  exact congrArg (fun e => Host.Outcome.next { s with dev := e }) (if_neg htrain)

theorem exec_trainingDone (s : State) (n : Fin 8) (lanes : Fin 5) (lat : Nat) :
    exec (.trainingDone n lanes lat) s = .next { s with dev := trainingDone s.dev n.val lanes.val lat } := rfl

/-- A failed port that comes back by itself. -/
theorem retrains_iff (d : Dev) (n : Nat) :
    ((rwPort d n).st == .failed && !(rwPort d n).wrapping && bit (rwCtrl d n) 30 && bit (rwCtrl d n) 31) = true ↔
      (rwPort d n).st = .failed ∧ (rwPort d n).wrapping = false ∧ bit (rwCtrl d n) 30 = true ∧ bit (rwCtrl d n) 31 = true := by
  simp [and_assoc]

/-- Settles O38: by the state of the port in which the command finds it. -/
theorem reedwayPortsComplete : Obligations.ReedwayPortsComplete := by
  unfold Obligations.ReedwayPortsComplete
  intro s n
  dsimp only
  refine ⟨fun src howner => ⟨?_, ?_⟩, fun v => ⟨rwCtrlWrite_isolates, rwCtrlWrite_kept_off, fun hstay h31 hon => rwCtrlWrite_disables hstay h31 hon,
      rwCtrlWrite_enables, fun hstay h31 hon h28 hst => ?_, fun hstay h31 hon h28 hst => ?_, fun hstay h31 hon h28 =>
      ⟨fun hst => ?_, fun hst hbar => ?_, fun hst hbar => ?_, fun hst hst' => ?_⟩⟩,
    rfl, fun same id port => ⟨fun hst => ?_, fun hst hbad => ?_, fun hst hgood => ?_⟩,
    fun lanes lat => ⟨fun hidle => ?_, fun hst hid => ⟨fun h0 => ?_, fun h0 h4 hctrl => ?_, fun h0 hwide => ⟨fun hw => ?_, fun hw hmate => ?_, fun o hw hmate => ?_⟩⟩⟩,
    fun cause st => rfl, fun hst => ?_, fun hst => ?_, ⟨fun hauto => ?_, fun hauto => ?_⟩, fun hup i hi => ?_, fun hdown => ⟨?_, ?_, ?_⟩,
    fun hjoin hup => ?_, fun hno => ?_, fun hmate => portDown_alone hmate, fun o hmate => ?_⟩
  · dsimp only [exec, execPortEnable]
    rw [lift_eq, ownerOnly, if_pos howner]
  · dsimp only [exec, execRejoin]
    rw [lift_eq, ownerOnly, if_pos howner]
  · rw [rwCtrlWrite_enabled hstay h31 hon rfl, if_neg (Bool.eq_false_iff.1 h28), if_pos hst]
    rfl
  · rw [rwCtrlWrite_enabled hstay h31 hon rfl, if_neg (Bool.eq_false_iff.1 h28), if_neg hst]
  · have hiso : (rwPort s.dev n.val).st ≠ .isolated := by simp [hst]
    rw [rwCtrlWrite_enabled hstay h31 hon rfl, if_pos h28, if_neg hiso]
    exact if_pos hst
  · rw [rwCtrlWrite_enabled hstay h31 hon rfl, if_pos h28, if_pos hst]
    exact if_pos (by simp [portOpened, hst, hbar])
  · rw [rwCtrlWrite_enabled hstay h31 hon rfl, if_pos h28, if_pos hst]
    exact if_neg (by simp [portOpened, hst, hbar])
  · rw [rwCtrlWrite_enabled hstay h31 hon rfl, if_pos h28, if_neg hst']
    exact if_neg hst
  · exact congrArg (fun e => Host.Outcome.next { s with dev := e }) (if_pos (bne_iff_ne.2 hst))
  · rw [exec_ident_training hst, (identBad_iff ..).2 hbad]
    rfl
  · rw [exec_ident_training hst, Bool.eq_false_iff.2 (fun h => hgood ((identBad_iff ..).1 h)), ← hst]
    rfl
  · exact congrArg (fun e => Host.Outcome.next { s with dev := e }) (trainingDone_idle hidle ..)
  · rw [exec_trainingDone, h0, trainingDone_none hst hid]
  · rw [exec_trainingDone, trainingDone_narrow hst hid h0 h4 hctrl]
  · rw [exec_trainingDone, trainingDone_up hst hid h0 lanes.isLt hwide, if_neg (Bool.eq_false_iff.1 hw)]
    rfl
  · have hmate' : ringMate (trained s.dev n.val lanes.val lat) n.val = none := hmate
    rw [exec_trainingDone, trainingDone_up hst hid h0 lanes.isLt hwide, if_pos hw, hmate']
    rfl
  · have hmate' : ringMate (trained s.dev n.val lanes.val lat) n.val = some o := hmate
    rw [exec_trainingDone, trainingDone_up hst hid h0 lanes.isLt hwide, if_pos hw, hmate']
    rfl
  · exact congrArg (fun e => Host.Outcome.next { s with dev := e }) (if_pos hst)
  · exact congrArg (fun e => Host.Outcome.next { s with dev := e }) (if_neg hst)
  · exact congrArg (fun e => Host.Outcome.next { s with dev := e }) (if_pos ((retrains_iff ..).2 hauto))
  · exact congrArg (fun e => Host.Outcome.next { s with dev := e }) (if_neg (fun h => hauto ((retrains_iff ..).1 h)))
  · simp only [List.mem_cons, List.not_mem_nil, or_false] at hi
    rcases hi with rfl | rfl | rfl
    · exact congrArg (fun e => Host.Outcome.next { s with dev := e }) (if_pos ((portUp_iff ..).2 hup))
    · exact congrArg (fun e => Host.Outcome.next { s with dev := e }) (if_pos ((portUp_iff ..).2 hup))
    · exact congrArg (fun e => Host.Outcome.next { s with dev := e }) (isolatePort_up hup)
  · exact congrArg (fun e => Host.Outcome.next { s with dev := e }) (if_neg (fun h => hdown ((portUp_iff ..).1 h)))
  · exact congrArg (fun e => Host.Outcome.next { s with dev := e }) (if_neg (fun h => hdown ((portUp_iff ..).1 h)))
  · dsimp only [exec, execPortIsolate]
    rw [lift_eq, isolatePort_idle hdown]
    split <;> rfl
  · have hjoins : ((rwPort s.dev n.val).joinWait && (rwPort s.dev n.val).st == .up) = true := by simp [hjoin, hup]
    exact congrArg (fun e => Host.Outcome.next { s with dev := e }) (if_pos hjoins)
  · have hstays : ¬ ((rwPort s.dev n.val).joinWait && (rwPort s.dev n.val).st == .up) = true := by
      rcases hno with h | h <;> simp [h]
    exact congrArg (fun e => Host.Outcome.next { s with dev := e }) (if_neg hstays)
  · simp only [portDown, hmate]
    rfl

end Sys2Proof.Proofs
end


section
/-! Flits and packets that arrive on Reedway (R317 to R320, R330, R335). -/

namespace Sys2Proof.Machine

open Sys2Proof Sys2Proof.Safety

/-! ### A packet for this device (R318) -/

section deliver
variable {d : Dev} {r : RPkt}

theorem routeHere_elsewhere (h : r.p.dst.toNat ≠ rwgId d) : routeHere d r = sendPkt d r false := if_neg h

variable (hdst : r.p.dst.toNat = rwgId d)
include hdst

theorem routeHere_badTrailer (h : pktTrailer r.p ≠ r.p.trailer) : routeHere d r = bounce d r 7 :=
  (if_pos hdst).trans (if_pos (bne_iff_ne.2 h))

variable (htrailer : pktTrailer r.p = r.p.trailer)
include htrailer

theorem routeHere_return (h : r.p.ret = true) : routeHere d r = returnHome d r.p :=
  (if_pos hdst).trans ((if_neg (by simp [htrailer])).trans (if_pos h))

variable (hret : r.p.ret = false)
include hret

theorem routeHere_byType : routeHere d r =
    match r.p.ty.toNat with
    | 1 => serveReq d r
    | 2 => serveReq d r
    | 3 => takeRsp d r.p
    | 4 => takeAck d r.p
    | 5 => takeColl d r
    | _ => d :=
  (if_pos hdst).trans ((if_neg (by simp [htrailer])).trans (if_neg (by simp [hret])))

theorem routeHere_request (hty : r.p.ty = 1 ∨ r.p.ty = 2) : routeHere d r = serveReq d r := by
  rcases hty with h | h
  · rw [routeHere_byType hdst htrailer hret, show r.p.ty.toNat = 1 from congrArg BitVec.toNat h]
    rfl
  · rw [routeHere_byType hdst htrailer hret, show r.p.ty.toNat = 2 from congrArg BitVec.toNat h]
    rfl

theorem routeHere_readData (hty : r.p.ty = 3) : routeHere d r = takeRsp d r.p := by
  rw [routeHere_byType hdst htrailer hret, show r.p.ty.toNat = 3 from congrArg BitVec.toNat hty]
  rfl

theorem routeHere_ack (hty : r.p.ty = 4) : routeHere d r = takeAck d r.p := by
  rw [routeHere_byType hdst htrailer hret, show r.p.ty.toNat = 4 from congrArg BitVec.toNat hty]
  rfl

theorem routeHere_coll (hty : r.p.ty = 5) : routeHere d r = takeColl d r := by
  rw [routeHere_byType hdst htrailer hret, show r.p.ty.toNat = 5 from congrArg BitVec.toNat hty]
  rfl

theorem routeHere_message (hty : r.p.ty = 6) : routeHere d r = d := by
  rw [routeHere_byType hdst htrailer hret, show r.p.ty.toNat = 6 from congrArg BitVec.toNat hty]
  rfl

end deliver

/-! ### COLL data (R330) -/

section coll
variable {d : Dev} {r : RPkt}

theorem takeColl_stopped (h : d.boot.st ≠ .service) : takeColl d r = bounce d r 6 := if_pos (bne_iff_ne.2 h)

variable (hservice : d.boot.st = .service)
include hservice

theorem takeColl_taken {e : Dev} (h : colTake d r.p = some e) : takeColl d r = e := by
  simp only [takeColl, h, hservice]
  rfl

/-- Bytes kept for instances that are not issued yet, with those of one more packet. -/
def keptWith (d : Dev) (r : RPkt) : Nat := ((expireEarly d).rw.early.map (fun q => q.p.payload.length)).sum + r.p.payload.length

theorem takeColl_kept (h : colTake d r.p = none) (hroom : keptWith d r ≤ 2 ^ 22) :
    takeColl d r = { expireEarly d with rw := { (expireEarly d).rw with early := (expireEarly d).rw.early ++ [r] } } := by
  simp only [takeColl, h, hservice]
  exact (if_neg nofun).trans (if_neg (Nat.not_lt.2 hroom))

theorem takeColl_full (h : colTake d r.p = none) (hfull : 2 ^ 22 < keptWith d r) : takeColl d r = bounce (expireEarly d) r 6 := by
  simp only [takeColl, h, hservice]
  exact (if_neg nofun).trans (if_pos hfull)

end coll

/-! ### Reads and writes of memory (R319) -/

section serve
variable {d : Dev} {r : RPkt}

/-- The length of a request. -/
abbrev reqLen (p : Pkt) : Nat := if p.ty == 1 then p.payload.length else 64 * p.len.toNat

/-- Where a request's object has its first byte. -/
abbrev reqOff (p : Pkt) (h : Nat) : Nat := (p.word.toNat - h) * 2 ^ 32 + p.off.toNat

/-- The packet that answers a request. -/
abbrev reqAnswer (d : Dev) (p : Pkt) (ty : Nat) (bs : List Byte) : RPkt :=
  newPkt d ty p.vc.toNat p.src.toNat 0 p.tag.toNat p.word.toNat p.off.toNat bs

/-- A store changes nothing of the packet that answers it. -/
theorem reqAnswer_storeOnly {d e : Dev} (h : StoreOnly d e) (p : Pkt) (ty : Nat) (bs : List Byte) : reqAnswer e p ty bs = reqAnswer d p ty bs := by
  have hid : rwgId e = rwgId d := congrArg (fun m => fld (mget m 0x68000 (regReset 0x68000)).toNat 0 18) h.regs
  simp only [reqAnswer, newPkt, hid, h.clk]

theorem serveReq_stopped (h : d.boot.st ≠ .service) : serveReq d r = bounce d r 6 := if_pos (bne_iff_ne.2 h)

variable (hservice : d.boot.st = .service)
include hservice

theorem serveReq_noObject (h : objOf d r.p.word.toNat = none) : serveReq d r = bounce d r 4 := by
  simp only [serveReq, h, hservice]
  rfl

variable {h : Nat} {o : Obj} (hobj : objOf d r.p.word.toNat = some (h, o))
include hobj

theorem serveReq_object : serveReq d r =
    if (!accessOk o (reqOff r.p h) (reqLen r.p) (r.p.ty == 1) || o.cls == .far || o.cls == .peer) = true then bounce d r 4
    else if (!(missing h o (reqOff r.p h) (reqLen r.p)).isEmpty || roundsHold d o [(reqOff r.p h, reqLen r.p)]) = true then
      waitFor d (missing h o (reqOff r.p h) (reqLen r.p)) (.serve r)
    else if r.p.ty == 1 then
      sendAnswer (t1Write d h (reqOff r.p h) r.p.payload) (reqAnswer d r.p 4 [])
    else if spanBad o (reqOff r.p h) (reqLen r.p) = true then bounce d r 5
    else sendAnswer (touch d h (reqOff r.p h) (reqLen r.p)) (reqAnswer d r.p 3 (t1Read d h (reqOff r.p h) (reqLen r.p))) := by
  simp only [serveReq, hservice, hobj, bne_self_eq_false, Bool.false_eq_true, if_false]

end serve

/-! ### A packet on a port (R320, R325, R335) -/

/-- A port that has taken a packet: its credits return. -/
def pktTaken (d : Dev) (n : Nat) (p : Pkt) : Dev :=
  emit (setRw d n { rwPort d n with
    rxSeq := ((rwPort d n).rxSeq + flits p) % 4096
    pools := mset (rwPort d n).pools (poolOf p) { pool (rwPort d n) (poolOf p) with
      received := ((pool (rwPort d n) (poolOf p)).received + flits p) % 2 ^ 32
      freed := ((pool (rwPort d n) (poolOf p)).freed + flits p) % 2 ^ 32 } })
    (.link n (.credit (poolOf p) (flits p)))

theorem pktLocal_of_pktKnown {p : Pkt} (h : pktKnown p = true) : pktLocal p = false := by
  simp only [pktKnown, Bool.and_eq_true, decide_eq_true_eq] at h
  obtain ⟨-, h6⟩ := h
  simp only [pktLocal, Bool.and_eq_false_iff, decide_eq_false_iff_not]
  omega

theorem pktArrive_down {d : Dev} {n : Nat} (h : (rwPort d n).st ≠ .up) (p : Pkt) : pktArrive d n p = d :=
  if_pos (by rw [Bool.eq_false_iff.2 (fun hup => h ((portUp_iff d n).1 hup))]; rfl)

section arrive
variable {d : Dev} {n : Nat} {p : Pkt} (hup : (rwPort d n).st = .up)
include hup

theorem not_down : ¬ (!portUp d n) = true := by simp [(portUp_iff d n).2 hup]

theorem pktArrive_local (h : pktLocal p = true) : pktArrive d n p = pktTaken d n p :=
  (if_neg (not_down hup)).trans (if_pos h)

theorem pktArrive_unknown (hlocal : pktLocal p = false) (h : pktKnown p = false) :
    pktArrive d n p = { pktTaken d n p with rw := { (pktTaken d n p).rw with badPkt := satAdd 8 (pktTaken d n p).rw.badPkt 1 } } :=
  (if_neg (not_down hup)).trans ((if_neg (Bool.eq_false_iff.1 hlocal)).trans (if_pos (by rw [h]; rfl)))

theorem pktArrive_known (h : pktKnown p = true) :
    pktArrive d n p = flushPorts (if p.wrap then routeWrapped (pktTaken d n p) n ⟨p, d.clk.localNs, p.budget.toNat⟩
      else routeHere (pktTaken d n p) ⟨p, d.clk.localNs, p.budget.toNat⟩) :=
  (if_neg (not_down hup)).trans ((if_neg (Bool.eq_false_iff.1 (pktLocal_of_pktKnown h))).trans (if_neg (by rw [h]; decide)))

end arrive

/-! ### A wrapped packet (R335) -/

section wrapped
variable {d : Dev} {n : Nat} {r : RPkt}

theorem routeWrapped_noRing (h : ringMate d n = none) : routeWrapped d n r = bounce d r 2 := by
  simp only [routeWrapped, h]

variable {o : Nat} (hmate : ringMate d n = some o)
include hmate

theorem routeWrapped_on (h : r.p.wrapTo.toNat ≠ rwgId d) :
    routeWrapped d n r = if portUp d o = true then enqueue d o r else bounce d r 2 := by
  simp only [routeWrapped, hmate]
  exact if_pos (bne_iff_ne.2 h)

/-- A packet that leaves its wrap. -/
def unwrapped (r : RPkt) : RPkt := { r with p := { r.p with wrap := false, replay := false } }

theorem routeWrapped_home (h : r.p.wrapTo.toNat = rwgId d) :
    routeWrapped d n r =
      if r.p.replay = true then
        if ((rwPort d o).rxSeq + 4095 - r.p.lseq.toNat) % 4096 < 2048 then d
        else routeHere (setRw d o { rwPort d o with rxSeq := (r.p.lseq.toNat + flits r.p) % 4096 }) (unwrapped r)
      else routeHere d (unwrapped r) := by
  simp only [routeWrapped, hmate]
  exact if_neg (by simp [h])

end wrapped

/-! ### A flit (R317) -/

section flit
variable {s : State} {n : Fin 8} (hup : (rwPort s.dev n.val).st = .up)
include hup

theorem exec_flitReceive_bad (seq : BitVec 12) (a : Option (BitVec 12)) (nak : Bool) :
    exec (.flitReceive n seq false a nak) s = .next { s with
      dev := emit (setRw s.dev n.val { rwPort s.dev n.val with discards := satAdd 8 (rwPort s.dev n.val).discards 1 }) (.link n.val .replay) } := by
  have hopen : ¬ ((rwPort s.dev n.val).st != .up) = true := by simp [hup]
  dsimp only [exec, execFlitReceive]
  rw [lift_eq]
  exact congrArg (fun e => Host.Outcome.next { s with dev := e }) ((if_neg hopen).trans (if_pos rfl))

theorem exec_flitReceive_outOfOrder {seq : BitVec 12} (h : seq.toNat ≠ (rwPort s.dev n.val).rxSeq) (a : Option (BitVec 12)) (nak : Bool) :
    exec (.flitReceive n seq true a nak) s = .next { s with dev := emit s.dev (.link n.val .replay) } := by
  have hopen : ¬ ((rwPort s.dev n.val).st != .up) = true := by simp [hup]
  have hgood : ¬ (!true) = true := by decide
  dsimp only [exec, execFlitReceive]
  rw [lift_eq]
  exact congrArg (fun e => Host.Outcome.next { s with dev := e })
    ((if_neg hopen).trans ((if_neg hgood).trans (if_pos (bne_iff_ne.2 h))))

theorem exec_flitReceive_next {seq : BitVec 12} (h : seq.toNat = (rwPort s.dev n.val).rxSeq) (a : Option (BitVec 12)) (nak : Bool) :
    exec (.flitReceive n seq true a nak) s = .next { s with
      dev :=
        let y := { rwPort s.dev n.val with rxSeq := ((rwPort s.dev n.val).rxSeq + 1) % 4096 }
        let d := setRw s.dev n.val (match a with
          | some a => ackRetry y a.toNat
          | none => y)
        flushPorts (if nak = true then replayAll d n.val else d) } := by
  have hopen : ¬ ((rwPort s.dev n.val).st != .up) = true := by simp [hup]
  have hgood : ¬ (!true) = true := by decide
  have hseq : ¬ (seq.toNat != (rwPort s.dev n.val).rxSeq) = true := by simp [h]
  dsimp only [exec, execFlitReceive]
  rw [lift_eq]
  exact congrArg (fun e => Host.Outcome.next { s with dev := e })
    ((if_neg hopen).trans ((if_neg hgood).trans ((if_neg hseq).trans (by cases a <;> rfl))))

end flit

end Sys2Proof.Machine

namespace Sys2Proof.Proofs

open Sys2Proof Sys2Proof.Machine Sys2Proof.Safety

/-- The events that bring a packet, with what each says of it. -/
def packetEvents (n : Fin 8) (p : Pkt) : List (Instr × Bool) :=
  [(.pktWr n p, p.ty == 1), (.pktRdReq n p, p.ty == 2 && p.payload.isEmpty), (.pktRdRsp n p, p.ty == 3),
    (.pktWrAck n p, p.ty == 4 && p.payload.isEmpty), (.pktColl n p, p.ty == 5), (.pktMgt n p, p.ty == 6),
    (.pktReturned n p, p.ret && p.payload.isEmpty), (.pktWrapped n p, p.wrap)]

theorem pkt_withTy {p : Pkt} {t : BitVec 5} (h : p.ty = t) : { p with ty := t } = p := by
  rw [← h]

theorem pkt_withTy_empty {p : Pkt} {t : BitVec 5} (h : p.ty = t) (hempty : p.payload = []) : { p with ty := t, payload := [] } = p := by
  rw [← h, ← hempty]

theorem pkt_withRet_empty {p : Pkt} (h : p.ret = true) (hempty : p.payload = []) : { p with ret := true, payload := [] } = p := by
  rw [← h, ← hempty]

theorem pkt_withWrap {p : Pkt} (h : p.wrap = true) : { p with wrap := true } = p := by
  rw [← h]

/-- An event that says what the packet is brings the packet. -/
theorem packetEvents_arrive {s : State} {n : Fin 8} {p : Pkt} {y : Instr × Bool} (hy : y ∈ packetEvents n p) (h : y.2 = true) :
    exec y.1 s = .next { s with dev := pktArrive s.dev n.val p } := by
  simp only [packetEvents, List.mem_cons, List.not_mem_nil, or_false] at hy
  rcases hy with rfl | rfl | rfl | rfl | rfl | rfl | rfl | rfl <;>
    simp only [Bool.and_eq_true, beq_iff_eq, List.isEmpty_iff] at h
  · exact congrArg (fun q => Host.Outcome.next { s with dev := pktArrive s.dev n.val q }) (pkt_withTy h)
  · exact congrArg (fun q => Host.Outcome.next { s with dev := pktArrive s.dev n.val q }) (pkt_withTy_empty h.1 h.2)
  · exact congrArg (fun q => Host.Outcome.next { s with dev := pktArrive s.dev n.val q }) (pkt_withTy h)
  · exact congrArg (fun q => Host.Outcome.next { s with dev := pktArrive s.dev n.val q }) (pkt_withTy_empty h.1 h.2)
  · exact congrArg (fun q => Host.Outcome.next { s with dev := pktArrive s.dev n.val q }) (pkt_withTy h)
  · exact congrArg (fun q => Host.Outcome.next { s with dev := pktArrive s.dev n.val q }) (pkt_withTy h)
  · exact congrArg (fun q => Host.Outcome.next { s with dev := pktArrive s.dev n.val q }) (pkt_withRet_empty h.1 h.2)
  · exact congrArg (fun q => Host.Outcome.next { s with dev := pktArrive s.dev n.val q }) (pkt_withWrap h)

theorem exec_pktReserved_unknown {s : State} {p : Pkt} (h : pktKnown p = false) (n : Fin 8) :
    exec (.pktReserved n p) s = .next { s with dev := pktArrive s.dev n.val p } := by
  dsimp only [exec, execPktReserved]
  rw [lift_eq, if_neg (Bool.eq_false_iff.1 h)]

/-- Settles O39: flits by their sequence, packets by their type and route. -/
theorem reedwayPacketsComplete : Obligations.ReedwayPacketsComplete := by
  unfold Obligations.ReedwayPacketsComplete
  intro s n x
  refine ⟨fun hdown => ⟨fun seq good a nak => ?_, fun p i hi => ?_⟩, fun p hk => ?_, fun hup => ⟨fun seq => ?_, fun p => ?_⟩⟩
  · exact congrArg (fun e => Host.Outcome.next { s with dev := e }) (if_pos (bne_iff_ne.2 hdown))
  · simp only [List.mem_cons, List.not_mem_nil, or_false] at hi
    rcases hi with rfl | rfl | rfl | rfl | rfl | rfl | rfl | rfl | rfl
    · exact congrArg (fun e => Host.Outcome.next { s with dev := e }) (pktArrive_down hdown _)
    · exact congrArg (fun e => Host.Outcome.next { s with dev := e }) (pktArrive_down hdown _)
    · exact congrArg (fun e => Host.Outcome.next { s with dev := e }) (pktArrive_down hdown _)
    · exact congrArg (fun e => Host.Outcome.next { s with dev := e }) (pktArrive_down hdown _)
    · exact congrArg (fun e => Host.Outcome.next { s with dev := e }) (pktArrive_down hdown _)
    · exact congrArg (fun e => Host.Outcome.next { s with dev := e }) (pktArrive_down hdown _)
    · exact congrArg (fun e => Host.Outcome.next { s with dev := e }) (pktArrive_down hdown _)
    · exact congrArg (fun e => Host.Outcome.next { s with dev := e }) (pktArrive_down hdown _)
    · dsimp only [exec, execPktReserved]
      rw [lift_eq, pktArrive_down hdown, ite_self]
  · exact congrArg (fun e => Host.Outcome.next { s with dev := e }) (if_pos hk)
  · intro y took
    refine ⟨fun a nak => exec_flitReceive_bad hup seq a nak, fun hseq a nak => exec_flitReceive_outOfOrder hup hseq a nak,
      fun hseq a => (exec_flitReceive_next hup hseq a false).trans ?_, fun hseq a => (exec_flitReceive_next hup hseq a true).trans ?_⟩
    · cases a <;> rfl
    · cases a <;> rfl
  · intro k i c d r all gives
    have hd : d = pktTaken s.dev n.val p := rfl
    have hr : r = ⟨p, s.dev.clk.localNs, p.budget.toNat⟩ := rfl
    have hp : r.p = p := rfl
    clear_value d
    have hall : ∀ y ∈ all, y.2 = true → exec y.1 s = .next { s with dev := pktArrive s.dev n.val p } :=
      fun y hy h => packetEvents_arrive hy h
    have hreserved : pktKnown p = false → ∀ y ∈ (.pktReserved n p, true) :: all, y.2 = true →
        exec y.1 s = .next { s with dev := pktArrive s.dev n.val p } := by
      intro hk y hy h
      rcases List.mem_cons.1 hy with rfl | hy
      · exact exec_pktReserved_unknown hk n
      · exact hall y hy h
    have hgives (e : Dev) (hk : pktKnown p = true) (he : (if p.wrap then routeWrapped d n r else routeHere d r) = e) : gives e := by
      intro y hy h
      rw [hall y hy h, pktArrive_known hup hk, ← hd, ← hr, he]
    refine ⟨fun hlocal y hy h => ?_, fun hk hlocal y hy h => ?_, fun hk hwrap => ⟨fun hmate => ?_, fun o hmate => ?_⟩, fun hk hwrap => ?_,
      fun hdst => routeHere_elsewhere hdst, fun hdst => ⟨fun ht => ?_, fun ht hret => ?_,
      fun ht hret => ⟨fun h3 => ?_, fun h4 => ?_, fun h6 => ?_, fun h5 => ?_, fun h12 => ?_⟩⟩⟩
    · rcases List.mem_cons.1 hy with rfl | hy
      · rw [exec_pktReserved_unknown (Bool.eq_false_iff.2 (fun hk => Bool.false_ne_true ((pktLocal_of_pktKnown hk).symm.trans hlocal))),
          pktArrive_local hup hlocal, hd]
      · rw [hall y hy h, pktArrive_local hup hlocal, hd]
    · rw [hreserved hk y hy h, pktArrive_unknown hup hlocal hk, hd]
    · exact hgives _ hk ((if_pos hwrap).trans (routeWrapped_noRing hmate))
    · intro q y
      refine ⟨fun hto hon => ?_, fun hto hoff => ?_, fun hto hrep => ?_, fun hto hrep hold => ?_, fun hto hrep hnew => ?_⟩
      · exact hgives _ hk ((if_pos hwrap).trans ((routeWrapped_on hmate hto).trans (if_pos hon)))
      · exact hgives _ hk ((if_pos hwrap).trans ((routeWrapped_on hmate hto).trans (if_neg (Bool.eq_false_iff.1 hoff))))
      · exact hgives _ hk ((if_pos hwrap).trans ((routeWrapped_home hmate hto).trans (if_neg (Bool.eq_false_iff.1 hrep))))
      · exact hgives _ hk ((if_pos hwrap).trans ((routeWrapped_home hmate hto).trans ((if_pos hrep).trans (if_pos hold))))
      · exact hgives _ hk ((if_pos hwrap).trans ((routeWrapped_home hmate hto).trans ((if_pos hrep).trans (if_neg (Nat.not_lt.2 hnew)))))
    · exact hgives _ hk (if_neg (Bool.eq_false_iff.1 hwrap))
    · exact routeHere_badTrailer hdst ht
    · exact routeHere_return hdst ht hret
    · exact routeHere_readData hdst ht hret h3
    · exact routeHere_ack hdst ht hret h4
    · exact routeHere_message hdst ht hret h6
    · intro e0 kept
      rw [routeHere_coll (r := r) hdst ht hret h5]
      refine ⟨fun hst => ?_, fun e hst he => ?_, fun hst hnone hroom => ?_, fun hst hnone hfull => ?_⟩
      · exact takeColl_stopped hst
      · exact takeColl_taken hst he
      · exact takeColl_kept hst hnone hroom
      · exact takeColl_full hst hnone hfull
    · intro len
      rw [routeHere_request (r := r) hdst ht hret h12]
      have hlen : reqLen r.p = len := by
        rcases h12 with h | h <;> simp [reqLen, len, hp, h]
      refine ⟨fun hst => serveReq_stopped hst, fun hst hnone => serveReq_noObject hst hnone, fun h o hst hobj => ?_⟩
      intro off ok waits answer
      have hserve := serveReq_object (r := r) hst hobj
      rw [hlen, hp] at hserve
      have hrefused : (!accessOk o off len (p.ty == 1) || o.cls == .far || o.cls == .peer) = true ↔ ¬ ok := by
        have hwr : (p.ty == 1) = decide (p.ty = 1) := rfl
        simp only [ok, hwr, Bool.or_eq_true, Bool.not_eq_true', beq_iff_eq, not_and_or, Bool.not_eq_true, not_not, or_assoc]
      have hwaits : (!(missing h o off len).isEmpty || roundsHold d o [(off, len)]) = true ↔ waits := by
        simp only [waits, Bool.or_eq_true, Bool.not_eq_true', List.isEmpty_eq_false_iff]
      refine ⟨fun hno => ?_, fun hok hwait => ?_, fun hok hgo hwr => ?_, fun hok hgo hrd hbad => ?_, fun hok hgo hrd hgood => ?_⟩
      · rw [hserve, if_pos (hrefused.2 hno)]
      · rw [hserve, if_neg (fun hc => hrefused.1 hc hok), if_pos (hwaits.2 hwait)]
      · rw [hserve, if_neg (fun hc => hrefused.1 hc hok), if_neg (fun hc => hgo (hwaits.1 hc)), if_pos (beq_iff_eq.2 hwr),
          ← reqAnswer_storeOnly (t1Write_storeOnly d h off p.payload)]
      · rw [hserve, if_neg (fun hc => hrefused.1 hc hok), if_neg (fun hc => hgo (hwaits.1 hc)), if_neg (by rw [hrd]; decide), if_pos hbad]
      · rw [hserve, if_neg (fun hc => hrefused.1 hc hok), if_neg (fun hc => hgo (hwaits.1 hc)), if_neg (by rw [hrd]; decide),
          if_neg (Bool.eq_false_iff.1 hgood)]

end Sys2Proof.Proofs
end


section
/-! Credits, audits, time, collectives, estimates and routes of Reedway (R321, R325, R326, R330 to R332, R336, R339). -/

namespace Sys2Proof.Machine

open Sys2Proof Sys2Proof.Safety

/-! ### Credits and their audits -/

/-- A port whose counts disagree fails with cause 4. -/
theorem creditFail_eq (d : Dev) (n : Nat) : creditFail d n =
    failTo (setRw d n { rwPort d n with mismatch := satAdd 8 (rwPort d n).mismatch 1 }) n 4 .failed := rfl

theorem all_range_iff (n : Nat) (f : Nat → Bool) : (List.range n).all f = true ↔ ∀ i < n, f i = true := by
  simp only [List.all_eq_true, List.mem_range]

/-! ### Time -/

/-- The time port looks only at which ports are up. -/
theorem timePort_setRw {d : Dev} {n : Nat} {x : RwPort} (h : x.st = (rwPort d n).st) : timePort (setRw d n x) = timePort d := by
  have hup (m : Nat) : portUp (setRw d n x) m = portUp d m := by
    by_cases hm : m = n
    · rw [hm, portUp, portUp, rwPort_setRw_same, h]
    · rw [portUp, portUp, rwPort_setRw_other d hm]
  simp only [timePort, hup]
  rfl

theorem alignTime_step {o : Int} (h : 1000 < o.natAbs) (d : Dev) :
    (alignTime d o).clk = { d.clk with devtime := BitVec.ofInt 64 ((d.clk.devtime.toNat : Int) + o), slew := 0 } ∧ (alignTime d o).rw = d.rw := by
  rw [alignTime, if_pos h]
  exact ⟨rfl, rfl⟩

theorem alignTime_slew {o : Int} (h : o.natAbs ≤ 1000) (d : Dev) : alignTime d o = { d with clk := { d.clk with slew := o } } :=
  if_neg (Nat.not_lt.2 h)

theorem alignTime_rw (d : Dev) (o : Int) : (alignTime d o).rw = d.rw := by
  by_cases h : 1000 < o.natAbs
  · exact (alignTime_step h d).2
  · rw [alignTime_slew (Nat.not_lt.1 h)]

/-- The offset that an answer gives, and the time that the link takes for both ways. -/
def timeOfs (now t1 t2 t3 : Nat) : Int := (((t2 : Int) - t1) - ((now : Int) - t3)) / 2
def timeTrip (now t1 t2 t3 : Nat) : Int := ((now : Int) - t1) - ((t3 : Int) - t2)

/-- The port that has had its answer. -/
def timeNoted (d : Dev) (n t1 t2 t3 : Nat) : Dev :=
  setRw d n { rwPort d n with t1 := none, lat := sat 16 ((timeTrip d.clk.devtime.toNat t1 t2 t3 + 1) / 2).toNat }

/-- The device with an offset noted. -/
def ofsNoted (d : Dev) (n t1 t2 t3 : Nat) : Dev :=
  { timeNoted d n t1 t2 t3 with rw := { (timeNoted d n t1 t2 t3).rw with ofs := timeOfs d.clk.devtime.toNat t1 t2 t3 } }

theorem timePort_ofsNoted (d : Dev) (n t1 t2 t3 : Nat) : timePort (ofsNoted d n t1 t2 t3) = timePort d :=
  timePort_setRw (x := { rwPort d n with t1 := none, lat := sat 16 ((timeTrip d.clk.devtime.toNat t1 t2 t3 + 1) / 2).toNat }) rfl

section time
variable {s : State} {n : Fin 8} {t1 : Nat} (hup : (rwPort s.dev n.val).st = .up) (ht1 : (rwPort s.dev n.val).t1 = some t1) (t2 t3 : Word64)
include hup ht1

theorem exec_time_answer : exec (.time n t2 t3) s = .next { s with dev :=
    (let d := ofsNoted s.dev n.val t1 t2.toNat t3.toNat
     if bit (rwgTime d) 31 || timePort d != some n.val then d
     else
       let l := lockStep d.rw.lockCnt d.rw.locked (timeOfs s.dev.clk.devtime.toNat t1 t2.toNat t3.toNat)
       alignTime { d with rw := { d.rw with lockCnt := l.1, locked := l.2, holdover := false } }
        (timeOfs s.dev.clk.devtime.toNat t1 t2.toNat t3.toNat)) } := by
  have hopen : ¬ ((rwPort s.dev n.val).st != .up) = true := by simp [hup]
  dsimp only [exec, execTime]
  rw [lift_eq]
  simp only [ht1]
  exact congrArg (fun e => Host.Outcome.next { s with dev := e }) (if_neg hopen)

end time

/-! ### Estimates -/

/-- One port takes its sample. -/
def sampled (d : Dev) (n : Nat) : Dev := updRw d n (fun x => { x with est := estAfter x.est (estSample d x) })

/-- Each port of a list without repetitions takes its sample, the others nothing. -/
theorem rwPort_foldl_sampled (ns : List Nat) (hns : ns.Nodup) (d : Dev) (m : Nat) :
    rwPort (ns.foldl sampled d) m =
      if m ∈ ns then { rwPort d m with est := estAfter (rwPort d m).est (estSample d (rwPort d m)) } else rwPort d m := by
  induction ns generalizing d with
  | nil => rfl
  | cons n ns ih =>
    obtain ⟨hn, hns⟩ := List.nodup_cons.1 hns
    rw [List.foldl_cons, ih hns]
    by_cases hm : m = n
    · rw [if_neg (hm ▸ hn), if_pos (hm ▸ List.mem_cons_self), sampled, updRw, hm, rwPort_setRw_same]
    · have hport : rwPort (sampled d n) m = rwPort d m := rwPort_setRw_other d hm _
      rw [hport]
      simp only [List.mem_cons, hm, false_or]
      rfl

theorem rwPort_settleRoutes (d : Dev) (m : Nat) : rwPort (settleRoutes d) m = rwPort d m := rfl

theorem estSample_settleRoutes (d : Dev) (x : RwPort) : estSample (settleRoutes d) x = estSample d x := rfl

theorem flt_foldl_sampled (ns : List Nat) (d : Dev) : (ns.foldl sampled d).flt = d.flt := by
  induction ns generalizing d with
  | nil => rfl
  | cons n ns ih => exact ih _

/-! ### Routes -/

theorem routeRead_none {d : Dev} {i : Nat} (h : mget? d.rw.routes i = none) :
    routeRead d i = regPut (regPut (regPut d 0x68004 (2 ^ 30 + i)) 0x68008 0) 0x6800C 0 := by
  simp only [routeRead, regPut_rw, h]

theorem routeRead_some {d : Dev} {i : Nat} {r : Route} (h : mget? d.rw.routes i = some r) :
    routeRead d i = regPut (regPut (regPut d 0x68004 (2 ^ 30 + i)) 0x68008
      (put 1 31 1 + put (flag r.altEn) 30 1 + put r.port 27 3 + put r.alt 24 3 + put r.pfx 0 18))
      0x6800C (put r.plen 27 5 + put r.extraAlt 12 12 + put r.extraPri 0 12) := by
  simp only [routeRead, regPut_rw, h]

/-- The route that the data registers hold. -/
def routeHeld (d : Dev) : Route :=
  let a := regGet d 0x68008
  let b := regGet d 0x6800C
  ⟨bit a 30, fld a 27 3, fld a 24 3, fld a 0 18, fld b 27 5, fld b 12 12, fld b 0 12, false⟩

theorem routeWrite_rw (d : Dev) (i : Nat) : (routeWrite d i).rw = { d.rw with
    routes := if bit (regGet d 0x68008) 31 = true then mset d.rw.routes i (routeHeld d) else mdel d.rw.routes i } := by
  have ha : regGet (regPut d 0x68004 (2 * 2 ^ 30 + i)) 0x68008 = regGet d 0x68008 := regGet_regPut_other _ _ _ _ (by decide)
  have hb : regGet (regPut d 0x68004 (2 * 2 ^ 30 + i)) 0x6800C = regGet d 0x6800C := regGet_regPut_other _ _ _ _ (by decide)
  simp only [routeWrite, ha, hb, routeHeld, regPut_rw]

theorem routeWrite_removes {d : Dev} {i : Nat} (h : bit (regGet d 0x68008) 31 = false) :
    (routeWrite d i).rw = { d.rw with routes := mdel d.rw.routes i } := by
  rw [routeWrite_rw, if_neg (Bool.eq_false_iff.1 h)]

theorem routeWrite_sets {d : Dev} {i : Nat} (h : bit (regGet d 0x68008) 31 = true) :
    (routeWrite d i).rw = { d.rw with routes := mset d.rw.routes i (routeHeld d) } := by
  rw [routeWrite_rw, if_pos h]

end Sys2Proof.Machine

namespace Sys2Proof.Proofs

open Sys2Proof Sys2Proof.Machine Sys2Proof.Safety

section up
variable {s : State} {n : Fin 8}

theorem exec_timeExchange_up (hup : (rwPort s.dev n.val).st = .up) : exec (.timeExchange n) s = .next { s with dev :=
    (if bit (rwCtrl s.dev n.val) 27 = true then
      emit (setRw s.dev n.val { rwPort s.dev n.val with t1 := some s.dev.clk.devtime.toNat }) (.link n.val (.time s.dev.clk.devtime.toNat))
    else s.dev) } := by
  dsimp only [exec, execTimeExchange]
  rw [lift_eq, (portUp_iff s.dev n.val).2 hup, Bool.true_and]
  rfl

theorem exec_down (hdown : (rwPort s.dev n.val).st ≠ .up) :
    (∀ i k, exec (.creditReturn n i k) s = .next s) ∧ exec (.auditSend n) s = .next s
      ∧ (∀ l, exec (.audit n l) s = .next s) ∧ exec (.timeExchange n) s = .next s ∧ (∀ t2 t3, exec (.time n t2 t3) s = .next s) := by
  have hclosed : ((rwPort s.dev n.val).st != .up) = true := bne_iff_ne.2 hdown
  refine ⟨fun i k => ?_, ?_, fun l => ?_, ?_, fun t2 t3 => ?_⟩
  · exact congrArg (fun e => Host.Outcome.next { s with dev := e }) (if_pos hclosed)
  · exact congrArg (fun e => Host.Outcome.next { s with dev := e }) (if_pos hclosed)
  · exact congrArg (fun e => Host.Outcome.next { s with dev := e }) (if_pos hclosed)
  · have hdown' : portUp s.dev n.val = false := Bool.eq_false_iff.2 (fun h => hdown ((portUp_iff ..).1 h))
    dsimp only [exec, execTimeExchange]
    rw [lift_eq, hdown']
    rfl
  · dsimp only [exec, execTime]
    rw [lift_eq]
    cases ht : (rwPort s.dev n.val).t1 with
    | none => rfl
    | some t1 => exact congrArg (fun e => Host.Outcome.next { s with dev := e }) (if_pos hclosed)

end up

/-- A port whose answer is not the one that DEVTIME follows notes the offset. -/
theorem exec_time_noted {s : State} {n : Fin 8} {t1 : Nat} (hup : (rwPort s.dev n.val).st = .up) (ht1 : (rwPort s.dev n.val).t1 = some t1)
    (t2 t3 : Word64) (h : ¬ (bit (rwgTime s.dev) 31 = false ∧ timePort s.dev = some n.val)) :
    exec (.time n t2 t3) s = .next { s with dev := ofsNoted s.dev n.val t1 t2.toNat t3.toNat } := by
  rw [exec_time_answer hup ht1]
  have hport := timePort_ofsNoted s.dev n.val t1 t2.toNat t3.toNat
  refine congrArg (fun e => Host.Outcome.next { s with dev := e }) (if_pos ?_)
  rw [hport, Bool.or_eq_true, bne_iff_ne]
  by_cases hsrc : bit (rwgTime s.dev) 31 = true
  · exact .inl hsrc
  · exact .inr (fun hp => h ⟨Bool.eq_false_iff.2 hsrc, hp⟩)

/-- The device as the time port's answer leaves it before DEVTIME is aligned. -/
def timeCounted (d : Dev) (n t1 t2 t3 : Nat) : Dev :=
  let e := ofsNoted d n t1 t2 t3
  let l := lockStep d.rw.lockCnt d.rw.locked (timeOfs d.clk.devtime.toNat t1 t2 t3)
  { e with rw := { e.rw with lockCnt := l.1, locked := l.2, holdover := false } }

theorem exec_time_followed {s : State} {n : Fin 8} {t1 : Nat} (hup : (rwPort s.dev n.val).st = .up) (ht1 : (rwPort s.dev n.val).t1 = some t1)
    (t2 t3 : Word64) (h : bit (rwgTime s.dev) 31 = false ∧ timePort s.dev = some n.val) :
    exec (.time n t2 t3) s = .next { s with
      dev := alignTime (timeCounted s.dev n.val t1 t2.toNat t3.toNat) (timeOfs s.dev.clk.devtime.toNat t1 t2.toNat t3.toNat) } := by
  rw [exec_time_answer hup ht1]
  have hport := timePort_ofsNoted s.dev n.val t1 t2.toNat t3.toNat
  have hsrc : bit (rwgTime (ofsNoted s.dev n.val t1 t2.toNat t3.toNat)) 31 = false := h.1
  refine congrArg (fun e => Host.Outcome.next { s with dev := e }) (if_neg ?_)
  rw [hport, hsrc, h.2]
  simp

theorem lockStep_near {o : Int} (h : o.natAbs ≤ 16) (cnt : Nat) (locked : Bool) :
    lockStep cnt locked o = (min 8 (cnt + 1), locked || decide (8 ≤ cnt + 1)) := if_pos h

theorem lockStep_far {o : Int} (h : 16 < o.natAbs) (cnt : Nat) (locked : Bool) :
    lockStep cnt locked o = (0, locked && decide (o.natAbs ≤ 64)) := if_neg (Nat.not_le.2 h)

/-- The peer's counts agree with what this port has received and freed. -/
theorem auditAgrees_iff (x : RwPort) (sents : List Nat) :
    (List.range 5).all (fun i => (pool x i).received == sents.getD i 0
      && decide (((pool x i).received + 2 ^ 32 - (pool x i).freed) % 2 ^ 32 ≤ (pool x i).granted)) = true ↔
    ∀ i < 5, (pool x i).received = sents.getD i 0 ∧ ((pool x i).received + 2 ^ 32 - (pool x i).freed) % 2 ^ 32 ≤ (pool x i).granted := by
  simp only [all_range_iff, Bool.and_eq_true, beq_iff_eq, decide_eq_true_eq]

/-- The counts exchanged about a port that went down agree. -/
theorem reclaimAgrees_iff (x : RwPort) (r : Reclaim) :
    (List.range 5).all (fun i => poolSound (pool x i) && decide (cdiff (pool x i).sent (r.received.getD i 0) ≤ (pool x i).granted)
      && decide (cdiff (r.received.getD i 0) (r.freed.getD i 0) ≤ (pool x i).granted)
      && decide (cdiff (r.freed.getD i 0) (pool x i).returned ≤ (pool x i).granted)) = true ↔
    ∀ i < 5, poolSound (pool x i) = true ∧ cdiff (pool x i).sent (r.received.getD i 0) ≤ (pool x i).granted
      ∧ cdiff (r.received.getD i 0) (r.freed.getD i 0) ≤ (pool x i).granted
      ∧ cdiff (r.freed.getD i 0) (pool x i).returned ≤ (pool x i).granted := by
  simp only [all_range_iff, Bool.and_eq_true, decide_eq_true_eq, and_assoc]

theorem exec_estSample (s : State) :
    exec .estSample s = .next { s with dev := settleRoutes ((List.range 8).foldl sampled (settleRoutes s.dev)) } := rfl

/-- Settles O40: each event as the change of one port, or of every port in turn. -/
theorem reedwayUpkeepComplete : Obligations.ReedwayUpkeepComplete := by
  unfold Obligations.ReedwayUpkeepComplete
  intro s n x failC1
  refine ⟨exec_down, fun hup => ?_, fun r hmine => ?_, fun r m hmine => ?_, ⟨fun hlost => ?_, fun hlost => ?_⟩, fun k hk => ?_,
    fun k c hk => ?_, ?_, fun src i howner => ?_⟩
  · have hopen : ¬ ((rwPort s.dev n.val).st != .up) = true := by simp [show (rwPort s.dev n.val).st = .up from hup]
    refine ⟨fun i k => ⟨fun hroom => ?_, fun hover => ?_⟩, ⟨fun hsound => ?_, fun hsound => ?_⟩, fun sents => ⟨fun hagree => ?_, fun hagree => ?_⟩,
      fun hon => ?_, fun hoff => ?_, fun hnone t2 t3 => ?_, fun t1 t2 t3 ht1 => ⟨fun hno => exec_time_noted hup ht1 t2 t3 hno, fun hfollows => ?_⟩⟩
    · exact congrArg (fun e => Host.Outcome.next { s with dev := e }) ((if_neg hopen).trans (if_neg (Nat.not_lt.2 hroom)))
    · exact congrArg (fun e => Host.Outcome.next { s with dev := e }) ((if_neg hopen).trans (if_pos hover))
    · have hall := (all_range_iff 5 (fun i => poolSound (pool (rwPort s.dev n.val) i))).2 hsound
      have hpass : ¬ (!(List.range 5).all (fun i => poolSound (pool (rwPort s.dev n.val) i))) = true := by rw [hall]; decide
      exact congrArg (fun e => Host.Outcome.next { s with dev := e }) ((if_neg hopen).trans (if_neg hpass))
    · have hall := Bool.eq_false_iff.2 (mt (all_range_iff 5 (fun i => poolSound (pool (rwPort s.dev n.val) i))).1 hsound)
      have hfail : (!(List.range 5).all (fun i => poolSound (pool (rwPort s.dev n.val) i))) = true := by rw [hall]; rfl
      exact congrArg (fun e => Host.Outcome.next { s with dev := e }) ((if_neg hopen).trans (if_pos hfail))
    · exact congrArg (fun e => Host.Outcome.next { s with dev := e }) ((if_neg hopen).trans (if_pos ((auditAgrees_iff ..).2 hagree)))
    · exact congrArg (fun e => Host.Outcome.next { s with dev := e }) ((if_neg hopen).trans (if_neg (mt (auditAgrees_iff ..).1 hagree)))
    · rw [exec_timeExchange_up hup, if_pos hon]
    · rw [exec_timeExchange_up hup, if_neg (Bool.eq_false_iff.1 hoff)]
    · dsimp only [exec, execTime]
      rw [lift_eq, show (rwPort s.dev n.val).t1 = none from hnone]
    · refine ⟨_, exec_time_followed hup ht1 t2 t3 hfollows, rfl, ?_, ?_, ?_, fun hstep => ?_, fun hslew => ?_, fun hnear => ?_, fun hfar => ?_⟩
      · dsimp only
        rw [rwPort, alignTime_rw]
        rfl
      · dsimp only
        rw [alignTime_rw]
        rfl
      · dsimp only
        rw [alignTime_rw]
        rfl
      · exact (alignTime_step hstep _).1
      · dsimp only
        rw [alignTime_slew (o := timeOfs s.dev.clk.devtime.toNat t1 t2.toNat t3.toNat) hslew]
        exact ⟨rfl, rfl⟩
      · dsimp only
        rw [alignTime_rw, timeCounted]
        dsimp only
        rw [lockStep_near (o := timeOfs s.dev.clk.devtime.toNat t1 t2.toNat t3.toNat) hnear]
        exact ⟨rfl, rfl⟩
      · dsimp only
        rw [alignTime_rw, timeCounted]
        dsimp only
        rw [lockStep_far (o := timeOfs s.dev.clk.devtime.toNat t1 t2.toNat t3.toNat) hfar]
        exact ⟨rfl, rfl⟩
  · have hskip : (rwPort s.dev n.val).mine.isNone = true := Option.isNone_iff_eq_none.2 hmine
    exact congrArg (fun e => Host.Outcome.next { s with dev := e }) (if_pos hskip)
  · have hmine' : (rwPort s.dev n.val).mine = some m := hmine
    intro agree anew
    refine ⟨fun hagree => ?_, fun hagree => ?_⟩
    · have hok := (reclaimAgrees_iff x r).2 hagree
      dsimp only [exec, execReclaim]
      rw [lift_eq, hmine', hok]
      rfl
    · have hok := Bool.eq_false_iff.2 (mt (reclaimAgrees_iff x r).1 hagree)
      dsimp only [exec, execReclaim]
      rw [lift_eq, hmine', hok]
      rfl
  · have hcond : (bit (rwgTime s.dev) 3 && (timePort s.dev).isNone) = true := by rw [hlost.1, hlost.2]; rfl
    exact congrArg (fun e => Host.Outcome.next { s with dev := e }) (if_pos hcond)
  · have hcond : ¬ (bit (rwgTime s.dev) 3 && (timePort s.dev).isNone) = true := by
      rw [Bool.and_eq_true, Option.isNone_iff_eq_none]
      exact hlost
    exact congrArg (fun e => Host.Outcome.next { s with dev := e }) (if_neg hcond)
  · dsimp only [exec, execCollTimeout]
    rw [lift_eq, hk]
  · dsimp only [exec, execCollTimeout]
    rw [lift_eq, hk]
  · have hflt := flt_foldl_sampled (List.range 8) (settleRoutes s.dev)
    refine ⟨_, exec_estSample s, rfl, hflt, fun m hm => ?_⟩
    have hport := rwPort_foldl_sampled (List.range 8) List.nodup_range (settleRoutes s.dev) m
    rw [if_pos (List.mem_range.2 hm), rwPort_settleRoutes, estSample_settleRoutes] at hport
    dsimp only
    rw [rwPort_settleRoutes, hport]
  · intro a b r named
    have hnamed : named 1 = regPut s.dev 0x68004 (2 ^ 30 + i.val) := by simp only [named, Nat.one_mul]
    have hread : exec (.routeRead src i) s = .next { s with dev := routeRead s.dev i.val } := by
      dsimp only [exec, execRouteRead]
      rw [lift_eq, ownerOnly, if_pos howner]
    have hwrite : exec (.routeWrite src i) s = .next { s with dev := routeWrite s.dev i.val } := by
      dsimp only [exec, execRouteWrite]
      rw [lift_eq, ownerOnly, if_pos howner]
    refine ⟨fun hnone => ?_, fun r hr => ?_, fun hdel => ?_, fun hset => ?_⟩
    · rw [hread, hnamed, routeRead_none hnone]
    · rw [hread, hnamed, routeRead_some hr]
    · exact ⟨_, hwrite, rfl, routeWrite_removes hdel⟩
    · exact ⟨_, hwrite, rfl, routeWrite_sets hset⟩

end Sys2Proof.Proofs
end


section
/-! The authority token, heartbeats, disputes and controller pairs (R344, R348 to R351, R353, R431). -/

namespace Sys2Proof.Machine

open Sys2Proof Sys2Proof.Safety

/-! ### The token's broadcast (R348) -/

/-- What the broadcast leaves of a supervisor's epoch. -/
theorem mget?_setSup (d : Dev) (h k : Nat) :
    mget? (setSup d h).flt.supEpoch k = if k = h then some d.flt.epoch else mget? d.flt.supEpoch k := by
  by_cases hk : k = h
  · rw [if_pos hk, hk]
    exact mget?_mset_same ..
  · rw [if_neg hk]
    exact mget?_mset_other _ _ _ _ hk

/-- One half takes the token. -/
def supTakes (d : Dev) (h : Nat) : Dev := if fenced d h then d else setSup d h

theorem fenced_supTakes (d : Dev) (h k : Nat) : fenced (supTakes d h) k = fenced d k := by
  unfold supTakes
  split <;> rfl

theorem epoch_supTakes (d : Dev) (h : Nat) : (supTakes d h).flt.epoch = d.flt.epoch := by
  unfold supTakes
  split <;> rfl

theorem supTakes_frame (d : Dev) (h : Nat) : { supTakes d h with flt := d.flt } = d := by
  unfold supTakes
  split <;> rfl

theorem mget?_supTakes (d : Dev) (h k : Nat) : mget? (supTakes d h).flt.supEpoch k =
    if k = h ∧ fenced d h = false then some d.flt.epoch else mget? d.flt.supEpoch k := by
  unfold supTakes
  cases hf : fenced d h with
  | true => simp
  | false => simp [mget?_setSup]

/-- What a port that takes the token is. -/
def portWithToken (d : Dev) (n : Nat) : RwPort :=
  let x := rwPort d n
  if x.alone = true then
    { x with alone := false, st := if x.st = .isolated ∧ bit (rwCtrl d n) 24 = false then .failed else x.st }
  else x

theorem rwPort_tokenAtPort_same (d : Dev) (n : Nat) : rwPort (tokenAtPort d n) n = portWithToken d n := by
  unfold tokenAtPort portWithToken
  cases ha : (rwPort d n).alone with
  | false => simp [ha]
  | true => simp [ha]

theorem rwPort_tokenAtPort_other (d : Dev) {n m : Nat} (h : m ≠ n) : rwPort (tokenAtPort d n) m = rwPort d m := by
  unfold tokenAtPort
  dsimp only
  split
  · rfl
  · exact rwPort_setRw_other d h _

theorem tokenAtPort_frame (d : Dev) (n : Nat) : { tokenAtPort d n with rw := d.rw } = d := by
  unfold tokenAtPort
  dsimp only
  split <;> rfl

theorem tokenAtPort_regs (d : Dev) (n : Nat) : (tokenAtPort d n).regs = d.regs := by
  unfold tokenAtPort
  dsimp only
  split <;> rfl

/-- Each port of a list without repetitions takes the token, the others nothing. -/
theorem rwPort_foldl_tokenAtPort (ns : List Nat) (hns : ns.Nodup) (d : Dev) (m : Nat) :
    rwPort (ns.foldl tokenAtPort d) m = if m ∈ ns then portWithToken d m else rwPort d m := by
  induction ns generalizing d with
  | nil => rfl
  | cons n ns ih =>
    obtain ⟨hn, hns⟩ := List.nodup_cons.1 hns
    rw [List.foldl_cons, ih hns]
    by_cases hm : m = n
    · rw [if_neg (hm ▸ hn), if_pos (hm ▸ List.mem_cons_self), hm, rwPort_tokenAtPort_same]
    · have hctrl : rwCtrl (tokenAtPort d n) m = rwCtrl d m := by rw [rwCtrl, regGet, tokenAtPort_regs, rwCtrl, regGet]
      simp only [List.mem_cons, hm, false_or, portWithToken, rwPort_tokenAtPort_other d hm, hctrl]

theorem foldl_tokenAtPort_flt (ns : List Nat) (d : Dev) : (ns.foldl tokenAtPort d).flt = d.flt := by
  induction ns generalizing d with
  | nil => rfl
  | cons n ns ih =>
    have hone : (tokenAtPort d n).flt = d.flt := by
      unfold tokenAtPort
      dsimp only
      split <;> rfl
    exact (ih _).trans hone

theorem portWithToken_supTakes (d : Dev) (h n : Nat) : portWithToken (supTakes d h) n = portWithToken d n := by
  unfold supTakes
  split <;> rfl

/-! ### Disputes (R350) -/

/-- The place of the newest record, and the unit that it names. -/
theorem record_unit (d : Dev) (f : FSpec) : ∃ r, mget? (record d f).flt.ring (d.flt.seq % 256) = some r ∧ r.unit = f.unit % 2 ^ 16 := by
  unfold record
  split
  · exact ⟨_, (recordAt_flt d f 0 false false).2.2, rfl⟩
  · exact ⟨_, (recordAt_flt (drawFree d 16).2 f ((drawFree d 16).1 % 11) false true).2.2, rfl⟩

/-- The newest record's place is not taken by fewer than 256 more. -/
theorem newest_place {d e : Dev} {f : FSpec} {n : Nat} (h : RingGrows n (record d f) e) (hn : n < 256) :
    mget? e.flt.ring (d.flt.seq % 256) = mget? (record d f).flt.ring (d.flt.seq % 256) := by
  obtain ⟨r, -, -, -, -, -, -, -, hseq⟩ := record_newest d f
  obtain ⟨k, hk, -, hkeep⟩ := h.grows
  refine hkeep _ fun i hi => ?_
  rw [hseq]
  omega

/-- A record changes nothing of the token. -/
theorem record_token (d : Dev) (f : FSpec) : (record d f).flt.epoch = d.flt.epoch ∧ (record d f).flt.primary = d.flt.primary := by
  have h := (record_only d f).flt
  have hepoch := congrArg Flt.epoch h
  have hprimary := congrArg Flt.primary h
  exact ⟨hepoch, hprimary⟩

/-- What the opening of a dispute leaves of the collector. -/
structure DisputeOpened (d : Dev) (h : Nat) (e : Dev) : Prop where
  dispute : e.flt.dispute = true
  epoch : e.flt.epoch = d.flt.epoch + 1
  primary : e.flt.primary = d.flt.primary
  acks : e.flt.acks = []
  newest : ∃ r, mget? e.flt.ring (d.flt.seq % 256) = some r ∧ r.cls = 3 ∧ r.block = 0x15 ∧ r.code = 0x13 ∧ r.unit = h % 2 ^ 16
  clk : e.clk = d.clk

/-- The dispute is recorded and its token made. -/
def disputeToken (d : Dev) (h : Nat) : Dev :=
  let r := record d { fspec 3 0x15 0x13 with unit := h, detail := d.flt.epoch.toNat }
  tokenChange { r with flt := { r.flt with dispute := true, acks := [] } } r.flt.primary r.flt.secValid

theorem disputeToken_opened (d : Dev) (h : Nat) : DisputeOpened d h (disputeToken d h) := by
  unfold disputeToken
  generalize hf : ({ fspec 3 0x15 0x13 with unit := h, detail := d.flt.epoch.toNat } : FSpec) = f
  extract_lets r
  have htoken := record_only { r with flt := { r.flt with dispute := true, acks := [], epoch := r.flt.epoch + 1, primary := r.flt.primary, secValid := r.flt.secValid } }
    { fspec 0 0x0A 0x12 with detail := (r.flt.epoch + 1).toNat }
  have hring : RingGrows 1 (record d f) (tokenChange { r with flt := { r.flt with dispute := true, acks := [] } } r.flt.primary r.flt.secValid) :=
    ⟨htoken.ring.grows⟩
  obtain ⟨q, hq, hcls, hblock, hcode, -, -, -, -⟩ := record_newest d f
  obtain ⟨q', hq', hunit⟩ := record_unit d f
  obtain rfl : q = q' := Option.some.inj (hq.symm.trans hq')
  refine ⟨congrArg Flt.dispute htoken.flt, ?_, ?_, congrArg Flt.acks htoken.flt,
    ⟨q, (newest_place hring (by decide)).trans hq, ?_, ?_, ?_, ?_⟩, ?_⟩
  · have h1 := (tokenChange_flt { r with flt := { r.flt with dispute := true, acks := [] } } r.flt.primary r.flt.secValid).1
    rw [h1, (record_token d f).1]
  · have h1 := (tokenChange_flt { r with flt := { r.flt with dispute := true, acks := [] } } r.flt.primary r.flt.secValid).2.1
    rw [h1, (record_token d f).2]
  · rw [hcls, ← hf]; rfl
  · rw [hblock, ← hf]; rfl
  · rw [hcode, ← hf]; rfl
  · rw [hunit, ← hf]
  · rw [tokenChange_clk]
    exact record_clk ..

/-- Every emulation port sees an open dispute. -/
def seeDispute (d : Dev) : Dev := (List.range 16).foldl (fun d n => setEmp d n { emp d n with dispute := true }) d

theorem seeDispute_emp (d : Dev) {n : Nat} (h : n < 16) : (emp (seeDispute d) n).dispute = true := by
  have hemp := emp_foldRange (g := fun e => { e with dispute := true }) (f := fun d n => setEmp d n { emp d n with dispute := true })
    (fun d n => emp_setEmp_same ..) (fun d _ _ h => emp_setEmp_other _ _ h) d ⟨n, h⟩
  exact congrArg Emp.dispute hemp

theorem seeDispute_frame (d : Dev) : (seeDispute d).flt = d.flt ∧ (seeDispute d).clk = d.clk := by
  unfold seeDispute
  generalize List.range 16 = ns
  induction ns generalizing d with
  | nil => exact ⟨rfl, rfl⟩
  | cons n ns ih => exact ih _

theorem openDispute_eq (d : Dev) (h : Nat) : openDispute d h = seeDispute (startTimer (disputeToken d h) .dispute) := rfl

theorem afterTimer_flt (d : Dev) (t : Timer) (ns : Nat) : (afterTimer d t ns).flt = d.flt := by
  unfold afterTimer
  split <;> rfl

/-- Both halves have answered once this one has, when the other is fenced or has. -/
theorem all_answered_iff (d : Dev) {h : Nat} (hh : h < 2) :
    [0, 1].all (fun k => fenced d k || (d.flt.acks ++ [h]).contains k) = true ↔ fenced d (1 - h) = true ∨ d.flt.acks.contains (1 - h) = true := by
  obtain rfl | rfl : h = 0 ∨ h = 1 := by omega
  · simp
  · simp

end Sys2Proof.Machine

namespace Sys2Proof.Proofs

open Sys2Proof Sys2Proof.Machine Sys2Proof.Safety

/-- The codes of a controller pair's faults. -/
def pairCode (why : Fin 3) : Nat := if why.val = 0 then 0x06 else if why.val = 1 then 0x0C else 0x0B

theorem exec_pairFailover (b : Bool) (why : Fin 3) (s : State) :
    exec (.pairFailover b why) s = .next { s with dev := pairFault s.dev b (pairCode why) } := by
  obtain ⟨w, hw⟩ := why
  obtain rfl | rfl | rfl : w = 0 ∨ w = 1 ∨ w = 2 := by omega
  all_goals rfl

theorem pairFault_redundant {d : Dev} (h : d.flt.redundant = true) (b : Bool) (code : Nat) : pairFault d b code =
    record { d with flt := { d.flt with redundant := false, activeB := !b } } { fspec 3 0x00 code with unit := flag b, detail := flag b } := by
  rw [pairFault, h]
  rfl

theorem pairFault_last {d : Dev} (h : d.flt.redundant = false) (b : Bool) (code : Nat) : pairFault d b code =
    if b = d.flt.activeB then halting d { fspec 5 0x00 code with unit := flag b } else d := by
  rw [pairFault, h]
  rfl

theorem exec_tokenBroadcast (s : State) :
    exec .tokenBroadcast s = .next { s with dev := (List.range 8).foldl tokenAtPort (supTakes (supTakes s.dev 0) 1) } := rfl

theorem exec_disputeAck_owed {s : State} {h : Fin 2}
    (howes : s.dev.flt.dispute = true ∧ fenced s.dev h.val = false ∧ s.dev.flt.acks.contains h.val = false) :
    exec (.disputeAck h) s = .next { s with dev :=
      (let d := { s.dev with flt := { s.dev.flt with
        acks := s.dev.flt.acks ++ [h.val], supEpoch := mset s.dev.flt.supEpoch h.val s.dev.flt.epoch } }
       if [0, 1].all (fun k => fenced s.dev k || (s.dev.flt.acks ++ [h.val]).contains k) = true then closeDispute d else d) } := by
  have hopen : ¬ (!s.dev.flt.dispute || fenced s.dev h.val || s.dev.flt.acks.contains h.val) = true := by
    obtain ⟨hdis, hf, hack⟩ := howes
    rw [hdis, hf, hack]
    decide
  dsimp only [exec, execDisputeAck]
  rw [lift_eq]
  exact congrArg (fun e => Host.Outcome.next { s with dev := e }) (if_neg hopen)

/-- The window's end where a half has answered: the other is fenced and this one is primary. -/
def windowEnded (d : Dev) (a : Nat) : Dev :=
  let d := fenceHalf (afterTimer d .dispute 20000) (1 - a) 3 (faultCode 3 0x15 0x13)
  if (decide (d.flt.primary = a) && !d.flt.secValid) = true then d else tokenChange d a false

theorem exec_disputeWindowEnd_acked {s : State} {a : Nat} {rest : List Nat} (hdis : s.dev.flt.dispute = true)
    (hacks : s.dev.flt.acks = a :: rest) : exec .disputeWindowEnd s = .next { s with dev := closeDispute (windowEnded s.dev a) } := by
  have hopen : ¬ (!s.dev.flt.dispute) = true := by rw [hdis]; decide
  dsimp only [exec, execDisputeWindowEnd]
  rw [lift_eq]
  refine congrArg (fun e => Host.Outcome.next { s with dev := e }) ((if_neg hopen).trans ?_)
  rw [afterTimer_flt, hacks]
  rfl

theorem heartbeatAgrees_iff (d : Dev) (h : Nat) (e : Word) (role : Nat) :
    (fenced d h || d.flt.dispute || (e == d.flt.epoch && role == roleOf d h)) = true ↔
      fenced d h = true ∨ d.flt.dispute = true ∨ (e = d.flt.epoch ∧ role = roleOf d h) := by
  simp [or_assoc]

/-- Settles O43: the broadcast half by half and port by port, disputes by the halves that have answered. -/
theorem tokenAndDisputesComplete : Obligations.TokenAndDisputesComplete := by
  unfold Obligations.TokenAndDisputesComplete
  intro s
  dsimp only
  refine ⟨⟨_, exec_tokenBroadcast s, rfl, fun h hh => ?_, fun n hn => ?_⟩, fun h e role => ⟨fun hskip => ?_, fun hf hdis hno => ?_⟩, fun h hf => ?_, fun h hf => ?_,
    fun h => ⟨fun howes => ?_, fun howes hother => ?_, fun howes hother => ?_⟩, fun d => rfl, fun hdis => ?_, fun a rest hdis hacks => ⟨fun hprim hsec => ?_, fun hchange => ?_⟩,
    fun hdis hacks => ?_, fun b why => ⟨fun hred => ?_, fun hred hb => ?_, fun hred hb => ?_⟩, fun src howner => ⟨?_, ?_⟩, fun n => ⟨rfl, fun hn => ?_, fun hn => ?_⟩⟩
  · dsimp only
    rw [foldl_tokenAtPort_flt, mget?_supTakes, mget?_supTakes, fenced_supTakes, epoch_supTakes]
    obtain rfl | rfl : h = 0 ∨ h = 1 := by omega
    · cases hf : fenced s.dev 0 <;> simp
    · cases hf : fenced s.dev 1 <;> simp
  · dsimp only
    rw [rwPort_foldl_tokenAtPort _ List.nodup_range, if_pos (List.mem_range.2 hn), portWithToken_supTakes, portWithToken_supTakes, portWithToken]
  · exact congrArg (fun e => Host.Outcome.next { s with dev := e }) (if_pos ((heartbeatAgrees_iff ..).2 hskip))
  · have hskip : ¬ (fenced s.dev h.val || s.dev.flt.dispute || (e == s.dev.flt.epoch && role.val == roleOf s.dev h.val)) = true := by
      rw [heartbeatAgrees_iff, hf, hdis]
      simpa using hno
    have hopened := disputeToken_opened s.dev h.val
    obtain ⟨hflt, hclk⟩ := seeDispute_frame (startTimer (disputeToken s.dev h.val) .dispute)
    obtain ⟨r, hring, hcls, hblock, hcode, hunit⟩ := hopened.newest
    have hrun : exec (.heartbeat h e role) s = .next { s with dev := openDispute s.dev h.val } := by
      dsimp only [exec, execHeartbeat]
      rw [lift_eq]
      exact congrArg (fun e => Host.Outcome.next { s with dev := e }) (if_neg hskip)
    refine ⟨{ s with dev := openDispute s.dev h.val }, r, hrun, rfl, ?_⟩
    dsimp only
    rw [openDispute_eq, hflt, hclk]
    refine ⟨hopened.dispute, hopened.epoch, hopened.primary, hopened.acks, hring, hcls, hblock, hcode, ?_, fun n hn => seeDispute_emp _ hn, ?_⟩
    · omega
    · rw [← hopened.clk]
      exact List.mem_append_right _ List.mem_cons_self
  · exact congrArg (fun e => Host.Outcome.next { s with dev := e }) (if_pos hf)
  · exact congrArg (fun e => Host.Outcome.next { s with dev := e }) (if_neg (Bool.eq_false_iff.1 hf))
  · have hskip : (!s.dev.flt.dispute || fenced s.dev h.val || s.dev.flt.acks.contains h.val) = true := by
      cases hd : s.dev.flt.dispute <;> cases hf : fenced s.dev h.val <;> cases ha : s.dev.flt.acks.contains h.val <;> simp_all
    exact congrArg (fun e => Host.Outcome.next { s with dev := e }) (if_pos hskip)
  · rw [exec_disputeAck_owed howes]
    exact congrArg (fun e => Host.Outcome.next { s with dev := e }) (if_neg (mt (all_answered_iff s.dev h.isLt).1 hother))
  · rw [exec_disputeAck_owed howes]
    exact congrArg (fun e => Host.Outcome.next { s with dev := e }) (if_pos ((all_answered_iff s.dev h.isLt).2 hother))
  · have hskip : (!s.dev.flt.dispute) = true := by rw [hdis]; rfl
    exact congrArg (fun e => Host.Outcome.next { s with dev := e }) (if_pos hskip)
  · rw [exec_disputeWindowEnd_acked hdis hacks]
    rw [windowEnded, if_pos (by rw [hprim, hsec]; simp)]
  · rw [exec_disputeWindowEnd_acked hdis hacks]
    rw [windowEnded, if_neg (by rcases hchange with h | h <;> simp [h])]
  · have hopen : ¬ (!s.dev.flt.dispute) = true := by rw [hdis]; decide
    dsimp only [exec, execDisputeWindowEnd]
    rw [lift_eq]
    refine congrArg (fun e => Host.Outcome.next { s with dev := e }) ((if_neg hopen).trans ?_)
    rw [afterTimer_flt, hacks]
    rfl
  · rw [exec_pairFailover, pairFault_redundant hred]
    rfl
  · rw [exec_pairFailover, pairFault_last hred, if_pos hb]
    rfl
  · rw [exec_pairFailover, pairFault_last hred, if_neg hb]
  · dsimp only [exec, execCrashLogClear]
    rw [lift_eq, ownerOnly, if_pos howner, clogClear]
  · dsimp only [exec, execPendClear]
    rw [lift_eq, ownerOnly, if_pos howner, pendClear]
    split <;> rfl
  · exact congrArg (fun e => Host.Outcome.next { s with dev := e }) (if_pos hn)
  · exact congrArg (fun e => Host.Outcome.next { s with dev := e }) (if_neg (Nat.not_lt.2 hn))

end Sys2Proof.Proofs
end


section
/-! Fencing of a half and its end (R346, R349, R352). -/

namespace Sys2Proof.Machine

open Sys2Proof Sys2Proof.Safety

/-- One value is set at many keys. -/
theorem mget_foldl_mset {α : Type} (f : Nat → Nat) (x d : α) (ns : List Nat) (m : FMap α) (g : Nat) :
    mget (ns.foldl (fun m i => mset m (f i) x) m) g d = if ∃ i ∈ ns, f i = g then x else mget m g d := by
  induction ns generalizing m with
  | nil => simp
  | cons n ns ih =>
    rw [List.foldl_cons, ih]
    by_cases hn : f n = g
    · simp [hn]
    · simp [hn, mget_mset_other _ _ _ _ _ (Ne.symm hn)]

/-- The tiles of a half without power. -/
def tilesOff (h : Nat) (m : FMap Tile) : FMap Tile :=
  (List.range 400).foldl (fun m i => mset m (400 * h + i) { Tile.reset with powered := false }) m

/-- A half's compute dies lose power. -/
def halfOff (d : Dev) (h : Nat) : Dev :=
  let off := (List.range 10).map (fun i => 10 * h + i)
  { d with flt := { d.flt with poweredOff := d.flt.poweredOff ++ off.filter (fun i => !d.flt.poweredOff.contains i) }
           tiles := tilesOff h d.tiles }

theorem tile_halfOff (d : Dev) (h g : Nat) :
    tile (halfOff d h) g = if 400 * h ≤ g ∧ g < 400 * h + 400 then { Tile.reset with powered := false } else tile d g := by
  have hmem : (∃ i ∈ List.range 400, 400 * h + i = g) ↔ 400 * h ≤ g ∧ g < 400 * h + 400 :=
    ⟨fun ⟨i, hi, hg⟩ => by have := List.mem_range.1 hi; omega, fun hg => ⟨g - 400 * h, List.mem_range.2 (by omega), by omega⟩⟩
  rw [tile, halfOff, tilesOff, mget_foldl_mset (fun i => 400 * h + i)]
  exact if_congr hmem rfl rfl

theorem poweredOff_halfOff (d : Dev) (h : Nat) {i : Nat} (hi : i < 10) : (halfOff d h).flt.poweredOff.contains (10 * h + i) = true := by
  by_cases ho : 10 * h + i ∈ d.flt.poweredOff
  · simp [halfOff, ho]
  · simp [halfOff, ho, hi]

/-- A half with index below 2 is fenced no more once its fence is lifted. -/
theorem fenced_setFenced_false (d : Dev) (h : Nat) : fenced (setFenced d h false) h = false := by
  unfold fenced setFenced
  split <;> rfl

/-- A record keeps the fences and the modules that are closed. -/
theorem record_service (d : Dev) (f : FSpec) : (∀ h, fenced (record d f) h = fenced d h)
    ∧ (record d f).flt.closedModules = d.flt.closedModules := by
  have hflt := (record_only d f).flt
  have hW := congrArg Flt.fencedW hflt
  have hE := congrArg Flt.fencedE hflt
  have hM := congrArg Flt.closedModules hflt
  refine ⟨fun h => ?_, hM⟩
  unfold fenced
  split
  · exact hW
  · exact hE

/-- So does a change of the token. -/
theorem tokenChange_service (d : Dev) (p : Nat) (sec : Bool) : (∀ h, fenced (tokenChange d p sec) h = fenced d h)
    ∧ (tokenChange d p sec).flt.closedModules = d.flt.closedModules :=
  record_service { d with flt := { d.flt with epoch := d.flt.epoch + 1, primary := p, secValid := sec } } _

theorem setFenced_modules (d : Dev) (h : Nat) (v : Bool) : (setFenced d h v).flt.closedModules = d.flt.closedModules
    ∧ (setFenced d h v).flt.retiredModules = d.flt.retiredModules := by
  unfold setFenced
  dsimp only
  split <;> exact ⟨rfl, rfl⟩

theorem returnHalf_service (d : Dev) (h : Nat) : fenced (returnHalf d h) h = false ∧ (returnHalf d h).flt.closedModules =
    d.flt.closedModules.filter (fun m => !(halfModules h).contains m || d.flt.retiredModules.contains m) := by
  unfold returnHalf
  extract_lets shut d1 f2 d2 d3
  obtain ⟨hclosed, hretired⟩ := setFenced_modules d h false
  have h2 : fenced d2 h = false ∧ d2.flt.closedModules = d.flt.closedModules.filter shut :=
    ⟨fenced_setFenced_false d h, congrArg (List.filter shut) hclosed⟩
  have h3 : fenced d3 h = false ∧ d3.flt.closedModules = d.flt.closedModules.filter shut := by
    unfold d3
    obtain ⟨hf, hm⟩ := h2
    split
    · split
      · exact ⟨((tokenChange_service ..).1 h).trans hf, (tokenChange_service ..).2.trans hm⟩
      · exact ⟨((tokenChange_service ..).1 h).trans hf, (tokenChange_service ..).2.trans hm⟩
    · exact ⟨hf, hm⟩
  exact ⟨((record_service ..).1 h).trans h3.1, (record_service ..).2.trans h3.2⟩

/-- The write of FLT_FENCE that a command makes. -/
def fenceReg (d : Dev) (op kind idx : Nat) : Dev := regPut d 0x10014 (put op 30 2 + put kind 28 2 + put idx 0 8)

theorem fenceCommand_bad {d : Dev} {op kind idx : Nat} (hop : op ≠ 0) (h : fenceTarget kind idx = false) :
    fenceCommand d op kind idx = discarded (fenceReg d op kind idx) 0x0A 0x10014 := by
  have hbad : (!fenceTarget kind idx) = true := by rw [h]; rfl
  exact (if_neg hop).trans (if_pos hbad)

/-- What a command of FLT_FENCE with an existing target does, its register written. -/
def fenceAction (d : Dev) (op kind idx : Nat) : Dev :=
  match op, kind with
  | 1, 0 => fenceHalf d idx 0 (faultCode 0 0x0A 0x11)
  | 1, 1 => strikeDie d idx 0 (faultCode 0 0x0A 0x11)
  | 1, _ => retireModule d idx
  | 2, 0 => unfence d idx
  | 2, _ => discarded d 0x0A 0x10014
  | _, 0 => discarded d 0x0A 0x10014
  | _, k => jWrite d (.restore k idx)

theorem fenceCommand_ok (d : Dev) {op kind idx : Nat} (hop : op ≠ 0) (h : fenceTarget kind idx = true) :
    fenceCommand d op kind idx = fenceAction (fenceReg d op kind idx) op kind idx := by
  have hgood : ¬ (!fenceTarget kind idx) = true := by rw [h]; decide
  exact ((if_neg hop).trans (if_neg hgood)).trans rfl

/-- A paired job runs. -/
def pairedJobRuns (d : Dev) : Bool :=
  match d.sched.running with
  | some k => ((mget? d.sched.slots k).map (fun j => j.half)).getD false
  | none => false

theorem pairedJobRuns_iff (d : Dev) :
    pairedJobRuns d = true ↔ ∃ k j, d.sched.running = some k ∧ mget? d.sched.slots k = some j ∧ j.half = true := by
  unfold pairedJobRuns
  split
  next k hk =>
    cases hj : mget? d.sched.slots k with
    | none => simp [hk, hj]
    | some j => simp [hk, hj]
  next hk => simp [hk]

theorem unfence_discarded {d : Dev} {h : Nat} (hno : fenced d h = false ∨ d.flt.unfenceBusy = true) :
    unfence d h = discarded d 0x0A 0x10014 := by
  have hcond : (!fenced d h || d.flt.unfenceBusy) = true := by
    rcases hno with hno | hno <;> simp [hno]
  exact if_pos hcond

theorem unfence_starts {d : Dev} {h : Nat} (hf : fenced d h = true) (hb : d.flt.unfenceBusy = false) :
    unfence d h = if pairedJobRuns d = true
      then { d with flt := { d.flt with unfenceBusy := true, unfenceResult := 0, deferred := some h } }
      else startTimer { d with flt := { d.flt with unfenceBusy := true, unfenceResult := 0, selftest := some h } } .selftest := by
  have hcond : ¬ (!fenced d h || d.flt.unfenceBusy) = true := by rw [hf, hb]; decide
  exact (if_neg hcond).trans rfl

/-- The job of a half that is fenced, where one runs. -/
theorem fenceJob_device {d : Dev} {k : Nat} {j : Job} (hk : d.sched.running = some k) (hj : mget? d.sched.slots k = some j)
    (hdev : j.half = false) (h cls code : Nat) : fenceJob d h cls code = endFault d 0 cls code := by
  unfold fenceJob
  rw [hk]
  dsimp only
  rw [hj]
  dsimp only
  exact if_neg (Bool.eq_false_iff.1 hdev)

theorem fenceJob_paired {d : Dev} {k : Nat} {j : Job} (hk : d.sched.running = some k) (hj : mget? d.sched.slots k = some j)
    (hpair : j.half = true) (h cls code : Nat) : fenceJob d h cls code =
      (let e := setJob d k { j with fencedDuring := true }
       let on (i : Nat) : Bool := (scope e i).jobValid && (scope e i).slot == k
       let spoken := on (1 - h) || (if h = 0 then j.eastEnd else j.westEnd).isSome
       if (!on h) = true then finishCheck e k else if spoken = true then finishCheck (dropScope e h) k else endFault e h cls code) := by
  unfold fenceJob
  rw [hk]
  dsimp only
  rw [hj]
  dsimp only
  exact if_pos hpair

end Sys2Proof.Machine

namespace Sys2Proof.Proofs

open Sys2Proof Sys2Proof.Machine Sys2Proof.Safety

theorem exec_fltFence {s : State} {src : Iface} (h : isOwner s.dev src = true) (k : Fin 4) (i : Byte) :
    exec (.fltFence src k i) s = .next { s with dev := fenceCommand s.dev 1 k.val i.toNat } := by
  dsimp only [exec, execFltFence]
  rw [lift_eq, ownerOnly, if_pos h]

theorem exec_unfence {s : State} {src : Iface} (h : isOwner s.dev src = true) (k : Fin 4) (i : Byte) :
    exec (.unfence src k i) s = .next { s with dev := fenceCommand s.dev 2 k.val i.toNat } := by
  dsimp only [exec, execUnfence]
  rw [lift_eq, ownerOnly, if_pos h]

theorem exec_fltRestore {s : State} {src : Iface} (h : isOwner s.dev src = true) (k : Fin 4) (i : Byte) :
    exec (.fltRestore src k i) s = .next { s with dev := fenceCommand s.dev 3 k.val i.toNat } := by
  dsimp only [exec, execFltRestore]
  rw [lift_eq, ownerOnly, if_pos h]

theorem exec_fltFence_ok {s : State} {src : Iface} (h : isOwner s.dev src = true) (k : Fin 4) (i : Byte)
    (hgood : fenceTarget k.val i.toNat = true) :
    exec (.fltFence src k i) s = .next { s with dev := fenceAction (fenceReg s.dev 1 k.val i.toNat) 1 k.val i.toNat } := by
  rw [exec_fltFence h, fenceCommand_ok _ (by decide) hgood]

theorem exec_unfence_ok {s : State} {src : Iface} (h : isOwner s.dev src = true) (k : Fin 4) (i : Byte)
    (hgood : fenceTarget k.val i.toNat = true) :
    exec (.unfence src k i) s = .next { s with dev := fenceAction (fenceReg s.dev 2 k.val i.toNat) 2 k.val i.toNat } := by
  rw [exec_unfence h, fenceCommand_ok _ (by decide) hgood]

theorem exec_fltRestore_ok {s : State} {src : Iface} (h : isOwner s.dev src = true) (k : Fin 4) (i : Byte)
    (hgood : fenceTarget k.val i.toNat = true) :
    exec (.fltRestore src k i) s = .next { s with dev := fenceAction (fenceReg s.dev 3 k.val i.toNat) 3 k.val i.toNat } := by
  rw [exec_fltRestore h, fenceCommand_ok _ (by decide) hgood]

theorem exec_fenceNoAnswer_fenced {s : State} {h : Fin 2} (hf : fenced s.dev h.val = true) :
    exec (.fenceNoAnswer h) s = .next { s with dev := halfOff s.dev h.val } := by
  have hcond : ¬ (!fenced s.dev h.val) = true := by rw [hf]; decide
  dsimp only [exec, execFenceNoAnswer]
  rw [lift_eq]
  exact congrArg (fun e => Host.Outcome.next { s with dev := e }) (if_neg hcond)

theorem exec_unfenceSelftestDone {s : State} {h : Nat} (hst : s.dev.flt.selftest = some h) (p : Bool) :
    exec (.unfenceSelftestDone p) s = .next { s with dev :=
      (let d := afterTimer s.dev .selftest 2000000
       let d := { d with flt := { d.flt with selftest := none, unfenceBusy := false, unfenceResult := if p = true then 1 else 2 } }
       if p = true then returnHalf d h else d) } := by
  dsimp only [exec, execUnfenceSelftestDone]
  rw [lift_eq, hst]

/-- Settles O42: commands by their operation and target, the rest by the branches of fencing. -/
theorem fencingComplete : Obligations.FencingComplete := by
  unfold Obligations.FencingComplete
  intro s
  dsimp only
  refine ⟨fun h hf => ?_, fun h hf => ⟨_, exec_fenceNoAnswer_fenced hf, rfl, fun g hg hh => ?_, fun g hg => ?_, fun i hi => ?_⟩,
    fun src howner => ⟨fun k i hbad => ⟨?_, ?_, ?_⟩, fun h hh => ?_, fun i hi => ?_, fun m hm => ?_, fun h hh hno => ?_,
      fun h hh hf hb => ⟨fun hpair => ?_, fun hpair => ?_⟩, fun k i hgood => ⟨fun hk => ?_, fun hk => ?_, fun hk => ?_⟩⟩,
    fun d h cls code => ⟨fun hf => if_pos hf, fun hf => if_neg (Bool.eq_false_iff.1 hf)⟩,
    fun d h cls code => ⟨fun hnone => ?_, fun k j hk hj => ⟨fun hdev => fenceJob_device hk hj hdev .., fun hpair => ⟨fun hon => ?_, fun hon hsp => ?_, fun hon hsp => ?_⟩⟩⟩,
    fun d h => ⟨fun hs => if_neg (Bool.eq_false_iff.1 hs), fun hs => if_pos hs⟩, fun d m => rfl, fun p hst => ?_, fun h hst => ⟨?_, ?_, fun hh => ?_⟩,
    fun m n jobs => ⟨?_, fun k hne => ?_⟩⟩
  · have hcond : (!fenced s.dev h.val) = true := by rw [hf]; rfl
    exact congrArg (fun e => Host.Outcome.next { s with dev := e }) (if_pos hcond)
  · dsimp only
    have hin : 400 * h.val ≤ g ∧ g < 400 * h.val + 400 := by
      have := h.isLt
      unfold tileHalf at hh
      split at hh <;> omega
    rw [tile_halfOff, if_pos hin]
  · dsimp only
    rw [tile_halfOff, if_neg (by omega)]
  · exact poweredOff_halfOff _ _ hi
  · rw [exec_fltFence howner, fenceCommand_bad (by decide) hbad]
    rfl
  · rw [exec_unfence howner, fenceCommand_bad (by decide) hbad]
    rfl
  · rw [exec_fltRestore howner, fenceCommand_bad (by decide) hbad]
    rfl
  · rw [exec_fltFence_ok howner _ _ (show fenceTarget 0 h.toNat = true from decide_eq_true hh)]
    rfl
  · rw [exec_fltFence_ok howner _ _ (show fenceTarget 1 i.toNat = true from hi)]
    rfl
  · rw [exec_fltFence_ok howner _ _ (show fenceTarget 2 m.toNat = true from decide_eq_true hm)]
    rfl
  · rw [exec_unfence_ok howner _ _ (show fenceTarget 0 h.toNat = true from decide_eq_true hh)]
    exact congrArg (fun e => Host.Outcome.next { s with dev := e }) (unfence_discarded (d := fenceReg s.dev 2 0 h.toNat) hno)
  · rw [exec_unfence_ok howner _ _ (show fenceTarget 0 h.toNat = true from decide_eq_true hh)]
    exact congrArg (fun e => Host.Outcome.next { s with dev := e }) ((unfence_starts (d := fenceReg s.dev 2 0 h.toNat) hf hb).trans
      (if_neg (mt (pairedJobRuns_iff s.dev).1 hpair)))
  · rw [exec_unfence_ok howner _ _ (show fenceTarget 0 h.toNat = true from decide_eq_true hh)]
    exact congrArg (fun e => Host.Outcome.next { s with dev := e }) ((unfence_starts (d := fenceReg s.dev 2 0 h.toNat) hf hb).trans
      (if_pos ((pairedJobRuns_iff s.dev).2 hpair)))
  · rw [exec_unfence_ok howner _ _ hgood]
    obtain ⟨_ | k, hlt⟩ := k
    · exact absurd rfl hk
    · rfl
  · rw [exec_fltRestore_ok howner _ _ hgood]
    obtain ⟨_ | k, hlt⟩ := k
    · exact absurd rfl hk
    · rfl
  · rw [exec_fltRestore_ok howner _ _ hgood, hk]
    rfl
  · unfold fenceJob
    rw [hnone]
  · rw [fenceJob_paired hk hj hpair]
    refine if_pos ?_
    rw [Bool.not_eq_true', Bool.eq_false_iff]
    simpa using hon
  · rw [fenceJob_paired hk hj hpair]
    refine (if_neg (by simpa using hon)).trans (if_pos ?_)
    simpa [Option.isSome_iff_ne_none] using hsp
  · rw [fenceJob_paired hk hj hpair]
    refine (if_neg (by simpa using hon)).trans (if_neg ?_)
    simpa [Option.isSome_iff_ne_none] using hsp
  · dsimp only [exec, execUnfenceSelftestDone]
    rw [lift_eq, hst]
  · rw [exec_unfenceSelftestDone hst]
    rfl
  · rw [exec_unfenceSelftestDone hst]
    rfl
  · refine ⟨_, exec_unfenceSelftestDone hst true, ?_⟩
    obtain ⟨hf, hm⟩ := returnHalf_service { afterTimer s.dev .selftest 2000000 with
      flt := { (afterTimer s.dev .selftest 2000000).flt with selftest := none, unfenceBusy := false, unfenceResult := 1 } } h
    exact ⟨hf, hm.trans (by rw [afterTimer_flt])⟩
  · exact congrArg (fun e => Host.Outcome.next { s with dev := e }) (if_pos rfl)
  · exact congrArg (fun e => Host.Outcome.next { s with dev := e }) (if_neg hne)

end Sys2Proof.Proofs
end


section
/-! Faults that units report: their order, records and containment (R343, R345, R347). -/

namespace Sys2Proof.Machine

open Sys2Proof Sys2Proof.Safety

/-! ### The order of reports (R343) -/

/-- A report goes no later than another. -/
def goesBy (a b : Report) : Prop := b.cls < a.cls ∨ (b.cls = a.cls ∧ a.block ≤ b.block)

theorem goesBy_of_first {a b : Report} (h : reportFirst a b = true) : goesBy a b := by
  simp only [reportFirst, Bool.or_eq_true, Bool.and_eq_true, decide_eq_true_eq, beq_iff_eq] at h
  exact h.imp id fun ⟨hc, hb⟩ => ⟨hc.symm, le_of_lt hb⟩

theorem goesBy_of_not_first {a b : Report} (h : reportFirst a b = false) : goesBy b a := by
  simp only [reportFirst, Bool.or_eq_false_iff, Bool.and_eq_false_iff, decide_eq_false_iff_not, beq_eq_false_iff_ne, not_lt] at h
  obtain ⟨hle, hb⟩ := h
  rcases lt_or_eq_of_le hle with hlt | heq
  · exact .inl hlt
  · exact .inr ⟨heq, hb.resolve_left (not_not_intro heq)⟩

theorem goesBy_trans {a b c : Report} (h : goesBy a b) (k : goesBy b c) : goesBy a c := by
  unfold goesBy at *
  omega

theorem putReport_perm (r : Report) (xs : List Report) : (putReport r xs).Perm (r :: xs) := by
  induction xs with
  | nil => exact .rfl
  | cons x xs ih =>
    unfold putReport
    split
    · exact .rfl
    · exact (ih.cons x).trans (.swap r x xs)

theorem putReport_pairwise (r : Report) {xs : List Report} (h : xs.Pairwise goesBy) : (putReport r xs).Pairwise goesBy := by
  induction xs with
  | nil => exact List.pairwise_singleton ..
  | cons x xs ih =>
    obtain ⟨hx, hxs⟩ := List.pairwise_cons.1 h
    unfold putReport
    split
    next hf =>
      have hrx := goesBy_of_first hf
      exact List.pairwise_cons.2 ⟨List.forall_mem_cons.2 ⟨hrx, fun y hy => goesBy_trans hrx (hx y hy)⟩, h⟩
    next hf =>
      refine List.pairwise_cons.2 ⟨fun y hy => ?_, ih hxs⟩
      rcases List.mem_cons.1 ((putReport_perm r xs).mem_iff.1 hy) with rfl | hy
      · exact goesBy_of_not_first (Bool.eq_false_iff.2 hf)
      · exact hx y hy

theorem foldl_putReport (rs : List Report) (l : List Report) (h : l.Pairwise goesBy) :
    (rs.foldl (fun l r => putReport r l) l).Perm (rs ++ l) ∧ (rs.foldl (fun l r => putReport r l) l).Pairwise goesBy := by
  induction rs generalizing l with
  | nil => exact ⟨.rfl, h⟩
  | cons r rs ih =>
    obtain ⟨hperm, hsort⟩ := ih (putReport r l) (putReport_pairwise r h)
    exact ⟨hperm.trans (((putReport_perm r l).append_left rs).trans List.perm_middle), hsort⟩

theorem reportOrder_spec (rs : List Report) : (reportOrder rs).Perm rs ∧ (reportOrder rs).Pairwise goesBy := by
  have h := foldl_putReport rs [] .nil
  rw [List.append_nil] at h
  exact h

/-- In RESET nothing is recorded. -/
theorem foldl_faultReport_reset (rs : List Report) {d : Dev} (h : d.boot.st = .reset) : rs.foldl faultReport d = d := by
  induction rs with
  | nil => rfl
  | cons r rs ih => exact (congrArg (fun e => rs.foldl faultReport e) (if_pos h)).trans ih

/-! ### The record of a report -/

/-- The record that a report makes. -/
def reported (d : Dev) (r : Report) : Dev :=
  let j := r.jobs.head?
  let sc := (j.map (fun j => scopeCode (scope d j.val).kind)).getD 0
  let sl := (j.map (fun j => if (scope d j.val).jobValid = true then (scope d j.val).slot else 0xFFFF)).getD 0xFFFF
  recordAt d { cls := r.cls.val, block := r.block.val, code := r.code.val, unit := r.unit.toNat, scope := sc, slot := sl
               detail := r.detail.toNat } (if r.cls.val ≤ 1 then 0 else r.us.toNat) r.late (decide (2 ≤ r.cls.val))

theorem faultReport_out {d : Dev} (h : d.boot.st ≠ .reset) (r : Report) : faultReport d r = containFault (reported d r) r := if_neg h

/-! ### Containment by class (Table 16-5) -/

/-- The report names a memory channel. -/
abbrev namesChannel (r : Report) : Prop := r.block.val = 0x0C ∧ r.unit.toNat < 192

theorem namesChannel_iff (r : Report) : (r.block.val == 0x0C && decide (r.unit.toNat < 192)) = true ↔ namesChannel r := by
  simp

/-- The report says that a channel's data are lost. -/
abbrev losesData (r : Report) : Prop := namesChannel r ∧ (r.code.val = 4 ∨ r.code.val = 5)

theorem containFault_zero {r : Report} (h : r.cls.val = 0) (d : Dev) : containFault d r = d := by
  unfold containFault
  rw [h]
  rfl

theorem containFault_one {r : Report} (h : r.cls.val = 1) (d : Dev) : containFault d r =
    if namesChannel r ∧ r.code.val = 3 then countCe d (r.unit.toNat / 16) (r.unit.toNat % 16) else d := by
  unfold containFault
  rw [h]
  exact if_congr (by rw [Bool.and_eq_true, namesChannel_iff, beq_iff_eq]) rfl rfl

theorem containFault_two {r : Report} (h : r.cls.val = 2) (d : Dev) : containFault d r =
    endJobs (if losesData r then uncorrected d (r.unit.toNat / 16) (r.unit.toNat % 16) else d)
      (r.jobs.map (fun j => j.val)) 2 (faultCode r.cls.val r.block.val r.code.val) := by
  unfold containFault
  rw [h]
  exact congrArg (fun e => endJobs e _ 2 _) (if_congr (by rw [Bool.and_eq_true, namesChannel_iff, Bool.or_eq_true, beq_iff_eq, beq_iff_eq]) rfl rfl)

theorem containFault_three {r : Report} (h : r.cls.val = 3) (d : Dev) : containFault d r =
    (let e := endJobs d (r.jobs.map (fun j => j.val)) 3 (faultCode r.cls.val r.block.val r.code.val)
     match r.what with
     | .pair b => { e with flt := if e.flt.redundant = true then { e.flt with redundant := false, activeB := !b } else e.flt }
     | .module m => retireModule e m.val
     | _ => stopUnit e r.block.val r.unit.toNat r.code.val) := by
  unfold containFault
  rw [h]
  rfl

/-- What a class 4 fault does where neither a half nor a die is named. -/
def strikeUnnamed (d : Dev) (r : Report) : Dev :=
  let k := match r.jobs.map (fun j => j.val) with
    | j :: _ => (scope d j).kind
    | [] => .device
  if (decide (r.block.val = 0x14) && decide (r.unit.toNat < 800)) = true then strikeDie d (r.unit.toNat / 40) 4 (faultCode r.cls.val r.block.val r.code.val)
  else fenceHalf d (reportHalf r.block.val r.unit.toNat (r.jobs.map (fun j => j.val)) k) 4 (faultCode r.cls.val r.block.val r.code.val)

theorem containFault_four {r : Report} (h : r.cls.val = 4) (d : Dev) : containFault d r =
    (match r.what with
     | .die i => if dieValid i = true then strikeDie d i 4 (faultCode r.cls.val r.block.val r.code.val) else d
     | .half h => fenceHalf d h.val 4 (faultCode r.cls.val r.block.val r.code.val)
     | _ => strikeUnnamed d r) := by
  unfold containFault strikeUnnamed
  rw [h]
  rfl

theorem containFault_unnamed {r : Report} (h : r.cls.val = 4) (hh : ∀ h, r.what ≠ .half h) (hi : ∀ i, r.what ≠ .die i) (d : Dev) :
    containFault d r = strikeUnnamed d r := by
  rw [containFault_four h]
  cases hw : r.what with
  | half h => exact absurd hw (hh h)
  | die i => exact absurd hw (hi i)
  | _ => rfl

theorem strikeUnnamed_die {r : Report} (hb : r.block.val = 0x14) (hu : r.unit.toNat < 800) (d : Dev) :
    strikeUnnamed d r = strikeDie d (r.unit.toNat / 40) 4 (faultCode r.cls.val r.block.val r.code.val) := by
  have hcond : (decide (r.block.val = 0x14) && decide (r.unit.toNat < 800)) = true := by
    rw [decide_eq_true hb, decide_eq_true hu]; rfl
  exact if_pos hcond

/-- The half that is fenced where no die is struck. -/
theorem strikeUnnamed_half {r : Report} (hno : r.block.val = 0x14 → 800 ≤ r.unit.toNat) (d : Dev) :
    strikeUnnamed d r = fenceHalf d (reportHalf r.block.val r.unit.toNat (r.jobs.map (fun j => j.val)) (match r.jobs.map (fun j => j.val) with
      | j :: _ => (scope d j).kind
      | [] => .device)) 4 (faultCode r.cls.val r.block.val r.code.val) := by
  have hcond : ¬ (decide (r.block.val = 0x14) && decide (r.unit.toNat < 800)) = true := by
    rw [Bool.and_eq_true, decide_eq_true_eq, decide_eq_true_eq]
    rintro ⟨hb, hu⟩
    exact absurd (hno hb) (Nat.not_le.2 hu)
  exact (if_neg hcond).trans rfl

theorem reportHalf_tile {block : Nat} (h : block = 0x14) (unit : Nat) (jobs : List Nat) (k : ScopeKind) :
    reportHalf block unit jobs k = tileHalf unit := if_pos h

theorem reportHalf_supervisor {block : Nat} (h : block = 0x15) (unit : Nat) (jobs : List Nat) (k : ScopeKind) :
    reportHalf block unit jobs k = unit % 2 := by
  subst h
  rfl

/-- The half of a fault that only its jobs place. -/
theorem reportHalf_jobs {block unit : Nat} (h14 : block ≠ 0x14) (h15 : block ≠ 0x15) (d : Dev) (jobs : List (Fin 2)) :
    reportHalf block unit (jobs.map (fun j => j.val)) (match jobs.map (fun j => j.val) with
      | j :: _ => (scope d j).kind
      | [] => .device) = if (match jobs.map (fun j => j.val) with
        | j :: _ => (scope d j).kind == .east || j == 1
        | [] => false) = true then 1 else 0 := by
  unfold reportHalf
  rw [if_neg h14, if_neg h15]
  cases jobs with
  | nil => rfl
  | cons j js =>
    obtain rfl | rfl : j = 0 ∨ j = 1 := by omega
    · simp only [List.map_cons]
      cases (scope d (0 : Fin 2).val).kind <;> rfl
    · simp only [List.map_cons]
      cases (scope d (1 : Fin 2).val).kind <;> rfl

theorem containFault_five {r : Report} (h : r.cls.val = 5) (d : Dev) : containFault d r =
    (match r.what with
     | .critical => deviceReset (haltDevice d) 0x07
     | _ => haltDevice d) := by
  unfold containFault
  rw [h]
  rfl

/-! ### HALT (R353) -/

/-- The isolation of ports that are not up changes the ports of Reedway alone. -/
theorem isolatePort_frame {d : Dev} {n : Nat} (h : (rwPort d n).st ≠ .up) : { isolatePort d n with rw := d.rw } = d := by
  rw [isolatePort_idle h]
  split <;> rfl

theorem isolatePort_same {d : Dev} {n : Nat} (h : (rwPort d n).st ≠ .up) : (rwPort (isolatePort d n) n).st = .isolated := by
  rw [isolatePort_idle h]
  split
  next hi => exact hi
  next => rw [rwPort_setRw_same]

theorem isolatePort_other {d : Dev} {n m : Nat} (h : (rwPort d n).st ≠ .up) (hm : m ≠ n) : rwPort (isolatePort d n) m = rwPort d m := by
  rw [isolatePort_idle h]
  split
  · rfl
  · exact rwPort_setRw_other d hm _

theorem foldl_isolatePort (ns : List Nat) (d : Dev) (h : ∀ n ∈ ns, (rwPort d n).st ≠ .up) :
    { ns.foldl isolatePort d with rw := d.rw } = d
      ∧ ∀ n, n ∈ ns ∨ (rwPort d n).st = .isolated → (rwPort (ns.foldl isolatePort d) n).st = .isolated := by
  induction ns generalizing d with
  | nil => exact ⟨rfl, fun n hn => hn.resolve_left nofun⟩
  | cons k ns ih =>
    obtain ⟨hk, hns⟩ := List.forall_mem_cons.1 h
    have hone : ∀ n, (rwPort (isolatePort d k) n).st = .isolated ∨ rwPort (isolatePort d k) n = rwPort d n := fun n => by
      by_cases hn : n = k
      · exact .inl (by rw [hn]; exact isolatePort_same hk)
      · exact .inr (isolatePort_other hk hn)
    obtain ⟨hframe, hiso⟩ := ih (isolatePort d k) fun n hn => by
      rcases hone n with hi | hi
      · rw [hi]; decide
      · rw [hi]; exact hns n hn
    refine ⟨(congrArg (fun e => { e with rw := d.rw }) hframe).trans (isolatePort_frame hk), fun n hn => hiso n ?_⟩
    rcases hone n with hi | hi
    · exact .inr hi
    · rcases hn with hn | hn
      · rcases List.mem_cons.1 hn with rfl | hn
        · exact .inr (isolatePort_same (h n List.mem_cons_self))
        · exact .inl hn
      · exact .inr (hi ▸ hn)

theorem allOkLow_frame (d : Dev) : (allOkLow d).boot = d.boot ∧ (allOkLow d).flt = d.flt ∧ (allOkLow d).rw = d.rw := by
  unfold allOkLow
  generalize List.range 16 = ns
  induction ns generalizing d with
  | nil => exact ⟨rfl, rfl, rfl⟩
  | cons n ns ih =>
    have hone := setOk_frame d n false
    obtain ⟨hboot, hflt, hrw⟩ := ih (setOk d n false)
    have kboot := congrArg Dev.boot hone
    have kflt := congrArg Dev.flt hone
    have krw := congrArg Dev.rw hone
    exact ⟨hboot.trans kboot, hflt.trans kflt, hrw.trans krw⟩

/-- A scope that is dropped changes nothing of the boot state, the collector and the ports. -/
theorem dropScope_keeps (d : Dev) (si : Nat) : (dropScope d si).boot = d.boot ∧ (dropScope d si).flt = d.flt
    ∧ (dropScope d si).ports = d.ports ∧ (dropScope d si).rw = d.rw := by
  unfold dropScope
  dsimp only
  split
  · exact ⟨rfl, rfl, rfl, rfl⟩
  · have hrel := releaseStacks_frame (setScope { d with tiles := mmap d.tiles (fun g t => if inScope (scope d si).kind g = true then tileJobEnd t else t) }
      si (scopeJobEnd (scope d si))) (scope d si).kind
    have hboot := congrArg Dev.boot hrel
    have hflt := congrArg Dev.flt hrel
    have hports := congrArg Dev.ports hrel
    have hrw := congrArg Dev.rw hrel
    exact ⟨hboot.trans (setScope_boot ..), hflt.trans (setScope_flt ..), hports.trans (setScope_ports ..), hrw.trans (setScope_rw ..)⟩

theorem enterState_frame (d : Dev) (st : DevState) : (enterState d st).boot = { d.boot with st := st } ∧ (enterState d st).flt = d.flt
    ∧ (enterState d st).rw = d.rw := by
  unfold enterState
  dsimp only
  split <;> exact ⟨rfl, rfl, rfl⟩

/-- What HALT is where no port of Reedway was up. -/
theorem haltDevice_quiet {d : Dev} (h : ∀ n < 8, (rwPort d n).st ≠ .up) : (haltDevice d).boot.st = .halt ∧ (haltDevice d).flt.halt = true
    ∧ (∀ n < 16, (emp (haltDevice d) n).ok = false) ∧ (∀ n < 8, (rwPort (haltDevice d) n).st = .isolated) := by
  obtain ⟨hboot, hflt, hrw⟩ := enterState_frame { d with flt := { d.flt with halt := true } } .halt
  obtain ⟨kboot, kflt, krw⟩ := allOkLow_frame (enterState { d with flt := { d.flt with halt := true } } .halt)
  have kemp : ∀ n < 16, (emp (allOkLow (enterState { d with flt := { d.flt with halt := true } } .halt)) n).ok = false :=
    fun n hn => congrArg Emp.ok (allOkLow_emp _ ⟨n, hn⟩)
  unfold haltDevice
  dsimp only
  generalize allOkLow (enterState { d with flt := { d.flt with halt := true } } .halt) = e at *
  have hports : e.rw.ports = d.rw.ports := congrArg _ (krw.trans hrw)
  obtain ⟨hframe, hiso⟩ := foldl_isolatePort (List.range 8) e fun n hn => by
    rw [rwPort, hports]
    exact h n (List.mem_range.1 hn)
  generalize (List.range 8).foldl isolatePort e = f at *
  have fboot := congrArg Dev.boot hframe
  have fflt := congrArg Dev.flt hframe
  have fports := congrArg Dev.ports hframe
  obtain ⟨gboot, gflt, gports, grw⟩ := dropScope_keeps f 0
  obtain ⟨lboot, lflt, lports, lrw⟩ := dropScope_keeps (dropScope f 0) 1
  generalize dropScope (dropScope f 0) 1 = k at *
  have hkboot : k.boot = e.boot := lboot.trans (gboot.trans fboot)
  have hkflt : k.flt = e.flt := lflt.trans (gflt.trans fflt)
  have hkports : k.ports = e.ports := lports.trans (gports.trans fports)
  have hkrw : k.rw = f.rw := lrw.trans grw
  refine ⟨?_, ?_, fun n hn => ?_, fun n hn => ?_⟩
  · exact congrArg Boot.st (hkboot.trans (kboot.trans hboot))
  · exact congrArg Flt.halt (hkflt.trans (kflt.trans hflt))
  · have hemp : emp k n = emp e n := congrArg (fun p : Ports => mget p.emp n Emp.reset) hkports
    exact (congrArg Emp.ok hemp).trans (kemp n hn)
  · have hport : rwPort k n = rwPort f n := by rw [rwPort, hkrw, rwPort]
    exact (congrArg RwPort.st hport).trans (hiso n (.inl (List.mem_range.2 hn)))

end Sys2Proof.Machine

namespace Sys2Proof.Proofs

open Sys2Proof Sys2Proof.Machine Sys2Proof.Safety

theorem exec_faultReport_one {s : State} (h : s.dev.boot.st ≠ .reset) (r : Report) :
    exec (.faultReport [r]) s = .next { s with dev := containFault (reported s.dev r) r } := by
  have hone : (reportOrder [r]).foldl faultReport s.dev = containFault (reported s.dev r) r := faultReport_out h r
  exact congrArg (fun e => Host.Outcome.next { s with dev := e }) hone

/-- Settles O41: the order is an insertion sort, and each report is its record and then its class. -/
theorem faultReportsContained : Obligations.FaultReportsContained := by
  unfold Obligations.FaultReportsContained
  intro s
  dsimp only
  refine ⟨fun rs hreset => ?_, fun rs => rfl, fun rs => reportOrder_spec rs, fun r hout => ?_, fun d u c => ⟨fun hu => ?_, fun hu => if_pos hu, fun hu => ?_,
    fun hu => if_pos hu, fun hu => if_pos hu, fun hu => if_pos hu, fun hu => if_pos hu, fun hu => if_pos hu, rfl⟩,
    fun d => ⟨by rw [haltDevice], by rw [haltDevice]; rfl, haltDevice_quiet⟩⟩
  · exact congrArg (fun e => Host.Outcome.next { s with dev := e }) (foldl_faultReport_reset _ hreset)
  · have hrun := exec_faultReport_one hout r
    obtain ⟨hseq, -, hring⟩ := recordAt_flt s.dev { cls := r.cls.val, block := r.block.val, code := r.code.val, unit := r.unit.toNat
                                                    scope := (r.jobs.head?.map (fun j => scopeCode (scope s.dev j.val).kind)).getD 0
                                                    slot := (r.jobs.head?.map (fun j => if (scope s.dev j.val).jobValid = true then (scope s.dev j.val).slot else 0xFFFF)).getD 0xFFFF
                                                    detail := r.detail.toNat } (if r.cls.val ≤ 1 then 0 else r.us.toNat) r.late (decide (2 ≤ r.cls.val))
    refine ⟨reported s.dev r, _, hring, rfl, rfl, rfl, Nat.mod_eq_of_lt r.unit.isLt, Nat.mod_eq_of_lt r.detail.isLt, rfl, rfl, rfl, rfl, hseq,
      recordAt_tiles .., recordAt_tmg .., recordAt_sched .., ?_⟩
    clear hseq hring
    generalize reported s.dev r = d at *
    rw [hrun]
    refine ⟨fun h0 => ?_, fun h1 hno => ?_, fun h1 hch hcode => ?_, fun h2 hno => ?_, fun h2 hlost => ?_, fun b h3 hw => ?_, fun m h3 hw => ?_,
      fun h3 hp hm => ?_, fun h h4 hw => ?_, fun i h4 hw => ?_, fun h4 hh hi => ⟨fun hb hu => ?_, fun hb hu => ?_, fun hb => ?_, fun h14 h15 => ?_⟩,
      fun h5 hc => ?_, fun h5 hc => ?_⟩
    · rw [containFault_zero h0]
    · rw [containFault_one h1, if_neg hno]
    · rw [containFault_one h1, if_pos ⟨hch, hcode⟩]
    · rw [containFault_two h2, if_neg hno]
    · rw [containFault_two h2, if_pos hlost]
    · rw [containFault_three h3, hw]
    · rw [containFault_three h3, hw]
    · rw [containFault_three h3]
      cases hw : r.what with
      | pair b => exact absurd hw (hp b)
      | module m => exact absurd hw (hm m)
      | _ => rfl
    · rw [containFault_four h4, hw]
    · rw [containFault_four h4, hw]
    · rw [containFault_unnamed h4 hh hi, strikeUnnamed_die hb hu]
    · rw [containFault_unnamed h4 hh hi, strikeUnnamed_half (fun _ => hu), reportHalf_tile hb, tileHalf, if_neg (by omega)]
    · rw [containFault_unnamed h4 hh hi, strikeUnnamed_half (fun h => by omega), reportHalf_supervisor hb]
    · rw [containFault_unnamed h4 hh hi, strikeUnnamed_half (fun h => absurd h h14), reportHalf_jobs h14 h15] <;> rfl
    · rw [containFault_five h5]
      cases hw : r.what with
      | critical => exact absurd hw hc
      | _ => rfl
    · rw [containFault_five h5, hc]
  · exact (if_pos hu).trans (if_congr (by simp) rfl rfl)
  · refine (if_pos hu).trans ?_
    cases hcur : (pxe d u).cur with
    | none => simp
    | some c => simp

end Sys2Proof.Proofs
end


section
/-! Device resets, partial resets, PERST and the backup domain (R355 to R360, R412). -/

namespace Sys2Proof.Machine

open Sys2Proof Sys2Proof.Safety

/-- Every EMP_OK goes low: the ports and their pins change alone. -/
theorem allOkLow_rest (d : Dev) :
    { allOkLow d with ports := { (allOkLow d).ports with emp := d.ports.emp }, out := d.out } = d := by
  unfold allOkLow
  generalize List.range 16 = ns
  induction ns generalizing d with
  | nil => rfl
  | cons n ns ih =>
    have h := congrArg (fun e : Dev => { e with ports := { e.ports with emp := d.ports.emp }, out := d.out }) (ih (setOk d n false))
    exact h.trans (setOk_frame d n false)

/-- What a device reset leaves as it was (R356). -/
structure SurvivesReset (d t : Dev) (c : Nat) : Prop where
  boot : t.boot = { Dev.reset.boot with st := .reset, sources := [c] }
  bk : t.bk = { d.bk with cause := c, count := d.bk.count + 1 }
  nvm : t.nvm = d.nvm
  clk : t.clk = { Dev.reset.clk with localNs := d.clk.localNs }
  pins : t.pins = d.pins
  ports : t.ports = { Dev.reset.ports with safeIn := d.ports.safeIn }
  pwr : t.pwr = { Dev.reset.pwr with brake := d.pwr.brake }

theorem deviceReset_survives {d : Dev} {c : Nat} (h : d.boot.st ≠ .reset ∨ d.boot.sources = []) : SurvivesReset d (deviceReset d c) c := by
  rw [deviceReset_fresh c h]
  have hrest := allOkLow_rest d
  have hsafe := allOkLow_safeIn d
  generalize allOkLow d = e at *
  have hbk := congrArg Dev.bk hrest
  have hnvm := congrArg Dev.nvm hrest
  have hclk := congrArg Dev.clk hrest
  have hpins := congrArg Dev.pins hrest
  have hpwr := congrArg Dev.pwr hrest
  dsimp only at hbk hnvm hclk hpins hpwr
  refine ⟨rfl, ?_, hnvm, ?_, hpins, ?_, ?_⟩
  all_goals dsimp only [resetDev]
  · rw [hbk]
  · rw [hclk]
  · rw [hsafe]
  · rw [hpwr]

theorem deviceReset_held {d : Dev} {c : Nat} (hst : d.boot.st = .reset) (hsrc : d.boot.sources ≠ []) : deviceReset d c =
    { d with boot := { d.boot with sources := if d.boot.sources.contains c = true then d.boot.sources else d.boot.sources ++ [c] } } := by
  have hcond : (decide (d.boot.st = .reset) && !d.boot.sources.isEmpty) = true := by
    rw [decide_eq_true hst, Bool.true_and, Bool.not_eq_true', List.isEmpty_eq_false_iff]
    exact hsrc
  exact if_pos hcond

/-- An update runs and has not failed. -/
abbrev updRuns (d : Dev) : Prop := d.boot.updBusy = true ∧ d.boot.updResult = 0

theorem powerCut_eq (d : Dev) : powerCut d =
    if updRuns d then (if (drawFree d 1).1 = 1 then updCut (drawFree d 1).2 else (drawFree d 1).2) else d := by
  unfold powerCut
  exact if_congr (by simp) rfl rfl

/-- What a power cut may leave of an update that runs. -/
theorem updCut_eq (d : Dev) : updCut d = if updRuns d then
    (match d.boot.updOp with
      | 2 => if kindCode (slotBytes d (inactiveSlot d)) d.boot.powerClassOpt = 0 then jWriteFirst d (.verified (inactiveSlot d)) else d
      | 3 => jWriteFirst d (.activate (inactiveSlot d))
      | 4 => jWriteFirst d (.confirm d.boot.slot)
      | _ => d) else d := by
  unfold updCut
  by_cases h : updRuns d
  · have hcond : ¬ (!d.boot.updBusy || d.boot.updResult != 0) = true := by
      obtain ⟨hb, hr⟩ := h
      rw [hb, hr]
      decide
    rw [if_pos h]
    exact (if_neg hcond).trans rfl
  · have hcond : (!d.boot.updBusy || d.boot.updResult != 0) = true := by
      rw [Bool.or_eq_true, Bool.not_eq_true', bne_iff_ne, ← Bool.not_eq_true]
      exact not_and_or.1 h
    rw [if_neg h]
    exact if_pos hcond

theorem rstPartial_discarded {d : Dev} {k i : Nat} (h : ¬ (d.boot.partBusy = false ∧ partTarget k i = true)) :
    rstPartial d true k i = discarded d 0x02 0x2010 := by
  have hcond : (true && (d.boot.partBusy || !partTarget k i)) = true := by
    cases hb : d.boot.partBusy <;> cases ht : partTarget k i <;> simp_all
  exact if_pos hcond

theorem rstPartial_runs {d : Dev} {k i : Nat} (h : d.boot.partBusy = false ∧ partTarget k i = true) :
    rstPartial d true k i = (let e := partReset (regPut d 0x2010 (put 1 31 1 + put k 28 2 + put i 0 8)) k i
      { e with boot := { e.boot with partBusy := true, partKind := k, partIndex := i, partResult := 0 } }) := by
  obtain ⟨hb, ht⟩ := h
  have hcond : ¬ (true && (d.boot.partBusy || !partTarget k i)) = true := by rw [hb, ht]; decide
  exact (if_neg hcond).trans rfl

theorem partReset_port (d : Dev) (i : Nat) : partReset d 2 i =
    if i < 16 then resetEmp d i else if i < 24 then resetCap d (i - 16) else resetRw d (i - 32) := rfl

/-- A partial reset that ran has ended. -/
def partEnded (d : Dev) (r : Nat) : Dev := { d with boot := { d.boot with partBusy := false, partResult := r } }

theorem partDone_runs {d : Dev} (h : d.boot.partBusy = true) (ok : Bool) : partDone d ok =
    (let e := partEnded d (if (ok || d.boot.partKind == 2) = true then 1 else 2)
     let i := d.boot.partIndex
     match d.boot.partKind with
     | 0 => if (ok && fenced e i) = true then returnHalf e i else e
     | 1 => if (ok && fenced e (dieHalf i)) = true then returnHalf e (dieHalf i) else e
     | 2 => e
     | _ =>
       if 100 ≤ i then e
       else if ok = true then { e with flt := { e.flt with closedModules := e.flt.closedModules.filter (· != i) } }
       else retireModule (record e { fspec 3 0x13 0x0A with unit := i, detail := i }) i) := by
  have hbusy : ¬ (!d.boot.partBusy) = true := by rw [h]; decide
  exact (if_neg hbusy).trans rfl

/-- A half or a die whose partial reset has ended goes back into service when it passed. -/
theorem partDone_half {d : Dev} (h : d.boot.partBusy = true) (hk : d.boot.partKind = 0 ∨ d.boot.partKind = 1) (ok : Bool) :
    partDone d ok = (let half := if d.boot.partKind = 0 then d.boot.partIndex else dieHalf d.boot.partIndex
      if (ok && fenced d half) = true then returnHalf (partEnded d 1) half else partEnded d (if ok = true then 1 else 2)) := by
  rw [partDone_runs h]
  rcases hk with hk | hk <;> rw [hk] <;> cases ok <;> rfl

theorem partDone_port {d : Dev} (h : d.boot.partBusy = true) (hk : d.boot.partKind = 2) (ok : Bool) : partDone d ok = partEnded d 1 := by
  rw [partDone_runs h, hk]
  cases ok <;> rfl

theorem partDone_module {d : Dev} (h : d.boot.partBusy = true) (hk : d.boot.partKind = 3) (ok : Bool) : partDone d ok =
    (let e := partEnded d (if ok = true then 1 else 2)
     if 100 ≤ d.boot.partIndex then e
     else if ok = true then { e with flt := { e.flt with closedModules := e.flt.closedModules.filter (· != d.boot.partIndex) } }
     else retireModule (record e { fspec 3 0x13 0x0A with unit := d.boot.partIndex, detail := d.boot.partIndex }) d.boot.partIndex) := by
  rw [partDone_runs h, hk]
  cases ok <;> rfl

end Sys2Proof.Machine

namespace Sys2Proof.Proofs

open Sys2Proof Sys2Proof.Machine Sys2Proof.Safety

theorem exec_partialResetDone (s : State) (ok : Bool) : exec (.partialResetDone ok) s = .next { s with dev := partDone s.dev ok } := rfl

/-- PERST of a link, with the pins as they are then. -/
def perstAsserted (d : Dev) (l : Nat) (p : Pins) : Dev :=
  if d.boot.perstMode = 1 ∧ p.perst0 = true ∧ p.perst1 = true then deviceReset { d with pins := p } 0x03
  else linkReset { d with pins := p } l

theorem exec_perstAssert (s : State) (l : Fin 2) : exec (.perstAssert l) s = .next { s with
    dev := perstAsserted s.dev l.val (if l.val = 0 then { s.dev.pins with perst0 := true } else { s.dev.pins with perst1 := true }) } := by
  dsimp only [exec, execPerstAssert]
  rw [lift_eq, perstAsserted]
  simp only [Bool.and_eq_true, decide_eq_true_eq, and_assoc]

/-- Settles O44: what a reset keeps field by field, partial resets by their target. -/
theorem resetsComplete : Obligations.ResetsComplete := by
  unfold Obligations.ResetsComplete
  refine ⟨fun s => ?_, fun s => ?_⟩
  · dsimp only
    refine ⟨fun d c => ⟨deviceReset_held, fun h => ?_⟩, ⟨fun hno => ?_, fun hheld => ?_⟩, ⟨fun hno => ?_, fun hheld hop => ?_, fun hheld hop => ?_, fun hheld hop => ?_⟩,
      rfl, fun hst => ?_, fun hst => ?_, fun hst => ?_, fun hst => ?_⟩
    · obtain ⟨hboot, hbk, hnvm, hclk, hpins, hports, hpwr⟩ := deviceReset_survives (c := c) h
      refine ⟨hboot, hbk, hnvm, hclk, hpins, ?_, ?_, ?_, ?_, ?_, ?_, ?_, ?_, ?_, ?_, ?_, ?_, ?_, ?_, ?_, hports, hpwr⟩
      all_goals (rw [deviceReset_fresh c h]; rfl)
    · dsimp only [exec, execPowerOnReset]
      rw [lift_eq, powerCut_eq, if_neg hno]
    · dsimp only [exec, execPowerOnReset]
      rw [lift_eq, powerCut_eq, if_pos hheld]
    · rw [updCut_eq]
      by_cases hrun : updRuns s.dev
      · rw [if_pos hrun]
        rcases hno with hno | hop | hop
        · exact absurd hrun hno
        · rw [hop]; rfl
        · rw [hop]; rfl
      · rw [if_neg hrun]
    · rw [updCut_eq, if_pos hheld, hop]; rfl
    · rw [updCut_eq, if_pos hheld, hop]; rfl
    · rw [updCut_eq, if_pos hheld, hop]; rfl
    · exact congrArg (fun e => Host.Outcome.next { s with dev := e }) (if_pos hst)
    · exact congrArg (fun e => Host.Outcome.next { s with dev := e }) (if_neg hst)
    · exact congrArg (fun e => Host.Outcome.next { s with dev := e }) (if_pos hst)
    · exact congrArg (fun e => Host.Outcome.next { s with dev := e }) (if_neg hst)
  · dsimp only
    refine ⟨fun src howner => ⟨fun key => ?_, fun k i => ⟨fun hno => ?_, fun hok => ?_⟩⟩,
      fun d i => ⟨rfl, fun hi => if_pos hi, fun hi => if_neg (Nat.not_lt.2 hi), fun hi => if_pos hi, fun hl hi => ?_, fun hi => ?_, fun hi => if_pos hi, fun hi => if_neg (Nat.not_lt.2 hi)⟩,
      fun ok hidle => ?_, fun ok hbusy => ⟨fun hk => ?_, fun hk => ⟨fun hok hf => ?_, fun hok hf => ?_, fun hok => ?_⟩, fun hk => ⟨fun hi => ?_, fun hi hok => ?_, fun hi hok => ?_⟩⟩,
      fun l => ⟨fun hboth => ?_, fun hno => ?_, rfl⟩, rfl, ?_⟩
    · dsimp only [exec, execRstDevice]
      rw [lift_eq, ownerOnly, if_pos howner, rstDevice]
      have hkey : key.toNat = 0xD5 ↔ key = 0xD5 := BitVec.toNat_inj (y := (0xD5 : Byte))
      rw [if_congr hkey rfl rfl]
    · dsimp only [exec, execRstPartial]
      rw [lift_eq, ownerOnly, if_pos howner, rstPartial_discarded hno]
    · dsimp only [exec, execRstPartial]
      rw [lift_eq, ownerOnly, if_pos howner, rstPartial_runs hok]
    · rw [partReset_port, if_neg (Nat.not_lt.2 hl), if_pos hi]
    · rw [partReset_port, if_neg (by omega), if_neg (Nat.not_lt.2 hi)]
    · have hcond : (!s.dev.boot.partBusy) = true := by rw [hidle]; rfl
      exact congrArg (fun e => Host.Outcome.next { s with dev := e }) (if_pos hcond)
    · rw [exec_partialResetDone, partDone_port hbusy hk]
      rfl
    · rw [exec_partialResetDone, partDone_half hbusy hk]
      dsimp only
      rw [hok, hf]
      rfl
    · rw [exec_partialResetDone, partDone_half hbusy hk]
      dsimp only
      rw [hok, hf]
      rfl
    · rw [exec_partialResetDone, partDone_half hbusy hk, hok]
      rfl
    · rw [exec_partialResetDone, partDone_module hbusy hk]
      exact congrArg (fun e => Host.Outcome.next { s with dev := e }) (if_pos hi)
    · rw [exec_partialResetDone, partDone_module hbusy hk, hok]
      exact congrArg (fun e => Host.Outcome.next { s with dev := e }) (if_neg (Nat.not_le.2 hi))
    · rw [exec_partialResetDone, partDone_module hbusy hk, hok]
      exact congrArg (fun e => Host.Outcome.next { s with dev := e }) (if_neg (Nat.not_le.2 hi))
    · rw [exec_perstAssert, perstAsserted, if_pos hboth]
    · rw [exec_perstAssert, perstAsserted, if_neg hno]
    · dsimp only [exec, execVbkupPowerOn]
      rw [lift_eq]
      split <;> rfl

end Sys2Proof.Proofs
end


section
/-! From RESET to SERVICE (R358, R363, R364, R368, R369, R372, R373). -/

namespace Sys2Proof.Machine

open Sys2Proof Sys2Proof.Safety

/-! ### Release (R358) -/

/-- Nothing holds the device in RESET. -/
abbrev resetFree (d : Dev) : Prop :=
  d.boot.st = .reset ∧ d.boot.testHeld = false ∧ 3 ∉ d.boot.sources ∧ 6 ∉ d.boot.sources

theorem resetRelease_eq (d : Dev) (test : Nat) : resetRelease d test = if resetFree d then
    (let e := setPins d { d.pins with rstLow := false }
     if test ≠ 0 then emit { e with boot := { e.boot with sources := [], testHeld := true } } (.consoleTest test)
     else loadStart (enterState { e with boot := { e.boot with sources := [], cause := e.bk.cause, torn := e.bk.torn } } .load)) else d := by
  have hheld : (d.boot.st != .reset || d.boot.testHeld || d.boot.sources.contains 3 || d.boot.sources.contains 6) = true ↔ ¬ resetFree d := by
    simp [resetFree]
    grind
  unfold resetRelease
  by_cases h : resetFree d
  · rw [if_pos h]
    refine (if_neg fun hc => hheld.1 hc h).trans ?_
    exact if_congr (by simp) rfl rfl
  · rw [if_neg h]
    exact if_pos (hheld.2 h)

/-! ### The options (R368) -/

/-- A load has begun. -/
def loadBegun (d : Dev) : Dev := if d.nvm.trimValid = true then setTorn d (d.bk.torn + 1) else setBkFlag (setTorn d (d.bk.torn + 1)) 29

theorem loadBegun_nvm (d : Dev) : (loadBegun d).nvm = d.nvm := by
  unfold loadBegun
  split <;> rfl

theorem loadStart_torn {d : Dev} (h : 3 ≤ d.bk.torn) : loadStart d = recover (setOptions (setBkFlag (setTorn d 0) 31) 3 0 0) 1 := if_pos h

theorem loadStart_eq {d : Dev} (h : d.bk.torn < 3) : loadStart d =
    (match optCopy d.nvm with
     | none => recover (setTorn (setOptions (loadBegun d) 3 0 0) 0) 4
     | some k =>
       let o := if k = 0 then d.nvm.opt0 else d.nvm.opt1
       setOptions (if (d.nvm.opt0.valid && d.nvm.opt1.valid) = true then loadBegun d else setBkFlag (loadBegun d) 26) o.powerClass o.perstMode k) := by
  have hbegun : loadStart d =
    (match optCopy (loadBegun d).nvm with
     | none => recover (setTorn (setOptions (loadBegun d) 3 0 0) 0) 4
     | some k =>
       let o := if k = 0 then (loadBegun d).nvm.opt0 else (loadBegun d).nvm.opt1
       setOptions (if ((loadBegun d).nvm.opt0.valid && (loadBegun d).nvm.opt1.valid) = true then loadBegun d else setBkFlag (loadBegun d) 26)
         o.powerClass o.perstMode k) := (if_neg (Nat.not_le.2 h)).trans rfl
  rw [hbegun, loadBegun_nvm]

/-! ### The PLL lock (R369) -/

/-- The clocks can lock. -/
abbrev lockReady (d : Dev) : Prop := d.clk.locked = false ∧ d.boot.shadowValid = true ∧ (d.boot.st = .load ∨ d.boot.st = .recovery)

/-- The clocks run and the modules that did not train are retired. -/
def modulesTrained (d : Dev) (bad : List (Fin 100)) : Dev :=
  bad.foldl (fun d m => moduleFails d m.val)
    { d with clk := { d.clk with locked := true, refclk := true }, bk := { d.bk with jptr := jAddr d.nvm } }

/-- The journal is replayed. -/
def journalReplayed (d : Dev) : Dev := (jNow d).retired.foldl restoreRetired { d with nvm := jSync d.nvm }

theorem pllLock_idle {d : Dev} (h : ¬ lockReady d) (bad : List Nat) : pllLock d bad = d := by
  have hcond : (d.clk.locked || !d.boot.shadowValid || (d.boot.st != .load && d.boot.st != .recovery)) = true := by
    cases hl : d.clk.locked <;> cases hs : d.boot.shadowValid <;> simp_all
  exact if_pos hcond

theorem pllLock_cond {d : Dev} (h : lockReady d) :
    ¬ (d.clk.locked || !d.boot.shadowValid || (d.boot.st != .load && d.boot.st != .recovery)) = true := by
  obtain ⟨hl, hs, hst⟩ := h
  rw [hl, hs]
  rcases hst with hst | hst <;> rw [hst] <;> decide

section
variable {d : Dev} {bad : List (Fin 100)} (h : lockReady d)
include h

theorem pllLock_recovery (hrec : (journalReplayed (modulesTrained d bad)).boot.st = .recovery) : pllLock d (bad.map (fun m => m.val)) =
    (List.range 12).foldl (fun d k => setStack d k { stack d k with present := true }) (journalReplayed (modulesTrained d bad)) := by
  unfold journalReplayed modulesTrained at *
  unfold pllLock
  rw [if_neg (pllLock_cond h)]
  dsimp only at *
  rw [List.foldl_map, if_pos hrec]

theorem pllLock_noSlot {f : Dev} (hload : (journalReplayed (modulesTrained d bad)).boot.st ≠ .recovery)
    (hslot : chooseSlot (journalReplayed (modulesTrained d bad)) = (none, f)) :
    pllLock d (bad.map (fun m => m.val)) = recover (setTorn f 0) 2 := by
  unfold journalReplayed modulesTrained at hload hslot
  unfold pllLock
  rw [if_neg (pllLock_cond h)]
  dsimp only at *
  rw [List.foldl_map, if_neg hload]
  simp only [hslot]

theorem pllLock_slot {k : Nat} {f : Dev} (hload : (journalReplayed (modulesTrained d bad)).boot.st ≠ .recovery)
    (hslot : chooseSlot (journalReplayed (modulesTrained d bad)) = (some k, f)) :
    pllLock d (bad.map (fun m => m.val)) = noteSlot { f with boot := { f.boot with slot := k, chosen := true } } k true := by
  unfold journalReplayed modulesTrained at hload hslot
  unfold pllLock
  rw [if_neg (pllLock_cond h)]
  dsimp only at *
  rw [List.foldl_map, if_neg hload]
  simp only [hslot]

end

/-! ### The slot to boot (R369) -/

/-- The slot where no pending one is booted. -/
def slotFallback (d : Dev) : Option Nat × Dev :=
  let a := (jNow d).active
  if verifySlot d a = true then (some a, d)
  else if verifySlot d (1 - a) = true ∧ eraseMark d (1 - a) = false then (some (1 - a), setBkFlag d 28) else (none, d)

theorem chooseSlot_eq (d : Dev) : chooseSlot d =
    (match (jNow d).pending with
     | some p =>
       if 3 ≤ (jNow d).tries ∨ verifySlot d p = false then slotFallback (setBkFlag (jWrite d (.rollback p)) 30)
       else (some p, jWrite d (.bootTry p))
     | none => slotFallback d) := by
  unfold chooseSlot slotFallback
  cases (jNow d).pending with
  | none => simp
  | some p => simp

/-! ### Kindling and the self-test (R372, R373) -/

theorem kindlingApply_idle {d : Dev} (h : ¬ (d.boot.st = .load ∧ d.boot.chosen = true)) : kindlingApply d = d := by
  have hcond : (d.boot.st != .load || !d.boot.chosen) = true := by
    rw [Bool.or_eq_true, bne_iff_ne, Bool.not_eq_true', ← Bool.not_eq_true]
    exact not_and_or.1 h
  exact if_pos hcond

theorem kindlingApply_ready {d : Dev} (h : d.boot.st = .load ∧ d.boot.chosen = true) : kindlingApply d =
    (match applyKindling d (slotBytes d d.boot.slot) with
     | some e => announceReady (enterState (setTorn e 0) .selftest)
     | none => recover (setTorn ((List.range 12).foldl (fun d k => setStack d k { stack d k with present := true }) d) 0) 3) := by
  have hcond : ¬ (d.boot.st != .load || !d.boot.chosen) = true := by
    obtain ⟨hst, hch⟩ := h
    rw [hst, hch]
    decide
  exact (if_neg hcond).trans rfl

theorem enterState_st (d : Dev) (st : DevState) : (enterState d st).boot.st = st := congrArg Boot.st (enterState_frame d st).1

end Sys2Proof.Machine

namespace Sys2Proof.Proofs

open Sys2Proof Sys2Proof.Machine Sys2Proof.Safety

theorem exec_selftestDone_ready {s : State} (hst : s.dev.boot.st = .selftest) (ok : Bool) (dies : List (Fin 36)) (un : BitVec 12)
    (chans : List (Fin 192)) : exec (.selftestDone ok dies un chans) s = .next { s with
      dev := if (!ok) = true then halting s.dev (fspec 5 0x05 0x10) else
        (let b := slotBytes s.dev s.dev.boot.slot
         let d := (List.range 12).foldl (fun d k => if bit un.toNat k = true then loseStack d k else setStack d k { stack d k with present := true }) s.dev
         let d := ((d.flt.retiredDies.filter (fun i => 32 ≤ i)).map (fun i => i - 32)).foldl (fun d n => iodGone d n 0 0) d
         let d := ((dies.map (fun i => i.val)).filter dieValid).foldl dieFails d
         let d := (chans.map (fun c => c.val)).foldl wantRetire d
         let d := (List.range d.hbm.retireQ.length).foldl (fun d _ => channelRetire (retireStep d []) []) d
         let d := verifyOther { d with nvm := { d.nvm with trimValid := true } }
         let d := enterState (bootOwner d b) .service
         (kindSubmits b).foldl submitOne d) } := by
  have hcond : ¬ (s.dev.boot.st != .selftest) = true := by rw [hst]; decide
  dsimp only [exec, execSelftestDone]
  rw [lift_eq]
  exact congrArg (fun e => Host.Outcome.next { s with dev := e }) ((if_neg hcond).trans rfl)

/-- Settles O45: each step of the boot by the condition on which it branches. -/
theorem bootComplete : Obligations.BootComplete := by
  unfold Obligations.BootComplete
  intro s
  dsimp only
  refine ⟨fun test => ⟨fun hno => ?_, fun hfree ht => ?_, fun hfree ht => ?_⟩,
    fun d => ⟨loadStart_torn, fun ht => ⟨fun ha hb hg => ?_, fun ha hb hg => ?_, fun ha hb => ?_, fun ha hb => ?_, fun ha hb => ?_⟩⟩,
    fun bad => ⟨fun hno => ?_, fun hready hrec => ?_, fun k f hready hload hslot => ?_, fun f hready hload hslot => ?_⟩,
    fun d => ⟨fun hp => ?_, fun p hp ht hv => ?_, fun p hp hbad => ?_⟩, ⟨fun hno => ?_, fun d hready hk => ?_, fun hready hk => ?_⟩,
    fun dies un chans => ⟨fun hst ok => ?_, fun hst => ⟨?_, ?_, enterState_st ..⟩⟩⟩
  · dsimp only [exec, execResetRelease]
    rw [lift_eq, resetRelease_eq, if_neg hno]
  · dsimp only [exec, execResetRelease]
    rw [lift_eq, resetRelease_eq, if_pos hfree]
    exact congrArg (fun e => Host.Outcome.next { s with dev := e }) (if_pos fun h => ht (Fin.ext h))
  · dsimp only [exec, execResetRelease]
    rw [lift_eq, resetRelease_eq, if_pos hfree, ht]
    rfl
  · rw [loadStart_eq ht, optCopy, ha, hb, decide_eq_true hg]
    rfl
  · rw [loadStart_eq ht, optCopy, ha, hb, decide_eq_false (Nat.not_lt.2 hg)]
    rfl
  · rw [loadStart_eq ht, optCopy, ha, hb]
    rfl
  · rw [loadStart_eq ht, optCopy, ha, hb]
    rfl
  · rw [loadStart_eq ht, optCopy, ha, hb]
    rfl
  · dsimp only [exec, execPllLock]
    rw [lift_eq, pllLock_idle hno]
  · dsimp only [exec, execPllLock]
    rw [lift_eq, pllLock_recovery hready hrec]
    rfl
  · dsimp only [exec, execPllLock]
    rw [lift_eq, pllLock_slot hready hload hslot]
  · dsimp only [exec, execPllLock]
    rw [lift_eq, pllLock_noSlot hready hload hslot]
  · rw [chooseSlot_eq, hp]
    rfl
  · rw [chooseSlot_eq, hp]
    refine if_neg ?_
    rw [hv, not_or]
    exact ⟨Nat.not_le.2 ht, nofun⟩
  · rw [chooseSlot_eq, hp]
    exact if_pos hbad
  · dsimp only [exec, execKindlingApply]
    rw [lift_eq, kindlingApply_idle hno]
  · dsimp only [exec, execKindlingApply]
    rw [lift_eq, kindlingApply_ready hready, hk]
  · dsimp only [exec, execKindlingApply]
    rw [lift_eq, kindlingApply_ready hready, hk]
  · have hcond : (s.dev.boot.st != .selftest) = true := bne_iff_ne.2 hst
    dsimp only [exec, execSelftestDone]
    rw [lift_eq]
    exact congrArg (fun e => Host.Outcome.next { s with dev := e }) (if_pos hcond)
  · exact (exec_selftestDone_ready hst ..).trans rfl
  · exact (exec_selftestDone_ready hst ..).trans rfl

end Sys2Proof.Proofs
end


section
/-! Update commands and their ends (R365, R381 to R384). -/

namespace Sys2Proof.Machine

open Sys2Proof Sys2Proof.Safety

/-! ### Commands (R381) -/

/-- The command that is busy, with the result known at once. -/
def updStarted (d : Dev) (op handle r : Nat) : Dev :=
  { regPut d 0x5004 (put op 29 3 + put handle 0 16) with
    boot := { d.boot with updBusy := true, updOp := op, updHandle := handle, updResult := r, updProgress := 0 } }

theorem updCommand_busy {d : Dev} (h : d.boot.updBusy = true) (op handle : Nat) :
    updCommand d op handle = { d with boot := { d.boot with updDropped := true } } := if_pos h

theorem updCommand_starts {d : Dev} {op : Nat} (h : d.boot.updBusy = false) (hop : op ≠ 0) (hlt : op < 6) (handle : Nat) :
    updCommand d op handle = updStart (updStarted d op handle 0) op handle :=
  (if_neg (Bool.eq_false_iff.1 h)).trans ((if_neg hop).trans ((if_neg (Nat.not_le.2 hlt)).trans rfl))

/-- DOWNLOAD is accepted. -/
def downloadCommand (d : Dev) (handle : Nat) : Dev :=
  match downloadBlocked d handle with
  | 0 =>
    match objHere d handle 64 with
    | some (_, []) => downloadStart d
    | some (_, ms) => requestPages d ms
    | none => updResult d 2
  | r => updResult d r

theorem updStart_download (d : Dev) (handle : Nat) : updStart d 1 handle = downloadCommand d handle := rfl

theorem downloadCommand_blocked {d : Dev} {handle : Nat} (h : downloadBlocked d handle ≠ 0) :
    downloadCommand d handle = updResult d (downloadBlocked d handle) := by
  unfold downloadCommand
  split
  next hz => exact absurd hz h
  next => rfl

theorem downloadCommand_here {d : Dev} {handle x : Nat} (h : downloadBlocked d handle = 0) (hobj : objHere d handle 64 = some (x, [])) :
    downloadCommand d handle = downloadStart d := by
  simp only [downloadCommand, h, hobj]

theorem downloadCommand_waits {d : Dev} {handle x : Nat} {ms : List Nat} (h : downloadBlocked d handle = 0)
    (hobj : objHere d handle 64 = some (x, ms)) (hms : ms ≠ []) : downloadCommand d handle = requestPages d ms := by
  cases ms with
  | nil => exact absurd rfl hms
  | cons m ms => simp only [downloadCommand, h, hobj]

/-- OPT_WRITE is accepted. -/
def optionsCommand (d : Dev) (handle : Nat) : Dev :=
  match objHere d handle 64 with
  | some (_, ms) => requestPages (optErase d) ms
  | none => updResult d 6

theorem updStart_options (d : Dev) (handle : Nat) : updStart d 5 handle = optionsCommand d handle := rfl

theorem optionsCommand_some {d : Dev} {handle x : Nat} {ms : List Nat} (h : objHere d handle 64 = some (x, ms)) :
    optionsCommand d handle = requestPages (optErase d) ms := by
  simp only [optionsCommand, h]

theorem optionsCommand_none {d : Dev} {handle : Nat} (h : objHere d handle 64 = none) : optionsCommand d handle = updResult d 6 := by
  simp only [optionsCommand, h]

theorem updStart_activate (d : Dev) (handle : Nat) :
    updStart (updStarted d 3 handle 0) 3 handle = updStarted d 3 handle (if slotVerified d (inactiveSlot d) = true then 0 else 1) := by
  have hrun : updStart (updStarted d 3 handle 0) 3 handle =
      if slotVerified d (inactiveSlot d) = true then updStarted d 3 handle 0 else updResult (updStarted d 3 handle 0) 1 := rfl
  rw [hrun]
  split <;> rfl

theorem updStart_confirm (d : Dev) (handle : Nat) : updStart (updStarted d 4 handle 0) 4 handle =
    updStarted d 4 handle (if d.boot.st = .service ∧ (jNow d).pending = some d.boot.slot then 0 else 1) := by
  have hrun : updStart (updStarted d 4 handle 0) 4 handle =
      if (decide (d.boot.st = .service) && (jNow d).pending == some d.boot.slot) = true then updStarted d 4 handle 0
      else updResult (updStarted d 4 handle 0) 1 := rfl
  simp only [Bool.and_eq_true, decide_eq_true_eq, beq_iff_eq] at hrun
  rw [hrun]
  split <;> rfl

/-! ### Ends (R382) -/

/-- VERIFY ends. -/
def verifyEnd (d : Dev) (fail : Bool) : Dev :=
  let s := inactiveSlot d
  let c := kindCode (slotBytes d s) d.boot.powerClassOpt
  let d := { d with boot := { d.boot with updProgress := sat 16 (ceilDiv (slotLength (slotBytes d s)) 65536) } }
  if fail = true then updEnd d 5
  else if c = 0 then updEnd (noteSlot (jWrite d (.verified s)) s true) 0
  else updEnd (noteSlot d s false) c

/-- OPT_WRITE ends. -/
def optionsEnd (d : Dev) (fail : Bool) : Dev :=
  match objHere d d.boot.updHandle 64 with
  | none => updEnd d 6
  | some (h, ms) =>
    if (!ms.isEmpty) = true then requestPages d ms
    else if fail = true then updEnd d 5
    else
      let o := optOf (t1Read d h 0 64) (Nat.max (if d.nvm.opt0.valid = true then d.nvm.opt0.gen else 0)
        (if d.nvm.opt1.valid = true then d.nvm.opt1.gen else 0) + 1)
      updEnd { d with nvm := if d.boot.optSel = 0 then { d.nvm with opt1 := o } else { d.nvm with opt0 := o } } 0

/-- What the end of a command does that still runs. -/
def updFinish (d : Dev) (fail : Bool) : Dev :=
  match d.boot.updOp with
  | 1 => downloadEnd d fail
  | 2 => verifyEnd d fail
  | 3 => if fail = true then updEnd d 5 else updEnd (jWrite d (.activate (inactiveSlot d))) 0
  | 4 => if fail = true then updEnd d 5 else updEnd (jWrite d (.confirm d.boot.slot)) 0
  | _ => optionsEnd d fail

theorem updDone_result {d : Dev} (hb : d.boot.updBusy = true) (hr : d.boot.updResult ≠ 0) (fail : Bool) :
    updDone d fail = updEnd d d.boot.updResult := by
  have hbusy : ¬ (!d.boot.updBusy) = true := by rw [hb]; decide
  exact (if_neg hbusy).trans (if_pos (bne_iff_ne.2 hr))

theorem updDone_runs {d : Dev} (hb : d.boot.updBusy = true) (hr : d.boot.updResult = 0) (fail : Bool) :
    updDone d fail = updFinish d fail := by
  have hbusy : ¬ (!d.boot.updBusy) = true := by rw [hb]; decide
  have hres : ¬ (d.boot.updResult != 0) = true := by rw [hr]; decide
  exact (if_neg hbusy).trans ((if_neg hres).trans rfl)

theorem updDone_download {d : Dev} (hb : d.boot.updBusy = true) (hr : d.boot.updResult = 0) (hop : d.boot.updOp = 1) (fail : Bool) :
    updDone d fail = downloadEnd d fail := by
  rw [updDone_runs hb hr, updFinish, hop]
  rfl

theorem updDone_verify {d : Dev} (hb : d.boot.updBusy = true) (hr : d.boot.updResult = 0) (hop : d.boot.updOp = 2) (fail : Bool) :
    updDone d fail = verifyEnd d fail := by
  rw [updDone_runs hb hr, updFinish, hop]
  rfl

theorem updDone_activate {d : Dev} (hb : d.boot.updBusy = true) (hr : d.boot.updResult = 0) (hop : d.boot.updOp = 3) (fail : Bool) :
    updDone d fail = if fail = true then updEnd d 5 else updEnd (jWrite d (.activate (inactiveSlot d))) 0 := by
  rw [updDone_runs hb hr, updFinish, hop]
  rfl

theorem updDone_confirm {d : Dev} (hb : d.boot.updBusy = true) (hr : d.boot.updResult = 0) (hop : d.boot.updOp = 4) (fail : Bool) :
    updDone d fail = if fail = true then updEnd d 5 else updEnd (jWrite d (.confirm d.boot.slot)) 0 := by
  rw [updDone_runs hb hr, updFinish, hop]
  rfl

theorem updDone_options {d : Dev} (hb : d.boot.updBusy = true) (hr : d.boot.updResult = 0) (hop : d.boot.updOp = 5) (fail : Bool) :
    updDone d fail = optionsEnd d fail := by
  rw [updDone_runs hb hr, updFinish, hop]
  rfl

theorem optionsEnd_none {d : Dev} (h : objHere d d.boot.updHandle 64 = none) (fail : Bool) : optionsEnd d fail = updEnd d 6 := by
  unfold optionsEnd
  rw [h]

/-- The GEN of an option copy, 0 where it is not valid. -/
abbrev optGen (b : OptBlock) : Nat := if b.valid = true then b.gen else 0

theorem optionsEnd_some {d : Dev} {h : Nat} {ms : List Nat} (hobj : objHere d d.boot.updHandle 64 = some (h, ms)) (fail : Bool) :
    optionsEnd d fail = if ms ≠ [] then requestPages d ms
      else if fail = true then updEnd d 5
      else
        let o := optOf (t1Read d h 0 64) (max (optGen d.nvm.opt0) (optGen d.nvm.opt1) + 1)
        updEnd { d with nvm := if d.boot.optSel = 0 then { d.nvm with opt1 := o } else { d.nvm with opt0 := o } } 0 := by
  unfold optionsEnd
  rw [hobj]
  exact if_congr (by simp) rfl rfl

/-- The slot that DOWNLOAD is to program, erased if it is not. -/
def slotErased (d : Dev) : Dev := if slotBytes d (inactiveSlot d) = [] ∧ eraseMark d (inactiveSlot d) = true then d else downloadStart d

/-- The object's image holds a header and fits the object. -/
abbrev imageFits (d : Dev) (h : Nat) (o : Obj) : Prop :=
  kindHeader (t1Read d h 0 64) = true ∧ kindLen (t1Read d h 0 64) ≤ o.npages * pageSize

theorem downloadEnd_none {d : Dev} (h : objOf d d.boot.updHandle = none) (fail : Bool) : downloadEnd d fail = updEnd d 6 := by
  unfold downloadEnd
  rw [h]

theorem downloadEnd_some {d : Dev} {h : Nat} {o : Obj} (hobj : objOf d d.boot.updHandle = some (h, o)) (fail : Bool) :
    downloadEnd d fail =
      if missing h o 0 (max (kindLen (t1Read d h 0 64)) 64) ≠ [] then requestPages d (missing h o 0 (max (kindLen (t1Read d h 0 64)) 64))
      else if ¬ imageFits d h o then updEnd d 2
      else
        let n := kindLen (t1Read d h 0 64)
        let e := { slotErased d with boot := { (slotErased d).boot with updProgress := sat 16 (ceilDiv n 65536) } }
        if fail = true ∨ spanBad o 0 n = true then updEnd e 5
        else updEnd (noteSlot (setSlotBytes e (inactiveSlot d) (t1Read e h 0 n)) (inactiveSlot d) false) 0 := by
  unfold downloadEnd
  rw [hobj]
  refine if_congr (by simp [max_def]) rfl (if_congr ?_ rfl ?_)
  · rw [Bool.or_eq_true, Bool.not_eq_true', decide_eq_true_eq, not_and_or, Bool.not_eq_true, Nat.not_le]
  · have herased : (if ((slotBytes d (inactiveSlot d)).isEmpty && eraseMark d (inactiveSlot d)) = true then d else downloadStart d) = slotErased d :=
      if_congr (by rw [Bool.and_eq_true, List.isEmpty_iff]) rfl rfl
    dsimp only
    rw [herased]
    exact if_congr (by rw [Bool.or_eq_true]) rfl rfl

end Sys2Proof.Machine

namespace Sys2Proof.Proofs

open Sys2Proof Sys2Proof.Machine Sys2Proof.Safety

section
variable {s : State} {src : Iface} (howner : isOwner s.dev src = true)
include howner

theorem exec_download (h : BitVec 16) : exec (.download src h) s = .next { s with dev := updCommand s.dev 1 h.toNat } := by
  dsimp only [exec, execDownload]
  rw [lift_eq, ownerOnly, if_pos howner]

theorem exec_updateVerify : exec (.updateVerify src) s = .next { s with dev := updCommand s.dev 2 0 } := by
  dsimp only [exec, execUpdateVerify]
  rw [lift_eq, ownerOnly, if_pos howner]

theorem exec_activate : exec (.activate src) s = .next { s with dev := updCommand s.dev 3 0 } := by
  dsimp only [exec, execActivate]
  rw [lift_eq, ownerOnly, if_pos howner]

theorem exec_confirm : exec (.confirm src) s = .next { s with dev := updCommand s.dev 4 0 } := by
  dsimp only [exec, execConfirm]
  rw [lift_eq, ownerOnly, if_pos howner]

theorem exec_optWrite (h : BitVec 16) : exec (.optWrite src h) s = .next { s with dev := updCommand s.dev 5 h.toNat } := by
  dsimp only [exec, execOptWrite]
  rw [lift_eq, ownerOnly, if_pos howner]

/-- Every update command is dropped while another is busy. -/
theorem exec_update_busy (hb : s.dev.boot.updBusy = true) {i : Instr} (hi : i ∈ [Instr.updateVerify src, .activate src, .confirm src])
    (h : BitVec 16) {j : Instr} (hj : j ∈ [i, .download src h, .optWrite src h]) :
    exec j s = .next { s with dev := { s.dev with boot := { s.dev.boot with updDropped := true } } } := by
  simp only [List.mem_cons, List.not_mem_nil, or_false] at hi hj
  rcases hj with rfl | rfl | rfl
  · rcases hi with rfl | rfl | rfl
    · rw [exec_updateVerify howner, updCommand_busy hb]
    · rw [exec_activate howner, updCommand_busy hb]
    · rw [exec_confirm howner, updCommand_busy hb]
  · rw [exec_download howner, updCommand_busy hb]
  · rw [exec_optWrite howner, updCommand_busy hb]

end

theorem exec_updateDone (s : State) (fail : Bool) : exec (.updateDone fail) s = .next { s with dev := updDone s.dev fail } := rfl

/-- Settles O47: commands by their operation, and their ends by the result that stands and what the NVM gives. -/
theorem updateComplete : Obligations.UpdateComplete := by
  unfold Obligations.UpdateComplete
  intro s src howner
  dsimp only
  refine ⟨fun hb i hi h j hj => exec_update_busy howner hb hi h hj, fun hb => ⟨fun h => ⟨fun hne => ?_, fun hz x hobj => ?_, fun hz x ms hobj hms => ?_⟩, ?_, ?_, ?_,
      fun h x ms hobj => ?_, fun h hobj => ?_⟩, fun fail hb => ?_, fun fail hb hr => ?_,
    fun hb hr => ⟨fun hop => ⟨?_, fun hc => ?_, fun hc => ?_⟩, fun hop => ⟨?_, ?_⟩, fun hop => ⟨?_, ?_⟩,
      fun hop => ⟨fun hobj fail => ?_, fun h o hobj => ⟨fun hms fail => ?_, fun hms hfits fail => ?_, fun hms hfits fail hbad => ?_, fun hms hfits hgood => ?_⟩⟩,
      fun hop => ⟨fun hobj fail => ?_, fun h ms hobj => ⟨fun hms fail => ?_, fun hms => ?_, fun hms => ?_⟩⟩⟩⟩
  · rw [exec_download howner, updCommand_starts hb (by decide) (by decide), updStart_download]
    exact congrArg (fun e => Host.Outcome.next { s with dev := e }) (downloadCommand_blocked (d := updStarted s.dev 1 h.toNat 0) hne)
  · rw [exec_download howner, updCommand_starts hb (by decide) (by decide), updStart_download]
    exact congrArg (fun e => Host.Outcome.next { s with dev := e }) (downloadCommand_here (d := updStarted s.dev 1 h.toNat 0) hz hobj)
  · rw [exec_download howner, updCommand_starts hb (by decide) (by decide), updStart_download]
    exact congrArg (fun e => Host.Outcome.next { s with dev := e }) (downloadCommand_waits (d := updStarted s.dev 1 h.toNat 0) hz hobj hms)
  · rw [exec_updateVerify howner, updCommand_starts hb (by decide) (by decide)]
    rfl
  · rw [exec_activate howner, updCommand_starts hb (by decide) (by decide), updStart_activate]
    rfl
  · rw [exec_confirm howner, updCommand_starts hb (by decide) (by decide), updStart_confirm]
    rfl
  · rw [exec_optWrite howner, updCommand_starts hb (by decide) (by decide), updStart_options]
    exact congrArg (fun e => Host.Outcome.next { s with dev := e }) (optionsCommand_some (d := updStarted s.dev 5 h.toNat 0) hobj)
  · rw [exec_optWrite howner, updCommand_starts hb (by decide) (by decide), updStart_options]
    exact congrArg (fun e => Host.Outcome.next { s with dev := e }) (optionsCommand_none (d := updStarted s.dev 5 h.toNat 0) hobj)
  · have hidle : (!s.dev.boot.updBusy) = true := by rw [hb]; rfl
    exact congrArg (fun e => Host.Outcome.next { s with dev := e }) (if_pos hidle)
  · rw [exec_updateDone, updDone_result hb hr]
  · rw [exec_updateDone, updDone_verify hb hr hop]
    rfl
  · rw [exec_updateDone, updDone_verify hb hr hop]
    exact congrArg (fun e => Host.Outcome.next { s with dev := e }) (if_pos hc)
  · rw [exec_updateDone, updDone_verify hb hr hop]
    exact congrArg (fun e => Host.Outcome.next { s with dev := e }) (if_neg hc)
  · rw [exec_updateDone, updDone_activate hb hr hop, if_pos rfl]
  · rw [exec_updateDone, updDone_activate hb hr hop, if_neg nofun]
  · rw [exec_updateDone, updDone_confirm hb hr hop, if_pos rfl]
  · rw [exec_updateDone, updDone_confirm hb hr hop, if_neg nofun]
  · rw [exec_updateDone, updDone_download hb hr hop, downloadEnd_none hobj]
  · rw [exec_updateDone, updDone_download hb hr hop, downloadEnd_some hobj, if_pos hms]
  · rw [exec_updateDone, updDone_download hb hr hop, downloadEnd_some hobj, if_neg (not_not_intro hms), if_pos hfits]
  · rw [exec_updateDone, updDone_download hb hr hop, downloadEnd_some hobj, if_neg (not_not_intro hms), if_neg (not_not_intro hfits)]
    exact congrArg (fun e => Host.Outcome.next { s with dev := e }) (if_pos hbad)
  · have hok : ¬ (false = true ∨ spanBad o 0 (kindLen (t1Read s.dev h 0 64)) = true) := by rw [hgood]; simp
    rw [exec_updateDone, updDone_download hb hr hop, downloadEnd_some hobj, if_neg (not_not_intro hms), if_neg (not_not_intro hfits)]
    exact congrArg (fun e => Host.Outcome.next { s with dev := e }) (if_neg hok)
  · rw [exec_updateDone, updDone_options hb hr hop, optionsEnd_none hobj]
  · rw [exec_updateDone, updDone_options hb hr hop, optionsEnd_some hobj, if_pos hms]
  · rw [exec_updateDone, updDone_options hb hr hop, optionsEnd_some hobj, if_neg (not_not_intro hms), if_pos rfl]
  · rw [exec_updateDone, updDone_options hb hr hop, optionsEnd_some hobj, if_neg (not_not_intro hms), if_neg nofun]

end Sys2Proof.Proofs
end


section
/-! The governor, its sensors and rails, the reference clock and sleep (R390 to R401). -/

namespace Sys2Proof.Machine

open Sys2Proof Sys2Proof.Safety

/-! ### The governor (R391 to R395) -/

/-- A sample of power noted. -/
def powerNoted (d : Dev) (est : List Nat) : Dev :=
  { d with pwr := { d.pwr with
      samples := (devicePower d est :: d.pwr.samples).take 10, peak := max d.pwr.peak (devicePower d est), brakeHold := d.pwr.brakeHold - 100
      estimate := (List.range 26).map (fun k => (k, est.getD k 0)) } }

theorem forced6_iff (d : Dev) : forced6 d = true ↔
    110 ≤ tjNow d ∨ 105 < hbmMax d ∨ d.pwr.brake = true ∨ d.pwr.brakeHold ≠ 0 ∨ railMissing d = true := by
  simp only [forced6, Bool.or_eq_true, decide_eq_true_eq, bne_iff_ne, or_assoc]

/-- Something asks for a slower step; `excess` when the power is over its limit. -/
abbrev asksSlower (e : Dev) (excess : Bool) : Prop := forced6 e = true ∨ excess = true ∨ tjHigh e ≤ tjNow e

/-- Time for which the conditions to go faster have held. -/
def dwelt (d : Dev) : Nat :=
  match d.pwr.dwell with
  | some t => t + 100
  | none => 0

/-- What the governor decides on a sample; `excess` when the power is over its limit. -/
def governed (e : Dev) (p : Nat) (excess : Bool) : Dev :=
  if stepNow e < 2 ∧ (asksSlower e excess ∨ stepNow e < fastestStep e) then
    decideStep { e with pwr := { e.pwr with tjLim := decide (tjHigh e ≤ tjNow e), powerLim := excess } } (if forced6 e = true then 2 else stepNow e + 1)
  else if upOk e p = true then
    (if upDwell e ≤ dwelt e ∧ ¬ asksSlower e excess then decideStep e (stepNow e - 1) else { e with pwr := { e.pwr with dwell := some (dwelt e) } })
  else { e with pwr := { e.pwr with dwell := none } }

/-- The power is over the limit of the class in force. -/
def powerOver (d : Dev) (est : List Nat) : Bool :=
  decide (110 * classLimit (classNow d) < 100 * devicePower d est)
    || decide (classLimit (classNow d) < meanPower ((devicePower d est :: d.pwr.samples).take 10))

theorem governorTick_eq (d : Dev) (est : List Nat) :
    governorTick d est = governed (powerNoted d est) (devicePower d est) (powerOver d est) := by
  have hslower : ∀ (e : Dev) (excess : Bool), (forced6 e || excess || decide (tjHigh e ≤ tjNow e)) = true ↔ asksSlower e excess := fun e excess => by
    simp only [Bool.or_eq_true, decide_eq_true_eq, or_assoc]
  unfold governorTick governed
  refine if_congr ?_ rfl (if_congr Iff.rfl (if_congr ?_ rfl rfl) rfl)
  · rw [Bool.and_eq_true, Bool.or_eq_true, decide_eq_true_eq, decide_eq_true_eq]
    exact and_congr Iff.rfl (or_congr (hslower _ _) Iff.rfl)
  · rw [Bool.and_eq_true, decide_eq_true_eq, Bool.not_eq_true', ← Bool.not_eq_true]
    exact and_congr Iff.rfl (not_congr (hslower _ _))

theorem powerOver_iff (d : Dev) (est : List Nat) : powerOver d est = true ↔
    110 * classLimit (classNow d) < 100 * devicePower d est ∨ classLimit (classNow d) < meanPower ((devicePower d est :: d.pwr.samples).take 10) := by
  simp only [powerOver, Bool.or_eq_true, decide_eq_true_eq]

theorem powerOver_eq (d : Dev) (est : List Nat) : powerOver d est = decide (110 * classLimit (classNow d) < 100 * devicePower d est
    ∨ classLimit (classNow d) < meanPower ((devicePower d est :: d.pwr.samples).take 10)) := (Bool.decide_or ..).symm

/-- What asks for a slower step on a sample. -/
theorem asksSlower_noted (d : Dev) (est : List Nat) : asksSlower (powerNoted d est) (powerOver d est) ↔
    ((110 ≤ tjNow (powerNoted d est) ∨ 105 < hbmMax (powerNoted d est) ∨ (powerNoted d est).pwr.brake = true
        ∨ (powerNoted d est).pwr.brakeHold ≠ 0 ∨ railMissing (powerNoted d est) = true)
      ∨ (110 * classLimit (classNow d) < 100 * devicePower d est
        ∨ classLimit (classNow d) < meanPower ((devicePower d est :: d.pwr.samples).take 10))
      ∨ tjHigh (powerNoted d est) ≤ tjNow (powerNoted d est)) :=
  or_congr (forced6_iff _) (or_congr (powerOver_iff d est) Iff.rfl)

section
variable {e : Dev} {p : Nat} {excess : Bool}

theorem governed_forced (hf : forced6 e = true) (hk : stepNow e < 2) : governed e p excess =
    decideStep { e with pwr := { e.pwr with tjLim := decide (tjHigh e ≤ tjNow e), powerLim := excess } } 2 := by
  rw [governed, if_pos ⟨hk, .inl (.inl hf)⟩, if_pos hf]

theorem governed_slower (hf : ¬ forced6 e = true) (hs : excess = true ∨ tjHigh e ≤ tjNow e ∨ stepNow e < fastestStep e) (hk : stepNow e < 2) :
    governed e p excess = decideStep { e with pwr := { e.pwr with tjLim := decide (tjHigh e ≤ tjNow e), powerLim := excess } } (stepNow e + 1) := by
  have hdown : asksSlower e excess ∨ stepNow e < fastestStep e := by
    rcases hs with hs | hs | hs
    · exact .inl (.inr (.inl hs))
    · exact .inl (.inr (.inr hs))
    · exact .inr hs
  rw [governed, if_pos ⟨hk, hdown⟩, if_neg hf]

/-- The step is not made slower. -/
theorem governed_keeps (hk : 2 ≤ stepNow e ∨ (¬ asksSlower e excess ∧ fastestStep e ≤ stepNow e)) : governed e p excess =
    if upOk e p = true then
      (if upDwell e ≤ dwelt e ∧ ¬ asksSlower e excess then decideStep e (stepNow e - 1) else { e with pwr := { e.pwr with dwell := some (dwelt e) } })
    else { e with pwr := { e.pwr with dwell := none } } := by
  refine if_neg ?_
  rintro ⟨hlt, hdown⟩
  rcases hk with hk | ⟨hno, hk⟩
  · omega
  · rcases hdown with hdown | hdown
    · exact hno hdown
    · omega

end

/-! ### Sensors (R390, R396) -/

/-- The readings of a scan. -/
def scanned (temps : List (Option Byte)) : FMap Nat :=
  (List.range 64).filterMap (fun k => (temps.getD k none).map (fun b => (k, b.toNat)))

/-- The first trip sensor that is too hot. -/
def tripping (m : FMap Nat) : Option (Nat × Nat) := m.find? (fun p => isTrip p.1 && decide (115 ≤ p.2))

/-- The readings are noted, and each die whose pair has come to differ recorded. -/
def scanNoted (d : Dev) (m : FMap Nat) : Dev :=
  ((differing m).filter (fun i => !d.pwr.differ.contains i)).foldl (fun d i => record d { fspec 3 0x04 0x0D with
    unit := i, detail := (tripPair i).1 + mget m (tripPair i).1 0 * 2 ^ 16 }) { d with pwr := { d.pwr with temps := m, differ := differing m } }

theorem sensorScan_eq (d : Dev) (temps : List (Option Byte)) : sensorScan d temps =
    if d.boot.st = .reset then (if (tripping (scanned temps)).isSome = true then deviceReset d 0x06 else d)
    else
      match tripping (scanned temps) with
      | some p => faultReset (scanNoted d (scanned temps)) { fspec 5 0x04 0x0D with unit := p.1, detail := p.1 + p.2 * 2 ^ 16 } 0x06
      | none => scanNoted d (scanned temps) := rfl

/-! ### Rails (R398) -/

theorem railFault_idle {d : Dev} {rail mv : Nat} (h : d.boot.st = .reset ∨ railTrips rail mv = false) : railFault d rail mv = d := by
  have hcond : (decide (d.boot.st = .reset) || !railTrips rail mv) = true := by
    rcases h with h | h <;> simp [h]
  exact if_pos hcond

theorem railFault_trips {d : Dev} {rail mv : Nat} (hst : d.boot.st ≠ .reset) (ht : railTrips rail mv = true) : railFault d rail mv =
    (let f (cls unit : Nat) : FSpec := { fspec cls 0x04 0x0C with unit := unit, detail := rail + mv * 2 ^ 16 }
     if rail < 20 then strikeDie (record d (f 4 rail)) rail 4 (faultCode 4 0x04 0x0C)
     else if rail < 24 then strikeDie (record d (f 4 (rail + 12))) (rail + 12) 4 (faultCode 4 0x04 0x0C)
     else if rail < 26 then pairFault d (rail == 25) 0x0C
     else deviceReset d 0x01) := by
  have hcond : ¬ (decide (d.boot.st = .reset) || !railTrips rail mv) = true := by rw [decide_eq_false hst, ht]; decide
  exact if_neg hcond

/-! ### SLEEP (R399 to R401) -/

/-- The word that a sleep command writes: its operation, and DB_WAKE as it stands. -/
theorem sleepWord_fields {op b : Nat} (hop : op < 4) (hb : b < 2) :
    fld (op * 2 ^ 30 + put b 29 1) 30 2 = op ∧ fld (op * 2 ^ 30 + put b 29 1) 29 1 = b := by
  have hput : put b 29 1 = b * 2 ^ 29 := by rw [put, Nat.shiftLeft_eq, Nat.mod_eq_of_lt (by omega)]
  rw [hput, fld_eq, fld_eq]
  omega

theorem fld_lt (v lo n : Nat) : fld v lo n < 2 ^ n := Nat.mod_lt _ (Nat.two_pow_pos n)

/-- DB_WAKE is written back. -/
def wakeBitKept (d : Dev) : Dev := regPut d 0x4014 (put (fld (regGet d 0x4014) 29 1) 29 1)

theorem sleepWrite_enter (d : Dev) : sleepWrite d (2 ^ 30 + put (fld (regGet d 0x4014) 29 1) 29 1) =
    if maySleep d = true then { wakeBitKept d with pwr := { d.pwr with sleepBusy := false, entering := true, wakeAsked := false } }
    else { wakeBitKept d with pwr := { d.pwr with sleepBusy := true } } := by
  obtain ⟨hop, hb⟩ := sleepWord_fields (op := 1) (by decide) (fld_lt (regGet d 0x4014) 29 1)
  rw [Nat.one_mul] at hop hb
  unfold sleepWrite
  rw [hop, hb]
  rfl

theorem sleepWrite_wake (d : Dev) : sleepWrite d (2 ^ 31 + put (fld (regGet d 0x4014) 29 1) 29 1) = wakeEvent (wakeBitKept d) := by
  obtain ⟨hop, hb⟩ := sleepWord_fields (op := 2) (by decide) (fld_lt (regGet d 0x4014) 29 1)
  rw [show 2 * 2 ^ 30 = 2 ^ 31 by decide] at hop hb
  unfold sleepWrite
  rw [hop, hb]
  rfl

theorem wakeEvent_entering {d : Dev} (h : d.pwr.entering = true) : wakeEvent d = { d with pwr := { d.pwr with wakeAsked := true } } := if_pos h

theorem wakeEvent_sleeping {d : Dev} (h : d.pwr.entering = false) (hst : d.boot.st = .sleep) (hw : d.pwr.waking = false) :
    wakeEvent d = startTimer { d with pwr := { d.pwr with waking := true } } .wake := by
  have hcond : (d.boot.st == .sleep && !d.pwr.waking) = true := by rw [hst, hw]; decide
  exact (if_neg (Bool.eq_false_iff.1 h)).trans (if_pos hcond)

theorem wakeEvent_ignored {d : Dev} (h : d.pwr.entering = false) (hno : d.boot.st ≠ .sleep ∨ d.pwr.waking = true) : wakeEvent d = d := by
  have hcond : ¬ (d.boot.st == .sleep && !d.pwr.waking) = true := by
    rcases hno with hno | hno <;> simp [hno]
  exact (if_neg (Bool.eq_false_iff.1 h)).trans (if_neg hcond)

/-- A port that trains changes itself, and what is sent out. -/
theorem trainPort_frame (d : Dev) (n : Nat) : { trainPort d n with rw := d.rw, out := d.out } = d := rfl

/-- Each enabled Reedway port trains as the wake ends. -/
def wakePort (d : Dev) (n : Nat) : Dev := if (bit (rwCtrl d n) 31 && !bit (rwCtrl d n) 24) = true then trainPort d n else d

theorem wakePort_frame (d : Dev) (n : Nat) : { wakePort d n with rw := d.rw, out := d.out } = d := by
  unfold wakePort
  split <;> rfl

theorem rwPort_wakePort_same (d : Dev) (n : Nat) : (rwPort (wakePort d n) n).st =
    if (bit (rwCtrl d n) 31 && !bit (rwCtrl d n) 24) = true then .training else (rwPort d n).st := by
  unfold wakePort
  split
  · exact congrArg RwPort.st (rwPort_setRw_same ..)
  · rfl

theorem rwPort_wakePort_other (d : Dev) {n m : Nat} (h : m ≠ n) : rwPort (wakePort d n) m = rwPort d m := by
  unfold wakePort
  split
  · exact rwPort_setRw_other d h _
  · rfl

theorem foldl_wakePort (ns : List Nat) (hns : ns.Nodup) (d : Dev) : { ns.foldl wakePort d with rw := d.rw, out := d.out } = d
    ∧ ∀ m, (rwPort (ns.foldl wakePort d) m).st =
      if m ∈ ns ∧ (bit (rwCtrl d m) 31 && !bit (rwCtrl d m) 24) = true then .training else (rwPort d m).st := by
  induction ns generalizing d with
  | nil => exact ⟨rfl, fun m => by simp⟩
  | cons n ns ih =>
    obtain ⟨hn, hns⟩ := List.nodup_cons.1 hns
    obtain ⟨hframe, hports⟩ := ih hns (wakePort d n)
    have hone := wakePort_frame d n
    have hregs := congrArg Dev.regs hone
    have hctrl : ∀ m, rwCtrl (wakePort d n) m = rwCtrl d m := fun m => by
      rw [rwCtrl, regGet, show (wakePort d n).regs = d.regs from hregs, rwCtrl, regGet]
    refine ⟨(congrArg (fun e => { e with rw := d.rw, out := d.out }) hframe).trans hone, fun m => ?_⟩
    rw [List.foldl_cons, hports, hctrl]
    by_cases hm : m = n
    · subst hm
      rw [if_neg (fun h => hn h.1), rwPort_wakePort_same]
      simp only [List.mem_cons, true_or, true_and]
    · rw [rwPort_wakePort_other d hm]
      simp only [List.mem_cons, hm, false_or]

/-- The device once a wake has ended. -/
def woken (d : Dev) : Dev :=
  let d := afterTimer d .wake 2000000
  (List.range 8).foldl wakePort (enterState { d with pwr := { d.pwr with waking := false } } .service)

theorem afterTimer_frame (d : Dev) (t : Timer) (ns : Nat) : { afterTimer d t ns with clk := d.clk } = d := by
  unfold afterTimer
  split <;> rfl

theorem enterState_rest (d : Dev) (st : DevState) : { enterState d st with boot := d.boot, out := d.out } = d := by
  unfold enterState
  dsimp only
  split <;> rfl

/-- What the end of a wake leaves. -/
theorem woken_spec (d : Dev) : (woken d).boot.st = .service ∧ (woken d).pwr.waking = false ∧ (woken d).tmg = d.tmg
    ∧ (woken d).clk = (afterTimer d .wake 2000000).clk
    ∧ ∀ n < 8, (rwPort (woken d) n).st = if (bit (rwCtrl d n) 31 && !bit (rwCtrl d n) 24) = true then .training else (rwPort d n).st := by
  have htimer := afterTimer_frame d .wake 2000000
  have ttmg := congrArg Dev.tmg htimer
  have tregs := congrArg Dev.regs htimer
  have trw := congrArg Dev.rw htimer
  unfold woken
  extract_lets e
  obtain ⟨hframe, hports⟩ := foldl_wakePort (List.range 8) List.nodup_range (enterState { e with pwr := { e.pwr with waking := false } } .service)
  have henter := enterState_rest { e with pwr := { e.pwr with waking := false } } .service
  have hst := enterState_st { e with pwr := { e.pwr with waking := false } } .service
  generalize enterState { e with pwr := { e.pwr with waking := false } } .service = f at *
  generalize (List.range 8).foldl wakePort f = g at *
  have gboot := congrArg Dev.boot hframe
  have gpwr := congrArg Dev.pwr hframe
  have gtmg := congrArg Dev.tmg hframe
  have gclk := congrArg Dev.clk hframe
  have fpwr := congrArg Dev.pwr henter
  have ftmg := congrArg Dev.tmg henter
  have fclk := congrArg Dev.clk henter
  have fregs := congrArg Dev.regs henter
  have frw := congrArg Dev.rw henter
  dsimp only at gboot gpwr gtmg gclk fpwr ftmg fclk fregs frw ttmg tregs trw
  refine ⟨?_, ?_, ?_, gclk.trans fclk, fun n hn => ?_⟩
  · rw [gboot, hst]
  · rw [gpwr, fpwr]
  · rw [gtmg, ftmg, ttmg]
  · have hctrl : rwCtrl f n = rwCtrl d n := by rw [rwCtrl, regGet, fregs, tregs, rwCtrl, regGet]
    have hport : rwPort f n = rwPort d n := by rw [rwPort, frw, trw, rwPort]
    rw [hports, hctrl, hport]
    simp only [List.mem_range, hn, true_and]

/-- The time by which a timer's event has come. -/
theorem afterTimer_reaches {d : Dev} {t : Timer} {x ns : Nat} (hx : (t, x) ∈ d.clk.timers) (huniq : ∀ y, (t, y) ∈ d.clk.timers → y = x) :
    x + ns ≤ (afterTimer d t ns).clk.localNs := by
  unfold afterTimer
  cases hf : d.clk.timers.find? (fun p => p.1 == t) with
  | none =>
    have := List.find?_eq_none.1 hf _ hx
    simp at this
  | some p =>
    obtain ⟨u, y⟩ := p
    have hu : u = t := by simpa using List.find?_some hf
    obtain rfl := hu
    rw [← huniq y (List.mem_of_find?_eq_some hf)]
    exact (untilLocal_reaches ..).1

end Sys2Proof.Machine

namespace Sys2Proof.Proofs

open Sys2Proof Sys2Proof.Machine Sys2Proof.Safety

theorem exec_governorTick {s : State} (h : s.dev.clk.locked = true) (est : List Nat) : exec (.governorTick est) s =
    .next { s with dev := governed (powerNoted s.dev est) (devicePower s.dev est) (powerOver s.dev est) } := by
  dsimp only [exec, execGovernorTick]
  rw [lift_eq, if_pos h, governorTick_eq]

theorem exec_railFault (s : State) (rail : Fin 33) (mv : Nat) :
    exec (.railFault rail mv) s = .next { s with dev := railFault s.dev rail.val mv } := rfl

theorem exec_sensorScan (s : State) (temps : List (Option Byte)) :
    exec (.sensorScan temps) s = .next { s with dev := sensorScan s.dev temps } := rfl

theorem exec_wake {s : State} {src : Iface} (h : isOwner s.dev src = true) :
    exec (.wake src) s = .next { s with dev := wakeEvent (wakeBitKept s.dev) } := by
  dsimp only [exec, execWake]
  rw [lift_eq, ownerOnly, if_pos h, sleepWrite_wake]

theorem exec_sleepEnter {s : State} {src : Iface} (h : isOwner s.dev src = true) :
    exec (.sleepEnter src) s = .next { s with
      dev := if maySleep s.dev = true then { wakeBitKept s.dev with pwr := { s.dev.pwr with sleepBusy := false, entering := true, wakeAsked := false } }
        else { wakeBitKept s.dev with pwr := { s.dev.pwr with sleepBusy := true } } } := by
  dsimp only [exec, execSleepEnter]
  rw [lift_eq, ownerOnly, if_pos h, sleepWrite_enter]

/-- The end of a wake: SERVICE, with the enabled ports training. -/
theorem exec_wakeDone {s : State} (hst : s.dev.boot.st = .sleep) (hw : s.dev.pwr.waking = true) : exec .wakeDone s = .next { s with
    dev := woken s.dev } := by
  have hcond : ¬ (s.dev.boot.st != .sleep || !s.dev.pwr.waking) = true := by rw [hst, hw]; decide
  dsimp only [exec, execWakeDone]
  rw [lift_eq]
  exact congrArg (fun e => Host.Outcome.next { s with dev := e }) ((if_neg hcond).trans rfl)

/-- Settles O48: the governor by the step it holds and what asks for another; sleep by the state that it leaves. -/
theorem powerComplete : Obligations.PowerComplete := by
  unfold Obligations.PowerComplete
  refine ⟨fun s => ?_, fun s src => ?_⟩
  · dsimp only
    refine ⟨fun est hl => ?_, fun est hl => ⟨fun hf hk => ?_, fun hf hs hk => ?_, fun hk hup hns hd => ?_, fun hk hup hno => ?_, fun hk hup => ?_, fun d k => rfl⟩,
      fun hw => ?_, fun k hw => ?_, ?_, ?_, fun temps => ⟨fun hst => ?_, fun hst ht => ?_, fun p hst ht => ?_⟩, rfl,
      fun rail mv => ⟨fun hno => ?_, fun hst ht => ⟨fun h20 => ?_, fun h20 h24 => ?_, fun h24 => ?_, fun h26 => ?_⟩⟩, fun refclk => ?_⟩
    · exact congrArg (fun e => Host.Outcome.next { s with dev := e }) (if_neg (Bool.eq_false_iff.1 hl))
    · rw [exec_governorTick hl, governed_forced (e := powerNoted s.dev est) ((forced6_iff _).2 hf) hk, powerOver_eq]
      rfl
    · rw [exec_governorTick hl, governed_slower (e := powerNoted s.dev est) (mt (forced6_iff _).1 hf) (hs.imp_left (powerOver_iff s.dev est).2) hk, powerOver_eq]
      rfl
    · rw [exec_governorTick hl, governed_keeps (e := powerNoted s.dev est) (hk.imp_right fun h => ⟨mt (asksSlower_noted s.dev est).1 h.1, h.2⟩)]
      have hgo := And.intro hd (mt (asksSlower_noted s.dev est).1 hns)
      exact congrArg (fun e => Host.Outcome.next { s with dev := e }) ((if_pos hup).trans (if_pos hgo))
    · rw [exec_governorTick hl, governed_keeps (e := powerNoted s.dev est) (hk.imp_right fun h => ⟨mt (asksSlower_noted s.dev est).1 h.1, h.2⟩)]
      refine congrArg (fun e => Host.Outcome.next { s with dev := e }) ((if_pos hup).trans (if_neg ?_))
      rintro ⟨hd, hns⟩
      rcases hno with hslow | hlt
      · exact hns ((asksSlower_noted s.dev est).2 hslow)
      · exact absurd hd (Nat.not_le.2 hlt)
    · rw [exec_governorTick hl, governed_keeps (e := powerNoted s.dev est) (hk.imp_right fun h => ⟨mt (asksSlower_noted s.dev est).1 h.1, h.2⟩)]
      exact congrArg (fun e => Host.Outcome.next { s with dev := e }) (if_neg (Bool.eq_false_iff.1 hup))
    · dsimp only [exec, execStepChange]
      rw [lift_eq, stepChange, hw]
    · dsimp only [exec, execStepChange]
      rw [lift_eq, stepChange, hw]
    · dsimp only [exec, execBrakeAssert]
      rw [lift_eq]
      have hcond : (s.dev.clk.locked && stepNow s.dev != 2) = true ↔ s.dev.clk.locked = true ∧ stepNow s.dev ≠ 2 := by
        rw [Bool.and_eq_true, bne_iff_ne]
      exact congrArg (fun e => Host.Outcome.next { s with dev := e }) (if_congr hcond rfl rfl)
    · dsimp only [exec, execBrakeRelease]
      rw [lift_eq]
      split <;> rfl
    · rw [exec_sensorScan, sensorScan_eq, if_pos hst]
      show _ = Host.Outcome.next (if tripping (scanned temps) = none then s else { s with dev := deviceReset s.dev 0x06 })
      cases tripping (scanned temps) <;> rfl
    · have hnone : tripping (scanned temps) = none := ht
      rw [exec_sensorScan, sensorScan_eq, if_neg hst, hnone]
      rfl
    · have hsome : tripping (scanned temps) = some p := ht
      rw [exec_sensorScan, sensorScan_eq, if_neg hst, hsome]
      rfl
    · rw [exec_railFault, railFault_idle hno]
    · rw [exec_railFault, railFault_trips hst ht]
      exact congrArg (fun e => Host.Outcome.next { s with dev := e }) (if_pos h20)
    · rw [exec_railFault, railFault_trips hst ht]
      exact congrArg (fun e => Host.Outcome.next { s with dev := e }) ((if_neg (Nat.not_lt.2 h20)).trans (if_pos h24))
    · rw [exec_railFault, railFault_trips hst ht]
      have hn20 : ¬ rail.val < 20 := by omega
      have hn24 : ¬ rail.val < 24 := by omega
      have hlt : rail.val < 26 := by omega
      exact congrArg (fun e => Host.Outcome.next { s with dev := e }) ((if_neg hn20).trans ((if_neg hn24).trans (if_pos hlt)))
    · rw [exec_railFault, railFault_trips hst ht]
      have hn20 : ¬ rail.val < 20 := by omega
      have hn24 : ¬ rail.val < 24 := by omega
      exact congrArg (fun e => Host.Outcome.next { s with dev := e }) ((if_neg hn20).trans ((if_neg hn24).trans (if_neg (Nat.not_lt.2 h26))))
    · rfl
  · refine ⟨fun howner => ⟨fun hm => ?_, fun hm => ?_, fun he => ?_, fun he hst hw => ?_, fun he hno => ?_⟩, fun hno => ?_, fun he hst => ?_, fun hno => ?_, fun hst hw => ?_⟩
    · rw [exec_sleepEnter howner, if_pos hm]
      rfl
    · rw [exec_sleepEnter howner, if_neg (Bool.eq_false_iff.1 hm)]
      rfl
    · rw [exec_wake howner, wakeEvent_entering (d := wakeBitKept s.dev) he]
      rfl
    · rw [exec_wake howner, wakeEvent_sleeping (d := wakeBitKept s.dev) he hst hw]
      rfl
    · rw [exec_wake howner, wakeEvent_ignored (d := wakeBitKept s.dev) he hno]
      rfl
    · have hcond : (!s.dev.pwr.entering || s.dev.boot.st != .service) = true := by
        rcases hno with h | h <;> simp [h]
      exact congrArg (fun e => Host.Outcome.next { s with dev := e }) (if_pos hcond)
    · have hcond : ¬ (!s.dev.pwr.entering || s.dev.boot.st != .service) = true := by rw [he, hst]; decide
      dsimp only [exec, execSleepEntryDone]
      rw [lift_eq]
      unfold sleepEntered
      rw [if_neg hcond]
      generalize (List.range 8).foldl isolatePort { s.dev with tiles := [] } = d
      have hasked : (if d.pwr.wakeAsked = true then startTimer d .wake else d).pwr.wakeAsked = d.pwr.wakeAsked := by split <;> rfl
      dsimp only
      rw [hasked]
    · have hcond : (s.dev.boot.st != .sleep || !s.dev.pwr.waking) = true := by
        rcases hno with h | h <;> simp [h]
      exact congrArg (fun e => Host.Outcome.next { s with dev := e }) (if_pos hcond)
    · obtain ⟨hboot, hwaking, htmg, hclk, hports⟩ := woken_spec s.dev
      refine ⟨_, exec_wakeDone hst hw, rfl, hboot, hwaking, htmg, hports, fun x hx huniq => ?_⟩
      dsimp only
      rw [hclk]
      exact afterTimer_reaches hx huniq

end Sys2Proof.Proofs
end


section
/-! Host links: failure and failover, planned moves, configuration, BAR2 and PTM (R403 to R413). -/

namespace Sys2Proof.Machine

open Sys2Proof Sys2Proof.Safety

/-! ### Links (R407, R409) -/

theorem linkUp_setLink_same (d : Dev) (l : Nat) (up : Bool) (rate width : Nat) (cxl : Bool) :
    linkUp (setLink d l up rate width cxl) l = up := by
  unfold linkUp setLink
  split <;> rfl

theorem linkUp_setLink_other (d : Dev) {l k : Nat} (h : k = 0 ↔ l ≠ 0) (up : Bool) (rate width : Nat) (cxl : Bool) :
    linkUp (setLink d l up rate width cxl) k = linkUp d k := by
  unfold linkUp setLink
  by_cases hl : l = 0
  · rw [if_pos hl, if_neg (fun hk => h.1 hk hl), if_neg (fun hk => h.1 hk hl)]
  · rw [if_neg hl, if_pos (h.2 hl), if_pos (h.2 hl)]

theorem otherLink_iff (l : Fin 2) : 1 - l.val = 0 ↔ l.val ≠ 0 := by omega

/-- What a link's new state leaves of the links. -/
theorem setLink_hlk (d : Dev) (l : Nat) (up : Bool) (rate width : Nat) (cxl : Bool) :
    (setLink d l up rate width cxl).hlk.serve = d.hlk.serve ∧ (setLink d l up rate width cxl).hlk.move = d.hlk.move
      ∧ (setLink d l up rate width cxl).hlk.foCount = d.hlk.foCount
      ∧ { setLink d l up rate width cxl with hlk := d.hlk } = d := by
  unfold setLink
  split <;> exact ⟨rfl, rfl, rfl, rfl⟩

/-! ### What failover keeps (R410) -/

/-- Writes to the host change what was posted, the pending vectors and what is sent out alone. -/
structure PostedOnly (d e : Dev) : Prop where
  rest : { e with hlk := d.hlk, out := d.out } = d
  hlk : { e.hlk with posted := d.hlk.posted, pba0 := d.hlk.pba0, pba1 := d.hlk.pba1 } = d.hlk

namespace PostedOnly

theorem refl (d : Dev) : PostedOnly d d := ⟨rfl, rfl⟩

theorem trans {a b c : Dev} (h : PostedOnly a b) (k : PostedOnly b c) : PostedOnly a c :=
  ⟨(congrArg (fun e => { e with hlk := a.hlk, out := a.out }) k.rest).trans h.rest,
   (congrArg (fun x : Hlk => { x with posted := a.hlk.posted, pba0 := a.hlk.pba0, pba1 := a.hlk.pba1 }) k.hlk).trans h.hlk⟩

theorem foldl {α : Type} {f : Dev → α → Dev} (hf : ∀ d x, PostedOnly d (f d x)) (xs : List α) (d : Dev) : PostedOnly d (xs.foldl f d) := by
  induction xs generalizing d with
  | nil => exact refl d
  | cons x xs ih => exact (hf d x).trans (ih _)

theorem hostPost (d : Dev) (link : Nat) (cq : Option Nat) (addr : Nat) (data : List Byte) : PostedOnly d (hostPost d link cq addr data) :=
  ⟨rfl, rfl⟩

theorem raiseOn (d : Dev) (link vec : Nat) : PostedOnly d (raiseOn d link vec) := by
  unfold Machine.raiseOn
  dsimp only
  (repeat' split) <;> exact ⟨rfl, rfl⟩

end PostedOnly

theorem rewritePosted_only (d : Dev) (l : Nat) : PostedOnly d (rewritePosted d l) := by
  have hforget : PostedOnly d { d with hlk := { d.hlk with posted := d.hlk.posted.filter (fun p => p.link != l) } } := ⟨rfl, rfl⟩
  refine hforget.trans ((PostedOnly.foldl (fun d p => .hostPost ..) _ _).trans (PostedOnly.foldl (fun d c => ?_) _ _))
  split
  · exact .raiseOn ..
  · exact .refl d

/-- What a failover leaves of the links, and its record. -/
structure FailedOver (d : Dev) (l why : Nat) (qs : List Nat) (t : Dev) : Prop where
  serve : t.hlk.serve = qs.foldl (fun m q => m ^^^ 2 ^ q) d.hlk.serve
  up : ∀ k, linkUp t k = linkUp d k
  count : t.hlk.foCount = satAdd 16 d.hlk.foCount 1
  source : t.hlk.foFrom = l
  cause : t.hlk.foCause = why
  newest : ∃ r, mget? t.flt.ring (d.flt.seq % 256) = some r ∧ r.cls = 3 ∧ r.block = 0x12 ∧ r.code = 0x0A ∧ r.detail = why % 2 ^ 64

/-- A record keeps what a failover leaves of the links. -/
theorem record_links (d : Dev) (f : FSpec) : (record d f).hlk.serve = d.hlk.serve ∧ (∀ k, linkUp (record d f) k = linkUp d k)
    ∧ (record d f).hlk.foCount = d.hlk.foCount ∧ (record d f).hlk.foFrom = d.hlk.foFrom ∧ (record d f).hlk.foCause = d.hlk.foCause := by
  have h := (record_only d f).hlk
  have hserve := congrArg Hlk.serve h
  have hup0 := congrArg Hlk.up0 h
  have hup1 := congrArg Hlk.up1 h
  have hcount := congrArg Hlk.foCount h
  have hfrom := congrArg Hlk.foFrom h
  have hcause := congrArg Hlk.foCause h
  refine ⟨hserve, fun k => ?_, hcount, hfrom, hcause⟩
  unfold linkUp
  split
  · exact hup0
  · exact hup1

theorem failover_spec (d : Dev) (l why : Nat) (qs : List Nat) : FailedOver d l why qs (failover d l why qs) := by
  obtain ⟨prest, phlk⟩ := rewritePosted_only (flipPairs d qs) l
  unfold failover
  generalize rewritePosted (flipPairs d qs) l = e at *
  have pflt := congrArg Dev.flt prest
  have pserve := congrArg Hlk.serve phlk
  have pup0 := congrArg Hlk.up0 phlk
  have pup1 := congrArg Hlk.up1 phlk
  have pcount := congrArg Hlk.foCount phlk
  dsimp only at pflt pserve pup0 pup1 pcount ⊢
  have hlinks := record_links { e with hlk := { e.hlk with foCount := satAdd 16 e.hlk.foCount 1, foFrom := l, foCause := why } }
    { fspec 3 0x12 0x0A with unit := l, detail := why }
  obtain ⟨r, hring, hcls, hblock, hcode, -, -, hdetail, -⟩ := record_newest
    { e with hlk := { e.hlk with foCount := satAdd 16 e.hlk.foCount 1, foFrom := l, foCause := why } }
    { fspec 3 0x12 0x0A with unit := l, detail := why }
  obtain ⟨hserve, hup, hcount, hfrom, hcause⟩ := hlinks
  refine ⟨hserve.trans pserve, fun k => (hup k).trans ?_, hcount.trans ?_, hfrom, hcause, r, ?_, hcls, hblock, hcode, hdetail⟩
  · unfold linkUp
    dsimp only
    rw [pup0, pup1]
    rfl
  · dsimp only
    rw [pcount]
    rfl
  · rw [show d.flt.seq = e.flt.seq from (congrArg Flt.seq pflt).symm]
    exact hring

/-- A link that is up fails. -/
def linkLost (d : Dev) (l : Nat) : Dev :=
  let e := setLink d l false 0 0 false
  let left := d.hlk.move.map (fun m => (⟨m.src, m.pairs.filter (fun q => servingLink e q != l)⟩ : Move))
  { e with hlk := { e.hlk with move := left.filter (fun m => !m.pairs.isEmpty), ptmOut := none } }

theorem linkUp_linkLost_same (d : Dev) (l : Nat) : linkUp (linkLost d l) l = false := linkUp_setLink_same d l false 0 0 false

theorem linkUp_linkLost_other (d : Dev) (l : Fin 2) : linkUp (linkLost d l.val) (1 - l.val) = linkUp d (1 - l.val) :=
  linkUp_setLink_other d (otherLink_iff l) false 0 0 false

theorem linkFail_up {d : Dev} {l : Fin 2} (h : linkUp d l.val = true) (why : Nat) : linkFail d l.val why =
    if (bit (regGet d 0x70000) 31 && linkUp d (1 - l.val)) = true then failover (linkLost d l.val) l.val why (pairsOn (linkLost d l.val) l.val)
    else if linkUp d (1 - l.val) = true then linkLost d l.val else t2Lost (linkLost d l.val) := by
  have hup : ¬ (!linkUp d l.val) = true := by rw [h]; decide
  have hrun : linkFail d l.val why =
      if (bit (regGet (linkLost d l.val) 0x70000) 31 && linkUp (linkLost d l.val) (1 - l.val)) = true
      then failover (linkLost d l.val) l.val why (pairsOn (linkLost d l.val) l.val)
      else if linkUp (linkLost d l.val) (1 - l.val) = true then linkLost d l.val else t2Lost (linkLost d l.val) := by
    obtain ⟨-, hmove, -, -⟩ := setLink_hlk d l.val false 0 0 false
    unfold linkFail linkLost
    rw [if_neg hup]
    dsimp only
    rw [hmove]
    cases d.hlk.move <;> rfl
  obtain ⟨-, -, -, hrest⟩ := setLink_hlk d l.val false 0 0 false
  have hset := congrArg Dev.regs hrest
  have hregs : (linkLost d l.val).regs = d.regs := hset
  rw [hrun, linkUp_linkLost_other, regGet, hregs, regGet]

theorem linkFail_down {d : Dev} {l : Nat} (h : linkUp d l = false) (why : Nat) : linkFail d l why = d := by
  have hdown : (!linkUp d l) = true := by rw [h]; rfl
  exact if_pos hdown

/-- The commands that fail a link, each with the cause that it names. -/
theorem exec_linkFails {s : State} {l : Fin 2} {c : Instr × Nat}
    (hc : c ∈ [(Instr.hostLinkFail l false, 1), (.hostLinkFail l true, 3), (.recoveryTimeout l, 2)]) :
    exec c.1 s = .next { s with dev := linkFail s.dev l.val c.2 } ∧ c.2 < 4 := by
  simp only [List.mem_cons, List.not_mem_nil, or_false] at hc
  rcases hc with rfl | rfl | rfl <;> exact ⟨rfl, by dsimp only; omega⟩

/-- The pairs on a link do not depend on whether it is up. -/
theorem pairsOn_linkLost (d : Dev) (l : Nat) : pairsOn (linkLost d l) l = pairsOn d l := by
  unfold pairsOn servingLink
  rw [show (linkLost d l).hlk.serve = d.hlk.serve from (setLink_hlk d l false 0 0 false).1]

theorem failover_linkLost (d : Dev) (l : Fin 2) (why : Nat) :
    FailedOver (linkLost d l.val) l.val why (pairsOn d l.val) (failover (linkLost d l.val) l.val why (pairsOn (linkLost d l.val) l.val)) := by
  rw [pairsOn_linkLost]
  exact failover_spec ..

/-! ### Planned moves (R411) -/

theorem startMove_nil (d : Dev) (src : Nat) : startMove d src [] = d := rfl

theorem startMove_pairs (d : Dev) (src : Nat) {qs : List Nat} (h : qs ≠ []) : startMove d src qs =
    { d with hlk := { d.hlk with move := some ⟨src, (d.hlk.move.map (fun m => m.pairs)).getD []
      ++ qs.filter (fun q => !((d.hlk.move.map (fun m => m.pairs)).getD []).contains q)⟩ } } := by
  have hne : ¬ qs.isEmpty = true := by simpa using h
  unfold startMove
  rw [if_neg hne]
  cases d.hlk.move <;> rfl

theorem foldl_emit (o : Nat → Out) (ns : List Nat) (d : Dev) :
    ns.foldl (fun d n => emit d (o n)) d = { d with out := d.out ++ ns.map o } := by
  induction ns generalizing d with
  | nil => simp
  | cons n ns ih =>
    rw [List.foldl_cons, ih, emit_out, List.append_assoc, List.map_cons]
    rfl

/-- A planned move whose wait is over goes through. -/
def moveDone (d : Dev) (m : Move) : Dev :=
  { d with
    hlk := { d.hlk with move := none, serve := m.pairs.foldl (fun k q => k ^^^ 2 ^ q) d.hlk.serve, foCause := 6, foFrom := m.src }
    out := d.out ++ ([0, 1].filter (fun k => m.pairs.any (fun q => servingLink d q == k))).map (fun k => .orderRead k) }

theorem moveEnds_done {d : Dev} {m : Move} (h : d.hlk.move = some m) : moveEnds d false = moveDone d m := by
  unfold moveEnds
  rw [h]
  dsimp only
  rw [if_neg Bool.false_ne_true, foldl_emit]
  rfl

theorem moveEnds_expired {d : Dev} {m : Move} (h : d.hlk.move = some m) : moveEnds d true =
    (let e := { d with hlk := { d.hlk with move := none } }
     let on (k : Nat) : List Nat := m.pairs.filter (fun q => servingLink d q == k)
     let f := if on 0 = [] then e else failover e 0 6 (on 0)
     if on 1 = [] then f else failover f 1 6 (on 1)) := by
  unfold moveEnds
  rw [h]
  dsimp only
  rw [if_pos rfl]
  exact if_congr List.isEmpty_iff (if_congr List.isEmpty_iff rfl rfl) (congrArg (fun f => failover f 1 6 _) (if_congr List.isEmpty_iff rfl rfl))

/-! ### BAR2 (R405) -/

/-- The window is open on a link. -/
abbrev windowOpen (d : Dev) (l : Nat) : Prop := linkUp d l = true ∧ bar0Open d = true

theorem window_closed {d : Dev} {l : Nat} (h : ¬ windowOpen d l) (off n : Nat) (wait : Nat → Nat → Waiter) (f : Dev → Nat → Nat → Dev) :
    window d l off n wait f = d := by
  have hcond : (!linkUp d l || !bar0Open d) = true := by
    cases hu : linkUp d l <;> cases hb : bar0Open d <;> simp_all
  exact if_pos hcond

theorem window_open {d : Dev} {l : Nat} (h : windowOpen d l) (off n : Nat) (wait : Nat → Nat → Waiter) (f : Dev → Nat → Nat → Dev) :
    window d l off n wait f = (match winSpan d off n with
      | none => emit d (.bar2 l false false [])
      | some (h, o, a) =>
        if missing h o a n ≠ [] ∨ roundsHold d o [(a, n)] = true then waitFor d (missing h o a n) (wait h a) else f d h a) := by
  obtain ⟨hu, hb⟩ := h
  have hcond : ¬ (!linkUp d l || !bar0Open d) = true := by rw [hu, hb]; decide
  unfold window
  rw [if_neg hcond]
  rcases winSpan d off n with _ | ⟨h, o, a⟩
  · rfl
  · have hready : ((missing h o a n).isEmpty && !roundsHold d o [(a, n)]) = true ↔ ¬ (missing h o a n ≠ [] ∨ roundsHold d o [(a, n)] = true) := by
      rw [Bool.and_eq_true, List.isEmpty_iff, Bool.not_eq_true', not_or, not_not, Bool.not_eq_true]
    exact (if_congr hready rfl rfl).trans (ite_not ..)

section
variable {d : Dev} {l off n : Nat} (h : windowOpen d l)
include h

theorem window_outside (hspan : winSpan d off n = none) (wait : Nat → Nat → Waiter) (f : Dev → Nat → Nat → Dev) :
    window d l off n wait f = emit d (.bar2 l false false []) := by
  rw [window_open h, hspan]

theorem window_ready {hd a : Nat} {o : Obj} (hspan : winSpan d off n = some (hd, o, a))
    (hready : ¬ (missing hd o a n ≠ [] ∨ roundsHold d o [(a, n)] = true)) (wait : Nat → Nat → Waiter) (f : Dev → Nat → Nat → Dev) :
    window d l off n wait f = f d hd a := by
  rw [window_open h, hspan]
  exact if_neg hready

theorem window_waits {hd a : Nat} {o : Obj} (hspan : winSpan d off n = some (hd, o, a))
    (hwaits : missing hd o a n ≠ [] ∨ roundsHold d o [(a, n)] = true) (wait : Nat → Nat → Waiter) (f : Dev → Nat → Nat → Dev) :
    window d l off n wait f = waitFor d (missing hd o a n) (wait hd a) := by
  rw [window_open h, hspan]
  exact if_pos hwaits

end

/-! ### PTM (R413) -/

theorem alignTime_hlk (d : Dev) (o : Int) : (alignTime d o).hlk = d.hlk := by
  unfold alignTime
  dsimp only
  split <;> rfl

/-- The answer of the host is noted. -/
def ptmNoted (d : Dev) (o : Int) : Dev :=
  { d with hlk := { d.hlk with
      ptmOut := none, offset := o, lockCnt := (lockStep d.hlk.lockCnt d.hlk.timeLocked o).1, timeLocked := (lockStep d.hlk.lockCnt d.hlk.timeLocked o).2 } }

/-- The host is the source of the time. -/
abbrev hostTime (d : Dev) : Prop := bit (regGet d 0x70000) 29 = true ∧ bit (rwgTime d) 3 = false

theorem ptmResponse_eq {d : Dev} {t1 : Nat} (h : d.hlk.ptmOut = some t1) (t2 t3 : Nat) : ptmResponse d t2 t3 =
    (let o := timeOffset t1 t2 t3 d.clk.devtime.toNat
     if hostTime d then alignTime (ptmNoted d o) o else ptmNoted d o) := by
  unfold ptmResponse
  rw [h]
  exact if_congr (by rw [Bool.and_eq_true, Bool.not_eq_true']; exact Iff.rfl) rfl rfl

end Sys2Proof.Machine

namespace Sys2Proof.Proofs

open Sys2Proof Sys2Proof.Machine Sys2Proof.Safety

theorem linkFail_cases (d : Dev) (l : Fin 2) (why : Nat) : (linkUp d l.val = false → linkFail d l.val why = d)
    ∧ (linkUp d l.val = true →
      (bit (regGet d 0x70000) 31 = true → linkUp d (1 - l.val) = true →
        linkFail d l.val why = failover (linkLost d l.val) l.val why (pairsOn (linkLost d l.val) l.val))
      ∧ (bit (regGet d 0x70000) 31 = false → linkUp d (1 - l.val) = true → linkFail d l.val why = linkLost d l.val)
      ∧ (linkUp d (1 - l.val) = false → linkFail d l.val why = t2Lost (linkLost d l.val))) := by
  refine ⟨fun hdown => linkFail_down hdown why, fun hup => ⟨fun hopt hother => ?_, fun hopt hother => ?_, fun hother => ?_⟩⟩
  · have hcond : (bit (regGet d 0x70000) 31 && linkUp d (1 - l.val)) = true := by rw [hopt, hother]; rfl
    exact (linkFail_up hup why).trans (if_pos hcond)
  · have hcond : ¬ (bit (regGet d 0x70000) 31 && linkUp d (1 - l.val)) = true := by rw [hopt]; simp
    exact (linkFail_up hup why).trans ((if_neg hcond).trans (if_pos hother))
  · have hcond : ¬ (bit (regGet d 0x70000) 31 && linkUp d (1 - l.val)) = true := by rw [hother]; simp
    exact (linkFail_up hup why).trans ((if_neg hcond).trans (if_neg (Bool.eq_false_iff.1 hother)))

/-- A link can train. -/
abbrev canTrain (d : Dev) (l : Nat) (rate width : Nat) : Prop :=
  linkUp d l = false ∧ perstLow d l = false ∧ d.clk.locked = true ∧ rate ≠ 0 ∧ [1, 2, 4, 8].contains width = true

theorem exec_hostLinkUp (s : State) (l : Fin 2) (rate : Fin 7) (width : Fin 9) (cxl : Bool) : exec (.hostLinkUp l rate width cxl) s =
    .next { s with dev := if canTrain s.dev l.val rate.val width.val then
      (if bar0Open s.dev = true then emit (setLink s.dev l.val true rate.val width.val cxl) (.ready l.val)
        else setLink s.dev l.val true rate.val width.val cxl) else s.dev } := by
  have hno : (linkUp s.dev l.val || perstLow s.dev l.val || !s.dev.clk.locked || rate.val == 0 || !([1, 2, 4, 8].contains width.val)) = true ↔
      ¬ canTrain s.dev l.val rate.val width.val := by
    unfold canTrain
    generalize [1, 2, 4, 8].contains width.val = w
    cases linkUp s.dev l.val <;> cases perstLow s.dev l.val <;> cases s.dev.clk.locked <;> cases w <;> simp
  obtain ⟨-, -, -, hrest⟩ := setLink_hlk s.dev l.val true rate.val width.val cxl
  have hboot := congrArg Dev.boot hrest
  have hopen : bar0Open (setLink s.dev l.val true rate.val width.val cxl) = bar0Open s.dev := by
    unfold bar0Open
    rw [show (setLink s.dev l.val true rate.val width.val cxl).boot = s.dev.boot from hboot]
  dsimp only [exec, execHostLinkUp]
  rw [lift_eq]
  refine congrArg (fun e => Host.Outcome.next { s with dev := e }) (((if_congr hno rfl rfl).trans (ite_not ..)).trans ?_)
  rw [hopen]

/-- Settles O49: a failing link by the option and the other link, accesses by the window and its pages. -/
theorem hostLinksComplete : Obligations.HostLinksComplete := by
  unfold Obligations.HostLinksComplete
  refine ⟨fun s l => ?_, fun s l => ?_⟩
  · intro up
    refine ⟨fun rate width cxl => ⟨fun ht => ?_, fun ht => ?_⟩, fun c hc => (exec_linkFails hc).1, fun why => ?_,
      fun hup hother hopt hmove c hc => ?_, ⟨?_, fun a => ⟨fun hup hcxl => ?_, fun hno => ?_⟩⟩, fun d src qs => ⟨fun hnil => ?_, fun hne => startMove_pairs d src hne⟩,
      fun src howner => ⟨?_, fun haway => ?_, fun q qs haway => ?_⟩, fun hauto hup => ?_, fun hno => ?_, fun b hmove => ?_, fun m hmove => ⟨?_, ?_⟩⟩
    · rw [exec_hostLinkUp, if_pos ht]
    · rw [exec_hostLinkUp, if_neg ht]
    · intro d left e
      have he : e = linkLost s.dev l.val := rfl
      clear_value e
      rw [he]
      exact linkFail_cases s.dev l why
    · obtain ⟨hrun, hlt⟩ := exec_linkFails hc
      obtain ⟨-, hcases⟩ := linkFail_cases s.dev l c.2
      obtain ⟨hover, -⟩ := hcases hup
      have hfail := hover hopt hother
      obtain ⟨hserve, hlinks, hcount, hsource, hcause, r, hring, hcls, hblock, hcode, hdetail⟩ := failover_linkLost s.dev l c.2
      obtain ⟨kserve, -, kcount, krest⟩ := setLink_hlk s.dev l.val false 0 0 false
      have kflt := congrArg Dev.flt krest
      have hseq : (linkLost s.dev l.val).flt.seq = s.dev.flt.seq := congrArg Flt.seq kflt
      refine ⟨_, r, hrun, rfl, ?_⟩
      dsimp only
      rw [hfail, hlinks, hlinks, linkUp_linkLost_same, linkUp_linkLost_other]
      refine ⟨rfl, hother, hserve.trans ?_, hcount.trans ?_, hsource, hcause, ?_, hcls, hblock, hcode, hdetail.trans (Nat.mod_eq_of_lt (by omega))⟩
      · exact congrArg (fun m => (pairsOn s.dev l.val).foldl (fun m q => m ^^^ 2 ^ q) m) kserve
      · exact congrArg (fun n => satAdd 16 n 1) kcount
      · rw [← hseq]
        exact hring
    · dsimp only [exec, execConfigurationRequest]
      rw [lift_eq]
      split <;> rfl
    · have hup : linkUp s.dev l.val = true := hup
      have hcond : (linkUp s.dev l.val && (if l.val = 0 then s.dev.hlk.cxl0 else s.dev.hlk.cxl1)) = true := by rw [hup, hcxl]; rfl
      exact congrArg (fun e => Host.Outcome.next { s with dev := e }) (if_pos hcond)
    · have hcond : ¬ (linkUp s.dev l.val && (if l.val = 0 then s.dev.hlk.cxl0 else s.dev.hlk.cxl1)) = true := by
        rw [Bool.and_eq_true]
        rintro ⟨hup, hcxl⟩
        rcases hno with hno | hno
        · exact absurd hup (Bool.eq_false_iff.1 hno)
        · exact hno hcxl
      exact congrArg (fun e => Host.Outcome.next { s with dev := e }) (if_neg hcond)
    · rw [hnil, startMove_nil]
    · dsimp only [exec, execMovePairs]
      rw [lift_eq, ownerOnly, if_pos howner]
      rfl
    · dsimp only [exec, execMoveHome]
      rw [lift_eq, ownerOnly, if_pos howner, hlkMove, haway]
      rfl
    · dsimp only [exec, execMoveHome]
      rw [lift_eq, ownerOnly, if_pos howner, hlkMove, haway]
      rfl
    · have hup : linkUp s.dev l.val = true := hup
      have hcond : ¬ (!bit (regGet s.dev 0x70000) 30 || !linkUp s.dev l.val) = true := by rw [hauto, hup]; decide
      exact congrArg (fun e => Host.Outcome.next { s with dev := e }) (if_neg hcond)
    · have hno : bit (regGet s.dev 0x70000) 30 = false ∨ linkUp s.dev l.val = false := hno
      have hcond : (!bit (regGet s.dev 0x70000) 30 || !linkUp s.dev l.val) = true := by
        rcases hno with h | h <;> simp [h]
      exact congrArg (fun e => Host.Outcome.next { s with dev := e }) (if_pos hcond)
    · dsimp only [exec, execMoveWaitEnd]
      rw [lift_eq, moveEnds, hmove]
    · have hrun : exec (.moveWaitEnd false) s = .next { s with dev := moveDone s.dev m } := by
        dsimp only [exec, execMoveWaitEnd]
        rw [lift_eq, moveEnds_done hmove]
      exact ⟨_, hrun, rfl, rfl, rfl, rfl⟩
    · dsimp only [exec, execMoveWaitEnd]
      rw [lift_eq, moveEnds_expired hmove]
  · dsimp only
    refine ⟨fun off n data => ⟨fun hclosed => ⟨?_, ?_⟩, fun hopen hspan => ?_, fun hopen hspan => ?_, fun h o a hopen hspan => ⟨fun hready => ?_, fun hwaits => ?_⟩,
        fun h o a hopen hspan => ⟨fun hready => ?_, fun hwaits => ?_⟩⟩, fun h a n => ⟨fun hobj => ?_, fun o hobj => ?_⟩,
      fun hlink => ?_, fun k hlink => ?_, fun t2 t3 hout => ?_, fun t1 t2 t3 hout => ?_⟩
    · exact congrArg (fun e => Host.Outcome.next { s with dev := e }) (window_closed hclosed ..)
    · exact congrArg (fun e => Host.Outcome.next { s with dev := e }) (window_closed hclosed ..)
    · exact congrArg (fun e => Host.Outcome.next { s with dev := e }) (window_outside hopen hspan ..)
    · exact congrArg (fun e => Host.Outcome.next { s with dev := e }) (window_outside hopen hspan ..)
    · exact congrArg (fun e => Host.Outcome.next { s with dev := e }) (window_ready hopen hspan hready ..)
    · exact congrArg (fun e => Host.Outcome.next { s with dev := e }) (window_waits hopen hspan hwaits ..)
    · exact congrArg (fun e => Host.Outcome.next { s with dev := e }) (window_ready hopen hspan hready ..)
    · exact congrArg (fun e => Host.Outcome.next { s with dev := e }) (window_waits hopen hspan hwaits ..)
    · rw [winRead, hobj]
    · rw [winRead, hobj]
    · dsimp only [exec, execPtmRequest]
      rw [lift_eq, hlink]
    · dsimp only [exec, execPtmRequest]
      rw [lift_eq, hlink]
    · dsimp only [exec, execPtmResponse]
      rw [lift_eq, ptmResponse, hout]
    · have hrun : exec (.ptmResponse t2 t3) s = .next { s with dev := ptmResponse s.dev t2.toNat t3.toNat } := rfl
      refine ⟨_, hrun, rfl, ?_⟩
      dsimp only
      rw [ptmResponse_eq hout]
      dsimp only
      generalize timeOffset t1 t2.toNat t3.toNat s.dev.clk.devtime.toNat = o
      have hhlk : (if hostTime s.dev then alignTime (ptmNoted s.dev o) o else ptmNoted s.dev o).hlk = (ptmNoted s.dev o).hlk := by
        split
        · exact alignTime_hlk ..
        · rfl
      rw [hhlk]
      refine ⟨rfl, rfl, fun hnear => ?_, fun hfar => ?_, fun hsource hstep => ?_, fun hsource hslew => ?_, fun hno => ?_⟩
      · dsimp only [ptmNoted]
        rw [lockStep_near hnear]
        exact ⟨rfl, rfl⟩
      · dsimp only [ptmNoted]
        rw [lockStep_far hfar]
        exact ⟨rfl, rfl⟩
      · rw [if_pos hsource]
        exact (alignTime_step hstep _).1
      · rw [if_pos hsource, alignTime_slew hslew]
        rfl
      · rw [if_neg hno]
        exact ⟨rfl, rfl⟩

end Sys2Proof.Proofs
end


section
/-! Management messages, the PMBus master and the TAP (R414 to R418, R429, R430). -/

namespace Sys2Proof.Machine

open Sys2Proof Sys2Proof.Safety

/-! ### Messages (R415, R416) -/

theorem onMsg_idle {d : Dev} {src : Iface} (h : carriesMsg src = false ∨ d.boot.st = .reset) (f : Dev → Dev) : onMsg d src f = d := by
  have hcond : ¬ (carriesMsg src && d.boot.st != .reset) = true := by
    rcases h with h | h <;> simp [h]
  exact if_neg hcond

theorem onMsg_acts {d : Dev} {src : Iface} (hc : carriesMsg src = true) (hst : d.boot.st ≠ .reset) (f : Dev → Dev) : onMsg d src f = f d := by
  have hcond : (carriesMsg src && d.boot.st != .reset) = true := by rw [hc, bne_iff_ne.2 hst]; rfl
  exact if_pos hcond

theorem countOk_iff (n : Nat) : countOk n = true ↔ 1 ≤ n ∧ n ≤ 16 := by
  simp [countOk]

theorem respond_eq (d : Dev) (src : Iface) (o : Out) : respond d src o =
    if src = .mgt ∧ bit (regGet d 0x6000) 31 = true ∧ d.mgt.daValid = true then emit (emit d o) .ibi else emit d o := by
  unfold respond
  exact if_congr (by simp only [Bool.and_eq_true, decide_eq_true_eq, and_assoc]; rfl) rfl rfl

/-- An endpoint's address is set. -/
def eidSet (d : Dev) (src : Iface) (e : Nat) : Dev := { d with mgt := { d.mgt with eid := d.mgt.eid.filter (fun p => p.1 != src) ++ [(src, e)] } }

theorem eidOf_eidSet_same (d : Dev) (src : Iface) (e : Nat) : eidOf (eidSet d src e) src = e := by
  have hnone : (d.mgt.eid.filter (fun p => p.1 != src)).find? (fun p => p.1 == src) = none := by
    rw [List.find?_eq_none]
    intro p hp
    simpa using (List.mem_filter.1 hp).2
  unfold eidOf eidSet
  dsimp only
  rw [List.find?_append, hnone]
  simp

theorem eidOf_eidSet_other (d : Dev) {src k : Iface} (h : k ≠ src) (e : Nat) : eidOf (eidSet d src e) k = eidOf d k := by
  have hfind : (d.mgt.eid.filter (fun p => p.1 != src)).find? (fun p => p.1 == k) = d.mgt.eid.find? (fun p => p.1 == k) := by
    rw [List.find?_filter]
    refine congrArg (fun f => List.find? f d.mgt.eid) (funext fun p => ?_)
    by_cases hp : p.1 = k
    · simp [hp, h]
    · simp [hp]
  have hlast : [(src, e)].find? (fun p => p.1 == k) = none := by simp [Ne.symm h]
  unfold eidOf eidSet
  dsimp only
  rw [List.find?_append, hfind, hlast, Option.or_none]

/-! ### The PMBus master (R417) -/

/-- What a poll's answer leaves of the powers. -/
def powerRead (d : Dev) (r : Nat) (p : Poll) (power : Bool) : Dev :=
  if p.ok = true ∧ power = true then { d with mgt := { d.mgt with power := mset d.mgt.power r p.pout } } else d

/-- A rail whose slot fails or reports a fault. -/
def railFailed (d : Dev) (r rail : Nat) : Dev :=
  record { d with mgt := { d.mgt with failed := if d.mgt.failed.contains rail = true then d.mgt.failed else d.mgt.failed ++ [rail] } }
    { fspec 1 0x06 0x0C with unit := r, detail := rail }

theorem pollSlot_some (d : Dev) (r : Nat) (p : Poll) (power : Bool) : pollSlot d r (some p) power =
    if p.ok = true ∧ p.fault = false then powerRead d r p power else railFailed (powerRead d r p power) r (fld (railReg d r) 0 6) := by
  have hpower : (if (p.ok && power) = true then { d with mgt := { d.mgt with power := mset d.mgt.power r p.pout } } else d) = powerRead d r p power :=
    if_congr (by rw [Bool.and_eq_true]) rfl rfl
  unfold pollSlot
  dsimp only
  rw [hpower]
  exact if_congr (by rw [Bool.and_eq_true, Bool.not_eq_true']) rfl rfl

theorem pollSlot_none (d : Dev) (r : Nat) (power : Bool) : pollSlot d r none power = railFailed d r (fld (railReg d r) 0 6) := rfl

/-- The GO bit of MGT_PMB_XFER does not reach its other fields. -/
theorem goWord_fields (w : BitVec 31) : bit (2 ^ 31 + w.toNat) 31 = true ∧ bit (2 ^ 31 + w.toNat) 30 = bit w.toNat 30
    ∧ bit (2 ^ 31 + w.toNat) 29 = bit w.toNat 29 ∧ fld (2 ^ 31 + w.toNat) 16 6 = fld w.toNat 16 6 ∧ fld (2 ^ 31 + w.toNat) 8 8 = fld w.toNat 8 8 := by
  have hlt := w.isLt
  generalize w.toNat = n at *
  refine ⟨?_, ?_, ?_, ?_, ?_⟩
  · rw [bit, Nat.testBit_two_pow_add_eq, Nat.testBit_lt_two_pow hlt]
    rfl
  · exact Nat.testBit_two_pow_add_gt (by decide) n
  · exact Nat.testBit_two_pow_add_gt (by decide) n
  · rw [fld_eq, fld_eq]
    omega
  · rw [fld_eq, fld_eq]
    omega

theorem pmbXfer_go (d : Dev) (w : BitVec 31) : pmbXfer d (2 ^ 31 + w.toNat) =
    if d.mgt.xfer = none ∧ fld w.toNat 16 6 < 48 then
      { d with mgt := { d.mgt with xfer := some ⟨bit w.toNat 30, bit w.toNat 29, fld w.toNat 16 6, fld w.toNat 8 8, fld (regGet d 0x6014) 0 16⟩ } }
    else discarded d 0x06 0x600C := by
  obtain ⟨h31, h30, h29, hslot, hcmd⟩ := goWord_fields w
  have hbad : (d.mgt.xfer.isSome || decide (48 ≤ fld w.toNat 16 6)) = true ↔ ¬ (d.mgt.xfer = none ∧ fld w.toNat 16 6 < 48) := by
    rw [Bool.or_eq_true, decide_eq_true_eq, Option.isSome_iff_ne_none, not_and_or, Nat.not_lt]
  unfold pmbXfer
  rw [h31, h30, h29, hslot, hcmd, if_neg (by decide)]
  exact (if_congr hbad rfl rfl).trans (ite_not ..)

theorem sendPage_frame (d : Dev) (r : Nat) : { sendPage d r with out := d.out } = d := by
  unfold sendPage
  dsimp only
  split <;> rfl

/-- A pass-through read has its answer. -/
theorem pmbDone_read {d : Dev} {x : PmbXfer} (hx : d.mgt.xfer = some x) (hread : x.read = true) (nack pec : Bool) (data : Nat) :
    pmbDone d nack pec data = { sendPage d x.slot with mgt := { (sendPage d x.slot).mgt with
      xfer := none, nack := nack, pecErr := pec
      data := if nack = false ∧ pec = false then data % 2 ^ (8 * (if x.word = true then 2 else 1)) else d.mgt.data } } := by
  have hframe := sendPage_frame d x.slot
  have hmgt := congrArg Dev.mgt hframe
  dsimp only at hmgt
  unfold pmbDone
  rw [hx]
  dsimp only
  rw [hread, if_pos rfl, hmgt]
  cases nack <;> cases pec <;> rfl

/-- A pass-through write goes out. -/
theorem pmbDone_write {d : Dev} {x : PmbXfer} (hx : d.mgt.xfer = some x) (hwrite : x.read = false) (nack pec : Bool) (data : Nat) :
    pmbDone d nack pec data =
      (let e := emit (sendPage d x.slot) (.pmbus (fld (railReg d x.slot) 24 7) x.cmd (leBytes (if x.word = true then 2 else 1) x.data))
       { e with mgt := { e.mgt with xfer := none, nack := nack, pecErr := false } }) := by
  have hframe := sendPage_frame d x.slot
  have hregs := congrArg Dev.regs hframe
  have hrail : railReg (sendPage d x.slot) x.slot = railReg d x.slot := by
    rw [railReg, regGet, show (sendPage d x.slot).regs = d.regs from hregs, railReg, regGet]
  unfold pmbDone
  rw [hx]
  dsimp only
  rw [hwrite, hrail]
  rfl

/-! ### The TAP (R418, R429, R430) -/

/-- The pins let the TAP drive. -/
abbrev tapMay (p : Pins) : Prop := p.rstLow = true ∧ p.jtagEn = true

theorem tapActs_may {p : Pins} (h : tapMay p) : tapActs p = p.tap.loaded := by
  obtain ⟨hr, hj⟩ := h
  unfold tapActs
  rw [hr, hj]
  simp

theorem tapActs_not {p : Pins} (h : ¬ tapMay p) : tapActs p = if tapDrives p.tap.loaded = true then .bypass else p.tap.loaded := by
  have hno : (p.rstLow && p.jtagEn) = false := by
    rw [Bool.eq_false_iff, ne_eq, Bool.and_eq_true]
    exact h
  unfold tapActs
  rw [hno]
  simp

/-- Where the pins do not let it, nothing is driven. -/
theorem tapDrives_not {p : Pins} (h : ¬ tapMay p) : tapDrives (tapActs p) = false := by
  rw [tapActs_not h]
  split
  · rfl
  next hd => exact Bool.eq_false_iff.2 hd

/-- The pins with another instruction loaded. -/
def pinsLoaded (p : Pins) (i : TapIr) : Pins := { p with tap := { p.tap with loaded := i } }

theorem tapLoad_pins (d : Dev) (i : TapIr) : (tapLoad d i).pins = pinsLoaded d.pins i := by
  unfold tapLoad
  dsimp only
  split <;> rfl

theorem tapLoad_not {d : Dev} (h : ¬ tapMay d.pins) (i : TapIr) : tapLoad d i = { d with pins := pinsLoaded d.pins i } := by
  unfold tapLoad
  rw [tapDrives_not h]
  rfl

theorem tapLoad_drives {d : Dev} (h : tapMay d.pins) {i : TapIr} (hi : tapDrives i = true) :
    tapLoad d i = { d with pins := pinsLoaded d.pins i } := by
  have hacts : tapDrives (tapActs (pinsLoaded d.pins i)) = true := by
    rw [tapActs_may (p := pinsLoaded d.pins i) h]
    exact hi
  have hcond : ¬ (tapDrives (tapActs d.pins) && !tapDrives (tapActs (pinsLoaded d.pins i))) = true := by
    rw [hacts]
    simp
  exact if_neg hcond

theorem tapPins_pins (d : Dev) : (tapPins d).pins = d.pins := by
  unfold tapPins
  split <;> rfl

theorem setPins_pins (d : Dev) (p : Pins) : (setPins d p).pins = p := by
  unfold setPins
  dsimp only
  split
  · rfl
  · split
    · exact tapPins_pins _
    · rfl

/-- A register of the boundary that drives pins when it may. -/
abbrev tapTests : List TapIr := [.extest, .extestPulse, .extestTrain]

theorem tapTests_drive {i : TapIr} (h : i ∈ tapTests) : tapDrives i = true ∧ i ≠ .bypass ∧ i ≠ .highz ∧ i ≠ .idcode ∧ i ≠ .samplePreload := by
  revert h
  cases i <;> decide

theorem tapExtest_may {d : Dev} (h : tapMay d.pins) {i : TapIr} (hi : i ∈ tapTests) (sampled tdi : List Bool) :
    tapExtest d i sampled tdi = { d with
      pins := { d.pins with tap := { loaded := i, boundary := scanLeft sampled tdi } }
      out := d.out ++ [.tdo (scanOut sampled tdi), .drive i (scanLeft sampled tdi)] } := by
  obtain ⟨hdrive, -⟩ := tapTests_drive hi
  unfold tapExtest
  dsimp only
  rw [tapLoad_drives h hdrive, tapActs_may (p := pinsLoaded d.pins i) h]
  refine (if_pos rfl).trans ?_
  have hacts : tapActs (scanBoundary { d with pins := pinsLoaded d.pins i } sampled tdi).pins = i := tapActs_may h
  unfold tapPins
  rw [hacts]
  simp only [List.mem_cons, List.not_mem_nil, or_false] at hi
  rcases hi with rfl | rfl | rfl <;> simp only [scanBoundary, pinsLoaded, emit, List.append_assoc, List.singleton_append]

theorem tapClamp_may {d : Dev} (h : tapMay d.pins) (tdi : List Bool) : tapHold d .clamp tdi =
    scanBypass (emit { d with pins := pinsLoaded d.pins .clamp } (.drive .clamp d.pins.tap.boundary)) tdi := by
  have hacts : tapActs ({ d with pins := pinsLoaded d.pins .clamp } : Dev).pins = .clamp := tapActs_may (p := pinsLoaded d.pins .clamp) h
  unfold tapHold
  rw [tapLoad_drives h (i := .clamp) rfl, tapPins, hacts]
  rfl

theorem tapHighz_may {d : Dev} (h : tapMay d.pins) (tdi : List Bool) : tapHold d .highz tdi =
    scanBypass (emit { d with pins := pinsLoaded d.pins .highz } .highz) tdi := by
  have hacts : tapActs ({ d with pins := pinsLoaded d.pins .highz } : Dev).pins = .highz := tapActs_may (p := pinsLoaded d.pins .highz) h
  unfold tapHold
  rw [tapLoad_drives h (i := .highz) rfl, tapPins, hacts]

/-- An instruction that drives pins with BYPASS selected. -/
theorem tapHold_not {d : Dev} (h : ¬ tapMay d.pins) {i : TapIr} (hi : tapDrives i = true) (tdi : List Bool) :
    tapHold d i tdi = scanBypass { d with pins := pinsLoaded d.pins i } tdi := by
  have hacts : tapActs (pinsLoaded d.pins i) = .bypass := by
    rw [tapActs_not (p := pinsLoaded d.pins i) h]
    exact if_pos hi
  unfold tapHold
  rw [tapLoad_not h, tapPins, show tapActs ({ d with pins := pinsLoaded d.pins i } : Dev).pins = .bypass from hacts]

theorem tapExtest_not {d : Dev} (h : ¬ tapMay d.pins) {i : TapIr} (hi : i ∈ tapTests) (sampled tdi : List Bool) :
    tapExtest d i sampled tdi = scanBypass { d with pins := pinsLoaded d.pins i } tdi := by
  obtain ⟨hdrive, hne, -⟩ := tapTests_drive hi
  have hacts : tapActs (pinsLoaded d.pins i) = .bypass := by
    rw [tapActs_not (p := pinsLoaded d.pins i) h]
    exact if_pos hdrive
  unfold tapExtest
  rw [tapLoad_not h]
  dsimp only
  rw [hacts]
  exact if_neg (Ne.symm hne)

end Sys2Proof.Machine

namespace Sys2Proof.Proofs

open Sys2Proof Sys2Proof.Machine Sys2Proof.Safety

section
variable {s : State} {src : Iface}

/-- Out of reach no message acts. -/
theorem exec_message_idle (h : carriesMsg src = false ∨ s.dev.boot.st = .reset) (off : Word) (n : Fin 17) (k : Fin 16) (words : List Word)
    (wr : Bool) (op : Option Byte) (m : MctpCtl) {i : Instr}
    (hi : i ∈ [Instr.mgtRead src off n, .readLog src off n, .mgtWrite src off words, .mgtTimeout src wr off k words, .mctpBadMsg src op,
      .mctpControl src m]) : exec i s = .next s := by
  have hidle : ∀ f, Host.Outcome.next { s with dev := onMsg s.dev src f } = (Host.Outcome.next s : Out3) := fun f => by rw [onMsg_idle h]
  simp only [List.mem_cons, List.not_mem_nil, or_false] at hi
  rcases hi with rfl | rfl | rfl | rfl | rfl | rfl <;> exact hidle _

variable (hc : carriesMsg src = true) (hst : s.dev.boot.st ≠ .reset)
include hc hst

theorem exec_mgtRead (off : Word) (n : Fin 17) : exec (.mgtRead src off n) s = .next { s with
    dev := if 1 ≤ n.val ∧ n.val ≤ 16 then
        respond (readWords s.dev src off.toNat n.val).2 src (.mgt src 0x81 0 (readWords s.dev src off.toNat n.val).1)
      else respond s.dev src (.mgt src 0x81 1 []) } := by
  dsimp only [exec, execMgtRead]
  rw [lift_eq, onMsg_acts hc hst]
  exact congrArg (fun e => Host.Outcome.next { s with dev := e }) (if_congr (countOk_iff _) rfl rfl)

theorem exec_readLog (off : Word) (n : Fin 17) : exec (.readLog src off n) s = .next { s with
    dev := if 1 ≤ n.val ∧ n.val ≤ 16 then
        respond s.dev src (.mgt src 0x83 0
          ((List.range n.val).map (fun i => BitVec.ofNat 32 (leNat (clogRead s.dev.bk.clog (off.toNat + 4 * i) 4)))))
      else respond s.dev src (.mgt src 0x83 1 []) } := by
  dsimp only [exec, execReadLog]
  rw [lift_eq, onMsg_acts hc hst]
  exact congrArg (fun e => Host.Outcome.next { s with dev := e }) (if_congr (countOk_iff _) rfl rfl)

theorem exec_mgtWrite (off : Word) (words : List Word) : exec (.mgtWrite src off words) s = .next { s with
    dev := if 1 ≤ words.length ∧ words.length ≤ 16 then
        respond (writeWords s.dev src off.toNat words).2 src (.mgt src 0x82 (if (writeWords s.dev src off.toNat words).1 = true then 2 else 0) [])
      else respond s.dev src (.mgt src 0x82 1 []) } := by
  dsimp only [exec, execMgtWrite]
  rw [lift_eq, onMsg_acts hc hst]
  exact congrArg (fun e => Host.Outcome.next { s with dev := e }) (if_congr (countOk_iff _) rfl rfl)

theorem exec_mctpBadMsg_op (k : Byte) : exec (.mctpBadMsg src (some k)) s = .next { s with
    dev := if 1 ≤ k.toNat ∧ k.toNat ≤ 3 then s.dev else respond s.dev src (.mgt src (128 ||| k.toNat) 1 []) } := by
  have hdefined : (decide (1 ≤ k.toNat) && decide (k.toNat ≤ 3)) = true ↔ 1 ≤ k.toNat ∧ k.toNat ≤ 3 := by
    rw [Bool.and_eq_true, decide_eq_true_eq, decide_eq_true_eq]
  dsimp only [exec, execMctpBadMsg]
  rw [lift_eq, onMsg_acts hc hst]
  exact congrArg (fun e => Host.Outcome.next { s with dev := e }) (if_congr hdefined rfl rfl)

theorem exec_mctpControl (m : MctpCtl) : exec (.mctpControl src m) s = .next { s with dev := mctpControl s.dev src m } := by
  dsimp only [exec, execMctpControl]
  rw [lift_eq, onMsg_acts hc hst]

end

/-- A CCC in I3C mode. -/
theorem exec_mgtDynamicAddress {s : State} (hmode : bit (regGet s.dev 0x6000) 31 = true) (hst : s.dev.boot.st ≠ .reset) (op : Ccc) :
    exec (.mgtDynamicAddress op) s = .next { s with
      dev := (match cccAddr op (if s.dev.mgt.daValid = true then some s.dev.mgt.dynAddr else none) with
        | some a => { s.dev with mgt := { s.dev.mgt with daValid := true, dynAddr := a } }
        | none => { s.dev with mgt := { s.dev.mgt with daValid := false, dynAddr := 0 } }) } := by
  have hcond : ¬ (!bit (regGet s.dev 0x6000) 31 || s.dev.boot.st == .reset) = true := by
    rw [hmode]
    simpa using hst
  dsimp only [exec, execMgtDynamicAddress]
  rw [lift_eq]
  exact congrArg (fun e => Host.Outcome.next { s with dev := e }) ((if_neg hcond).trans rfl)

/-- The boundary tests that the TAP executes, each with the instruction that it loads. -/
theorem exec_tapTests (s : State) {sampled tdi : List Bool} {i : Instr × TapIr} (hi : i ∈ [(Instr.extest sampled tdi, TapIr.extest),
    (.extestPulse sampled tdi, .extestPulse), (.extestTrain sampled tdi, .extestTrain)]) :
    exec i.1 s = .next { s with dev := tapExtest s.dev i.2 sampled tdi } ∧ i.2 ∈ tapTests := by
  simp only [List.mem_cons, List.not_mem_nil, or_false] at hi
  rcases hi with rfl | rfl | rfl <;> exact ⟨rfl, by simp⟩

/-- Settles O50: messages by the count of their words, the TAP by whether the pins let it drive. -/
theorem servicePortsComplete : Obligations.ServicePortsComplete := by
  unfold Obligations.ServicePortsComplete
  refine ⟨fun s src => ?_, fun s => ?_, fun s sampled tdi => ?_⟩
  · dsimp only
    refine ⟨fun hno off n k words wr op m i hi => exec_message_idle hno off n k words wr op m hi, fun hc hst => ⟨fun off n => ⟨fun h1 h16 => ⟨?_, ?_⟩, fun h0 => ⟨?_, ?_⟩⟩,
        fun off words => ⟨fun h1 h16 => ?_, fun hbad => ?_⟩, fun off n words => ?_, fun off n words => ?_, ?_, fun k => ?_, fun e he => ?_, fun e h0 h255 => ?_,
        exec_mctpControl hc hst _, ⟨exec_mctpControl hc hst _, exec_mctpControl hc hst _⟩, exec_mctpControl hc hst _, fun k hk => ?_, fun c => exec_mctpControl hc hst _⟩,
      fun d o => respond_eq d src o, fun op hno => ?_, fun hmode hst => ⟨fun a => ?_, fun a => ?_, ?_, ?_⟩⟩
    · rw [exec_mgtRead hc hst, if_pos ⟨h1, h16⟩]
    · rw [exec_readLog hc hst, if_pos ⟨h1, h16⟩]
    · rw [exec_mgtRead hc hst, if_neg (by omega)]
    · rw [exec_readLog hc hst, if_neg (by omega)]
    · rw [exec_mgtWrite hc hst, if_pos ⟨h1, h16⟩]
    · have hno : ¬ (1 ≤ words.length ∧ words.length ≤ 16) := by
        rcases hbad with rfl | hbad
        · simp
        · omega
      rw [exec_mgtWrite hc hst, if_neg hno]
    · dsimp only [exec, execMgtTimeout]
      rw [lift_eq, onMsg_acts hc hst, if_neg Bool.false_ne_true]
      split <;> rfl
    · dsimp only [exec, execMgtTimeout]
      rw [lift_eq, onMsg_acts hc hst, if_pos rfl]
    · dsimp only [exec, execMctpBadMsg]
      rw [lift_eq, onMsg_acts hc hst]
    · rw [exec_mctpBadMsg_op hc hst]
      split <;> rfl
    · have hcond : (decide (e = 0) || decide (e = 255)) = true := by rw [Bool.or_eq_true, decide_eq_true_eq, decide_eq_true_eq]; exact he
      rw [exec_mctpControl hc hst]
      exact congrArg (fun e => Host.Outcome.next { s with dev := e }) (if_pos hcond)
    · have hcond : ¬ (decide (e = 0) || decide (e = 255)) = true := by
        rw [decide_eq_false h0, decide_eq_false h255]
        decide
      refine ⟨eidSet s.dev src e.toNat, ?_, eidOf_eidSet_same .., fun k hk => eidOf_eidSet_other _ hk _, rfl⟩
      rw [exec_mctpControl hc hst]
      exact congrArg (fun e => Host.Outcome.next { s with dev := e }) (if_neg hcond)
    · rw [exec_mctpControl hc hst]
      exact congrArg (fun e => Host.Outcome.next { s with dev := e }) (if_neg hk)
    · have hcond : (!bit (regGet s.dev 0x6000) 31 || s.dev.boot.st == .reset) = true := by
        rcases hno with h | h <;> simp [h]
      exact congrArg (fun e => Host.Outcome.next { s with dev := e }) (if_pos hcond)
    · exact exec_mgtDynamicAddress hmode hst _
    · rw [exec_mgtDynamicAddress hmode hst]
      cases hv : s.dev.mgt.daValid <;> rfl
    · exact exec_mgtDynamicAddress hmode hst _
    · rw [exec_mgtDynamicAddress hmode hst]
      cases hv : s.dev.mgt.daValid <;> rfl
  · dsimp only
    refine ⟨fun res => ⟨fun hruns => ?_, fun hno => ?_, ?_⟩, fun d r p power => ⟨fun hok hf => ?_, fun hbad => ?_, pollSlot_none ..⟩,
      fun src w howner => ⟨fun hok => ?_, fun hno => ?_⟩, fun nack pec data hx => ?_, fun x nack pec data hx => ⟨fun hread => ?_, fun hwrite => ?_⟩⟩
    · obtain ⟨hen, hl⟩ := hruns
      have hcond : ¬ (!bit (regGet s.dev 0x6008) 31 || !s.dev.clk.locked) = true := by rw [hen, hl]; decide
      exact congrArg (fun e => Host.Outcome.next { s with dev := e }) (if_neg hcond)
    · have hcond : (!bit (regGet s.dev 0x6008) 31 || !s.dev.clk.locked) = true := by
        rw [Bool.or_eq_true, Bool.not_eq_true', Bool.not_eq_true', ← Bool.not_eq_true, ← Bool.not_eq_true]
        exact not_and_or.1 hno
      exact congrArg (fun e => Host.Outcome.next { s with dev := e }) (if_pos hcond)
    · dsimp only [exec, execPmbAlert]
      rw [lift_eq]
      split <;> rfl
    · exact (pollSlot_some ..).trans (if_pos ⟨hok, hf⟩)
    · refine (pollSlot_some ..).trans (if_neg ?_)
      rintro ⟨hok, hf⟩
      rcases hbad with h | h
      · exact absurd hok (Bool.eq_false_iff.1 h)
      · exact absurd h (Bool.eq_false_iff.1 hf)
    · dsimp only [exec, execPmbXfer]
      rw [lift_eq, ownerOnly, if_pos howner, pmbXfer_go, if_pos hok]
    · dsimp only [exec, execPmbXfer]
      rw [lift_eq, ownerOnly, if_pos howner, pmbXfer_go, if_neg hno]
    · dsimp only [exec, execPmbXferDone]
      rw [lift_eq, pmbDone, hx]
    · dsimp only [exec, execPmbXferDone]
      rw [lift_eq, pmbDone_read hx hread]
    · dsimp only [exec, execPmbXferDone]
      rw [lift_eq, pmbDone_write hx hwrite]
  · dsimp only
    refine ⟨fun i hi => ?_, ⟨_, rfl, rfl, ?_, List.getLast?_concat⟩, fun hmay => ⟨fun i hi => ?_, ⟨_, rfl, rfl, ?_⟩, ⟨_, rfl, rfl, ?_⟩⟩, fun hnot i hi => ?_,
      ⟨_, rfl, rfl, tapLoad_pins ..⟩, fun b => ⟨rfl, setPins_pins ..⟩⟩
    · simp only [List.mem_cons, List.not_mem_nil, or_false] at hi
      rcases hi with rfl | rfl
      · exact ⟨_, rfl, rfl, tapLoad_pins .., List.getLast?_concat⟩
      · exact ⟨_, rfl, rfl, tapLoad_pins .., List.getLast?_concat⟩
    · exact congrArg (fun p : Pins => { p.tap with boundary := scanLeft sampled tdi }) (tapLoad_pins s.dev .samplePreload)
    · obtain ⟨hrun, htest⟩ := exec_tapTests s hi
      rw [tapExtest_may hmay htest] at hrun
      exact ⟨_, hrun, rfl, rfl, rfl⟩
    · dsimp only
      rw [tapClamp_may hmay]
      exact ⟨rfl, List.append_assoc ..⟩
    · dsimp only
      rw [tapHighz_may hmay]
      exact ⟨rfl, List.append_assoc ..⟩
    · rcases List.mem_append.1 hi with hi | hi
      · obtain ⟨hrun, htest⟩ := exec_tapTests s hi
        rw [hrun, tapExtest_not hnot htest]
        rfl
      · simp only [List.mem_cons, List.not_mem_nil, or_false] at hi
        rcases hi with rfl | rfl
        · exact congrArg (fun e => Host.Outcome.next { s with dev := e }) (tapHold_not hnot (i := .clamp) rfl tdi)
        · exact congrArg (fun e => Host.Outcome.next { s with dev := e }) (tapHold_not hnot (i := .highz) rfl tdi)

end Sys2Proof.Proofs
end
